-- ==== Sys2Proof/Word.lean ====
section
/-! DEFINITION. The word types of the VX3 model and their plainest arithmetic (00 R4, R6).

A register, a field that software sees as bits, and a fused value is a bit vector; a count, an index, an
address or an amount of energy is a natural number. -/

namespace Sys2Proof

/-- One byte (R6). -/
abbrev Byte := BitVec 8

/-- A 32-bit register or field. -/
abbrev Word := BitVec 32

/-- A 64-bit register or field. -/
abbrev DWord := BitVec 64

/-- A sparse table: key and value pairs in rising key order. A key that is not listed reads as the default
that the reader names. -/
abbrev Tbl (α : Type) := List (Nat × α)

/-- Largest value of a 64-bit register or counter. -/
def max64 : Nat := 2 ^ 64 - 1

/-- A saturating 8-bit counter step (R51, R226). -/
def sat8 (n : Nat) : Nat := min 255 (n + 1)

end Sys2Proof
end

