-- ==== Sys2Proof/Syntax.lean ====
section
/-! DEFINITION. The commands of the block: one constructor of `Instr` per row of the opcode table, and the
plain data their operands carry.

The table gives its rows no bits, so a command's operands are those the rule of its row names: the function,
the slot, the address, the value written, and, for an event, what the outside world or the silicon brings
with it (the bytes a host read returned, a sensor's reading, whether a training succeeded). An operand with a
default names the plain case: words that the memory controller finds intact, a register read of 32 bits, the
direction from a link's first die, the groups 0 to 15 of a link. -/

namespace Sys2Proof

/-- Strap levels at a sampling edge (R46, R677). -/
structure Straps where
  cfgBoot  : BitVec 3 := 0
  testMode : BitVec 2 := 0
  clkMode  : Bool := false
  deriving DecidableEq, Repr, Inhabited

/-- What leaves its range in a rail fault (R687). -/
inductive Rail where
  | crest (d : Fin 4)
  | hbmPlane (d : Fin 4)
  | other
  deriving DecidableEq, Repr

/-- How a PCIe completion ended (R94). -/
inductive CplStatus where
  | ok | ur | ca | poisoned
  deriving DecidableEq, Repr

/-- A read of host memory made inside a command: its bytes, or the way it failed (R94, R145), or a
permission fault of the device's own translation (R288). -/
inductive HostRead where
  | bytes (b : List Byte)
  | failed (status : Nat)
  deriving DecidableEq, Repr

/-- What the code check of an ECC word finds beyond the poison that the state holds (R240). -/
inductive EccSeen where
  | clean | corrected | uncorrectable
  deriving DecidableEq, Repr

/-- What the code check finds of the ECC words that an access reads, by their device addresses: the words that are not
named are clean (R240). -/
abbrev Seen := List (Nat × EccSeen)

/-- The BAR an access reaches (R79). -/
inductive Bar where
  | bar0 | bar4 | config
  deriving DecidableEq, Repr

/-- PRG Response Codes (R87). -/
inductive PrgCode where
  | success | invalid | failure
  deriving DecidableEq, Repr

/-- Errors of R96 that the PCIe controller itself detects. -/
inductive RcvError where
  | receiverError | badTlp | badDllp | replayTimer | replayRollover | correctableInternal
  | malformedTlp | ecrc | acsViolation
  deriving DecidableEq, Repr

/-- What a start-up march or zeroing found (R56, R64): failing tier H pages (die, page), failing tier C
lines (lowest failing line of each failing page), failing SRAM outside the scratchpads, failing banks. -/
structure InitReport where
  hbmPages     : List (Nat × Nat) := []
  lpLines      : List Nat := []
  crestSram    : List (Fin 4) := []
  harbourSram  : Bool := false
  banks        : List (Nat × Nat) := []
  deriving DecidableEq, Repr

/-- The figures of a model image. The image's header and graph belong to Yarfe, so their decoded figures come
with the load (R182, R184, R358, R507, R579; log entry 12). `bad` is the DETAIL of IMAGE_INVALID, `digest` the
SHA-384 over the image (R639). -/
structure ModelImage where
  bad            : Option Nat := none
  dies           : Nat := 1
  layers         : Nat := 1
  vocabSize      : Nat := 1
  kvBytes        : Nat := 1
  weightFormat   : Nat := 1
  heads          : Nat := 0
  weightBytes    : List Nat := []
  prefillNj      : Nat := 0
  decodeNj       : Nat := 0
  tReadUs        : Nat := 0
  tFixUs         : Nat := 0
  wRow           : Nat := 1
  topks          : List (Nat × Nat) := []   -- row length and k of its TOPK calls (R381)
  pairs          : List (Nat × Nat) := []   -- operand formats that its products pair (R367)
  splits         : List Nat := []           -- lengths of the reductions that it divides over the dies (R370)
  template       : List Nat := []           -- its tree template: each node's parent, 0 the root, node k at place k - 1 (R544)
  prefillMw      : Nat := 0
  decodeMw       : Nat := 0
  vocabLen       : Nat := 0
  vocabOff       : Nat := 0
  digest         : Nat := 0
  deriving DecidableEq, Repr, Inhabited

/-- One transition of a decoded grammar automaton (R450, R453). -/
structure GTrans where
  state : Nat
  first : Nat
  last  : Nat
  next  : Nat
  push  : Option Nat := none
  pop   : Bool := false
  deriving DecidableEq, Repr

/-- A range constraint of a grammar image (R459). -/
structure GRange where
  first  : Nat
  last   : Nat
  period : Nat
  lo     : Nat
  hi     : Nat
  offset : Nat := 0                      -- its first byte in the image
  deriving DecidableEq, Repr

/-- The sections of a grammar image whose layout is Yarfe's, as decoded with the load (R453; log entry 12). -/
structure GrammarImage where
  bad       : Option Nat := none
  accepting : List Nat := []
  trans     : List GTrans := []
  ranges    : List GRange := []
  deriving DecidableEq, Repr, Inhabited

/-- One logits row of a step (12 R380): the FP32 bit patterns of the row, one per vocabulary entry. -/
abbrev LogitsRow := List Word

/-- What a step computed for one request: for each of its rows (the base position, then each tree node in
order) the logits, and the candidate tokens its lookahead heads propose next (R544). -/
structure StepRow where
  ledger   : Nat
  rows     : List LogitsRow := []
  proposed : List (Nat × Nat) := []
  fault    : Option Nat := none
  deriving DecidableEq, Repr

/-- What a die's meter and its die manager bring to a tide boundary: the energy used in the tide that ends, the
activity attributions of requests, and of streams whose run no request has taken (function, stream, attribution)
(R559, R560); for the tide that begins, the largest keep at which the manager's forecast of the decode work fits the
allowance, and the dense clusters whose prefill energy fits the rest (R567). -/
structure DomainMeter where
  usedUj   : Nat := 0
  requests : List (Nat × Nat) := []
  streams  : List (Nat × Nat × Nat) := []
  keep     : Nat := 16
  clusters : Nat := 16
  deriving DecidableEq, Repr

/-- The forecasts of need that a domain's manager puts into its tide report, in µJ (R565). -/
structure TideReportMsg where
  reqDec   : Nat := 0
  reqTotal : Nat := 0
  deriving DecidableEq, Repr

/-- A flit as received: the group that carried it, its data and its side-band (R328). -/
structure Flit where
  group : Nat
  data  : List Byte
  side  : BitVec 64
  deriving DecidableEq, Repr

/-- Who consumes a read (R262). -/
inductive Consumer where
  | none | step (id : Nat) (ledger : Nat) | dma (f : Fin 16) (ledger : Nat) | bar2 (f : Fin 16) | firmware
  deriving DecidableEq, Repr

/-- Who makes a memory write (R246). -/
inductive Writer where
  | dma (f : Fin 16) (stream : Nat) | step (ledger : Nat) | bar2 (f : Fin 16) | firmware
  deriving DecidableEq, Repr

/-- The access a page walk serves (R272, R288). -/
inductive WalkWork where
  | step (id : Nat) (ledger : Nat)
  | stream (f : Fin 16) (stream : Nat)
  | ring (f : Fin 16) (ring : Fin 64)
  | indirect (f : Fin 16) (slot : Fin 32)
  | bulk (f : Fin 16) (slot : Fin 32)
  | evq (f : Fin 16)
  deriving DecidableEq, Repr

/-- A transaction on the die links (R330 to R332): `len` bytes read, or the bytes written with the addresses
of the 64-byte lines of them that are marked poisoned; `into` is where the requester's controller stores what it reads, and `by_` who
writes. -/
structure Txn where
  tag  : Nat
  src  : Fin 5
  dst  : Fin 5
  addr : Nat
  len  : Nat := 64
  data : List Byte := []
  poison : List Nat := []
  into : Option Nat := none
  by_  : Writer := .firmware
  deriving DecidableEq, Repr

/-- What the test of one wire group found in a repair (R342): its faulty data and valid wires, and a faulty
clock. -/
structure LaneTest where
  link     : Nat
  group    : Nat
  wires    : List Nat := []
  clockBad : Bool := false
  deriving DecidableEq, Repr

/-- How a rejoin ended (R30, R207, R642): at a stage that failed, or with what its roll call and its test brought: the
positions received in the neighbour exchange at the die's B-link ports and at their partners' (link, whether at the
rejoining die's end, position), the lowest failing line of each tier H page that its test retires, the banks that fail
its march, and whether its HBM3E controller, which could verify from the training cache, had to train in full (R61, R239).
The die's own fuses are state. -/
inductive RejoinEnd where
  | ended (neighbours : List (Nat × Bool × BitVec 2)) (lines banks : List Nat) (full : Bool)
  | failed (stage : Nat)
  deriving DecidableEq, Repr

/-- A public-key signature's verdict, which the secret or public key outside the model decides. -/
abbrev SigOk := Bool

/-- The fuse fields that FUSE_PROG names (R672). -/
inductive FuseField where
  | pkgFused | pkgPos (p : BitVec 2) | pkgSerial (s : DWord) | keyHash (k : Nat) (h : List Byte)
  deriving DecidableEq, Repr

/-- The commands of the block, one constructor per row of the opcode table, each with its row's rule. -/
inductive Instr where
  /-- PWR_GOOD_IN_RISE (R45). PWR_GOOD_IN rises and starts a power-on reset that clears all state except fuses, starts the management controller and samples the SMB_ADDR_ straps. -/
  | pwrGoodInRise (smbAddr : BitVec 2)
  /-- PWR_GOOD_IN_FALL (R687). PWR_GOOD_IN falls: the package is held in reset as for a power-on reset, and a latched thermal trip is released. -/
  | pwrGoodInFall
  /-- PERST_N_ASSERT (R67). PERST_N is asserted: the package resets, any start-up in progress is abandoned and a device-fatal state is left. -/
  | perstNAssert
  /-- PERST_N_DEASSERT (R46). PERST_N deasserts: the straps are sampled and the start-up sequence begins at stage 0x01, or the chosen test mode is entered. -/
  | perstNDeassert (straps : Straps) (early : Bool)
  /-- HOT_RESET (R45). A PCIe hot reset, link disable or DL_Down resets the package using the old straps; a device-fatal condition is kept. -/
  | hotReset (dlDown : Bool)
  /-- RAIL_FAULT (R687). A rail stays outside its range for more than 10 µs: a Crest rail loses that die, and any other rail forces a power-on reset. -/
  | railFault (rail : Rail)
  /-- REFCLK_LOSS (R43). The Harbour root PLL or the PCIe PHY PLL loses lock after READY, which is device-fatal. -/
  | refclkLoss
  /-- CREST_PLL_LOSS (R43). A Crest root PLL loses lock, so the die stops its forwarded clocks. -/
  | crestPllLoss (d : Fin 4)
  /-- EPR_N_FALL (R41). EPR_N goes low for at least the filter time and halves CCLK on every usable Crest die within 1 µs. -/
  | eprNFall
  /-- EPR_N_RISE (R42). EPR_N returns high, so the halving ends at the next tide boundary, or before READY at the next 1 ms mark. -/
  | eprNRise
  /-- PRE_READY_MS_MARK (R42). A 1 ms mark of the SCLK timer before READY ends any halving or trip whose condition has ended. -/
  | preReadyMsMark
  /-- HARBOUR_PLL_LOCK (R38). The Harbour root PLL and the PCIe PHY PLL lock, so the boot ROM proceeds. -/
  | harbourPllLock
  /-- HARBOUR_PLL_TIMEOUT (R64). The Harbour PLLs are not locked 0.1 ms after PERST_N deassertion: start-up fails with HARBOUR_PLL. -/
  | harbourPllTimeout
  /-- FW_VERIFY_DONE (R659). Verification of the control-processor firmware copies ends, taking a bootable copy or failing with FW_SIGNATURE. -/
  | fwVerifyDone
  /-- CONFIG_SPACE_READY (R69). 100 ms after PERST_N deassertion, configuration requests stop getting Request Retry Status and complete normally. -/
  | configSpaceReady
  /-- ROLL_CALL_START (R59). Roll call starts when all S-links have trained or 200 ms have passed; a query goes out on each trained port. -/
  | rollCallStart
  /-- ROLL_CALL_ANSWER (R24). A Crest die's roll-call answer is received and checked, and the die is assigned its position. -/
  | rollCallAnswer (port : Fin 4)
  /-- ROLL_CALL_SILENT (R27). A port with no answer 5 ms into roll call is declared absent, and the device continues DEGRADED. -/
  | rollCallSilent (port : Fin 4)
  /-- NEIGHBOUR_EXCHANGE (R25). A neighbour position received on a B-link is checked against the ring. -/
  | neighbourExchange (l : Fin 4) (atFirst : Bool) (pos : BitVec 2)
  /-- NEIGHBOUR_EXCHANGE_TIMEOUT (R28). A B-link without a neighbour exchange 7 ms into roll call is declared down and BLINK_DOWN is queued. -/
  | neighbourExchangeTimeout (l : Fin 4)
  /-- DIE_FW_LOADED (R64). Die firmware is loaded and verified on a Crest die, or the die is excluded. -/
  | dieFwLoaded (d : Fin 4) (ok : Bool)
  /-- SELF_CAL_DONE (R59). Self-calibration ends: rails are at their operating points, sensors are trimmed and meter coefficients fitted; STAGE becomes 0x07. -/
  | selfCalDone
  /-- MEM_TRAINING_DONE (R61). Training or cache verification of a memory controller ends, with fallback to full training or exclusion on failure. -/
  | memTrainingDone (c : Fin 20) (ok : Bool)
  /-- MEMORY_INIT_DONE (R56). Zeroing or the start-up march of memory ends, and failing pages are retired or their die excluded. -/
  | memoryInitDone (report : InitReport)
  /-- READY_SET (R59). Structures and the first audit are done, so READY is set, READY_OUT goes high and STAGE becomes 0x0B. -/
  | readySet
  /-- BOOT_TIMEOUT (R62). READY is not set within 15 s, or 40 s under the extended test: start-up stops with BOOT_TIMEOUT. -/
  | bootTimeout
  /-- BME_CLEAR (R98). A configuration write clears Bus Master Enable, and the function issues no new request. -/
  | bmeClear (f : Fin 16)
  /-- BME_SET (R101). Bus Master Enable is set again: waiting records are written in order, pending MSI-X messages are sent and work resumes. -/
  | bmeSet (f : Fin 16)
  /-- INITIATE_FLR (R103). A Function Level Reset starts: tags are quarantined, engines stopped and requests failed with FLR. -/
  | initiateFlr (f : Fin 16)
  /-- FLR_COMPLETE (R103). The FLR completes within 100 ms, FLR_BUSY clears and the function is inert. -/
  | flrComplete (f : Fin 16)
  /-- VF_ENABLE_CLEAR (R694). Clearing VF Enable resets every enabled VF as an FLR. -/
  | vfEnableClear
  /-- VF_ENABLE_SET (R80). Setting VF Enable enables the VFs, only VFs 1 to 7 unless ARI Capable Hierarchy is set. -/
  | vfEnableSet (numVfs : Nat)
  /-- D3HOT_ENTRY (R110). A function enters D3hot: it acts as with BME clear and answers BAR requests with Unsupported Request. -/
  | d3hotEntry (f : Fin 16)
  /-- D0_RETURN (R111). A function returns from D3hot to D0 and performs an FLR. -/
  | d0Return (f : Fin 16)
  /-- COMPLETION_RECEIVED (R94). A PCIe completion is matched to its tag and its outcome (normal, UR, CA or poisoned) is delivered to the issuing work. -/
  | completionReceived (f : Fin 16) (tag : Nat) (st : CplStatus)
  /-- COMPLETION_TIMEOUT_EXPIRY (R93). A read's completion timeout expires, its owner sees the timeout outcome and AER reports it. -/
  | completionTimeoutExpiry (f : Fin 16) (tag : Nat)
  /-- TAG_QUARANTINE_EXPIRY (R91). A tag's quarantine expires and the tag becomes free. -/
  | tagQuarantineExpiry (f : Fin 16) (tag : Nat)
  /-- ATOMICOP_RECEIVED (R77). An AtomicOp received at any BAR completes with Unsupported Request. -/
  | atomicopReceived (f : Fin 16)
  /-- BAR2_READ (R82). A BAR2 read is served from the function's DVA window, or answered with all-ones data or EP set. -/
  | bar2Read (f : Fin 16) (off len : Nat) (seen : Seen := [])
  /-- BAR2_WRITE (R82). A BAR2 write is written through the window, or discarded and counted. -/
  | bar2Write (f : Fin 16) (off : Nat) (data : List Byte) (poisonedTlp : Bool) (seen : Seen := [])
  /-- INVALIDATION_REQUEST (R85). An ATS Invalidation Request is completed within 100 µs, after every use of the translation has ended. -/
  | invalidationRequest (f : Fin 16) (itag pasid page : Nat)
  /-- TRANSLATION_COMPLETION (R289). An ATS Translation Completion arrives: the translation is cached, or the page is not present and a fault arises. -/
  | translationCompletion (f : Fin 16) (pasid page : Nat) (present : Bool)
  /-- PRG_RESPONSE (R87). A PRG Response is received and handled by its Response Code. -/
  | prgResponse (f : Fin 16) (pasid page : Nat) (code : PrgCode)
  /-- PRG_RESPONSE_TIMEOUT (R87). No PRG response arrives within 1,000 ms, so the fault is request-fatal with HOST_PAGE_TIMEOUT. -/
  | prgResponseTimeout (f : Fin 16) (pasid page : Nat)
  /-- MSIX_UNMASK (R83). Unmasking an MSI-X vector sends the message whose PBA bit is pending. -/
  | msixUnmask (f : Fin 16) (v : Fin 64)
  /-- REGISTER_WRITE (R7). A write to a register without behaviour of its own acts under its access type, reserved-bit and width rules. -/
  | registerWrite (f : Fin 16) (bar : Bar) (off width : Nat) (value : DWord)
  /-- LOW_HALF_READ (R9). A 32-bit read of the low half of a 64-bit register loads that function's high-half latch. The row
  also stands for every other register read: `width` is the access width in bytes. -/
  | lowHalfRead (f : Fin 16) (bar : Bar) (off : Nat) (width : Nat := 4)
  /-- SLOT_WRITE (R120). A write to a mailbox slot is stored, or discarded and counted when the VX3 owns the slot. -/
  | slotWrite (f : Fin 16) (off width : Nat) (value : DWord)
  /-- DB_MBOX_WRITE (R121). A write to DB_MBOX submits the named slots that the host owns and sets their owner bits. -/
  | dbMboxWrite (f : Fin 16) (value : Word)
  /-- COMMAND_COMMIT (R124). A command reaches its commit point: its effects become visible, the response is written, the owner bit clears and MB_DONE is set. -/
  | commandCommit (f : Fin 16) (slot : Fin 32)
  /-- DEVICE_INFO (R175). The mailbox hardware returns the device-information record in every state. -/
  | deviceInfo (f : Fin 16) (slot : Fin 32)
  /-- FUNCTION_OPEN (R176). Opens the function's event queue and writes any held PF events first. -/
  | functionOpen (f : Fin 16) (slot : Fin 32)
  /-- FUNCTION_CLOSE (R177). Disables the function's engines and closes its event queue when no ring is open and no entry is in use. -/
  | functionClose (f : Fin 16) (slot : Fin 32)
  /-- ENGINE_ENABLE (R178). Enables and disables engines of the function; a disable completes once work has stopped at restart points. -/
  | engineEnable (f : Fin 16) (slot : Fin 32)
  /-- REGION_CREATE (R179). Maps a new region with a checked placement, quota and alignment, allocating zeroed pages. -/
  | regionCreate (f : Fin 16) (slot : Fin 32)
  /-- REGION_DESTROY (R180). Unmaps a region, completes the shoot-down and quarantines its pages for zeroing. -/
  | regionDestroy (f : Fin 16) (slot : Fin 32)
  /-- BAR2_WINDOW_SET (R181). Sets the function's BAR2 WINDOW_BASE. -/
  | bar2WindowSet (f : Fin 16) (slot : Fin 32)
  /-- MODEL_LOAD (R182). Reads a model image, forms its engine group and copies the weights and any replica. -/
  | modelLoad (f : Fin 16) (slot : Fin 32) (read : HostRead) (image : ModelImage)
  /-- MODEL_UNLOAD (R183). Frees a model's clusters, banks, weights, replica and embedded vocabulary when nothing uses them. -/
  | modelUnload (f : Fin 16) (slot : Fin 32)
  /-- MODEL_INFO (R184). Returns a model's figures. -/
  | modelInfo (f : Fin 16) (slot : Fin 32)
  /-- VOCAB_LOAD (R185). Loads a vocabulary image into tier C and, if it fits, into vocabulary SRAM. -/
  | vocabLoad (f : Fin 16) (slot : Fin 32) (read : HostRead)
  /-- VOCAB_UNLOAD (R186). Unloads a vocabulary image that nothing uses. -/
  | vocabUnload (f : Fin 16) (slot : Fin 32)
  /-- BINTABLE_LOAD (R187). Loads and checks a bin table, deriving its representatives. -/
  | bintableLoad (f : Fin 16) (slot : Fin 32) (read : HostRead)
  /-- BINTABLE_UNLOAD (R188). Unloads a bin table that no fetched descriptor names. -/
  | bintableUnload (f : Fin 16) (slot : Fin 32)
  /-- GRAMMAR_LOAD (R189). Loads a grammar image and builds a grammar copy on each named die. -/
  | grammarLoad (f : Fin 16) (slot : Fin 32) (read : HostRead) (image : GrammarImage)
  /-- GRAMMAR_UNLOAD (R190). Releases a grammar image and its mask-cache copies when nothing uses them. -/
  | grammarUnload (f : Fin 16) (slot : Fin 32)
  /-- REQUEST_QUERY (R191). Returns a snapshot of a ledger entry, inline or to memory. -/
  | requestQuery (f : Fin 16) (slot : Fin 32)
  /-- RING_OPEN (R192). Opens a ring with checked geometry and writes 0 to its write-back word. -/
  | ringOpen (f : Fin 16) (slot : Fin 32)
  /-- RING_CLOSE (R193). Closes a ring; fetched descriptors complete and unfetched ones produce nothing. -/
  | ringClose (f : Fin 16) (slot : Fin 32)
  /-- STREAM_OPEN (R194). Opens a stream on a stream ring with its UTF-8, normalisation and special-token modes. -/
  | streamOpen (f : Fin 16) (slot : Fin 32)
  /-- STREAM_CLOSE (R195). Closes a stream that no live request names. -/
  | streamClose (f : Fin 16) (slot : Fin 32)
  /-- CONFIG_STAGE (R196). Checks configuration records and stages them in the shadow set. -/
  | configStage (f : Fin 16) (slot : Fin 32) (read : HostRead)
  /-- CONFIG_READ (R197). Returns an item's committed, shadow or older-generation value. -/
  | configRead (f : Fin 16) (slot : Fin 32)
  /-- COMMIT_CONFIG (R198). Commits the shadow set as a new generation, or is refused with GENERATION_BUSY. -/
  | commitConfig (f : Fin 16) (slot : Fin 32)
  /-- CONFIG_DISCARD (R199). Empties the shadow set. -/
  | configDiscard (f : Fin 16) (slot : Fin 32)
  /-- ENERGY_LIMIT_SET (R200). Sets LIMIT_W; the effective limit takes effect at the next tide boundary. -/
  | energyLimitSet (f : Fin 16) (slot : Fin 32)
  /-- ENERGY_REPORT (R201). Returns the energy figures of the last completed tide. -/
  | energyReport (f : Fin 16) (slot : Fin 32)
  /-- DIAG_BOOTLOG (R202). The mailbox hardware returns boot-log text from OFFSET. -/
  | diagBootlog (f : Fin 16) (slot : Fin 32)
  /-- BOOKS_AUDIT (R203). Requests an audit of the named books at the next tide boundary and returns the failing mask. -/
  | booksAudit (f : Fin 16) (slot : Fin 32)
  /-- MARCH_RUN (R204). Starts a destructive or transparent march on a range of scratchpad banks. -/
  | marchRun (f : Fin 16) (slot : Fin 32)
  /-- ERRLOG_READ (R205). Returns up to 4 error-log entries from START_SEQ. -/
  | errlogRead (f : Fin 16) (slot : Fin 32)
  /-- DIE_RESET (R206). Starts draining one Crest die for reset; the die is DRAINING until the reset applies. -/
  | dieReset (f : Fin 16) (slot : Fin 32)
  /-- DIE_REJOIN (R207). Starts retraining, identity check, firmware load, memory initialisation and weight reload for a lost die. -/
  | dieRejoin (f : Fin 16) (slot : Fin 32)
  /-- DESCRIPTOR_FETCH (R137). A fetch of descriptors from a host-produced ring completes and each descriptor is checked. -/
  | descriptorFetch (f : Fin 16) (ring : Fin 64) (data : List Byte)
  /-- SUBMIT (R476). A SUBMIT descriptor is admitted into the lowest FREE ledger entry with an ADMIT record, or refused. -/
  | submit (f : Fin 16) (ring : Fin 64) (stops : HostRead)
  /-- CANCEL (R494). A CANCEL descriptor ends its request in its effective mode, IMMEDIATE or DRAIN. -/
  | cancel (f : Fin 16) (ring : Fin 64)
  /-- PAUSE (R487). A PAUSE descriptor sets HOST_PAUSE, and the pause takes effect at the next commit point or at once. -/
  | pause (f : Fin 16) (ring : Fin 64)
  /-- RESUME (R491). A RESUME descriptor clears HOST_PAUSE and resumes the request from its paused state. -/
  | resume (f : Fin 16) (ring : Fin 64)
  /-- CLOSE (R498). A CLOSE descriptor ends a paused request at once, or cancels a running one in the descriptor's mode. -/
  | close (f : Fin 16) (ring : Fin 64)
  /-- TEXT_IN (R397). A TEXT_IN descriptor is queued on its stream for carding. -/
  | textIn (f : Fin 16) (ring : Fin 64)
  /-- NUM_IN (R421). A NUM_IN descriptor is checked and queued on its stream for binning. -/
  | numIn (f : Fin 16) (ring : Fin 64)
  /-- TEXT_OUT (R430). A TEXT_OUT buffer descriptor is queued on its output stream, or the ring waits when the queue is full. -/
  | textOut (f : Fin 16) (ring : Fin 64)
  /-- NUM_OUT (R430). A NUM_OUT buffer descriptor is checked and queued on its output stream. -/
  | numOut (f : Fin 16) (ring : Fin 64)
  /-- DB_RING_WRITE (R135). A ring doorbell write moves PROD or CONS when valid, or stops the ring with INDEX_INVALID. -/
  | dbRingWrite (f : Fin 16) (ring : Fin 64) (value : Word)
  /-- EVQ_CONS_WRITE (R151). A write to EVQ_CONS returns event entries, or is ignored and counted when not valid. -/
  | evqConsWrite (f : Fin 16) (value : Word)
  /-- WRITEBACK_UPDATE (R136). A ring's write-back word is written with coalesced index changes within 10 µs. -/
  | writebackUpdate (f : Fin 16) (ring : Fin 64)
  /-- MSIX_HOLDOFF_EXPIRY (R157). A completion ring's hold-off expires, or its threshold is reached, and its MSI-X message is sent. -/
  | msixHoldoffExpiry (f : Fin 16) (ring : Fin 64)
  /-- CP_WATCHDOG_EXPIRY (R632). The control-processor watchdog expires after READY and the sentinel starts a restart. -/
  | cpWatchdogExpiry
  /-- CONTROL_CORE_FAULT (R632). A control core takes an unrecoverable exception or local SRAM error and the sentinel starts a restart. -/
  | controlCoreFault
  /-- CP_RESTART_END (R633). The verified firmware is released, the journal is resolved, the slots complete and CP_RESTARTED is posted. -/
  | cpRestartEnd
  /-- CP_RESTART_TIMEOUT (R634). A restart exceeds 50 ms or its firmware fails verification, which is device-fatal. -/
  | cpRestartTimeout (badFw : Bool)
  /-- DIE_MANAGER_WATCHDOG (R635). A die manager's 10 ms watchdog expires and the die restarts its die manager. -/
  | dieManagerWatchdog (d : Fin 4)
  /-- DIE_MANAGER_RESTART_DONE (R635). A die manager restart ends within 5 ms, or its copy fails verification and the die is lost. -/
  | dieManagerRestartDone (d : Fin 4) (ok : Bool)
  /-- TIDE_BOUNDARY (R563). A 1 ms tide boundary: grants take effect, reports are sent, tide registers update and per-tide work runs. -/
  | tideBoundary (meters : List DomainMeter)
  /-- TIDE_REPORT (R565). The planner receives a domain's tide report on MGMT. -/
  | tideReport (dom : Fin 5) (msg : TideReportMsg)
  /-- TIDE_REPORT_TIMEOUT (R563). A report still missing at 250 µs is replaced by the domain's last report. -/
  | tideReportTimeout (dom : Fin 5)
  /-- TIDE_GRANT (R565). A Crest die receives its tide grant for the tide after next. -/
  | tideGrant (d : Fin 4)
  /-- ALLOWANCE_97_REACHED (R567). Metered energy reaches 97 % of the allowance: keep 4 is set and no new prefill starts. -/
  | allowance97Reached (dom : Fin 5)
  /-- ALLOWANCE_EXHAUSTED (R567). Metered energy reaches the allowance, so the die's CCLK is gated until the tide boundary. -/
  | allowanceExhausted (d : Fin 4)
  /-- FAST_TRIP_POWER (R573). The domain's 10 µs power exceeds its fast limit, so the on-die fast trip halves CCLK. -/
  | fastTripPower (d : Fin 4)
  /-- FAST_TRIP_END (R573). A power trip ends after 100 µs at or below the allowance power. -/
  | fastTripEnd (d : Fin 4)
  /-- TEMP_UPDATE (R224). The 100 µs thermal sensor update refreshes TEMP and MAX_T and applies the temperature thresholds. -/
  | tempUpdate (dom : Fin 5) (temp : BitVec 12)
  /-- ADMIT_HOLD_TIMEOUT (R517). A SUBMIT held for ADMIT_HOLD_MS is consumed and refused with ADMIT_SHED. -/
  | admitHoldTimeout (f : Fin 16) (ring : Fin 64)
  /-- PREFILL_STEP_FORM (R505). Idle dense clusters form a prefill step from waiting requests in prefill order. -/
  | prefillStepForm (model : Nat) (tenantUj : List (Nat × Nat))
  /-- DECODE_STEP_FORM (R503). A group's decode or verification step forms with its eligible rows. -/
  | decodeStepForm (model : Nat) (tenantUj : List (Nat × Nat))
  /-- STEP_LAYER_BOUNDARY (R283). A step reaches a layer boundary, where pending squashes, pre-emptions and poison abandonment take effect. -/
  | stepLayerBoundary (step : Nat) (last : Bool)
  /-- STEP_COMMIT (R479). A step reaches its commit point and commits tokens, history, budgets and KV for its requests. -/
  | stepCommit (step : Nat) (elapsedUs : Nat) (rows : List StepRow)
  /-- DRAIN_STEP_TIMEOUT (R206). A step still running 100 ms into DIE_RESET is squashed at its next layer boundary. -/
  | drainStepTimeout (d : Fin 4)
  /-- HOLD_STEP_TIMEOUT (R597). A step still running 100 ms after a hold starts is pre-empted at its next layer boundary. -/
  | holdStepTimeout
  /-- MASK_READY (R461). A mask is computed and delivered to the selection unit, releasing any row held for it. -/
  | maskReady (ledger : Nat)
  /-- CARDING_LANE_TAKE (R397). A free or bound carding lane takes a stream's next ready input descriptor. -/
  | cardingLaneTake (lane : Fin 16) (f : Fin 16) (stream : Nat)
  /-- CARDING_CHUNK (R398). A 4 KiB input chunk is read and carded into the stream's current run. -/
  | cardingChunk (lane : Fin 16) (read : HostRead)
  /-- CARRY_STATE_SPILL (R427). After 100 µs of fault wait the lane saves the run's carry state to tier C and serves other streams. -/
  | carryStateSpill (lane : Fin 16)
  /-- BINTABLE_STAGED (R424). An uncached bin table is staged into the bin-table cache. -/
  | bintableStaged (handle : Nat)
  /-- FELTING_LANE_TAKE (R433). A felting lane felts a request's committed tokens into its output stream. -/
  | feltingLaneTake (lane : Fin 16) (ledger : Nat)
  /-- TIDEPOOL_MOVE_DONE (R489). The last page of a Tidepool move commits: PAUSED_POOL is entered and the TTL starts. -/
  | tidepoolMoveDone (ledger : Nat)
  /-- TIDEPOOL_EXPIRY (R553). TIDEPOOL_EXPIRY passes: the pooled pages are released and the request enters EXPIRED. -/
  | tidepoolExpiry (ledger : Nat)
  /-- TIDEPOOL_RETURN_DONE (R554). A resumed request's pages return from the Tidepool before its first step. -/
  | tidepoolReturnDone (ledger : Nat)
  /-- LEDGER_ENTRY_FREED (R501). A DONE or FAILED entry returns to FREE once REQUEST_END is written and no reference remains. -/
  | ledgerEntryFreed (ledger : Nat)
  /-- DEMAND_READ (R263). A controller serves a read, classifying the ECC word and correcting or poisoning it. -/
  | demandRead (addr : Nat) (ecc : EccSeen) (by_ : Consumer)
  /-- FULL_WRITE (R244). A full ECC-word write stores fresh check bits, clearing any poison. -/
  | fullWrite (addr : Nat) (data : List Byte)
  /-- PARTIAL_WRITE (R245). A partial write is performed as read-modify-write, or refused on a poisoned word. -/
  | partialWrite (addr : Nat) (data : List Byte) (ecc : EccSeen) (by_ : Writer)
  /-- PATROL_READ (R249). The patrol sequencer reads its next line or word, correcting or poisoning it. -/
  | patrolRead (c : Fin 25) (ecc : EccSeen)
  /-- POISON_DISPOSITION (R254). A poisoned line is disposed of by its page's content class within 1 ms. -/
  | poisonDisposition (addr : Nat) (source : Nat)
  /-- CE_COUNT_RETIRE (R256). A page's correctable-error count reaches 16 and the page is retired, first migrated when owned. -/
  | ceCountRetire (page : Nat)
  /-- MIGRATION_DONE (R257). A page migration ends: the leaf switches after shoot-down and the old page is retired. -/
  | migrationDone (page : Nat)
  /-- PAGE_ZEROED (R261). A quarantined page finishes zeroing and becomes free. -/
  | pageZeroed (page : Nat)
  /-- PAGE_WALK_DONE (R272). A page walk ends in a leaf that completes the access or raises a fault. -/
  | pageWalkDone (die : Fin 5) (asid dva : Nat) (write : Bool) (work : WalkWork)
  /-- ABSENT_FAULT_SERVICED (R286). An absent-reserved fault is served by allocating, zeroing and mapping a page. -/
  | absentFaultServiced (asid dva : Nat)
  /-- TIDEPOOL_FAULT_SERVICED (R286). An in-Tidepool fault is served by copying the page back to its home die. -/
  | tidepoolFaultServiced (asid dva : Nat)
  /-- TIDEPOOL_FAULT_PAGE_FREED (R287). A free tier H page appears for a waiting in-Tidepool fault and its service starts. -/
  | tidepoolFaultPageFreed (asid dva : Nat)
  /-- STEP_FAULT_WAIT_TIMEOUT (R291). A step waits 2 ms for a request's fault, so the request is removed from the step. -/
  | stepFaultWaitTimeout (step ledger : Nat)
  /-- PREEMPT_FAULT_WAIT_TIMEOUT (R293). A pre-emption waits 2 ms on fault service, then abandons the fault. -/
  | preemptFaultWaitTimeout (asid dva : Nat)
  /-- TABLE_PAGE_REBUILT (R274). The control processors rebuild a table page that no copy holds clean, and the walk continues. -/
  | tablePageRebuilt (asid dva : Nat)
  /-- SHOOTDOWN (R277). A shoot-down removes a translation from every TLB, walk cache and ATC of a die. -/
  | shootdown (asid dva : Nat)
  /-- SHOOTDOWN_COMPLETE (R276). Every die acknowledges and the leaf change reaches its commit point. -/
  | shootdownComplete (asid dva : Nat)
  /-- BANK_ACCESS (R301). A scratchpad bank checks an access's owner code and serves it, or faults it. -/
  | bankAccess (die : Fin 5) (bank off : Nat) (data : Option (List Byte)) (len code : Nat) (by_ : Writer) (seen : Seen := [])
  /-- BANK_HANDOVER (R231). A write with HANDOVER = 1 starts a handover of a bank to NEXT_OWNER, or is refused. -/
  | bankHandover (die : Fin 5) (bank : Nat) (next : BitVec 5)
  /-- HANDOVER_DONE (R302). A handover drains, zeroes if needed and installs the new owner. -/
  | handoverDone (die : Fin 5) (bank : Nat)
  /-- SEIZURE_DONE (R307). A seized bank is cleaned and handed onward, or stays SEIZED with MARCH_FAIL. -/
  | seizureDone (die : Fin 5) (bank : Nat) (failRow : Option Nat)
  /-- FIRMWARE_BANK_RECLAIM (R304). Firmware seizes back a bank taken from 0x10 within 1 ms. -/
  | firmwareBankReclaim (die : Fin 5) (bank : Nat)
  /-- MARCH_DONE (R313). The march engine finishes a bank, passing or failing it. -/
  | marchDone (die : Fin 5) (bank : Nat) (failRow : Option Nat) (found : List (Nat × EccSeen))
  /-- LINK_TRAINED (R322). A link's training and link-init exchange end and the link goes UP. -/
  | linkTrained (l : Fin 8) (groups : Nat)
  /-- LINK_TRAINING_TIMEOUT (R324). A link not UP within 200 ms of starting training stays DOWN. -/
  | linkTrainingTimeout (l : Fin 8)
  /-- FLIT_RECEIVED (R339). A flit is CRC-checked and delivered in SEQ order, returning ACKs and credits. -/
  | flitReceived (l : Fin 8) (flit : Flit) (atFirst : Bool := true)
  /-- REPLAY_REQUEST (R338). A REPLAY_REQ makes the sender resend its buffered flits from the named SEQ. -/
  | replayRequest (l : Fin 8) (seq : Nat) (fromFirst : Bool := true)
  /-- ACK_TIMEOUT (R338). No ACK covers the oldest flit within 1 µs, so the sender replays from it. -/
  | ackTimeout (l : Fin 8) (fromFirst : Bool := true)
  /-- FLIT_RETRY_LIMIT (R340). A flit fails CRC on 8 successive sendings, which is a link failure. -/
  | flitRetryLimit (l : Fin 8)
  /-- RD_REQ (R331). A read request packet reaches its destination die, which answers it or returns NOT_ASSIGNED. -/
  | rdReq (txn : Txn) (seen : Seen := [])
  /-- WR_REQ (R331). A write request packet is written at its destination die. -/
  | wrReq (txn : Txn) (seen : Seen := [])
  /-- RD_RSP (R331). Read data returns to the requester. -/
  | rdRsp (tag : Nat) (src : Fin 5)
  /-- WR_ACK (R331). A write acknowledgement returns to the requester. -/
  | wrAck (tag : Nat) (src : Fin 5)
  /-- ERR_RSP (R331). An error completion, STRANDED or NOT_ASSIGNED, ends the requester's transaction. -/
  | errRsp (tag : Nat) (src : Fin 5) (code : Nat)
  /-- AUDIT_MARKER (R606). An audit marker on MGMT latches the credit counters at each link end. -/
  | auditMarker (l : Fin 8)
  /-- RECENTRE_DUE (R326). A port's periodic re-centring runs in an idle gap and measures each eye. -/
  | recentreDue (l : Fin 8) (marked : Nat) (closed : List Nat)
  /-- RECENTRE_GAP_FORCED (R326). No idle gap arose within 10 ms, so the sender holds data flits for 0.5 µs. -/
  | recentreGapForced (l : Fin 8)
  /-- GROUP_DISABLE (R341). A group with 16 CRC errors in 1 ms is disabled, and its repair is requested. -/
  | groupDisable (l : Fin 8) (group : Nat)
  /-- PARTNER_CLOCK_STOP (R346). A link end sees no clock edge for 1 µs on at least half its groups and declares the partner stopped. -/
  | partnerClockStop (l : Fin 8) (atFirst : Bool) (groups : List Nat := List.range 16)
  /-- DIE_LOSS_PATH (R638). Firmware stops the die's groups, unmaps its memory, seizes its resources, settles requests and posts DIE_LOST. -/
  | dieLossPath (d : Fin 4)
  /-- DIE_RESET_APPLIED (R206). The drained die is reset, the die-loss path runs and DIE_RESET completes. -/
  | dieResetApplied (d : Fin 4)
  /-- DIE_REJOIN_DONE (R207). A rejoin finishes, or fails at a stage, and DIE_REJOINED is posted on success. -/
  | dieRejoinDone (d : Fin 4) (result : RejoinEnd)
  /-- SLACK_TIDE_START (R598). The last step on the held dies commits, so the pending quiesce-required changes are applied. -/
  | slackTideStart (found : List LaneTest)
  /-- SLACK_TIDE_END (R598). Held work is released and CONFIG_QUIESCE_APPLIED is posted. -/
  | slackTideEnd (durationUs : Nat)
  /-- GROUP_MOVE_PREPARED (R601). A GROUP_MOVE's weight copy to the new dies finishes, or fails with NO_SPACE. -/
  | groupMovePrepared (model : Nat) (ok : Bool)
  /-- AVS_FRAME_ACK (R681). An AVSBus frame to a VDD_CREST_n regulator is acknowledged. -/
  | avsFrameAck (d : Fin 4)
  /-- AVS_NO_ACK (R683). Three AVS retries fail within 100 µs, so the die keeps its last voltage and limits its keep. -/
  | avsNoAck (d : Fin 4)
  /-- AVS_STEP_SETTLED (R682). A committed voltage step settles and the next step may start. -/
  | avsStepSettled (d : Fin 4)
  /-- SET_ENDPOINT_ID (R652). MCTP Set Endpoint ID. -/
  | setEndpointId (op : BitVec 2) (eid : Byte)
  /-- GET_ENDPOINT_ID (R652). MCTP Get Endpoint ID. -/
  | getEndpointId
  /-- GET_MCTP_VERSION_SUPPORT (R652). MCTP Get MCTP Version Support. -/
  | getMctpVersionSupport (msgType : Byte)
  /-- GET_MESSAGE_TYPE_SUPPORT (R652). MCTP Get Message Type Support. -/
  | getMessageTypeSupport
  /-- MCTP_UNSUPPORTED_CMD (R652). Any other MCTP control command completes with ERROR_UNSUPPORTED_CMD. -/
  | mctpUnsupportedCmd (cmd : Byte)
  /-- SMBUS_ALERT_RESPONSE (R653). A read of the Alert Response Address returns the VX3's address and deasserts SMB_ALERT_N. -/
  | smbusAlertResponse
  /-- GET_TID (R654). PLDM GetTID. -/
  | getTid
  /-- SET_TID (R654). PLDM SetTID. -/
  | setTid (tid : Byte)
  /-- GET_PLDM_VERSION (R654). PLDM GetPLDMVersion. -/
  | getPldmVersion (typ : Byte)
  /-- GET_PLDM_TYPES (R654). PLDM GetPLDMTypes. -/
  | getPldmTypes
  /-- GET_PLDM_COMMANDS (R654). PLDM GetPLDMCommands. -/
  | getPldmCommands (typ : Byte)
  /-- GET_PDR_REPOSITORY_INFO (R655). PLDM GetPDRRepositoryInfo. -/
  | getPdrRepositoryInfo
  /-- GET_PDR (R655). PLDM GetPDR returns a sensor or effecter record. -/
  | getPdr (record : Nat)
  /-- GET_SENSOR_READING (R656). PLDM GetSensorReading returns a numeric sensor reading or unavailable. -/
  | getSensorReading (sensor : Nat)
  /-- GET_STATE_SENSOR_READINGS (R622). PLDM GetStateSensorReadings returns device health. -/
  | getStateSensorReadings (sensor : Nat)
  /-- SET_NUMERIC_EFFECTER_VALUE (R657). PLDM SetNumericEffecterValue sets the BMC package limit, or is refused. -/
  | setNumericEffecterValue (effecter value : Nat)
  /-- GET_NUMERIC_EFFECTER_VALUE (R655). PLDM GetNumericEffecterValue returns the BMC limit. -/
  | getNumericEffecterValue (effecter : Nat)
  /-- REQUEST_UPDATE (R661). PLDM RequestUpdate enters update mode from IDLE. -/
  | requestUpdate
  /-- PASS_COMPONENT_TABLE (R661). PLDM PassComponentTable. -/
  | passComponentTable (comps : List Nat)
  /-- UPDATE_COMPONENT (R661). PLDM UpdateComponent starts the transfer of a firmware component. -/
  | updateComponent (comp size : Nat)
  /-- FIRMWARE_DATA_RECEIVED (R661). A 1,024 B chunk answering RequestFirmwareData arrives and the next chunk is requested. -/
  | firmwareDataReceived (data : List Byte)
  /-- VERIFY_COMPLETE (R659). Verification of the received image ends and VerifyComplete is reported. -/
  | verifyComplete (version : Word) (svn : Nat) (stepping : Byte) (sigOk : Bool)
  /-- APPLY_COMPLETE (R661). The verified image is written to the other copy and ApplyComplete is reported. -/
  | applyComplete
  /-- ACTIVATE_FIRMWARE (R661). PLDM ActivateFirmware marks the new copy pending. -/
  | activateFirmware
  /-- CANCEL_UPDATE (R661). PLDM CancelUpdate invalidates the target copy and returns to IDLE. -/
  | cancelUpdate
  /-- UPDATE_IDLE_TIMEOUT (R661). No UA request for 120 s invalidates the target copy and returns to IDLE. -/
  | updateIdleTimeout
  /-- GET_VERSION (R663). SPDM GET_VERSION resets the connection state. -/
  | getVersion (conn : Nat)
  /-- GET_CAPABILITIES (R663). SPDM GET_CAPABILITIES. -/
  | getCapabilities (conn : Nat)
  /-- NEGOTIATE_ALGORITHMS (R663). SPDM NEGOTIATE_ALGORITHMS with P-384 and SHA-384. -/
  | negotiateAlgorithms (conn : Nat) (p384sha384 : Bool)
  /-- GET_DIGESTS (R664). SPDM GET_DIGESTS. -/
  | getDigests (conn : Nat)
  /-- GET_CERTIFICATE (R664). SPDM GET_CERTIFICATE returns the slot-0 chain. -/
  | getCertificate (conn : Nat) (slot off len : Nat)
  /-- CHALLENGE (R665). SPDM CHALLENGE, signed in turn or answered ResponseNotReady. -/
  | challenge (conn : Nat) (slot : Nat)
  /-- GET_MEASUREMENTS (R666). SPDM GET_MEASUREMENTS returns the running-state blocks. -/
  | getMeasurements (conn : Nat) (signed : Bool) (index : Nat)
  /-- RESPOND_IF_READY (R665). SPDM RESPOND_IF_READY collects a deferred signed response. -/
  | respondIfReady (conn : Nat) (token : Nat)
  /-- SIGNING_DONE (R665). The management controller finishes a signing and takes the next in arrival order. -/
  | signingDone
  /-- TAP_RESET (R672). Test-Logic-Reset selects IDCODE. -/
  | tapReset
  /-- EXTEST (R672). JTAG EXTEST, acting as BYPASS while PERST_N is deasserted. -/
  | extest
  /-- SAMPLE_PRELOAD (R672). JTAG SAMPLE/PRELOAD. -/
  | samplePreload
  /-- IDCODE (R671). JTAG IDCODE returns 0x10B0_3947. -/
  | idcode
  /-- DBG_CHALLENGE (R672). JTAG DBG_CHALLENGE shifts out a new 16-byte nonce. -/
  | dbgChallenge
  /-- DBG_RESPONSE (R670). JTAG DBG_RESPONSE verifies a signed response and raises the debug level, or counts toward lockout. -/
  | dbgResponse (level : Nat) (sigOk : Bool)
  /-- DIE_SELECT (R672). JTAG DIE_SELECT routes the next two instructions to a die. -/
  | dieSelect (d : Fin 5)
  /-- TEST_ACCESS (R672). JTAG TEST_ACCESS controls loopback, PRBS and march and reads their results. -/
  | testAccess (op : Nat) (arg : Nat)
  /-- FUSE_PROG (R672). JTAG FUSE_PROG writes blank identity and key fuses in package test mode. -/
  | fuseProg (die : Fin 5) (field : FuseField)
  /-- REG_READ (R672). JTAG REG_READ reads PF-only blocks and the error log at level 1 or above. -/
  | regRead (off : Nat)
  /-- BYPASS (R672). JTAG BYPASS, also taken by every undefined opcode. -/
  | bypass
  /-- CREST_ROOT_PLL_LOCK (R38). A Crest die's root PLL locks within 50 µs of its reset release, which lets that die's B-link sequencers start training by themselves. -/
  | crestRootPllLock (d : Fin 4)
  /-- PCIE_LINK_UP (R113). The PCIe link finishes training to a rate and width, possibly in FLIT mode, and HB_PCIE_STATUS and the tag width in use follow. -/
  | pcieLinkUp (speed width : Nat) (flit : Bool)
  /-- RECEIVER_ERROR (R96). The PCIe controller detects a Receiver Error, Bad TLP, Bad DLLP, Replay Timer Timeout, REPLAY_NUM Rollover, Malformed TLP, ECRC Error or ACS Violation and logs it through AER. -/
  | receiverError (f : Fin 16) (err : RcvError)
  /-- RAIL_RETURN (R687). A rail that left its range returns to range with PWR_GOOD_IN high, and the VX3 leaves the reset it held and runs a power-on reset. -/
  | railReturn
  /-- PERST_N_DEASSERTION_TAKEN (R685). When PERST_N deasserted early, the moment 100 ms after PWR_GOOD_IN rose is taken as the deassertion, from which straps are sampled and start-up begins. -/
  | perstNDeassertionTaken (straps : Straps)
  /-- VOCAB_IMAGE_RELOADED (R259). The reload of a vocabulary image from its tier C copy, after poison in vocabulary SRAM, ends and carding and felting of that image resume. -/
  | vocabImageReloaded (handle : Nat)
  /-- GRAMMAR_COPY_BUILT (R469). Firmware finishes building a new grammar copy on a usable die after every copy was lost, and masks stop using the slow path. -/
  | grammarCopyBuilt (handle : Nat) (d : Fin 4)
  deriving DecidableEq, Repr

end Sys2Proof
end

