-- ==== Sys2Proof/Config.lean ====
section
/-! DEFINITION. What an implementation fixes, and the values that the specification leaves open.

An `opaque` constant has no body: nothing in Lean can evaluate it, so every statement that mentions one
holds for every value of it. Each is named in a row of the assumption log. -/

namespace Sys2Proof.Config

/-- The boot log is text (R202) whose wording the specification does not give: the text of one entry, by its time in
ms, its kind code and its argument (log entry 4). -/
opaque bootLogText : Nat → Nat → Nat → List Byte

/-- The header that AER logs for an error whose TLP header the specification does not give, and any other
128-bit value it leaves open, drawn in order (log entry 3). -/
opaque freeHeader : Nat → BitVec 128

/-- A natural number the specification leaves open, drawn in order (log entry 3). -/
opaque freeNat : Nat → Nat

/-- Bytes the specification leaves open (the content of a certificate chain, a signature, a nonce),
as a function of a draw number and the length wanted (log entry 3). -/
opaque freeBytes : Nat → Nat → List Byte

/-- The canonical (`false`) or compatibility (`true`) decomposition of a code point under UAX #15, which
the specification names but does not list (R406, log entry 5). -/
opaque decompose : Bool → Nat → List Nat

/-- The canonical combining class of a code point (R406, log entry 5). -/
opaque combiningClass : Nat → Nat

/-- The primary composite of two code points, where UAX #15 gives one (R406, log entry 5). -/
opaque compose : Nat → Nat → Option Nat

/-- The version of a firmware copy as delivered, one byte each for major, minor, patch and build, by component and copy
(R175 and R658 give no value: log entry 6). -/
opaque fwVersion : Nat → BitVec 32

/-- The place of a request's KV page-list root in the tier C firmware area, by ledger index, and the page of that area that
holds a list page, by ledger index, number and the pages of the area that were retired under it: firmware's choice (R470,
R532, log entry 23). -/
opaque pageRoot : Nat → Nat
opaque listPage : Nat → Nat → Nat → Nat

/-- One 64-byte line of a KV entry, by the digest of the model image, the group's die count, rank, layer and line, the tokens
up to the entry's position, and a draw number that is 0 in reproducible order: what the operators of an image compute is
Yarfe's (R372, R531, log entry 66). -/
opaque kvLine : Nat → Nat → Nat → Nat → Nat → List Nat → Nat → List Byte

/-- The page of a firmware area that firmware gives a page-table page, by the copy's die code, the ASID, the level, the
prefix of the DVAs it serves, and the number of pages of the area that were retired under it: firmware's choice (R236, R273,
log entry 26). -/
opaque tablePage : Nat → Nat → Nat → Nat → Nat → Nat

/-- The page of the firmware window that firmware gives a page that the model calls by a name, by that name's number:
firmware's choice (R266, log entry 18). -/
opaque windowPage : Nat → Nat

/-- The model's name of a word of a die's on-chip SRAM outside its scratchpad banks, by die code and number: the
specification does not lay them out (R232, log entry 28). -/
opaque sramWord : Nat → Nat → Nat

/-- The tier C line that mirrors a word of the request ledger or the ownership ledger, by the word's name: firmware's
choice (R636, log entry 28). -/
opaque mirrorLine : Nat → Nat

/-- The next addition of a reduction in fast order, by the step's batch size, cluster count and die count, the number of
partial sums left and the number of terms: the places of the two that are added (R371, log entry 141). -/
opaque fastPick : Nat → Nat → Nat → Nat → Nat → Nat × Nat

/-- The content of a measurement block: a digest over the facts that R666 names for its index (log entry 32). -/
opaque measure : Nat → List Nat → List Byte

/-- The slot-0 certificate chain of a package, by its serial (R664, log entry 32). -/
opaque certChain : Nat → List Byte

/-- The version entries that MCTP and PLDM answer for a message or PLDM type (R652, R654, log entry 33). -/
opaque protocolVersion : Nat → List Byte

end Sys2Proof.Config
end

