-- ==== Sys2Proof/Machine/Float.lean ====
section
/-! DEFINITION. The number formats and their arithmetic (11 R359, R361 to R378): encodings, rounding to nearest even,
conversions, the canonical summation tree, the elementary functions and the operator contracts. A floating-point
value is its bit pattern as a number; arithmetic is exact and rounds once at the end. -/

namespace Sys2Proof.Machine

/-- An IEEE-style format: exponent bits and mantissa bits. -/
structure Fmt where
  eb : Nat
  mb : Nat
  deriving DecidableEq, Repr

/-- binary32. -/
def fp32 : Fmt := { eb := 8, mb := 23 }
/-- binary64, which streams carry and the VX3 never computes in (R361, R417). -/
def fp64 : Fmt := { eb := 11, mb := 52 }
/-- binary16. -/
def fp16 : Fmt := { eb := 5, mb := 10 }
/-- BF16. -/
def bf16 : Fmt := { eb := 8, mb := 7 }
/-- FP8-E5M2. -/
def e5m2 : Fmt := { eb := 5, mb := 2 }
/-- FP8-E4M3; its exponent field 0b1111 is finite but for the NaN encodings (R361). -/
def e4m3 : Fmt := { eb := 4, mb := 3 }

/-- Exponent bias. -/
def Fmt.bias (f : Fmt) : Nat := 2 ^ (f.eb - 1) - 1
/-- Encoding of +infinity. -/
def Fmt.infBits (f : Fmt) : Nat := (2 ^ f.eb - 1) * 2 ^ f.mb
/-- Encoding of the sign bit. -/
def Fmt.signBit (f : Fmt) : Nat := 2 ^ (f.eb + f.mb)
/-- The canonical NaN (R361, R364). -/
def Fmt.nan (f : Fmt) : Nat := if f = e4m3 then 0x7F else f.infBits + 2 ^ (f.mb - 1)

/-- A value: NaN, an infinity, or sign and magnitude `m × 2^e`. -/
inductive Num where
  | nan
  | inf (neg : Bool)
  | fin (neg : Bool) (m : Nat) (e : Int)
  deriving DecidableEq, Repr

/-- The value a bit pattern encodes (R361, R365: subnormals at their value). -/
def unpack (f : Fmt) (v : Nat) : Num :=
  let neg := v / f.signBit % 2 = 1
  let ex := v / 2 ^ f.mb % 2 ^ f.eb
  let fr := v % 2 ^ f.mb
  if f = e4m3 then
    if ex = 15 ∧ fr = 7 then .nan
    else if ex = 0 then .fin neg fr (1 - (f.bias : Int) - f.mb)
    else .fin neg (2 ^ f.mb + fr) ((ex : Int) - f.bias - f.mb)
  else if ex = 2 ^ f.eb - 1 then (if fr = 0 then .inf neg else .nan)
  else if ex = 0 then .fin neg fr (1 - (f.bias : Int) - f.mb)
  else .fin neg (2 ^ f.mb + fr) ((ex : Int) - f.bias - f.mb)

/-- Half-even rounding of `m / 2^s`. -/
def shiftRound (m s : Nat) : Nat :=
  let q := m / 2 ^ s
  let r := m % 2 ^ s
  if s = 0 then m
  else if r < 2 ^ (s - 1) then q
  else if 2 ^ (s - 1) < r then q + 1
  else q + q % 2

/-- The magnitude `m × 2^e` rounded to a format, as the bits below the sign; a value at or beyond the code after
the largest finite one is an overflow (R362). -/
def roundMag (f : Fmt) (m : Nat) (e : Int) : Nat :=
  if m = 0 then 0
  else
    let len : Int := Nat.log2 m + 1
    let low : Int := 1 - (f.bias : Int) - f.mb
    let t : Int := max (e + len - (f.mb + 1)) low
    let q := if t ≤ e then m * 2 ^ (e - t).toNat else shiftRound m (t - e).toNat
    ((t - low).toNat) * 2 ^ f.mb + q

/-- A rounded result: overflow gives infinity of the result's sign (R362). -/
def pack (f : Fmt) (x : Num) : Nat :=
  match x with
  | .nan => f.nan
  | .inf neg => f.infBits + (if neg then f.signBit else 0)
  | .fin neg m e => min f.infBits (roundMag f m e) + (if neg then f.signBit else 0)

/-- A conversion to FP8 under the SAT flag (R363). -/
def packFp8 (f : Fmt) (sat : Bool) (x : Num) : Nat :=
  let maxFin := if f = e4m3 then 0x7E else 0x7B
  let ovf := fun (neg : Bool) =>
    if sat then maxFin + (if neg then f.signBit else 0)
    else if f = e4m3 then f.nan
    else f.infBits + (if neg then f.signBit else 0)
  match x with
  | .nan => f.nan
  | .inf neg => ovf neg
  | .fin neg m e =>
    let r := roundMag f m e
    if maxFin < r then ovf neg else r + (if neg then f.signBit else 0)

/-- Sign and magnitude of an exact integer multiple of a power of two; an exact zero is +0 unless told. -/
def ofInt (n : Int) (e : Int) (negZero : Bool) : Num :=
  if n = 0 then .fin negZero 0 0 else .fin (decide (n < 0)) n.natAbs e

/-- The signed integer that a finite value is at a given exponent not above its own. -/
def scaled (neg : Bool) (m : Nat) (e low : Int) : Int :=
  (if neg then -1 else 1) * ((m * 2 ^ (e - low).toNat : Nat) : Int)

/-- Exact sum (R364, R365). -/
def Num.add : Num → Num → Num
  | .nan, _ => .nan
  | _, .nan => .nan
  | .inf a, .inf b => if a = b then .inf a else .nan
  | .inf a, _ => .inf a
  | _, .inf b => .inf b
  | .fin n1 m1 e1, .fin n2 m2 e2 =>
    let low := min e1 e2
    ofInt (scaled n1 m1 e1 low + scaled n2 m2 e2 low) low (n1 && n2)

/-- Exact product (R365: signs by exclusive or). -/
def Num.mul : Num → Num → Num
  | .nan, _ => .nan
  | _, .nan => .nan
  | .inf a, .inf b => .inf (a != b)
  | .inf a, .fin b m _ => if m = 0 then .nan else .inf (a != b)
  | .fin a m _, .inf b => if m = 0 then .nan else .inf (a != b)
  | .fin a m1 e1, .fin b m2 e2 => .fin (a != b) (m1 * m2) (e1 + e2)

/-- The negated value. -/
def Num.neg : Num → Num
  | .nan => .nan
  | .inf a => .inf (!a)
  | .fin a m e => .fin (!a) m e

/-- A positive quotient `a / b` with 80 bits beyond the integer part and a sticky last bit. -/
def quotient (a b : Nat) : Nat :=
  let q := a * 2 ^ 80 / b
  2 * q + (if a * 2 ^ 80 % b = 0 then 0 else 1)

/-- Quotient to far more bits than any format holds (R376: divisions round once). -/
def Num.div : Num → Num → Num
  | .nan, _ => .nan
  | _, .nan => .nan
  | .inf _, .inf _ => .nan
  | .inf a, .fin b _ _ => .inf (a != b)
  | .fin a _ _, .inf b => .fin (a != b) 0 0
  | .fin a m1 e1, .fin b m2 e2 =>
    if m2 = 0 then (if m1 = 0 then .nan else .inf (a != b))
    else .fin (a != b) (quotient m1 m2) (e1 - e2 - 81)

/-! ### FP32 operations (R362, R375) -/

/-- FP32 addition, one rounding. -/
def fadd (a b : Nat) : Nat := pack fp32 ((unpack fp32 a).add (unpack fp32 b))
/-- FP32 subtraction, one rounding. -/
def fsub (a b : Nat) : Nat := pack fp32 ((unpack fp32 a).add (unpack fp32 b).neg)
/-- FP32 product, one rounding. -/
def fmul (a b : Nat) : Nat := pack fp32 ((unpack fp32 a).mul (unpack fp32 b))
/-- FP32 quotient, one rounding. -/
def fdiv (a b : Nat) : Nat := pack fp32 ((unpack fp32 a).div (unpack fp32 b))
/-- FP32 fused multiply-add: one rounding of `a × b + c`. -/
def ffma (a b c : Nat) : Nat := pack fp32 (((unpack fp32 a).mul (unpack fp32 b)).add (unpack fp32 c))
/-- An integer as FP32. -/
def fofNat (n : Nat) : Nat := pack fp32 (.fin false n 0)

/-- The FP32 value 1. -/
def one32 : Nat := 0x3F800000
/-- FP32 reciprocal (R375). -/
def frecip (a : Nat) : Nat := fdiv one32 a

/-- FP32 square root (R375): the integer root of the magnitude widened by 2^80, with a sticky last bit. -/
def fsqrt (a : Nat) : Nat :=
  match unpack fp32 a with
  | .nan => fp32.nan
  | .inf neg => if neg then fp32.nan else fp32.infBits
  | .fin neg m e =>
    if m = 0 then (if neg then fp32.signBit else 0)
    else if neg then fp32.nan
    else
      let m2 := if e % 2 = 0 then m else 2 * m
      let e2 := if e % 2 = 0 then e else e - 1
      let w := m2 * 2 ^ 160
      let r := Nat.sqrt w
      pack fp32 (.fin false (2 * r + (if r * r = w then 0 else 1)) (e2 / 2 - 81))

/-- FP32 reciprocal square root (R375). -/
def frsqrt (a : Nat) : Nat :=
  match unpack fp32 a with
  | .nan => fp32.nan
  | .inf neg => if neg then fp32.nan else 0
  | .fin neg m e =>
    if m = 0 then fp32.infBits + (if neg then fp32.signBit else 0)
    else if neg then fp32.nan
    else
      let m2 := if e % 2 = 0 then m else 2 * m
      let e2 := if e % 2 = 0 then e else e - 1
      let w := 2 ^ 400 / m2
      let r := Nat.sqrt w
      pack fp32 (.fin false (2 * r + 1) (-(e2 / 2) - 201))

/-! ### Transcendental functions in fixed point (R375)

Values are integers scaled by 2^400. No binary32 argument of these functions but the exact cases taken apart
below has a result within 2^-100 of a rounding boundary, so the truncation of the series does not reach the
rounded result (log entry 13). -/

/-- Fraction bits of the fixed-point values. -/
def fxBits : Nat := 400
/-- Fixed-point one. -/
def fxOne : Int := 2 ^ fxBits
/-- Fixed-point product. -/
def fxMul (a b : Int) : Int := a * b / 2 ^ fxBits

/-- Sum of the series whose term `k` is term `k - 1` times `x / k`, from a term on. -/
def expSeries (x : Int) : Nat → Nat → Int → Int
  | 0, _, _ => 0
  | n + 1, k, t => t + expSeries x n (k + 1) (fxMul t x / (k + 1 : Nat))

/-- Squares a fixed-point value `n` times. -/
def fxSquares : Nat → Int → Int
  | 0, v => v
  | n + 1, v => fxSquares n (fxMul v v)

/-- exp of a fixed-point argument from −120 to 120. -/
def fxExp (x : Int) : Int := fxSquares 8 (expSeries (x / 256) 90 0 fxOne)

/-- A finite value in fixed point. -/
def toFx (neg : Bool) (m : Nat) (e : Int) : Int :=
  let s : Int := e + fxBits
  (if neg then -1 else 1) *
    (if 0 ≤ s then ((m * 2 ^ s.toNat : Nat) : Int) else ((m / 2 ^ (-s).toNat : Nat) : Int))

/-- A fixed-point value rounded to FP32, inexact. -/
def ofFx (v : Int) : Nat := pack fp32 (.fin (decide (v < 0)) (2 * v.natAbs + 1) (-(fxBits : Int) - 1))

/-- FP32 exponential (R375). -/
def fexp (a : Nat) : Nat :=
  match unpack fp32 a with
  | .nan => fp32.nan
  | .inf neg => if neg then 0 else fp32.infBits
  | .fin neg m e =>
    if m = 0 then one32
    else
      let x := toFx neg m e
      if 100 * fxOne < x then fp32.infBits
      else if x < -110 * fxOne then 0
      else if x.natAbs < 2 ^ (fxBits - 60) then one32
      else ofFx (fxExp x)

/-- FP32 hyperbolic tangent (R375); it rounds to its argument below 2^-40 and to ±1 beyond 20. -/
def ftanh (a : Nat) : Nat :=
  match unpack fp32 a with
  | .nan => fp32.nan
  | .inf neg => one32 + (if neg then fp32.signBit else 0)
  | .fin neg m e =>
    let x := toFx false m e
    let sgn := if neg then fp32.signBit else 0
    if x < 2 ^ (fxBits - 40) then a
    else if 20 * fxOne < x then one32 + sgn
    else
      let t := fxExp (-2 * x)
      ofFx ((fxOne - t) * fxOne / (fxOne + t)) + sgn

/-- Arctangent of 1/n in fixed point with 600 bits: the alternating series of Machin's formula. -/
def atanInv (n : Nat) : Nat → Nat → Int → Int
  | 0, _, _ => 0
  | i + 1, k, t => t / (2 * k + 1 : Nat) - atanInv n i (k + 1) (t / (n * n : Nat))

/-- π scaled by 2^600. -/
def piFx : Int :=
  16 * atanInv 5 300 0 ((2 ^ 600 : Int) / 5) - 4 * atanInv 239 120 0 ((2 ^ 600 : Int) / 239)

/-- An angle reduced modulo 2π, in fixed point with 400 bits. -/
def reduceAngle (neg : Bool) (m : Nat) (e : Int) : Int :=
  let s : Int := e + 600
  let x : Int := (if neg then -1 else 1) *
    (if 0 ≤ s then ((m * 2 ^ s.toNat : Nat) : Int) else ((m / 2 ^ (-s).toNat : Nat) : Int))
  (x - x / (2 * piFx) * (2 * piFx)) / 2 ^ 200

/-- Terms of the sine or cosine series: term `k` is term `k - 1` times `-x² / ((a + 2k)(a + 2k + 1))`. -/
def trigSeries (xx : Int) (a : Nat) : Nat → Nat → Int → Int
  | 0, _, _ => 0
  | n + 1, k, t => t + trigSeries xx a n (k + 1) (-(fxMul t xx) / ((a + 2 * k + 1) * (a + 2 * k + 2) : Nat))

/-- FP32 sine (R375). -/
def fsin (a : Nat) : Nat :=
  match unpack fp32 a with
  | .nan => fp32.nan
  | .inf _ => fp32.nan
  | .fin neg m e =>
    if toFx false m e < 2 ^ (fxBits - 40) then a
    else
      let x := reduceAngle neg m e
      ofFx (trigSeries (fxMul x x) 1 120 0 x)

/-- FP32 cosine (R375). -/
def fcos (a : Nat) : Nat :=
  match unpack fp32 a with
  | .nan => fp32.nan
  | .inf _ => fp32.nan
  | .fin neg m e =>
    if toFx false m e < 2 ^ (fxBits - 40) then one32
    else
      let x := reduceAngle neg m e
      ofFx (trigSeries (fxMul x x) 0 120 0 fxOne)

/-! ### Order of values (R380) -/

/-- Rank class and key of an FP32 value: a greater key ranks higher, all NaNs rank equal and below everything. -/
def rankKey (a : Nat) : Int :=
  match unpack fp32 a with
  | .nan => -(2 ^ 40 : Int)
  | .inf neg => if neg then -(2 ^ 35 : Int) else 2 ^ 35
  | .fin neg _ _ => if neg then -((a % 2 ^ 31 : Nat) : Int) else (a : Int)

/-- Comparison of finite or infinite binary64 values under IEEE 754: a key that orders them, ±0 equal (R419). -/
def key64 (a : Nat) : Int := if a / 2 ^ 63 % 2 = 1 then -((a % 2 ^ 63 : Nat) : Int) else ((a % 2 ^ 63 : Nat) : Int)

/-- Whether a binary64 pattern is NaN. -/
def isNan64 (a : Nat) : Bool := decide (fp64.infBits < a % 2 ^ 63)
/-- Whether a binary64 pattern is an infinity. -/
def isInf64 (a : Nat) : Bool := decide (a % 2 ^ 63 = fp64.infBits)

/-- A binary32 pattern widened to binary64 exactly (R419). -/
def widen (a : Nat) : Nat := pack fp64 (unpack fp32 a)
/-- A binary64 pattern rounded to binary32 (R443). -/
def narrow (a : Nat) : Nat := pack fp32 (unpack fp64 a)

/-! ### Conversions between the formats of R361 (R362, R363, R366) -/

/-- The value of a pattern in a format code: 1 INT8, 2 E4M3, 3 E5M2, 4 FP16, 5 BF16, 6 FP32. -/
def valueOf (code v : Nat) : Num :=
  if code = 1 then (if v % 256 < 128 then .fin false (v % 256) 0 else .fin true (256 - v % 256) 0)
  else if code = 2 then unpack e4m3 v
  else if code = 3 then unpack e5m2 v
  else if code = 4 then unpack fp16 v
  else if code = 5 then unpack bf16 v
  else unpack fp32 v

/-- The integer nearest to a magnitude, ties to even. -/
def nearestNat (m : Nat) (e : Int) : Nat := if 0 ≤ e then m * 2 ^ e.toNat else shiftRound m (-e).toNat

/-- Conversion to INT8: nearest even, saturating, NaN to 0 (R366). -/
def toInt8 (x : Num) : Nat :=
  match x with
  | .nan => 0
  | .inf neg => if neg then 0x80 else 0x7F
  | .fin neg m e =>
    let n := nearestNat m e
    if neg then (256 - min 128 n) % 256 else min 127 n

/-- CONVERT: a value written in a format code, FP8 under a SAT flag. -/
def convertTo (code : Nat) (sat : Bool) (x : Num) : Nat :=
  if code = 1 then toInt8 x
  else if code = 2 then packFp8 e4m3 sat x
  else if code = 3 then packFp8 e5m2 sat x
  else if code = 4 then pack fp16 x
  else if code = 5 then pack bf16 x
  else pack fp32 x

/-! ### Sums in canonical order (R368 to R370) -/

/-- Left-to-right FP32 sum of a block. -/
def blockSum : List Nat → Nat
  | [] => 0
  | t :: rest => rest.foldl fadd t

/-- One round of the pairing loop of R369. -/
def pairUp : List Nat → List Nat
  | a :: b :: rest => fadd a b :: pairUp rest
  | l => l

/-- The pairing loop: `fuel` bounds the rounds, each of which halves the list. -/
def pairLoop : Nat → List Nat → List Nat
  | 0, l => l
  | n + 1, l => if l.length ≤ 1 then l else pairLoop n (pairUp l)

/-- The blocks of 32 terms of a sum: `fuel` bounds the blocks. -/
def blocksOf : Nat → List Nat → List (List Nat)
  | 0, _ => []
  | n + 1, l => if l.isEmpty then [] else l.take 32 :: blocksOf n (l.drop 32)

/-- The canonical tree over a list of terms (R369). -/
def treeSum (l : List Nat) : Nat :=
  let parts := (blocksOf l.length l).map blockSum
  (pairLoop parts.length parts).headD 0

/-- A reduction divided over the dies of a group: slices summed by the tree, then paired in rank order (R370). -/
def groupSum (slices : List (List Nat)) : Nat :=
  let parts := slices.map treeSum
  (pairLoop parts.length parts).headD 0

/-! ### The order of a sum (R359, R370 to R373) -/

/-- The order in which a step forms its sums: reproducible, over the slices of `dies` ranks where the image divides the
reduction, or fast, chosen from the step's batch size, cluster count and die division. -/
inductive SumOrder where
  | canonical (dies : Nat)
  | fast (batch clusters dies : Nat)
  deriving DecidableEq, Repr

/-- A list without the entry at a place. -/
def dropAt (l : List Nat) (i : Nat) : List Nat := l.take i ++ l.drop (i + 1)

/-- One addition of a sum in a free order: the partial sums at two places, one rounding (R371). -/
def addTwo (pick : Nat × Nat) (l : List Nat) : List Nat :=
  let i := pick.1 % l.length
  let rest := dropAt l i
  let j := pick.2 % rest.length
  fadd (l.getD i 0) (rest.getD j 0) :: dropAt rest j

/-- The additions of a sum in fast order, until one partial sum is left; `fuel` bounds them. -/
def fastAdds (batch clusters dies terms : Nat) : Nat → List Nat → List Nat
  | 0, l => l
  | fuel + 1, l =>
    if l.length ≤ 1 then l
    else fastAdds batch clusters dies terms fuel (addTwo (Config.fastPick batch clusters dies l.length terms) l)

/-- The contiguous slices of a list over `n` ranks (R370). -/
def slicesOf (k : Nat) : Nat → List Nat → List (List Nat)
  | 0, _ => []
  | n + 1, l => l.take k :: slicesOf k n (l.drop k)

/-- The sum of some terms in an order. In fast order the terms are those of the reproducible sum and each addition rounds
once; which are added first is free (R371). -/
def sumIn (o : SumOrder) (l : List Nat) : Nat :=
  match o with
  | .canonical dies => if dies ≤ 1 then treeSum l else groupSum (slicesOf (l.length / dies) dies l)
  | .fast batch clusters dies => (fastAdds batch clusters dies l.length l.length l).headD 0

/-- A reduction can be divided over the ranks of a group (R370). -/
def divides (k dies : Nat) : Bool := dies ≠ 0 && k % dies = 0 && k / dies % 32 = 0

/-- A product of two operands as an FP32 term: exact for the narrow formats, rounded once for FP32 (R368). -/
def term (codeA codeB a b : Nat) : Nat := pack fp32 ((valueOf codeA a).mul (valueOf codeB b))

/-- A dot product, summed in the step's order. -/
def dot (o : SumOrder) (codeA codeB : Nat) (a b : List Nat) : Nat := sumIn o (List.zipWith (term codeA codeB) a b)

/-- The operand pairs of the MAC arrays, in either order (R367). -/
def macPair (a b : Nat) : Bool :=
  let ok := fun (x y : Nat) =>
    (x = 1 && y = 1) || ((x = 2 || x = 3) && (y = 2 || y = 3)) || (x = 4 && (y = 4 || y = 2 || y = 3)) ||
      (x = 5 && (y = 5 || y = 2 || y = 3)) || (x = 6 && y = 6)
  ok a b || ok b a

/-- A TOPK call that MODEL_LOAD accepts (R381): 1 to 262,144 elements, k from 1 to 4,096. -/
def topkFits (len k : Nat) : Bool := decide (1 ≤ len) && decide (len ≤ 262144) && decide (1 ≤ k) && decide (k ≤ 4096)

/-! ### Operator contracts (R376 to R378), in FP32

Each operator that sums takes the order of its step (R371, R373). -/

/-- MATMUL of one row and one column with an optional scale and bias. -/
def matmul (o : SumOrder) (codeA codeB : Nat) (a b : List Nat) (scale bias : Option Nat) : Nat :=
  let d := dot o codeA codeB a b
  let s := match scale with
    | some x => fmul d x
    | none => d
  match bias with
  | some x => fadd s x
  | none => s

/-- GROUPED_MATMUL of one row: the weights of its group, whatever the sizes of the groups. -/
def groupedMatmul (o : SumOrder) (codeA codeB : Nat) (a : List Nat) (weights : List (List Nat)) (group : Nat)
    (scale bias : Option Nat) : Nat :=
  matmul o codeA codeB a (weights.getD group []) scale bias

/-- NORM, RMS. -/
def normRms (o : SumOrder) (x g : List Nat) (eps : Nat) : List Nat :=
  let ss := sumIn o (x.map (fun v => fmul v v))
  let r := frsqrt (fadd (fdiv ss (fofNat x.length)) eps)
  List.zipWith (fun v w => fmul (fmul v r) w) x g

/-- NORM, layer. -/
def normLayer (o : SumOrder) (x g b : List Nat) (eps : Nat) : List Nat :=
  let mu := fdiv (sumIn o x) (fofNat x.length)
  let c := x.map (fun v => fsub v mu)
  let v := fdiv (sumIn o (c.map (fun w => fmul w w))) (fofNat x.length)
  let r := frsqrt (fadd v eps)
  List.zipWith fadd (List.zipWith (fun w h => fmul (fmul w r) h) c g) b

/-- ACTIVATION, GELU-tanh, its constants the nearest FP32 values. -/
def gelu (x : Nat) : Nat :=
  let u := fmul x x
  let u := fmul u x
  let u := fmul 0x3D372713 u
  let u := fadd x u
  let u := fmul 0x3F4C422A u
  let u := ftanh u
  let u := fadd one32 u
  fmul (fmul 0x3F000000 x) u

/-- ACTIVATION, SiLU. -/
def silu (x : Nat) : Nat := fmul x (frecip (fadd one32 (fexp (fsub 0x80000000 x))))

/-- ACTIVATION, ReLU². -/
def relu2 (x : Nat) : Nat :=
  match unpack fp32 x with
  | .nan => fp32.nan
  | .inf neg => if neg then 0 else fp32.infBits
  | .fin neg _ _ => if neg then 0 else fmul x x

/-- ROPE on one pair at an angle. -/
def rope (x0 x1 pos freq : Nat) : Nat × Nat :=
  let a := fmul (fofNat pos) freq
  let c := unpack fp32 (fcos a)
  let s := unpack fp32 (fsin a)
  let u := unpack fp32 x0
  let v := unpack fp32 x1
  (pack fp32 ((u.mul c).add (v.mul s).neg), pack fp32 ((u.mul s).add (v.mul c)))

/-- EMBED: row `t` of the table in the output format; none, a step fault, for an ID at or beyond the table's rows. -/
def embedRow (code out : Nat) (sat : Bool) (table : List (List Nat)) (t : Nat) : Option (List Nat) :=
  (table[t]?).map (fun row => row.map (fun v => convertTo out sat (valueOf code v)))

/-- GATHER: the indexed elements, exactly; none, a step fault, for an index out of range. -/
def gatherElems (src : List Nat) : List Nat → Option (List Nat)
  | [] => some []
  | i :: rest =>
    match src[i]?, gatherElems src rest with
    | some v, some l => some (v :: l)
    | _, _ => none

/-- SCATTER: each source element copied to its destination in the order of the source indexes, so that the highest source
index wins a destination that several name, in both modes. -/
def scatterElems (dst src idx : List Nat) : List Nat :=
  (src.zip idx).foldl (fun l p => l.set p.2 p.1) dst

/-- REDUCE SUM. -/
def reduceSum (o : SumOrder) (l : List Nat) : Nat := sumIn o l

/-- REDUCE MAX: NaN wins, +0 above −0, exact. -/
def reduceMax (l : List Nat) : Nat :=
  l.foldl (fun m v =>
    if unpack fp32 m = .nan ∨ unpack fp32 v = .nan then fp32.nan
    else if rankKey m < rankKey v ∨ (rankKey m = rankKey v ∧ v < m) then v else m) (l.headD fp32.nan)

/-- REDUCE MIN. -/
def reduceMin (l : List Nat) : Nat :=
  l.foldl (fun m v =>
    if unpack fp32 m = .nan ∨ unpack fp32 v = .nan then fp32.nan
    else if rankKey v < rankKey m ∨ (rankKey m = rankKey v ∧ m < v) then v else m) (l.headD fp32.nan)

/-- SOFTMAX of a row (R378). -/
def softmax (o : SumOrder) (x : List Nat) : List Nat :=
  let isNan := fun (v : Nat) => decide (unpack fp32 v = .nan)
  let m := reduceMax x
  if x.any isNan then x.map (fun _ => fp32.nan)
  else if m = fp32.infBits + fp32.signBit then x.map (fun _ => 0)
  else if m = fp32.infBits then
    if (x.filter (· = fp32.infBits)).length = 1 then x.map (fun v => if v = fp32.infBits then one32 else 0)
    else x.map (fun _ => fp32.nan)
  else
    let e := x.map (fun v => fexp (fsub v m))
    let s := sumIn o e
    e.map (fun v => fmul v (frecip s))

/-- The running values of PAGED_ATTENTION: maximum, sum and accumulators. -/
structure AttnAcc where
  m   : Nat
  l   : Nat
  acc : List Nat
  deriving DecidableEq, Repr

/-- One page of PAGED_ATTENTION (R377): scores and value rows of its allowed positions. -/
def attnPage (a : AttnAcc) (page : List (Nat × List Nat)) : AttnAcc :=
  let mNew := page.foldl (fun m p => if rankKey m < rankKey p.1 then p.1 else m) a.m
  let c := if a.m = fp32.infBits + fp32.signBit then 0 else fexp (fsub a.m mNew)
  let start : AttnAcc := { m := mNew, l := fmul a.l c, acc := a.acc.map (fun v => fmul v c) }
  page.foldl (fun x p =>
    let e := fexp (fsub p.1 mNew)
    { m := mNew, l := fadd x.l e, acc := List.zipWith (fun s v => ffma e v s) x.acc p.2 }) start

/-- PAGED_ATTENTION of one head at one query position (R377): pages of keys and values, in their stored format, in position
order. -/
def attention (o : SumOrder) (code : Nat) (q : List Nat) (scale : Nat) (pages : List (List (List Nat × List Nat))) :
    List Nat :=
  let exact := fun v => pack fp32 (valueOf code v)
  let scored := pages.map (fun page => page.map (fun kv => (fmul (dot o 6 code q kv.1) scale, kv.2.map exact)))
  let width := ((pages.flatten.headD ([], [])).2).length
  if scored.any (fun p => p.any (fun x => unpack fp32 x.1 = .nan)) then List.replicate width fp32.nan
  else
    let r := scored.foldl attnPage { m := fp32.infBits + fp32.signBit, l := 0, acc := List.replicate width 0 }
    let inv := frecip r.l
    r.acc.map (fun v => fmul v inv)

end Sys2Proof.Machine
end

