-- ==== Sys2Proof/Machine/State.lean ====
section
/-! DEFINITION. The state of the VX3: every register, ledger, queue, buffer, counter, mode and pin that the
specification gives it, as plain data, and the queue of waiting commands.

A field's default is its value at reset. A comment names the rule that gives the field; INVENTORY.md lists
every field with its width, rule and reset value. Tables are sparse: an absent key reads as the default of
its structure. Times are microseconds since PERST_N deassertion unless a field says otherwise. -/

namespace Sys2Proof.Machine

/-- Why a command ends the run of the model. No effect is partial: the state of before stands. -/
inductive Fault where
  /-- An access to a device physical address that R234 says is unpopulated and firmware never produces.
  Raised by the memory commands (FULL_WRITE, DEMAND_READ, PARTIAL_WRITE). Safe: the VX3 issues no such access. -/
  | unpopulatedDpa (addr : Nat)
  deriving DecidableEq, Repr

/-- Why a command has no meaning in a state. -/
inductive Refusal where
  /-- The command of this mnemonic has no meaning yet. Raised only by its arm of `exec`. Safe. -/
  | notModelled (mnemonic : String)
  /-- An event that cannot occur in the state it meets: its rule gives it only in other states (a link that is
  not training cannot finish training). Raised by event commands whose premise does not hold. Safe: no
  behaviour of the hardware is replaced by another. -/
  | cannotOccur (what : String)
  deriving DecidableEq, Repr

/-! ### Die states, boot and pins -/

/-- CREST_n_STATE.STATE (R226). -/
inductive DieState where
  | absent | starting | usable | excluded | lost | rejoining | draining
  deriving DecidableEq, Repr, Inhabited

/-- One entry of the boot log (R68, R202): time in ms, kind code, argument. -/
structure BootEntry where
  ms   : Nat
  kind : Nat
  arg  : Nat
  deriving DecidableEq, Repr

/-- Balls of the package, as levels (true is high) or as asserted (R46, R52, R54, R47, R653). -/
structure Pins where
  pwrGood     : Bool := false   -- PWR_GOOD_IN
  perstN      : Bool := false   -- PERST_N level: false is asserted
  eprN        : Bool := true    -- EPR_N level
  readyOut    : Bool := false
  faultLow    : Bool := false   -- FAULT_N driven low
  thermtrip   : Bool := false   -- THERMTRIP_N held low
  smbAlert    : Bool := false   -- SMB_ALERT_N asserted
  railHeld    : Bool := false   -- held in reset by a rail out of range (R687)
  deriving DecidableEq, Repr, Inhabited

/-- Start-up and reset record (R51, R68, R72 to R74, R31, R32). -/
structure Boot where
  stage       : Nat := 0
  failStage   : Nat := 0
  failCause   : Nat := 0
  bootMs      : Nat := 0
  trainCached : Bool := false
  straps      : Straps := ({} : Straps)      -- as sampled (R46)
  smbAddr     : BitVec 2 := 0                -- R45, R651
  lastReset   : Nat := 0                     -- HB_RESET_CAUSE.LAST
  dieResets   : Nat := 0
  cpRestarts  : Nat := 0
  pllLocked   : Bool := false                -- Harbour root PLL and PCIe PHY PLL
  cfgReady    : Bool := false                -- configuration space answers with success (R69)
  earlyPerst  : Bool := false                -- PERST_N deasserted early, not yet taken (R685)
  identCauses : List Nat := []               -- every mismatch cause (R32)
  identDone   : Bool := false                -- HB_IDENTITY.DONE
  dieUsable   : BitVec 4 := 0                -- HB_BOOT_STATUS.DIE_USABLE
  diePresent  : BitVec 4 := 0                -- HB_IDENTITY.DIE_PRESENT
  blinkUp     : BitVec 4 := 0                -- HB_IDENTITY.BLINK_UP
  rollCall    : Bool := false                -- roll call under way
  silent      : BitVec 4 := 0                -- ports declared absent
  exchanged   : BitVec 8 := 0                -- B-link ends that received a position: bits 2l and 2l + 1
  exchOver    : BitVec 4 := 0                -- B-links whose exchange has ended or timed out
  dieFw       : BitVec 4 := 0                -- dies whose firmware is loaded and verified
  trained     : List Nat := []               -- controllers trained in this start-up (0 to 19)
  fullTrain   : List Nat := []               -- controllers whose verification failed: they train in full (R61)
  trainTemps  : Tbl (BitVec 12) := []        -- TEMP of each die code at the start of memory training (R61)
  testMode    : Bool := false                -- a TEST_MODE other than 00 was entered (R673)
  log         : List BootEntry := []
  pfOpened    : Bool := false                -- the PF's first FUNCTION_OPEN has happened (R155)
  deriving DecidableEq, Repr, Inhabited

/-- Identity fuses of a die (R24, R33 to R35) with what it reports at roll call. -/
structure Fuses where
  fused    : Bool := false
  pos      : BitVec 2 := 0
  serial   : DWord := 0
  stepping : BitVec 8 := 0xB0
  verLo    : Nat := 2
  verHi    : Nat := 3
  fusedMv  : Nat := 750        -- fused operating point, mV (R681)
  deriving DecidableEq, Repr, Inhabited

/-- A Crest die's record: CREST_n_ mirror registers (R34, R35, R44, R224, R226, R227), its clock control and
its die manager (R40 to R43, R635). -/
structure Die where
  state     : DieState := .absent
  cause     : Nat := 0
  lostCount : Nat := 0
  fuses     : Fuses := ({} : Fuses)
  answered  : Bool := false
  assigned  : BitVec 2 := 0
  neighH    : BitVec 2 := 0
  neighV    : BitVec 2 := 0
  linkVer   : Nat := 0
  rootLock  : Bool := false
  hbmLock   : Bool := false
  keepPlan  : Nat := 16
  tripTemp  : Bool := false     -- on-die trip held by temperature (R573)
  tripPower : Bool := false     -- on-die trip held by power (R573)
  tripEpr   : Bool := false
  gated     : Bool := false
  reqMv     : Nat := 750
  avsTarget : Nat := 750
  avsBusy   : Bool := false     -- a voltage step is under way (R681, R682)
  avsAcked  : Bool := false     -- its frame is acknowledged, and it settles
  avsNoAck  : Bool := false     -- limited after AVS_NO_ACK (R683)
  denseOwn  : BitVec 16 := 0
  streamOwn : BitVec 16 := 0
  lossDue   : Bool := false     -- lost, and its die-loss path has not run yet (R638)
  mgrDown   : Bool := false     -- die manager restarting (R635)
  fwRestart : Nat := 0          -- die-manager restarts since the last (R635)
  deriving DecidableEq, Repr, Inhabited

/-- TEMP, MAX_T and THROTTLE of a die code (R224, R577). -/
structure Thermal where
  temp     : BitVec 12 := 0
  maxT     : BitVec 12 := 0
  throttle : Bool := false
  keepMax  : Nat := 16           -- throttle keep (R577)
  deriving DecidableEq, Repr, Inhabited

/-- One controller's training cache entry in VDD_AON (02, R61). -/
structure TrainEntry where
  temp : BitVec 12 := 0
  deriving DecidableEq, Repr, Inhabited

/-! ### Host link -/

/-- What a read was issued for (R94). -/
inductive ReadFor where
  | ringFetch (ring : Nat)
  | streamInput (stream index : Nat)
  | bulk (slot : Nat)
  | step (id : Nat) (ledger : Nat)
  | translation (pasid page : Nat)
  deriving DecidableEq, Repr

/-- A tag that is not free (R91). -/
inductive TagState where
  /-- Outstanding: the purpose, the timeout in force at issue, issued before BME was cleared (R99), and the PASID and
  4 KiB host page whose translation it uses (R85). -/
  | outstanding (why : ReadFor) (ctoUs : Nat) (stale : Bool) (page : Option (Nat × Nat))
  /-- Quarantined until a time (R91, R103). -/
  | quarantined (until_ : Nat)
  deriving DecidableEq, Repr

/-- AER error classes of R96. -/
inductive AerErr where
  | receiverError | badTlp | badDllp | replayTimer | replayRollover | correctableInternal
  | completionTimeout | unexpectedCompletion | unsupportedRequest | completerAbort | poisonedTlp
  | malformedTlp | ecrc | acsViolation | uncorrectableInternal
  deriving DecidableEq, Repr

/-- An MSI-X vector (R83). -/
structure Vec where
  addr    : Nat := 0
  data    : Word := 0
  masked  : Bool := true
  pending : Bool := false
  deriving DecidableEq, Repr, Inhabited

/-- A function's configuration space and PCIe state (R76 to R111). -/
structure Pci where
  enabled    : Bool := false      -- the function exists (the PF always; a VF while enabled)
  bme        : Bool := false
  mse        : Bool := false
  roEnable   : Bool := true
  idoReq     : Bool := false      -- IDO Request Enable (R76)
  ecrcGen    : Bool := false      -- ECRC Generation Enable (R76)
  ecrcCheck  : Bool := false      -- ECRC Check Enable (R76)
  mrrs       : Nat := 512
  mps        : Nat := 128
  cto        : BitVec 4 := 0
  atsEn      : Bool := false
  priEn      : Bool := false
  priAlloc   : Nat := 0
  priStopped : Bool := false      -- Response Failure until FLR (R87)
  tag10      : Bool := false
  tag14      : Bool := false
  msixEn     : Bool := false
  funcMask   : Bool := false
  d3hot      : Bool := false
  rcvMAbort  : Bool := false
  rcvTAbort  : Bool := false
  aer        : List AerErr := []  -- status bits set (sticky)
  aerHeader  : BitVec 128 := 0    -- header log of the first uncorrectable error
  aerPrefix  : BitVec 128 := 0    -- TLP prefix log of the same error (R76)
  severity   : List AerErr := [.malformedTlp, .uncorrectableInternal]
  vecs       : Tbl Vec := []
  tags       : Tbl TagState := []
  invals     : List (Nat × Nat × Nat) := []   -- invalidations not completed: tag, PASID, 4 KiB page (R85)
  deriving DecidableEq, Repr, Inhabited

/-! ### Rings, records and events -/

/-- Ring types (R162). -/
inductive RingType where
  | none | req | textIn | textOut | numIn | numOut | cpl
  deriving DecidableEq, Repr, Inhabited

/-- Ring states (R162). -/
inductive RingState where
  | closed | running | held | stopped
  deriving DecidableEq, Repr, Inhabited

/-- A completion record's fields (R142). -/
structure Rec where
  kind     : Nat
  status   : Nat := 0
  srcRing  : Nat := 0
  srcIndex : Nat := 0
  ledger   : Nat := 0xFFFFFFFF
  userTag  : DWord := 0
  count    : Nat := 0
  commLen  : Nat := 0
  ttft     : Nat := 0
  energy   : Nat := 0
  detail   : Nat := 0
  stream   : Nat := 0
  ts       : Nat := 0
  deriving DecidableEq, Repr, Inhabited

/-- A request descriptor's fields (R140). -/
structure ReqDesc where
  typ      : Nat
  flags    : BitVec 16 := 0
  priority : Nat := 0
  inRing   : Nat := 0
  outRing  : Nat := 0
  userTag  : DWord := 0
  model    : Nat := 0
  grammar  : Nat := 0
  vocab    : Nat := 0
  ledger   : Nat := 0
  ttft     : Nat := 0
  tbt      : Nat := 0
  maxNew   : Nat := 0
  inStream : Nat := 0
  outStream : Nat := 0
  seed     : DWord := 0
  temp     : Word := 0
  topP     : Word := 0
  minP     : Word := 0
  topK     : Nat := 0
  stopCount : Nat := 0
  stopDva  : Nat := 0
  ttl      : Nat := 0
  deriving DecidableEq, Repr, Inhabited

/-- A stream descriptor's fields (R141). -/
structure StrDesc where
  typ    : Nat
  dims   : Nat := 1
  f64    : Bool := false
  endd   : Bool := false
  stream : Nat := 0
  length : Nat := 0
  buffer : Nat := 0
  table  : Nat := 0
  counts : List Nat := []
  strides : List Int := []
  deriving DecidableEq, Repr, Inhabited

/-- A fetched descriptor with its ring index, waiting to be consumed (R137). -/
inductive Desc where
  | req (index : Nat) (d : ReqDesc)
  | str (index : Nat) (d : StrDesc)
  | bad (index : Nat) (detail : Nat) (tag : DWord) (stream : Nat)
  deriving DecidableEq, Repr

/-- A ring (R132 to R139, R162, R192, R215). -/
structure Ring where
  state    : RingState := .closed
  cause    : Nat := 0
  cplRing  : Nat := 0
  vector   : Nat := 0
  sizeLog2 : Nat := 0
  typ      : RingType := .none
  prod     : Nat := 0
  cons     : Nat := 0
  base     : Nat := 0
  wb       : Nat := 0
  threshold : Nat := 0
  holdoff  : Nat := 0
  unsig    : Nat := 0             -- records written and not yet signalled (R157)
  unsigAt  : Nat := 0
  fetchIdx : Nat := 0             -- next index to fetch
  fetching : Bool := false        -- a fetch is in flight
  refetched : Bool := false       -- the fetch has timed out once (R94)
  fetched  : List Desc := []
  held     : List Rec := []       -- records waiting for space (R147)
  due      : List Rec := []       -- records that producers stopped by a HELD ring have still to produce (R147)
  lost     : List Nat := []       -- its 4 KiB pages, by DVA, whose translation is not held (R134)
  wbDue    : Bool := false        -- index change not yet written back (R136)
  submitAt : Option Nat := none   -- since when its SUBMIT is held (R517)
  finished : Nat := 0             -- descriptors of a stream ring whose record is written (R611)
  deriving DecidableEq, Repr, Inhabited

/-- An event before it is written (R152). -/
structure Event where
  code   : Nat
  object : Nat := 0
  data   : List Byte := []        -- DATA from byte 24 on
  ts     : Nat := 0
  deriving DecidableEq, Repr, Inhabited

/-- A function's event queue (R151 to R155, R161). -/
structure EvQ where
  opened   : Bool := false
  base     : Nat := 0
  sizeLog2 : Nat := 0
  vector   : Nat := 0
  prod     : Nat := 0
  cons     : Nat := 0
  overflow : Bool := false
  seq      : Nat := 0
  lost     : List Nat := []       -- its 4 KiB pages, by DVA, whose translation is not held (R134, R151)
  failed   : Bool := false        -- a translation of it has failed: it takes no further entry (R288)
  deriving DecidableEq, Repr, Inhabited

/-- What waits on the Harbour die while BME is clear, in the order produced (R100); `signalled` says that its vector's PBA
bit has been set for it. -/
inductive Waiting where
  | record (ring : Nat) (r : Rec) (signalled : Bool)
  | event (e : Event) (signalled : Bool)
  | writeback (ring : Nat)
  deriving DecidableEq, Repr

/-- A stream (R194) with its queue of input descriptors or output buffers (R141, R428 to R431). -/
structure Stream where
  kind      : Nat := 0
  ring      : Nat := 0
  vocab     : Nat := 0
  utf8      : Nat := 0
  normalise : Nat := 0
  specials  : Bool := false
  queue     : List (Nat × StrDesc) := []   -- waiting descriptors: (ring index, descriptor)
  done      : Nat := 0                     -- bytes or elements of the front descriptor completed
  runs      : List (Option (List Nat)) := []   -- complete runs not yet taken (R396); none is a rejected run
  run       : List Nat := []               -- numeric tokens of the current run
  runErr    : Bool := false                -- the current run is rejected (R423)
  elems     : Nat := 0                     -- elements of the current run carded
  carry     : List Byte := []              -- bytes of the current text run (R398): what its carry state comes from
  started   : Bool := false                -- input: the run has begun; output: the buffer in use has taken a token
  energy    : Nat := 0                     -- energy of the current run while no request has taken it (R560)
  runEnergy : List Nat := []               -- the same of each untaken complete run
  tail      : List Byte := []              -- output text written since the last 4 KiB restart point (R95, R283)
  takers    : List Nat := []               -- ledger indexes admitted on the stream, oldest first
  gone      : List (Nat × DWord) := []     -- ledger index and USER_TAG of takers that have ended, in their order
  lane      : Option Nat := none           -- lane bound to the stream
  waiting   : Bool := false                -- a chunk waits on a fault
  deriving DecidableEq, Repr, Inhabited

/-! ### Mailbox -/

/-- The outcome of a command at its commit point (R119, R124, R130). -/
structure CmdOutcome where
  status  : Nat := 0
  detail  : Nat := 0
  dieMask : Nat := 0
  resp    : List Byte := []
  deriving DecidableEq, Repr, Inhabited

/-- A command held by the control processors, in submission order (R121 to R130). -/
structure Cmd where
  slot      : Nat
  opcode    : Nat
  fence     : Bool := false
  event     : Bool := false             -- EVENT_ON_DONE
  started   : Bool := false
  outcome   : Option CmdOutcome := none -- journalled outcome: a refusal, or that of an effect already visible
  ready     : Option CmdOutcome := none -- reserved and built, not yet visible: its outcome at the commit point (R124, R172)
  read      : Option HostRead := none   -- what its indirect payload's read returns (R126)
  readAt    : Nat := 0                  -- DVA of its next host read (R281)
  readLeft  : Nat := 0                  -- bytes of its reads not yet asked for
  marked    : Bool := false             -- marked BUSY_RECOVERY (R128)
  startedAt : Nat := 0
  arg       : Nat := 0                  -- what a long command still waits for
  deriving DecidableEq, Repr, Inhabited

/-- A mapped region (R179): its DVA range, placement and the device pages or host range behind it. -/
structure Region where
  asid     : Nat
  dva      : Nat
  size     : Nat
  tier     : Nat
  dies     : Nat
  block    : Bool := false
  writable : Bool := false
  pasid    : Nat := 0
  iova     : Nat := 0
  pages    : List Nat := []       -- page frames in DVA order (tier H and C)
  deriving DecidableEq, Repr, Inhabited

/-- The RING_, EVQ_ and FN_ENGINES registers as they read during an FLR, which resets them when it completes (R208). -/
structure FnShown where
  rings   : Tbl Ring
  evq     : EvQ
  engines : BitVec 5
  deriving DecidableEq, Repr, Inhabited

/-- A function (R71, R114, R115, R159 to R163, R211 to R217). -/
structure Fn where
  pci       : Pci := ({} : Pci)
  flrBusy   : Bool := false
  shown     : Option FnShown := none     -- during an FLR (R208)
  opened    : Bool := false
  engines   : BitVec 5 := 0
  engStop   : BitVec 5 := 0              -- engines that an ENGINE_ENABLE is stopping (R178)
  window    : Nat := 0                   -- WINDOW_BASE (R81)
  owner     : Word := 0                  -- MB_OWNER
  done      : Word := 0                  -- MB_DONE
  slots     : Tbl (List Byte) := []      -- slot bytes; absent reads 256 zero bytes
  cmds      : List Cmd := []
  rings     : Tbl Ring := []
  evq       : EvQ := ({} : EvQ)
  waiting   : List Waiting := []         -- R100
  streams   : Tbl Stream := []
  latches   : Tbl Word := []             -- high-half latches by register key (R9)
  counters  : Tbl Nat := []              -- CNT_ block by offset
  enTide    : Nat := 0                   -- EN_FN_TIDE
  enTotal   : Nat := 0                   -- EN_FN_TOTAL
  enCapTides : Nat := 0                  -- EN_CAP_TIDES
  capHeld   : Bool := false              -- cap held back work this tide (R528, R581)
  capLast   : Bool := false              -- and in the tide before
  bucket    : Int := 0                   -- token bucket level (R515)
  bucketFrac : Nat := 0
  refilled  : Int := 0                    -- refill total (R608)
  spent     : Nat := 0
  reserved  : Nat := 0
  virtualTime : Nat := 0                 -- V_f (R519)
  deriving DecidableEq, Repr, Inhabited

/-- Messages that leave the device: on the host link, on a pin's bus, or on a management bus. -/
inductive Output where
  /-- A memory write to the host: function, PASID and IOVA of the target, the bytes, Relaxed Ordering, EP,
  and whether the address is translated through ATS (R77, R86). -/
  | hostWrite (f pasid iova : Nat) (bytes : List Byte) (ro : Bool) (ep : Bool) (translated : Bool)
  | msix (f vector : Nat) (addr : Nat) (data : Word)
  /-- A completion with data for a read of a BAR. -/
  | readData (f : Nat) (bytes : List Byte) (ep : Bool)
  | unsupported (f : Nat)
  | pageRequest (f pasid page : Nat)
  | translationRequest (f pasid page : Nat)
  | invalidationDone (f itag : Nat)
  /-- A read request: function, tag, the PASID and IOVA of its target, its length, and whether the address is translated
  through ATS (R77, R86, R269). -/
  | readRequest (f tag pasid iova len : Nat) (translated : Bool)
  /-- An error message: 0 ERR_COR, 1 ERR_NONFATAL, 2 ERR_FATAL (R96). -/
  | errMessage (f kind : Nat)
  /-- A response on SMBus: kind code and bytes. -/
  | mgmt (kind : Nat) (bytes : List Byte)
  | spdm (conn : Nat) (code : Nat) (bytes : List Byte)
  /-- Bits shifted out on TDO. -/
  | tdo (bytes : List Byte)
  | avs (die mv : Nat)
  /-- A Configuration Request completed with Request Retry Status (R69). -/
  | requestRetry (f : Nat)
  /-- Text of the boot log on UART_TX (R69). -/
  | uart (text : List Byte)
  deriving DecidableEq, Repr

/-! ### Memory -/

/-- Content classes (R254, R264). -/
inductive PClass where
  | free | weights | replica | pageTable | tidepoolKv | liveKv | history | image | tenant | weightsNoReplica
  deriving DecidableEq, Repr, Inhabited

/-- Pool states of a page (R236, 21 book 0 and 1). An unlisted page is free. -/
inductive PageState where
  | free | allocated | migrating | quarantined | retired
  deriving DecidableEq, Repr, Inhabited

/-- A page frame record (R238). -/
structure Page where
  state  : PageState := .free
  owner  : Nat := 0                  -- ASID
  cls    : PClass := .free
  object : Nat := 0                  -- handle or ledger index
  ce     : Nat := 0
  retireOnRelease : Bool := false
  dest   : Option Nat := none        -- where a migration copies to
  reason : Nat := 0                  -- REASON a pending migration retires with
  retireLine : Nat := 0              -- the first line poisoned in it (R695)
  ceLine : Nat := 0                  -- the line whose write-back brought its count to 16 (R695)
  dva    : Nat := 0                  -- DVA of the page in its owner's ASID
  sharers : List Nat := []           -- ledger indexes that share a KV page (R541)
  deriving DecidableEq, Repr, Inhabited

/-- A scrubber (R232, R249). -/
structure Scrub where
  enable  : Bool := true
  period  : Nat := 86400
  pos     : Nat := 0
  passes  : Nat := 0
  ce      : Nat := 0
  ue      : Nat := 0
  retired : Nat := 0
  deriving DecidableEq, Repr, Inhabited

/-- Scratchpad bank states (R230). -/
inductive BankState where
  | unowned | owned | inHandover | seized
  deriving DecidableEq, Repr, Inhabited

/-- An access to a bank that waits for the end of a handover (R301). -/
structure BankAcc where
  code : Nat
  off  : Nat
  len  : Nat
  data : Option (List Byte) := none
  by_  : Writer
  seen : Seen := []
  deriving DecidableEq, Repr

/-- A scratchpad bank (R230, R302, R307). -/
structure Bank where
  state     : BankState := .unowned
  owner     : Nat := 0x1F
  next      : Nat := 0x1F            -- NEXT_OWNER
  zeroDue   : Bool := false
  marchFail : Bool := false
  marching  : Option Nat := none     -- march running: 0 March C− and 1 transparent by MARCH_RUN, 2 a seizure's
  seizedFor : Nat := 0x1F            -- to whom a seized bank goes onward
  waits     : List BankAcc := []     -- accesses that wait for its handover to end, oldest first
  deriving DecidableEq, Repr, Inhabited

/-- A fault record waiting for service (R285 to R294). -/
structure FaultRec where
  die     : Nat                       -- fault queue: 0 to 3 Crest, 4 Harbour
  asid    : Nat
  dva     : Nat
  cls     : Nat                       -- 0 absent H, 1 absent C, 2 in-Tidepool, 3 host-nonresident
  works   : List WalkWork := []
  write   : Bool := false
  noPage  : Bool := false             -- waits for a free tier H page (R287)
  prSent  : Bool := false
  retried : Bool := false             -- its Translation Request has timed out once (R94)
  deriving DecidableEq, Repr

/-! ### Links -/

/-- Link states (R229). -/
inductive LinkState where
  | down | training | up | repair | stranded | loopback
  deriving DecidableEq, Repr, Inhabited

/-- One virtual channel's books at one link direction (R333, R606). -/
structure VcBook where
  initial  : Nat := 0
  held     : Nat := 0     -- credits the sender holds
  sent     : Nat := 0
  received : Nat := 0
  back     : Nat := 0
  out      : Nat := 0     -- credits the receiver has sent back
  occupied : Nat := 0     -- buffer slots of the receiver in use
  deriving DecidableEq, Repr, Inhabited

/-- A flit in a replay buffer (R338). -/
structure Sent where
  seq  : Nat
  vc   : Nat
  data : List Byte
  deriving DecidableEq, Repr, Inhabited

/-- A packet's transfer in a send queue (R330, R331, R336): what is left of its data, the lines of them that are poisoned,
and the links it still crosses, that of its queue first. -/
structure Parcel where
  op    : Nat
  vc    : Nat
  src   : Nat
  dst   : Nat
  err   : Nat := 0
  tag   : Nat := 0
  addr  : Nat := 0
  data  : List Byte := []
  poison : List Nat := []
  last  : Bool := true               -- its end has the end of the transfer
  route : List Nat := []
  deriving DecidableEq, Repr, Inhabited

/-- A batch (R330, R332): its virtual channel, its ends, the DPA behind its last packet and its flits so far. -/
structure Batch where
  vc    : Nat
  src   : Nat
  dst   : Nat
  next  : Nat
  flits : Nat
  deriving DecidableEq, Repr, Inhabited

/-- One direction of a link: its sender's queue, replay buffer and SEQ, its receiver's SEQ, and the books of its virtual
channels at both ends (R333 to R339, R606). -/
structure LinkDir where
  queue   : List Parcel := []
  batch   : Option Batch := none      -- the batch that runs
  turn    : Nat := 2                  -- the virtual channel that had the last turn
  txSeq   : Nat := 0                  -- next SEQ to send
  rxSeq   : Nat := 0                  -- last SEQ delivered + 1
  unacked : List Sent := []           -- the replay buffer, oldest first
  fails   : Nat := 0                  -- successive CRC failures of one flit
  vcs     : List VcBook := []
  latched : List VcBook := []         -- books latched at the last audit marker
  deriving DecidableEq, Repr, Inhabited

/-- A die link (R228, R229, R322 to R350): its registers, and its directions, from its first die and towards it. -/
structure Link where
  state     : LinkState := .down
  version   : Nat := 0
  disabled  : List Nat := []          -- groups disabled
  spares    : Nat := 0
  groupSpares : Tbl Nat := []         -- spares taken of each group (R342)
  marked    : Nat := 0                -- wires marked by re-centring (R327)
  crc       : Nat := 0
  replay    : Nat := 0
  recentres : Nat := 0
  tx        : Nat := 0
  rx        : Nat := 0
  groupErr  : Tbl Nat := []           -- CRC errors of each group in the running 1 ms
  repairDue : Bool := false
  out       : LinkDir := ({} : LinkDir)
  back      : LinkDir := ({} : LinkDir)
  deriving DecidableEq, Repr, Inhabited

/-- The answer of a destination die: ERR, the data read and their poisoned lines. -/
structure Answer where
  err    : Nat := 0
  data   : List Byte := []
  poison : List Nat := []
  deriving DecidableEq, Repr, Inhabited

/-- How far a transaction is: its request under way, at its destination, answered there, its answer under way. -/
inductive TxnPhase where
  | asked | arrived
  | answered (a : Answer)
  | returning (a : Answer)
  deriving DecidableEq, Repr

/-- An outstanding die-link transaction with the links of its route (R331, R347, R348). -/
structure OutTxn where
  txn     : Txn
  write   : Bool
  links   : List Nat
  phase   : TxnPhase := .asked
  reissued : Bool := false
  deriving DecidableEq, Repr

/-! ### Objects and requests -/

/-- A loaded model and its engine group (R182 to R184, R358). -/
structure Model where
  owner     : Nat
  shared    : Bool := false
  replica   : Bool := false
  image     : ModelImage := ({} : ModelImage)
  placement : Nat := 0
  dense     : Nat := 0
  stream    : Nat := 0
  denseMask : Tbl Nat := []          -- die to cluster mask
  streamMask : Tbl Nat := []
  banks     : List Nat := []         -- scratchpad banks, 64 × die + bank (R299)
  weights   : List Nat := []         -- tier H pages
  replicaPages : List Nat := []
  vocab     : Nat := 0
  loaded    : Nat × Nat × Nat := (0, 0, 0)   -- GROUP_PLACEMENT, DENSE_PER_DIE and STREAM_PER_DIE of its load (R184)
  unusable  : Bool := false          -- awaits rejoin or reload (R207, R474)
  lent      : Nat := 0               -- dense clusters lent per die (R522)
  ratios    : List Rat := []         -- last 16 step times, measured over predicted (R507)
  lastUs    : Option Nat := none     -- time of the last decode step in µs (R647)
  replaced  : Nat := 0               -- DECODE requests paused at the last commit point, not yet replaced (R647)
  riskForms : Nat := 0               -- successive decode formations that found a request at risk (R525)
  bankless  : Bool := false          -- a failed bank had no replacement (R317)
  moving    : Option (Nat × Nat) := none  -- GROUP_MOVE: new placement, generation (R601)
  movePages : List Nat := []
  moveMasks : List (Nat × Nat × Nat × List Nat) := []  -- clusters and banks taken ahead: die, masks, banks
  moveReady : Bool := false
  deriving DecidableEq, Repr, Inhabited

/-- A vocabulary image (R185, R414 to R416). -/
structure Vocab where
  owner    : Nat
  shared   : Bool := false
  pin      : Bool := false
  bytes    : List Byte := []
  resident : Bool := false
  reloading : Bool := false
  pages    : List Nat := []
  deriving DecidableEq, Repr, Inhabited

/-- A bin table (R187, R417, R418, R441). -/
structure BinTable where
  owner   : Nat
  shared  : Bool := false
  bytes   : List Byte := []
  cached  : Bool := false
  usedAt  : Nat := 0                -- last use while cached (R424)
  pages   : List Nat := []
  deriving DecidableEq, Repr, Inhabited

/-- A grammar image (R189, R452 to R454). -/
structure Grammar where
  owner    : Nat
  shared   : Bool := false
  vocab    : Nat := 0
  image    : GrammarImage := ({} : GrammarImage)
  header   : List Byte := []
  cacheDies : BitVec 4 := 0          -- CACHE_DIES of its load
  copies   : BitVec 4 := 0           -- dies that hold a copy
  pages    : List Nat := []
  slowPath : Bool := false           -- every copy was lost, and not every die that serves a request has a new one (R469)
  deriving DecidableEq, Repr, Inhabited

/-- Request states (R471). -/
inductive ReqState where
  | free | admitted | prefill | ready | decode | pausedHot | pausedPool | expired | cancelling | draining
  | done | failed
  deriving DecidableEq, Repr, Inhabited

/-- A node of a candidate tree (R544): token and parent (the root is 0, nodes count from 1). -/
structure TreeNode where
  token  : Nat
  parent : Nat
  ready  : Bool := false             -- its own mask is ready (R463)
  deriving DecidableEq, Repr, Inhabited

/-- A KV block of a request (R531 to R537). -/
structure KvBlock where
  pages   : List Nat := []
  spilled : Bool := false
  pooled  : Bool := false
  shared  : Bool := false
  reserve : Bool := false
  onC     : List Nat := []           -- absent pages whose claim R696 has moved to tier C
  deriving DecidableEq, Repr, Inhabited

/-- Descriptor fields and bindings a request keeps (R140, R476, R477). -/
structure ReqBind where
  fn        : Nat := 0
  reqRing   : Nat := 0
  reqIndex  : Nat := 0
  cplRing   : Nat := 0
  priority  : Nat := 0
  flags     : BitVec 16 := 0
  gen       : Nat := 0
  userTag   : DWord := 0
  model     : Nat := 0
  grammar   : Nat := 0
  vocab     : Nat := 0
  inRing    : Nat := 0
  outRing   : Nat := 0
  ttft      : Nat := 0
  tbt       : Nat := 0
  maxNew    : Nat := 0
  inStream  : Nat := 0
  outStream : Nat := 0
  ttl       : Nat := 0
  seed      : DWord := 0
  temp      : Word := 0
  topP      : Word := 0
  minP      : Word := 0
  topK      : Nat := 0
  stops     : List (List Byte) := []
  deriving DecidableEq, Repr, Inhabited

/-- A ledger entry (R470) with what the device keeps beside it. -/
structure Entry where
  state      : ReqState := .free
  b          : ReqBind := ({} : ReqBind)
  urgent     : Bool := false
  cacheLost  : Bool := false
  forced     : Bool := false
  hostPause  : Bool := false
  drainMode  : Bool := false
  schedPause : Bool := false
  pauseDue   : Bool := false         -- a pause takes effect at the next commit (R488)
  squash     : Bool := false         -- squashed at the next layer boundary (R494)
  endStatus  : Nat := 0
  promptLen  : Nat := 0
  tokens     : List Nat := []        -- token history (R478): prompt then committed tokens
  generated  : Nat := 0
  ttftUs     : Nat := 0
  admitTime  : Nat := 0
  lastToken  : Nat := 0
  pausedAt   : Nat := 0               -- when its pause took effect
  hostAt     : Nat := 0               -- since when its pause is the host's
  hostPaused : Nat := 0              -- HOST_PAUSED_US
  histPages  : List Nat := []
  kv         : List KvBlock := []
  kvDone     : Nat := 0              -- positions whose KV is complete
  expiry     : Nat := 0
  deriving DecidableEq, Repr, Inhabited

/-- The rest of an entry's record: accounts, speculation, felting and constraint state. -/
structure EntryX where
  spent      : Nat := 0
  reserved   : Nat := 0
  energy     : Nat := 0
  energyEst  : Nat := 0
  specNodes  : Nat := 0
  specAcc    : Nat := 0
  prefixWaiters : List Nat := []
  prefixParent  : Option Nat := none
  prefixLen  : Nat := 0
  steps      : Nat := 0
  reprefills : Nat := 0
  tree       : List TreeNode := []
  damaged    : Option (Nat × Nat) := none   -- damaged KV range (R492)
  inStep     : Bool := false
  faultOut   : Bool := false                -- left out of steps by R291
  maskFor    : Option Nat := none           -- generated position whose mask is ready (R461)
  automaton  : Nat := 0                     -- committed lexer state (R460)
  gstack     : List Nat := []               -- committed stack, top first (R460)
  felted     : Nat := 0                     -- committed tokens taken by a felting lane
  pendingOut : List Byte := []              -- felted output without a buffer (R148)
  heldUtf8   : List Byte := []              -- assembler's held bytes (R435)
  stopHeld   : List Byte := []              -- output held for a stop string (R439)
  stopHit    : Bool := false
  recordDue  : Bool := false                -- REQUEST_END not yet produced
  recWritten : Bool := false                -- REQUEST_END written (R501)
  contributed : Bool := false               -- a committed token has contributed bytes (R434)
  foreign    : Bool := false                -- a foreign token is logged (R434)
  drained    : Bool := false                -- a DRAIN cancel has taken effect: output is dropped (R446)
  closed     : Bool := false                -- held bytes are flushed at the end (R436)
  slot       : Bool := false                -- holds a decode slot (R497, R509)
  reprefill  : Nat := 0                     -- re-prefill: 0 none, 1 due, 2 running (R491)
  runsOn     : Nat := 0                     -- the model it runs on: its own or a twin (R639)
  estGen     : Nat := 0                     -- generated tokens the admission estimate counts (R579)
  resumedAt  : Nat := 0                     -- last scheduler resume (R525)
  slotRefusedAt : Option Nat := none        -- since when R509 refuses it a slot for batch or step bound (R525)
  poolRefused : Bool := false               -- a Tidepool move was refused (R552)
  replays    : Nat := 0                     -- host-read replays (R94)
  poolPages  : Nat := 0
  moving     : Bool := false                -- a Tidepool move is under way
  moveDue    : Bool := false                -- the scheduler needs its pages: it moves as its pause takes effect (R525)
  mend       : Bool := false                -- its step in flight re-prefills its damaged range first (R492)
  fillFrom   : Nat := 0                     -- position at which its prefill starts, behind what it shares (R357, R540)
  deriving DecidableEq, Repr, Inhabited

/-- A step in flight (R503 to R505). -/
structure Step where
  model    : Nat
  decode   : Bool
  members  : List (Nat × Nat)              -- ledger index, rows or positions
  formedAt : Nat := 0
  pred     : Rat := 0                      -- predicted time in µs (R507)
  clusters : Nat := 0                      -- dense clusters per die that it runs on (R523)
  fast     : Bool := false                 -- every request in it is in fast mode (R373, R504)
  replays  : Nat := 0
  preempt  : Bool := false                 -- pre-empted at the next layer boundary (R597)
  squashAll : Bool := false
  poisoned : Bool := false
  lastLayer : Bool := false                -- no layer boundary is left
  waiting  : List Nat := []                -- members whose fault the step waits for (R291)
  deriving DecidableEq, Repr, Inhabited

/-- A tenant's or domain's energy accounts (R559 to R582). -/
structure Domain where
  usedUj    : Nat := 0
  allowance : Nat := 0
  grant     : Nat := 0
  nextGrant : Option Nat := none
  nextDraw  : Nat := 0
  draw      : Nat := 0
  fastMw    : Nat := 0
  nextFast  : Nat := 0
  reservoir : Nat := 0
  banked    : Int := 0                       -- terms of book 6 for the tide that ended (R569)
  returned  : Int := 0
  floors    : Nat := 0
  report    : Bool := false                  -- the report of the tide just ended has come, or is assumed
  lastReport : List Byte := []               -- data of the last report received; none yet, or none since a rejoin (R565)
  tripped   : Bool := false                  -- a fast trip in the tide just ended (R565)
  keepWas   : Nat := 0                       -- KEEP_PLAN in the tide just ended (R565)
  onFloor   : Bool := false                  -- the tide runs on the floor for want of a grant (R564)
  plan      : Option (List Byte) := none     -- data of the computed tide grant, not yet delivered (R565)
  clusters  : Nat := 16                      -- dense clusters whose prefill the grant supports (R527)
  short     : Bool := false                  -- the last computation gave less than its decode need (R582)
  overhead  : Nat := 0                       -- energy of the last tide charged to firmware (R560)
  charged   : Nat := 0                       -- energy of the last tide charged to requests and streams
  split     : Nat := 0                       -- TIDE_DENSE_SPLIT byte
  shortTides : Nat := 0                      -- decode-short streak (R582)
  noPrefill : Bool := false
  fastPosted : Bool := false
  deriving DecidableEq, Repr, Inhabited

/-- Energy and tide state of the package (R200, R233, R563, R566). -/
structure Energy where
  limitW    : Nat := 300        -- LIMIT_W
  bmcW      : Nat := 0
  bmcShown  : Nat := 0          -- BMC_W as EN_LIMIT shows it: of the last tide boundary (R217)
  limitBmc  : Bool := false     -- the BMC set the limit last (SOURCE of R584)
  effW      : Nat := 300        -- effective package limit
  tides     : Nat := 0          -- TIDE_COUNT
  pkgUj     : Nat := 0
  pkgHist   : List Nat := []    -- package energy of the last 10 tides (R655)
  slackCount : Nat := 0
  lastSlackUs : Nat := 0
  planned   : Bool := false
  doms      : Tbl Domain := []
  deriving DecidableEq, Repr, Inhabited

/-- A value of a configuration item at an instance: (ITEM_ID, INDEX) to value bytes as a number (R586, R590). -/
abbrev ItemVals := Tbl Nat

/-- A commit's part that waits for its application point (R595, R597, R602): the values, the number of records,
what a hold has taken of it, and the first item that failed or was deferred with its cause (R603). -/
structure Commit where
  gen      : Nat
  time     : Nat := 0
  records  : Nat := 0
  vals     : ItemVals := []
  taken    : List Nat := []                 -- item instances that the hold in progress has taken
  posted   : Bool := false                  -- its CONFIG_QUIESCE_APPLIED has been posted
  failItem : Nat := 0
  cause    : Nat := 0
  deriving DecidableEq, Repr, Inhabited

/-- Live configuration (R196 to R199, R586 to R602). -/
structure Conf where
  shadow    : ItemVals := []
  newest    : Nat := 0
  older     : Option Nat := none
  committed : ItemVals := []                -- of the newest generation
  oldVals   : ItemVals := []                -- of the older live generation
  applied   : ItemVals := []                -- tide-applied and quiesce-required values in force
  tideDue   : List Commit := []             -- commits waiting for a tide boundary
  quiesce   : List Commit := []             -- quiesce-required commits not yet applied
  atRejoin  : ItemVals := []                -- scrubber changes of a lost die (R600)
  holding   : BitVec 5 := 0                 -- held dies (R596): bit 4 is the Harbour die
  repairs   : List Nat := []                -- links whose lane repair the hold has taken (R597)
  holdSince : Nat := 0
  slack     : Bool := false                 -- a slack tide is running
  committedOnce : Bool := false             -- a COMMIT_CONFIG has happened (LCK, R7)
  deriving DecidableEq, Repr, Inhabited

/-- One error-log entry (R623 to R626). -/
structure LogEntry where
  seq    : Nat
  cls    : Nat := 0
  die    : Nat := 0xFF
  fn     : Nat := 0xFF
  count  : Nat := 1
  code   : Nat
  status : Nat := 0
  ledger : Nat := 0xFFFFFFFF
  addr   : Nat := 0
  ts     : Nat := 0
  detail : List Byte := []
  deriving DecidableEq, Repr, Inhabited

/-- Control-processor complex and sentinel (R220, R632 to R634, R628). -/
structure Cp where
  coreUp      : BitVec 4 := 0
  lastRestart : Nat := 0
  sentinel    : Bool := false
  recovery    : Bool := false
  inTide      : Bool := false              -- a restart ran at some time of the open tide (R614)
  startedAt   : Nat := 0
  heldEvents  : List (Nat × Event) := []   -- firmware events waiting for the end (R131)
  deriving DecidableEq, Repr, Inhabited

/-- Audit state (R223, R604 to R618). -/
structure Books where
  failed    : Word := 0           -- HB_BOOKS
  lastTide  : Nat := 0            -- HB_BOOKS_TIDE
  lastMask  : Nat := 0
  deriving DecidableEq, Repr, Inhabited

/-- A carding or felting lane (R397, R433). -/
structure Lane where
  fn     : Nat := 0
  stream : Nat := 0
  busy   : Bool := false
  deriving DecidableEq, Repr, Inhabited

/-- Whose turn is next at an engine's lanes: the function, and of each function the ring or stream (R397, R445). -/
structure Turn where
  fn   : Nat := 0
  next : Tbl Nat := []
  deriving DecidableEq, Repr, Inhabited

/-- A firmware copy of a component (R658, R659). -/
structure FwCopy where
  version   : Option (BitVec 32) := none   -- none: as delivered
  svn       : Nat := 0
  stepping  : BitVec 8 := 0xB0
  signed    : Bool := true
  pending   : Bool := false
  valid     : Bool := true
  deriving DecidableEq, Repr, Inhabited

/-- A firmware component: copies A and B, the one running, and its fused counter (R658 to R660). -/
structure FwComp where
  a       : FwCopy := ({} : FwCopy)
  bb      : FwCopy := ({} : FwCopy)
  runB    : Bool := false
  counter : Nat := 0
  deriving DecidableEq, Repr, Inhabited

/-- Update state machine (R661). -/
inductive UpdState where
  | idle | learn | readyXfer | download | verify | apply | activate
  deriving DecidableEq, Repr, Inhabited

/-- An SPDM connection (R663 to R666). -/
structure Spdm where
  phase    : Nat := 0                      -- 0 start, 1 version, 2 capabilities, 3 negotiated
  waiting  : Option (Nat × Nat) := none    -- deferred request: request, token
  ready    : Bool := false                 -- its response is signed
  deriving DecidableEq, Repr, Inhabited

/-- The management controller, its endpoints and the test port (25). -/
structure Mgmt where
  alive    : Bool := false
  eid      : Nat := 0
  tid      : Nat := 0
  fw       : Tbl FwComp := []
  upd      : UpdState := .idle
  updComp  : Nat := 0
  updSize  : Nat := 0
  updGot   : Nat := 0
  updImage : FwCopy := ({} : FwCopy)       -- the verified image's header
  updDone  : List Nat := []                -- components applied and not yet activated
  spdm     : Tbl Spdm := []
  signing  : List (Nat × Nat) := []        -- connections waiting for a signature, oldest first
  token    : Nat := 0
  health   : Nat := 1                      -- last health reported (R622, R653)
  debug    : Nat := 0
  nonce    : Option Nat := none
  dbgFails : Nat := 0
  lockout  : Bool := false
  ir       : Nat := 0
  dieSel   : Option Nat := none
  dieLeft  : Nat := 0
  keyHashes : Tbl (List Byte) := []
  deriving DecidableEq, Repr, Inhabited

/-! ### The whole state -/

/-- The state of the block. -/
structure State where
  pins     : Pins := ({} : Pins)
  boot     : Boot := ({} : Boot)
  hbFuses  : Fuses := { verHi := 2 }      -- Harbour identity fuses (R33); its link version is 2 (R36)
  dies     : Tbl Die := []                -- CREST_0 to CREST_3
  thermal  : Tbl Thermal := []            -- die codes 0 to 4
  training : Tbl TrainEntry := []         -- training cache by controller 0 to 19
  fns      : Tbl Fn := []                 -- functions 0 to 15
  sriov    : Nat := 0                     -- VFs enabled (NumVFs in effect)
  vfMse    : Bool := false
  ari      : Bool := false
  numVfs   : Nat := 0
  pcie     : Nat × Nat × Bool := (0, 0, false)   -- SPEED, WIDTH, FLIT (R113)
  atc      : List (Nat × Nat × Nat) := []        -- cached host translations: function, PASID, 4 KiB page
  pfHeld   : List Event := []             -- PF events before its first FUNCTION_OPEN (R155)
  cp       : Cp := ({} : Cp)
  regions  : Tbl Region := []
  models   : Tbl Model := []
  vocabs   : Tbl Vocab := []
  bins     : Tbl BinTable := []
  grammars : Tbl Grammar := []
  serials  : Tbl Nat := []                -- next serial by type × 16 + function (R168)
  uncommitted : List (Nat × Nat × Nat) := []   -- handles built and not yet committed: handle, function, slot (R124)
  ledger   : Tbl Entry := []
  ledgerX  : Tbl EntryX := []
  steps    : Tbl Step := []
  nextStep : Nat := 1
  lanesIn  : Tbl Lane := []
  lanesOut : Tbl Lane := []
  turnIn   : Turn := ({} : Turn)          -- of the carding lanes
  turnOut  : Turn := ({} : Turn)          -- of the felting lanes
  mem      : List Host.Cell := []         -- device DRAM by DPA, and scratchpads (R234)
  poison   : List Nat := []               -- poisoned lines and words by address (R240, R241)
  pages    : Tbl Page := []               -- page frame records by DPA / 64 KiB (R238)
  shooting : List (Nat × Nat) := []       -- shoot-downs in progress: ASID, DVA page (R277)
  tlbs     : List (Nat × Nat × Nat) := [] -- TLB entries: die, ASID, DVA page (R276)
  stale    : List (Nat × Nat) := []       -- DVA pages whose table page is being rebuilt (R274)
  faults   : List FaultRec := []
  scrubs   : Tbl Scrub := []
  banks    : Tbl Bank := []               -- 64 × die code + bank
  bankRefused : Nat := 0
  links    : Tbl Link := []               -- 0 to 3 BLINK, 4 to 7 SLINK
  txns     : List OutTxn := []
  energy   : Energy := ({} : Energy)
  conf     : Conf := ({} : Conf)
  errlog   : List LogEntry := []          -- entries still held, oldest first
  errNext  : Nat := 0                     -- HB_ERRLOG.NEXT_SEQ
  books    : Books := ({} : Books)
  mgmt     : Mgmt := ({} : Mgmt)
  now      : Nat := 0                     -- µs since PERST_N deassertion
  freeCtr  : Nat := 0                     -- draws of free values: the model's own field
  out      : List Output := []            -- messages sent, oldest first: the model's own field
  pending  : List Instr := []             -- commands waiting, first in first out
  deriving DecidableEq, Repr

/-- The state right after a power-on reset (R45, R52, R208): PWR_GOOD_IN high, PERST_N still asserted, the
management controller started, every register at its reset value, memory zero, no command waiting. Fuses are
blank, a choice of the model (log entry 7). -/
def State.reset : State :=
  { pins := { pwrGood := true },
    boot := { lastReset := 1 },
    fns := [(0, { pci := { enabled := true } })],
    mgmt := { alive := true } }

end Sys2Proof.Machine
end

