-- ==== Sys2Proof/Machine/Tables.lean ====
section
/-! DEFINITION. The plain operations the meanings share: sparse tables, little-endian bytes, bit fields, and
memory as a canonical list of cells. -/

namespace Sys2Proof.Machine

open Sys2Proof

/-! ### Sparse tables -/

/-- The value listed for a key, if any. -/
def tfind {α : Type} : Tbl α → Nat → Option α
  | [], _ => none
  | (k, v) :: rest, key => if k = key then some v else tfind rest key

/-- The value of a key, or the default. -/
def tget {α : Type} (d : α) (t : Tbl α) (key : Nat) : α := (tfind t key).getD d

/-- The table with a key set, in rising key order. -/
def tput {α : Type} : Tbl α → Nat → α → Tbl α
  | [], key, v => [(key, v)]
  | (k, w) :: rest, key, v =>
    if key < k then (key, v) :: (k, w) :: rest
    else if key = k then (key, v) :: rest
    else (k, w) :: tput rest key v

/-- The table with a key removed. -/
def tdel {α : Type} (t : Tbl α) (key : Nat) : Tbl α := t.filter (fun kv => kv.1 != key)

/-- The table with the value of a key changed, an absent key counting as the default. -/
def tmod {α : Type} (d : α) (t : Tbl α) (key : Nat) (g : α → α) : Tbl α := tput t key (g (tget d t key))

/-- The table with every listed value changed. -/
def tmap {α : Type} (t : Tbl α) (g : Nat → α → α) : Tbl α := t.map (fun kv => (kv.1, g kv.1 kv.2))

/-- Whether a key is listed. -/
def thas {α : Type} (t : Tbl α) (key : Nat) : Bool := (tfind t key).isSome

/-! ### Bytes and bit fields (R6) -/

/-- The low `n` bytes of a number, byte 0 first. -/
def le : Nat → Nat → List Byte
  | 0, _ => []
  | n + 1, v => BitVec.ofNat 8 v :: le n (v / 256)

/-- The number that little-endian bytes spell. -/
def fromLe : List Byte → Nat
  | [] => 0
  | b :: rest => b.toNat + 256 * fromLe rest

/-- Byte `i` of a byte string, 0 past its end. -/
def byteAt (b : List Byte) (i : Nat) : Nat := (b.getD i 0).toNat

/-- The `n`-byte little-endian field at offset `i`, bytes past the end reading 0. -/
def field (b : List Byte) (i n : Nat) : Nat := fromLe (((b.drop i).take n))

/-- Whether the bytes at `i`, `n` of them, are all 0. -/
def zeroAt (b : List Byte) (i n : Nat) : Bool := ((b.drop i).take n).all (· == 0)

/-- Offset of the first nonzero byte of the `n` bytes at `i`, if there is one. -/
def firstNonzero (b : List Byte) : Nat → Nat → Option Nat
  | _, 0 => none
  | i, n + 1 => if byteAt b i ≠ 0 then some i else firstNonzero b (i + 1) n

/-- A byte string cut or padded with zeros to a length. -/
def padTo (n : Nat) (b : List Byte) : List Byte := b.take n ++ List.replicate (n - b.length) 0

/-- A byte string with the bytes at an offset replaced. -/
def splice (b : List Byte) (off : Nat) (new : List Byte) : List Byte :=
  padTo off b ++ new ++ b.drop (off + new.length)

/-- Bits [hi:lo] of a number. -/
def bits (v hi lo : Nat) : Nat := v / 2 ^ lo % 2 ^ (hi - lo + 1)

/-- Bit `i` of a number. -/
def bit (v i : Nat) : Bool := v / 2 ^ i % 2 = 1

/-- A flag as a number. -/
def b2n (b : Bool) : Nat := if b then 1 else 0

/-- A 32-bit index difference (R135). -/
def sub32 (a b : Nat) : Nat := (a + 2 ^ 32 - b % 2 ^ 32) % 2 ^ 32

/-- Bits set in the low `n` bits of a number. -/
def popcount : Nat → Nat → Nat
  | 0, _ => 0
  | n + 1, v => v % 2 + popcount n (v / 2)

/-- Indexes of the set bits among the low `n` bits, rising. -/
def bitList (n v : Nat) : List Nat := (List.range n).filter (fun i => bit v i)

/-- Replaces bit `i` of a bit vector. -/
def setBit {w : Nat} (v : BitVec w) (i : Nat) (b : Bool) : BitVec w :=
  if b then v ||| (BitVec.ofNat w (2 ^ i)) else v &&& ~~~ (BitVec.ofNat w (2 ^ i))

/-- A 64-bit counter that counts up without wrapping (R115). -/
def sat64 (a n : Nat) : Nat := min max64 (a + n)

/-- Ceiling division. -/
def cdiv (a b : Nat) : Nat := if b = 0 ∨ a % b = 0 then a / b else a / b + 1

/-- A list without a value. -/
def remove [DecidableEq α] (l : List α) (x : α) : List α := l.filter (fun y => decide (y ≠ x))

/-- A list with a value added if it is not there. -/
def insertNew [DecidableEq α] (l : List α) (x : α) : List α := if x ∈ l then l else l ++ [x]

/-! ### Memory -/

/-- The byte an address reads as: the listed byte, or zero, since every byte of DRAM and SRAM is zeroed with
valid ECC at start-up (R56, R243). -/
def cellRead : List Host.Cell → Nat → Byte
  | [], _ => 0
  | (a, b) :: rest, addr => if a = addr then b else cellRead rest addr

/-- A byte written, in rising address order, an entry equal to zero being removed. -/
def cellWrite : List Host.Cell → Nat → Byte → List Host.Cell
  | [], addr, v => if v = 0 then [] else [(addr, v)]
  | (a, b) :: rest, addr, v =>
    if addr < a then (if v = 0 then (a, b) :: rest else (addr, v) :: (a, b) :: rest)
    else if addr = a then (if v = 0 then rest else (addr, v) :: rest)
    else (a, b) :: cellWrite rest addr v

/-- The memory's canonical form: addresses strictly rising, no entry that reads as an unlisted address. -/
def Memory.wf : List Host.Cell → Bool
  | [] => true
  | [(_, b)] => b != 0
  | (a, b) :: (a', b') :: rest => b != 0 && decide (a < a') && Memory.wf ((a', b') :: rest)

/-- Bytes read from rising addresses. -/
def cellsRead (m : List Host.Cell) (addr : Nat) : Nat → List Byte
  | 0 => []
  | n + 1 => cellRead m addr :: cellsRead m (addr + 1) n

/-- Bytes written at rising addresses. -/
def cellsWrite (m : List Host.Cell) (addr : Nat) : List Byte → List Host.Cell
  | [] => m
  | b :: rest => cellsWrite (cellWrite m addr b) (addr + 1) rest

/-- Zeroes every byte of a range: listed entries in it are removed. -/
def cellsZero (m : List Host.Cell) (addr len : Nat) : List Host.Cell :=
  m.filter (fun c => c.1 < addr || addr + len ≤ c.1)

end Sys2Proof.Machine
end

