-- ==== Sys2Proof/Machine/Ops.lean ====
section
/-! DEFINITION. The named operations over the state that the meanings share: one accessor per part, records,
events, interrupts, AER, logs, tags, host and device memory, page pools and the inert state of a reset. -/

namespace Sys2Proof.Machine

open Sys2Proof

/-- The answer of a command whose rule gives it an effect in every state: `t`. After a thermal trip no clock of a die
runs and nothing takes the command (R47). -/
def done (s t : State) : Host.Outcome State Fault Refusal := .next (if s.pins.thermtrip then s else t)

/-- The answer of an event: its effect `t` where the rule says it can occur and a clock runs, a refusal by name
elsewhere. -/
def occurs (s : State) (can : Bool) (what : String) (t : State) : Host.Outcome State Fault Refusal :=
  if can && !s.pins.thermtrip then .next t else .refused (.cannotOccur what)

/-- The same for an event of a pin or of the management controller, which a thermal trip does not stop (R47). -/
def occursAlways (can : Bool) (what : String) (t : State) : Host.Outcome State Fault Refusal :=
  if can then .next t else .refused (.cannotOccur what)

/-! ### Accessors -/

/-- A function's state. -/
def fnOf (s : State) (f : Nat) : Fn := tget ({} : Fn) s.fns f
/-- The state with a function changed. -/
def updFn (s : State) (f : Nat) (g : Fn → Fn) : State := { s with fns := tmod ({} : Fn) s.fns f g }
/-- A Crest die's record. -/
def dieOf (s : State) (d : Nat) : Die := tget ({} : Die) s.dies d
/-- The state with a die's record changed. -/
def updDie (s : State) (d : Nat) (g : Die → Die) : State := { s with dies := tmod ({} : Die) s.dies d g }
/-- A link. -/
def linkOf (s : State) (l : Nat) : Link := tget ({} : Link) s.links l
/-- The state with a link changed. -/
def updLink (s : State) (l : Nat) (g : Link → Link) : State := { s with links := tmod ({} : Link) s.links l g }
/-- A die code's thermal record. -/
def thermOf (s : State) (d : Nat) : Thermal := tget ({} : Thermal) s.thermal d
/-- The state with a thermal record changed. -/
def updTherm (s : State) (d : Nat) (g : Thermal → Thermal) : State :=
  { s with thermal := tmod ({} : Thermal) s.thermal d g }
/-- An energy domain: 0 to 3 CREST_n, 4 Harbour. -/
def domOf (s : State) (d : Nat) : Domain := tget ({} : Domain) s.energy.doms d
/-- The state with a domain changed. -/
def updDom (s : State) (d : Nat) (g : Domain → Domain) : State :=
  { s with energy := { s.energy with doms := tmod ({} : Domain) s.energy.doms d g } }
/-- A ledger entry. -/
def entOf (s : State) (i : Nat) : Entry := tget ({} : Entry) s.ledger i
/-- The state with a ledger entry changed. -/
def updEnt (s : State) (i : Nat) (g : Entry → Entry) : State := { s with ledger := tmod ({} : Entry) s.ledger i g }
/-- The second part of a ledger entry. -/
def entXOf (s : State) (i : Nat) : EntryX := tget ({} : EntryX) s.ledgerX i
/-- The state with the second part of a ledger entry changed. -/
def updEntX (s : State) (i : Nat) (g : EntryX → EntryX) : State :=
  { s with ledgerX := tmod ({} : EntryX) s.ledgerX i g }
/-- A ring of a function. -/
def ringOf (s : State) (f r : Nat) : Ring := tget ({} : Ring) (fnOf s f).rings r
/-- The state with a ring changed. -/
def updRing (s : State) (f r : Nat) (g : Ring → Ring) : State :=
  updFn s f (fun x => { x with rings := tmod ({} : Ring) x.rings r g })
/-- A stream of a function, if it is open. -/
def streamOf (s : State) (f i : Nat) : Option Stream := tfind (fnOf s f).streams i
/-- The state with an open stream changed. -/
def updStream (s : State) (f i : Nat) (g : Stream → Stream) : State :=
  updFn s f (fun x => { x with streams := x.streams.map (fun kv => if kv.1 = i then (kv.1, g kv.2) else kv) })
/-- The state with a function's PCIe state changed. -/
def updPci (s : State) (f : Nat) (g : Pci → Pci) : State := updFn s f (fun x => { x with pci := g x.pci })
/-- A scrubber's default period by its index (R232). -/
def scrubDefault (c : Nat) : Scrub :=
  { period := if c < 4 then 43200 else if c < 20 then 86400 else 3600 }
/-- A scrubber. -/
def scrubOf (s : State) (c : Nat) : Scrub := tget (scrubDefault c) s.scrubs c
/-- The state with a scrubber changed. -/
def updScrub (s : State) (c : Nat) (g : Scrub → Scrub) : State :=
  { s with scrubs := tmod (scrubDefault c) s.scrubs c g }
/-- A scratchpad bank of a die code. -/
def bankOf (s : State) (d b : Nat) : Bank := tget ({} : Bank) s.banks (64 * d + b)
/-- The state with a bank changed. -/
def updBank (s : State) (d b : Nat) (g : Bank → Bank) : State :=
  { s with banks := tmod ({} : Bank) s.banks (64 * d + b) g }
/-- Banks of a die code (R234). -/
def bankCount (d : Nat) : Nat := if d < 4 then 64 else 16
/-- A page frame record. -/
def pageOf (s : State) (p : Nat) : Page := tget ({} : Page) s.pages p
/-- The state with a page frame record changed. -/
def updPage (s : State) (p : Nat) (g : Page → Page) : State := { s with pages := tmod ({} : Page) s.pages p g }

/-- The state with the bytes of its memory replaced: every write of memory goes through here. -/
def putMem (s : State) (m : List Host.Cell) : State := { s with mem := m }

/-- The state with a message sent. -/
def emit (s : State) (o : Output) : State := { s with out := s.out ++ [o] }
/-- The state with the draw counter of free values advanced. -/
def drawn (s : State) : State := { s with freeCtr := s.freeCtr + 1 }
/-- A timestamp: SCLK ticks of 4 ns (R142, R152). -/
def ticks (s : State) : Nat := 250 * s.now

/-- READY: stage 0x0B (R71, R73), and 0 from a thermal trip on (R75). -/
def isReady (s : State) : Bool := s.boot.stage == 0x0B && !s.pins.thermtrip
/-- A device-fatal condition holds: stage 0xFF. -/
def isFatal (s : State) : Bool := s.boot.stage == 0xFF
/-- Fewer than four usable Crest dies (R71). -/
def isDegraded (s : State) : Bool := popcount 4 s.boot.dieUsable.toNat < 4
/-- DEGRADED as FN_STATUS and DEVICE_INFO show it: 0 until the roll call has told which dies there are (R72, R175). -/
def degradedShown (s : State) : Bool := isDegraded s && s.boot.identDone
/-- The die serves work: USABLE (R20). -/
def dieUsable (s : State) (d : Nat) : Bool := (dieOf s d).state == .usable
/-- The function may issue requests to the host: BME set, in D0, and no device-fatal condition (R98, R110,
R628). -/
def busOn (s : State) (f : Nat) : Bool := (fnOf s f).pci.bme && !(fnOf s f).pci.d3hot && !isFatal s

/-! ### Counters of the CNT_ block, by their offsets (R115, R163, R216) -/

/-- A counter of a function. -/
def cntOf (s : State) (f off : Nat) : Nat := tget 0 (fnOf s f).counters off
/-- A counter advanced, without wrapping. -/
def cnt (s : State) (f off n : Nat) : State :=
  updFn s f (fun x => { x with counters := tmod 0 x.counters off (fun v => sat64 v n) })

/-! ### Boot log and error log -/

/-- The text of a boot-log entry (R202; log entry 4). -/
def entryText (e : BootEntry) : List Byte := Config.bootLogText e.ms e.kind e.arg

/-- An entry added to the boot log with its time in ms from PERST_N deassertion (R68); UART_TX sends its text (R69). -/
def bootLog (s : State) (kind arg : Nat) : State :=
  let e : BootEntry := { ms := s.now / 1000, kind := kind, arg := arg }
  emit { s with boot := { s.boot with log := s.boot.log ++ [e] } } (.uart (entryText e))

/-- Kinds of boot-log entry. -/
def logStage : Nat := 1
def logIdentity : Nat := 2
def logStrapReserved : Nat := 3
def logPageRetired : Nat := 4
def logTest : Nat := 5
def logFwFallback : Nat := 6
def logAvsNoAck : Nat := 7
def logFatal : Nat := 8

/-- A change of STAGE, logged (R68). -/
def setStage (s : State) (n : Nat) : State :=
  bootLog { s with boot := { s.boot with stage := n } } logStage n

/-- An entry added to the error log (R623, R625): the newest 1,048,576 are held. -/
def logErr (s : State) (e : LogEntry) : State :=
  let all := s.errlog ++ [{ e with seq := s.errNext, ts := ticks s }]
  { s with errlog := if all.length > 1048576 then all.drop (all.length - 1048576) else all,
           errNext := s.errNext + 1 }

/-- The entry of code CORRECTED that a further occurrence of the same word merges into: within 1 s of the
first and below COUNT 255 (R624). -/
def mergeable (s : State) (addr : Nat) (e : LogEntry) : Bool :=
  e.code == 1 && e.addr == addr && e.count < 255 && ticks s - e.ts ≤ 250000000

/-- A CORRECTED entry, merged where R624 says. -/
def logCorrected (s : State) (e : LogEntry) : State :=
  if s.errlog.any (mergeable s e.addr) then
    { s with errlog := s.errlog.map (fun x => if mergeable s e.addr x then { x with count := x.count + 1 } else x) }
  else logErr s e

/-- The 48 bytes of an error-log entry (R625). -/
def logBytes (e : LogEntry) : List Byte :=
  le 4 e.seq ++ le 1 e.cls ++ le 1 e.die ++ le 1 e.fn ++ le 1 e.count ++ le 2 e.code ++ le 2 e.status ++
    le 4 e.ledger ++ le 8 e.addr ++ le 8 e.ts ++ padTo 16 e.detail

/-! ### AER (R96) -/

/-- Errors that R96 classes as correctable. -/
def aerCorrectable : AerErr → Bool
  | .receiverError | .badTlp | .badDllp | .replayTimer | .replayRollover | .correctableInternal => true
  | _ => false

/-- An error reported through AER in a function: its status bit is set, and the header and TLP prefixes
of the first uncorrectable error are logged, and an error message of its severity goes out. The header's and the prefixes'
content is a free value (log entry 3). -/
def aer (s : State) (f : Nat) (e : AerErr) : State :=
  let first := !aerCorrectable e && (fnOf s f).pci.aer.all aerCorrectable
  let s' := updPci s f (fun p => { p with
    aer := insertNew p.aer e,
    aerHeader := if first then Config.freeHeader s.freeCtr else p.aerHeader,
    aerPrefix := if first then Config.freeHeader (s.freeCtr + 1) else p.aerPrefix })
  emit (drawn (drawn s')) (.errMessage f
    (if aerCorrectable e then 0 else if (fnOf s f).pci.severity.contains e then 2 else 1))

/-- Whether BAR accesses of a function get an answer: memory space enabled (for a VF by VF MSE), and not in
D3hot (R79, R110). -/
def barOn (s : State) (f : Nat) : Bool :=
  let p := (fnOf s f).pci
  p.enabled && (if f = 0 then p.mse else s.vfMse) && !p.d3hot

/-- A Configuration Request reaches a function: it is enabled and configuration space answers (R69, R80). -/
def configOn (s : State) (f : Nat) : Bool := s.boot.cfgReady && (fnOf s f).pci.enabled

/-- A request that a function refuses: its AER shows Unsupported Request (R96). A function that is not there sees nothing. -/
def refuseAccess (s : State) (f : Nat) : State :=
  if (fnOf s f).pci.enabled then aer s f .unsupportedRequest else s

/-! ### Page pools (R236) -/

/-- A page pool: the first page frame and the capacity of tier H of a die (0 to 3) or tier C (4). -/
def poolBase (p : Nat) : Nat := if p < 4 then 0x90000 * p + 0x4000 else 0x1010000
/-- Capacity of a pool in pages. -/
def poolSize (p : Nat) : Nat := if p < 4 then 573440 else 12517376
/-- The pool a page frame belongs to: firmware areas belong to none. -/
def poolOf (page : Nat) : Option Nat :=
  (List.range 5).find? (fun p => poolBase p ≤ page && page < poolBase p + poolSize p)
/-- The first page and the number of pages of a firmware area: of a Crest die, or of tier C, by die code. -/
def areaFirst (d : Nat) : Nat := if d < 4 then 0x90000 * d else 0x1000000
def areaPages (d : Nat) : Nat := if d < 4 then 0x4000 else 0x10000
/-- The die code of a page frame. -/
def pageDie (page : Nat) : Nat := if page < 0x1000000 then page / 0x90000 else 4
/-- The tier of a page frame: 0 H, 1 C. -/
def pageTier (page : Nat) : Nat := if page < 0x1000000 then 0 else 1
/-- Pages of a pool in a state. -/
def poolCount (s : State) (p : Nat) (st : PageState) : Nat :=
  (s.pages.filter (fun kv => poolOf kv.1 = some p && kv.2.state == st)).length
/-- The page of a firmware area that firmware gives something, by what `pick` says: one that is not retired (R236). `n`
counts the retired pages passed over, `fuel` bounds them. -/
def findFrame (s : State) (d : Nat) (pick : Nat → Nat) : Nat → Nat → Nat
  | 0, n => areaFirst d + pick n % areaPages d
  | fuel + 1, n =>
    let p := areaFirst d + pick n % areaPages d
    if (pageOf s p).state == .retired then findFrame s d pick fuel (n + 1) else p
/-- Free pages of a pool. -/
def freePages (s : State) (p : Nat) : Nat :=
  poolSize p - (s.pages.filter (fun kv => poolOf kv.1 = some p && kv.2.state != .free)).length
/-- The scrubber that a page's retirement counts on, by the line that caused it (R695). -/
def retireScrub (line : Nat) : Nat :=
  if line < 0x010000000000 then line / 0x000900000000 else 4 + (line - 0x010000000000) / 4096 % 16

/-- The 64-byte line of a DRAM address, the 8-byte word of an SRAM address: the unit of its code (R240). -/
def eccUnit (addr : Nat) : Nat := if addr < 0x080000000000 then 64 else 8
/-- The first byte of the ECC word that holds an address. -/
def eccWord (addr : Nat) : Nat := addr - addr % eccUnit addr
/-- Whether the ECC word of an address is poisoned. -/
def isPoisoned (s : State) (addr : Nat) : Bool := s.poison.contains (eccWord addr)
/-- The state with a word poisoned (R241). -/
def setPoison (s : State) (addr : Nat) : State := { s with poison := insertNew s.poison (eccWord addr) }
/-- The state with a word's poison cleared (R244, R260). -/
def clearPoison (s : State) (addr : Nat) : State := { s with poison := remove s.poison (eccWord addr) }

/-- Whether a DPA is populated (R234). -/
def populated (addr : Nat) : Bool :=
  addr < 0x002400000000 || (0x010000000000 ≤ addr && addr < 0x01C000000000) ||
  (List.range 4).any (fun n => 0x080000000000 + n * 0x001000000000 ≤ addr &&
      addr < 0x080000000000 + n * 0x001000000000 + 0x800000) ||
  (0x084000000000 ≤ addr && addr < 0x084000000000 + 0x200000)

/-- The first byte of a bank (R234). -/
def bankBase (d b : Nat) : Nat :=
  (if d < 4 then 0x080000000000 + d * 0x001000000000 else 0x084000000000) + 0x20000 * b

/-! ### Where an address lies (R232 to R236, R259) -/

/-- Names of SRAM words outside the device address space start here (log entry 28): region and instance follow. -/
def sramBase : Nat := 2 ^ 60
/-- Regions: 1 request ledger, 2 ownership ledger, 3 core local SRAM, 4 control processors, 5 sentinel, 6 vocabulary
SRAM, 7 constraint-engine state cache (R259, R636). -/
def sramRegion (addr : Nat) : Nat := if sramBase ≤ addr then (addr - sramBase) / 2 ^ 52 else 0
/-- The instance of a region: a ledger index, a die, a handle. -/
def sramInst (addr : Nat) : Nat := addr % 2 ^ 52 / 8

/-- The address is one the VX3 holds a word at. -/
def known (addr : Nat) : Bool := populated addr || decide (sramBase ≤ addr)

/-- Whether an address is DRAM. -/
def isDram (addr : Nat) : Bool := decide (addr < 0x080000000000)

/-- The die code that holds an address. -/
def addrDie (addr : Nat) : Nat :=
  if addr < 0x010000000000 then addr / 0x000900000000
  else if addr < 0x080000000000 then 4
  else if addr < 0x084000000000 then (addr - 0x080000000000) / 0x001000000000
  else if sramRegion addr = 3 then sramInst addr % 4
  else 4

/-- The scrubber of an address (R232, R235). -/
def addrScrub (addr : Nat) : Nat := if isDram addr then retireScrub addr else 20 + addrDie addr

/-- The word index of an SRAM word within its die's SRAM, as far as it is a scratchpad's, and the DPA of a DRAM line. -/
def logAddr (addr : Nat) : Nat :=
  if isDram addr then addr
  else if addr < 0x084000000000 then (addr % 0x001000000000) / 8
  else if addr < sramBase then (addr - 0x084000000000) / 8
  else addr

/-- An access to the memory of a Crest die that does not serve ends with an error response and touches nothing
(R237). -/
def answers (s : State) (addr : Nat) : Bool :=
  addrDie addr = 4 || !(isDram addr) || !((dieOf s (addrDie addr)).state == .lost ||
    (dieOf s (addrDie addr)).state == .excluded || (dieOf s (addrDie addr)).state == .absent)

/-- The page of a DRAM address. -/
def pageAt (addr : Nat) : Nat := addr / 65536

/-- CLASS of R264. -/
def classCode (s : State) (addr : Nat) : Nat :=
  if !isDram addr then 9
  else if (poolOf (pageAt addr)).isNone then 3
  else
    let p := pageOf s (pageAt addr)
    match p.state with
    | .free | .quarantined => 0
    | _ =>
      match p.cls with
      | .free => 0 | .weights => 1 | .replica => 2 | .pageTable => 3 | .tidepoolKv => 4 | .liveKv => 5
      | .history => 6 | .image => 7 | .tenant => 8 | .weightsNoReplica => 10

/-- The DETAIL bytes of CORRECTED, POISONED and OVERWRITTEN entries (R626). -/
def eccDetail (s : State) (addr source : Nat) : List Byte := le 1 (addrScrub addr) ++ le 1 (classCode s addr) ++ le 1 source

/-- An error-log entry about an ECC word. -/
def eccEntry (s : State) (addr code cls source : Nat) : LogEntry :=
  { seq := 0, code := code, cls := cls, die := addrDie addr, addr := logAddr addr, detail := eccDetail s addr source }

/-! ### ECC words: reads and writes (R235, R240 to R248) -/

/-- The pseudo channel of its stack that holds a tier H line (R235). -/
def pseudoChannel (addr : Nat) : Nat := addr / 2048 % 32

/-- A corrected word is written back: counted on its controller and, for DRAM, on its page; logged (R242). -/
def correctWord (s : State) (addr source : Nat) : State :=
  let s1 := updScrub s (addrScrub addr) (fun x => { x with ce := sat64 x.ce 1 })
  let s2 := if isDram addr then updPage s1 (pageAt addr) (fun p => { p with
      ce := p.ce + 1, ceLine := if p.ce + 1 = 16 then eccWord addr else p.ceLine }) else s1
  logCorrected s2 (eccEntry s addr 1 1 source)

/-- An uncorrectable word is rewritten as poison and counted, and its page is marked retire-on-release (R241, R242,
R255). -/
def poisonWord (s : State) (addr : Nat) : State :=
  let s1 := updScrub (setPoison s addr) (addrScrub addr) (fun x => { x with ue := sat64 x.ue 1 })
  if isDram addr then updPage s1 (pageAt addr) (fun p => { p with
    retireOnRelease := true, retireLine := if p.retireLine = 0 then eccWord addr else p.retireLine })
  else s1

/-- What a read finds (R240): the word after it, and whether its data are marked poisoned. `source` is 0 for the patrol
and 1 for a demand read. -/
def checkWord (s : State) (addr source : Nat) (ecc : EccSeen) : State × Bool :=
  if isPoisoned s addr then (s, true)
  else match ecc with
    | .clean => (s, false)
    | .corrected => (correctWord s addr source, false)
    | .uncorrectable => (logErr (poisonWord s addr) (eccEntry s addr 2 2 source), true)

/-- What the check of a word finds, among what it finds of an access's words: clean where nothing is said. -/
def seenAt (l : Seen) (w : Nat) : EccSeen := tget EccSeen.clean l w

/-- A full write that clears a word's poison, logged as OVERWRITTEN (R244). -/
def overwrite (s : State) (addr : Nat) : State :=
  if isPoisoned s addr then logErr (clearPoison s addr) (eccEntry s addr 3 1 3) else s

/-- The part of a write in one ECC word: a full write is stored whatever the word held, a partial one is merged or refused
by what its read finds; with whether it is refused (R237, R244, R245). -/
def storeWord (s : State) (addr : Nat) (data : List Byte) (ecc : EccSeen) : State × Bool :=
  let stored := putMem s (cellsWrite s.mem addr data)
  if !answers s addr then (s, false)
  else if data.length = eccUnit addr then (overwrite stored addr, false)
  else if isPoisoned s addr then (logErr s (eccEntry s addr 2 2 2), true)
  else match ecc with
    | .clean => (stored, false)
    | .corrected => (correctWord stored addr 1, false)
    | .uncorrectable => (logErr (poisonWord s addr) (eccEntry s addr 2 2 2), true)

/-- The pieces of an access by ECC word: the address and the bytes of each; `fuel` bounds them. -/
def wordPieces : Nat → Nat → List Byte → List (Nat × List Byte)
  | 0, _, _ => []
  | fuel + 1, addr, b =>
    match b with
    | [] => []
    | _ =>
      let n := eccUnit addr - addr % eccUnit addr
      (addr, b.take n) :: wordPieces fuel (addr + n) (b.drop n)

/-- A write at a device address, its words handled one by one: with the words that refuse their part (R245, R247, R312). -/
def storeAt (s : State) (addr : Nat) (b : List Byte) (seen : Seen) : State × List Nat :=
  (wordPieces b.length addr b).foldl (fun a p =>
    let r := storeWord a.1 p.1 p.2 (seenAt seen (eccWord p.1))
    (r.1, if r.2 then a.2 ++ [eccWord p.1] else a.2)) (s, [])

/-- The ECC words of `n` bytes at a device address, in order. -/
def wordsAt (addr n : Nat) : List Nat :=
  let u := eccUnit addr
  if n = 0 then [] else (List.range ((addr + n - 1) / u - addr / u + 1)).map (fun k => u * (addr / u + k))

/-- Words read one after the other: with those whose data are marked poisoned. -/
def readWords (s : State) (seen : Seen) (ws : List Nat) : State × List Nat :=
  ws.foldl (fun a w =>
    let r := checkWord a.1 w 1 (seenAt seen w)
    (r.1, if r.2 then a.2 ++ [w] else a.2)) (s, [])

/-! ### Device virtual addresses (R265, R269, R272) -/

/-- A leaf of the page tables as an access sees it (R272). -/
inductive Leaf where
  | unmapped
  | absentReserved (tier home : Nat)
  | mapped (tier dpa : Nat) (w : Bool)
  | pooled (home dpa : Nat)
  | host (pasid iova : Nat) (w : Bool)
  deriving DecidableEq, Repr

/-- An object whose command has not reached its commit point: nothing names it yet (R124). -/
def hidden (s : State) (h : Nat) : Bool := s.uncommitted.any (fun u => u.1 = h)

/-- The tenant region of an ASID that holds a DVA, with its handle. -/
def regionAt (s : State) (asid dva : Nat) : Option (Nat × Region) :=
  s.regions.find? (fun kv => !hidden s kv.1 && kv.2.asid = asid && kv.2.dva ≤ dva && dva < kv.2.dva + kv.2.size)

/-- The firmware window of a tenant ASID starts here (R266). -/
def firmwareWindow : Nat := 0xFC0000000000

/-- The leaf of a DVA in a tenant region; the firmware window is not reachable by a tenant's address (R266). -/
def leafOf (s : State) (asid dva : Nat) : Leaf :=
  match regionAt s asid dva with
  | none => .unmapped
  | some (_, r) =>
    if r.tier = 2 then .host r.pasid (r.iova + (dva - r.dva)) r.writable
    else
      match r.pages[(dva - r.dva) / 65536]? with
      | none => .unmapped
      | some p => .mapped r.tier (65536 * p + dva % 65536) r.writable

/-- The ASID of a function (R265). -/
def asidOf (f : Nat) : Nat := f + 1

/-- Bytes that the device reads at a DVA of an ASID, up to the first byte that is not mapped to tier H or C. -/
def devRead (s : State) (asid dva : Nat) : Nat → List Byte
  | 0 => []
  | n + 1 =>
    match leafOf s asid dva with
    | .mapped _ dpa _ => cellRead s.mem dpa :: devRead s asid (dva + 1) n
    | _ => []

/-- Whether a range lies in regions that meet a condition, one behind the other; `fuel` bounds them. -/
def spanIn (s : State) (asid : Nat) (p : Region → Bool) : Nat → Nat → Nat → Bool
  | 0, _, _ => false
  | fuel + 1, dva, len =>
    match regionAt s asid dva with
    | some (_, r) => p r && (decide (dva + len ≤ r.dva + r.size) ||
        spanIn s asid p fuel (r.dva + r.size) (dva + len - (r.dva + r.size)))
    | none => false

/-- Whether every byte of a range of an ASID lies in tier X. -/
def inTierX (s : State) (asid dva len : Nat) : Bool := spanIn s asid (fun r => r.tier = 2) (s.regions.length + 1) dva len

/-- A translated request: ATS is enabled in the function (R77). -/
def atsOn (s : State) (f : Nat) : Bool := (fnOf s f).pci.atsEn

/-- Bytes that one write at a DVA carries: to host memory at most Max Payload Size, within a 4 KiB page; to the device's
memory what is left of the page. -/
def writeLen (s : State) (f dva n : Nat) : Nat :=
  match leafOf s (asidOf f) dva with
  | .host _ _ _ => min n (min (max 1 (fnOf s f).pci.mps) (4096 - dva % 4096))
  | _ => min n (65536 - dva % 65536)

/-- One write within a page of a function's ASID: a request to host memory for a tier X page, to the device's memory
otherwise, with the words that refuse it. Bulk data carries Relaxed Ordering where the function enables it (R78). -/
def writePiece (s : State) (f dva : Nat) (b : List Byte) (bulk ep : Bool) (seen : Seen) : State × List Nat :=
  match leafOf s (asidOf f) dva with
  | .host pasid iova _ => (emit s (.hostWrite f pasid iova b (bulk && (fnOf s f).pci.roEnable) ep (atsOn s f)), [])
  | .mapped _ dpa true => storeAt s dpa b seen
  | _ => (s, [])

/-- A data write cut into requests, each translated by its own page, with the words that refuse it; `fuel` bounds them. -/
def writePieces (f : Nat) (bulk ep : Bool) (seen : Seen) : Nat → State → Nat → List Byte → State × List Nat
  | 0, s, _, _ => (s, [])
  | fuel + 1, s, dva, b =>
    match b with
    | [] => (s, [])
    | _ =>
      let n := writeLen s f dva b.length
      let r := writePiece s f dva (b.take n) bulk ep seen
      let rest := writePieces f bulk ep seen fuel r.1 (dva + n) (b.drop n)
      (rest.1, r.2 ++ rest.2)

/-- A data write by the device at a DVA of a function's ASID (R269, R282), with the words that refuse it. -/
def storeDva (s : State) (f dva : Nat) (b : List Byte) (bulk ep : Bool) (seen : Seen) : State × List Nat :=
  writePieces f bulk ep seen b.length s dva b

/-- Such a write to host memory, which refuses nothing. -/
def writeDva (s : State) (f dva : Nat) (b : List Byte) (bulk ep : Bool) : State := (storeDva s f dva b bulk ep []).1

/-! ### Interrupts (R83, R100, R157, R158) -/

/-- A vector of a function. -/
def vecOf (s : State) (f v : Nat) : Vec := tget ({} : Vec) (fnOf s f).pci.vecs v
/-- The state with a vector changed. -/
def updVec (s : State) (f v : Nat) (g : Vec → Vec) : State :=
  updPci s f (fun p => { p with vecs := tmod ({} : Vec) p.vecs v g })

/-- A vector fires: the message goes, or its PBA bit is set while it is masked or the function may issue no
request. DESIGN CHOICE (log entry 123): a vector that fires while MSI-X Enable is 0 sets its PBA bit too, and a later set
of MSI-X Enable sends nothing by itself; R83 and R158 speak of masked vectors only. -/
def fireVector (s : State) (f v : Nat) : State :=
  let x := vecOf s f v
  if x.masked || (fnOf s f).pci.funcMask || !(fnOf s f).pci.msixEn || !busOn s f || !isReady s then
    updVec s f v (fun y => { y with pending := true })
  else emit s (.msix f v x.addr x.data)

/-- The messages of every pending vector that may now go. -/
def firePending (s : State) (f : Nat) : State :=
  (fnOf s f).pci.vecs.foldl (fun s kv =>
    if kv.2.pending && !kv.2.masked then fireVector (updVec s f kv.1 (fun y => { y with pending := false })) f kv.1
    else s) s

/-! ### Events (R151 to R156) -/

/-- The 64 bytes of an event entry (R152). -/
def eventBytes (e : Event) (phase : Bool) (seq : Nat) : List Byte :=
  le 2 e.code ++ [BitVec.ofNat 8 (if phase then 0x80 else 0)] ++ [0] ++ le 4 seq ++ le 8 e.ts ++ le 8 e.object ++
    padTo 40 e.data

/-- PHASE of an index in a ring or queue of a size (R143). -/
def phaseOf (index size : Nat) : Bool := index / size % 2 = 0

/-- The translation of a page that a ring or an event queue is to access is held, or needs none (R134). -/
def pageHeld (s : State) (f : Nat) (lost : List Nat) (dva : Nat) : Bool :=
  !atsOn s f || !lost.contains (dva / 4096 * 4096)

/-- The address of an event queue's next entry. -/
def evqNext (q : EvQ) : Nat := q.base + 64 * (q.prod % 2 ^ q.sizeLog2)

/-- One entry written to a function's open event queue. -/
def putEntry (s : State) (f : Nat) (e : Event) : State :=
  let q := (fnOf s f).evq
  let s1 := writeDva s f (evqNext q) (eventBytes e (phaseOf q.prod (2 ^ q.sizeLog2)) q.seq) false false
  updFn s1 f (fun x => { x with evq := { x.evq with prod := (q.prod + 1) % 2 ^ 32, seq := (q.seq + 1) % 2 ^ 32 } })

/-- An event reaches the queue: written while it has room, the last free entry taking EVQ_OVERFLOW (R154). -/
def putEvent (s : State) (f : Nat) (e : Event) : State :=
  let q := (fnOf s f).evq
  let used := sub32 q.prod q.cons
  let size := 2 ^ q.sizeLog2
  if used + 2 < size && !q.failed then putEntry s f e
  else
    let s1 := updFn (cnt s f 0x320 1) f (fun x => { x with evq := { x.evq with overflow := true } })
    if used + 2 = size && !q.failed then putEntry s1 f { code := 0x0002, object := e.code, ts := e.ts } else s1

/-- An event that reaches an open queue, with its message: written, or waiting in its turn while the function may issue no
request, when its vector's PBA bit is set (R100), or while the queue's page awaits its translation (R134). -/
def enqueue (s : State) (f : Nat) (e : Event) : State :=
  let x := fnOf s f
  if busOn s f && x.waiting.isEmpty && pageHeld s f x.evq.lost (evqNext x.evq) then fireVector (putEvent s f e) f x.evq.vector
  else
    let s1 := updFn s f (fun y => { y with waiting := y.waiting ++ [.event e (!busOn s f)] })
    if busOn s f then s1 else fireVector s1 f x.evq.vector

/-- An event raised for a function: held for the PF before its first FUNCTION_OPEN, where one beyond 64 is lost, counted
and shown by OVERFLOW (R155, R161), and lost when its queue is closed otherwise. TIMESTAMP is the time of this call. -/
def post (s : State) (f : Nat) (e : Event) : State :=
  let e := { e with ts := ticks s }
  if (fnOf s f).evq.opened then enqueue s f e
  else if f = 0 && !s.boot.pfOpened then
    if s.pfHeld.length < 64 then { s with pfHeld := s.pfHeld ++ [e] }
    else updFn (cnt s 0 0x320 1) 0 (fun x => { x with evq := { x.evq with overflow := true } })
  else s

/-- An event that firmware raises waits for the end of a control-processor restart (R131). DESIGN CHOICE (log entry 124): R152
does not say whether TIMESTAMP of such an event is the time it would have been raised or that of its release; `post` gives
it the time of the release. -/
def postFw (s : State) (f : Nat) (e : Event) : State :=
  if s.cp.recovery then { s with cp := { s.cp with heldEvents := s.cp.heldEvents ++ [(f, { e with ts := ticks s })] } }
  else post s f e

/-! ### Owners and POISON_FOUND (R254, R264) -/

/-- The function that owns the page or bank of an address, if a function does. -/
def ownerFn (s : State) (addr : Nat) : Option Nat :=
  if isDram addr then
    let p := pageOf s (pageAt addr)
    if (poolOf (pageAt addr)).isNone || p.owner = 0 || p.state == .free || p.state == .quarantined || p.state == .retired then none
    else some (p.owner - 1)
  else if addr < sramBase then
    let d := addrDie addr
    let b := (addr - bankBase d 0) / 0x20000
    let x := bankOf s d b
    if x.state == .owned && decide (x.owner < 16) then some x.owner else none
  else none

/-- LEDGER_INDEX of a record that names no request. -/
def noLedger : Nat := 0xFFFFFFFF

/-- Ledger index, DVA and handle that POISON_FOUND names for a page. -/
def objectOf (s : State) (addr : Nat) : Nat × Nat × Nat :=
  let p := pageOf s (pageAt addr)
  if !isDram addr then (noLedger, 0, 0)
  else match p.cls with
    | .liveKv | .tidepoolKv | .history => (p.object, 0, 0)
    | .tenant => (noLedger, p.dva + addr % 65536, p.object)
    | _ => (noLedger, 0, p.object)

/-- POISON_FOUND to the owner, when a function owns the word. -/
def poisonFound (s : State) (addr source : Nat) : State :=
  match ownerFn s addr with
  | none => s
  | some f =>
    let o := objectOf s addr
    postFw s f {
      code := 0x20, object := addr,
      data := le 1 source ++ le 1 (classCode s addr) ++ le 1 (addrDie addr) ++ le 1 0 ++ le 4 o.1 ++ le 8 o.2.1 ++ le 4 o.2.2 }

/-- What follows a refused write: POISON_FOUND with SOURCE 2 for the access, to the owner of the first word that refused it
(R246). -/
def refusedFound (s : State) : List Nat → State
  | [] => s
  | w :: _ => poisonFound s w 2

/-- A partial write of firmware's own refused: an internal error in the log (R246). -/
def firmwareRefused (s : State) (ws : List Nat) : State :=
  if ws.isEmpty then s else refusedFound (logErr s { seq := 0, code := 0x70, cls := 2, detail := le 1 1 }) ws

/-! ### Completion records (R142 to R147) -/

/-- The 64 bytes of a completion record (R142). -/
def recBytes (r : Rec) (phase : Bool) : List Byte :=
  le 1 r.kind ++ [BitVec.ofNat 8 (if phase then 0x80 else 0)] ++ le 2 r.status ++ le 1 r.srcRing ++ le 3 0 ++
    le 4 r.srcIndex ++ le 4 r.ledger ++ le 8 r.userTag.toNat ++ le 8 r.count ++ le 4 r.commLen ++ le 4 r.ttft ++
    le 8 r.energy ++ le 4 r.detail ++ le 2 r.stream ++ le 2 0 ++ le 8 r.ts

/-- What the device notes when a record is written: the ADMIT and REFUSED counters (R216), and the release of
an ended entry (R501), and a descriptor done (R611). -/
def noteRecord (s : State) (f : Nat) (r : Rec) : State :=
  if r.kind = 1 then cnt s f 0x0000 1
  else if r.kind = 2 then cnt s f 0x0008 1
  else if r.kind = 4 then updEntX s r.ledger (fun x => { x with recWritten := true })
  else if r.kind = 6 || r.kind = 7 then updRing s f r.srcRing (fun x => { x with finished := x.finished + 1 })
  else s

/-- A record that is dropped leaves nothing to wait for: a REQUEST_END (log entry 15), a descriptor's record (R611). -/
def noteDropped (s : State) (f : Nat) (r : Rec) : State :=
  if r.kind = 4 || r.kind = 6 || r.kind = 7 then noteRecord s f r else s

/-- The address of a completion ring's next record. -/
def recNext (g : Ring) : Nat := g.base + 64 * (g.prod % 2 ^ g.sizeLog2)

/-- A record written to a completion ring that has room (R143). -/
def putRecord (s : State) (f c : Nat) (r : Rec) : State :=
  let g := ringOf s f c
  let s1 := writeDva s f (recNext g) (recBytes r (phaseOf g.prod (2 ^ g.sizeLog2))) false false
  noteRecord (updRing s1 f c (fun x => { x with prod := (x.prod + 1) % 2 ^ 32, wbDue := true })) f r

/-- One more unsignalled record of a completion ring: whether it reaches the threshold, and the ring's account (R157). -/
def signalHit (s : State) (f c : Nat) : Bool := decide ((ringOf s f c).threshold ≤ (ringOf s f c).unsig + 1)
def noteUnsig (s : State) (f c : Nat) : State :=
  updRing s f c (fun x => { x with
    unsig := if signalHit s f c then 0 else x.unsig + 1,
    unsigAt := if x.unsig = 0 then s.now else x.unsigAt })

/-- A record's part in its ring's message: the vector fires when the threshold is reached (R157). -/
def signal (s : State) (f c : Nat) : State :=
  if signalHit s f c then fireVector (noteUnsig s f c) f (ringOf s f c).vector else noteUnsig s f c

/-- A record written with its message. -/
def writeRecord (s : State) (f c : Nat) (r : Rec) : State := signal (putRecord s f c r) f c

/-- Records of a completion ring that wait for the function's bus. -/
def waitingRecs (s : State) (f c : Nat) : Nat :=
  ((fnOf s f).waiting.filter (fun w => match w with
    | .record k _ _ => k = c
    | _ => false)).length

/-- Unwritten records that the Harbour die holds for a completion ring (R147). -/
def holdCount (s : State) (f c : Nat) : Nat := (ringOf s f c).held.length + waitingRecs s f c

/-- A completion ring has room for a further record behind those that wait. -/
def hasRoom (s : State) (f c : Nat) : Bool :=
  let g := ringOf s f c
  decide (sub32 g.prod g.cons + waitingRecs s f c < 2 ^ g.sizeLog2)

/-- A ring is open and has not stopped. -/
def ringWorks (g : Ring) : Bool := g.state == .running || g.state == .held

/-- STATE of a working completion ring: HELD while 256 records are held (R147). -/
def showHeld (s : State) (f c : Nat) : State :=
  if ringWorks (ringOf s f c) then
    updRing s f c (fun x => { x with state := if 256 ≤ holdCount s f c then .held else .running })
  else s

/-- The records that a completion ring holds, and those still due to it, are dropped (R138); a dropped REQUEST_END leaves
nothing to wait for. -/
def dropHeld (s : State) (f c : Nat) : State :=
  let mine := (fnOf s f).waiting.filterMap (fun w => match w with
    | .record k r _ => if k = c then some r else none
    | _ => none)
  let g := ringOf s f c
  (mine ++ g.held ++ g.due).foldl (fun s r => noteDropped s f r)
    (updFn (updRing s f c (fun x => { x with held := [], due := [] })) f (fun x => { x with
      waiting := x.waiting.filter (fun w => match w with
        | .record k _ _ => k ≠ c
        | _ => true) }))

/-- A ring stops with a cause: RING_n_STATE shows it and RING_STOPPED is posted (R138). -/
def stopRing (s : State) (f r cause : Nat) : State :=
  let s1 := updRing (dropHeld s f r) f r (fun x => { x with state := .stopped, cause := cause, fetching := false })
  post s1 f { code := 0x0003, object := r + 256 * cause }

/-- A ring's page that it writes allows the write (R272). -/
def ringWritable (s : State) (f dva : Nat) : Bool :=
  match leafOf s (asidOf f) dva with
  | .host _ _ w => w
  | _ => false

/-- A record for a working completion ring that holds fewer than 256: written, held while the ring has no space, waiting
while the function may issue no request (R100) or the page awaits its translation (R134). A page that allows no write stops
the ring (R288). -/
def takeRecord (s : State) (f c : Nat) (r : Rec) : State :=
  let g := ringOf s f c
  let x := fnOf s f
  if !hasRoom s f c || !g.held.isEmpty then showHeld (updRing s f c (fun y => { y with held := y.held ++ [r] })) f c
  else if !busOn s f || !x.waiting.isEmpty || !pageHeld s f g.lost (recNext g) then
    let s1 := showHeld (updFn s f (fun y => { y with waiting := y.waiting ++ [.record c r (!busOn s f)] })) f c
    if busOn s f then s1 else signal s1 f c
  else if !ringWritable s f (recNext g) then noteDropped (stopRing s f c 3) f r
  else writeRecord s f c r

/-- A record for a completion ring: taken, still due from a producer that a HELD ring has stopped (R147), or dropped when
the ring is closed or stopped (R138), where a dropped REQUEST_END leaves nothing to wait for (log entry 15). -/
def record (s : State) (f c : Nat) (r : Rec) : State :=
  let g := ringOf s f c
  let r := { r with ts := ticks s }
  if !ringWorks g then noteDropped s f r
  else if 256 ≤ holdCount s f c || !g.due.isEmpty then updRing s f c (fun x => { x with due := x.due ++ [r] })
  else takeRecord s f c r

/-- Held records written while the ring has room and the function may issue requests (R147): `n` bounds the records
tried. -/
def flushHeld (s : State) (f c : Nat) : Nat → State
  | 0 => s
  | n + 1 =>
    let g := ringOf s f c
    match g.held with
    | [] => s
    | r :: rest =>
      if hasRoom s f c && busOn s f && (fnOf s f).waiting.isEmpty && pageHeld s f g.lost (recNext g) && ringWorks g then
        if ringWritable s f (recNext g) then
          flushHeld (writeRecord (showHeld (updRing s f c (fun x => { x with held := rest })) f c) f c r) f c n
        else stopRing s f c 3
      else s

/-- Records still due produced while the ring takes them: `n` bounds them. -/
def drainDue (s : State) (f c : Nat) : Nat → State
  | 0 => s
  | n + 1 =>
    match (ringOf s f c).due with
    | [] => s
    | r :: rest =>
      if ringWorks (ringOf s f c) && decide (holdCount s f c < 256) then
        drainDue (takeRecord (updRing s f c (fun x => { x with due := rest })) f c { r with ts := ticks s }) f c n
      else s

/-- A completion ring goes on: what it holds is written, and its producers produce what is due. -/
def flushRing (s : State) (f c : Nat) : State :=
  let s1 := flushHeld s f c (ringOf s f c).held.length
  drainDue s1 f c (ringOf s1 f c).due.length

/-- The write-back word of a ring: the consumer index of a host-produced ring, the producer index of a
completion ring (R136). -/
def writeBack (s : State) (f r : Nat) : State :=
  let g := ringOf s f r
  let v := if g.typ = .cpl then g.prod else g.cons
  writeDva (updRing s f r (fun x => { x with wbDue := false })) f g.wb (le 4 v) false false

/-- The vector of a written item is marked pending, to go with the messages behind every write (R101). -/
def pend (s : State) (f v : Nat) : State := updVec s f v (fun y => { y with pending := true })

/-- The page that an item waiting for the bus is to be written to has its translation. -/
def itemHeld (s : State) (f : Nat) : Waiting → Bool
  | .record c _ _ => pageHeld s f (ringOf s f c).lost (recNext (ringOf s f c))
  | .event _ _ => pageHeld s f (fnOf s f).evq.lost (evqNext (fnOf s f).evq)
  | .writeback r => pageHeld s f (ringOf s f r).lost (ringOf s f r).wb

/-- One item that waited is written; its vector is marked pending where nothing has signalled it before. -/
def flushItem (s : State) (f : Nat) : Waiting → State
  | .record c r sig =>
    if !ringWorks (ringOf s f c) then noteDropped s f r
    else if !ringWritable s f (recNext (ringOf s f c)) then noteDropped (stopRing s f c 3) f r
    else
      let s1 := putRecord s f c r
      if sig then showHeld s1 f c
      else if signalHit s1 f c then pend (showHeld (noteUnsig s1 f c) f c) f (ringOf s f c).vector
      else showHeld (noteUnsig s1 f c) f c
  | .event e sig => if sig then putEvent s f e else pend (putEvent s f e) f (fnOf s f).evq.vector
  | .writeback r => writeBack s f r

/-- What waited goes out in the order produced, up to an item whose page awaits its translation (R101): `n` bounds the
items. -/
def flushItems (s : State) (f : Nat) : Nat → State
  | 0 => s
  | n + 1 =>
    match (fnOf s f).waiting with
    | [] => s
    | w :: rest =>
      if itemHeld s f w then flushItems (flushItem (updFn s f (fun x => { x with waiting := rest })) f w) f n else s

/-- What waited while BME was clear goes out in the order produced, then the messages of the pending vectors, and the
completion rings go on (R101). -/
def flushWaiting (s : State) (f : Nat) : State :=
  if !busOn s f then s
  else (fnOf s f).rings.foldl (fun s kv => flushRing s f kv.1) (firePending (flushItems s f (fnOf s f).waiting.length) f)

/-- The completion ring a ring reports to. -/
def cplOf (s : State) (f r : Nat) : Nat := (ringOf s f r).cplRing

/-! ### Tags and reads (R89 to R92) -/

/-- The completion timeout in force, in µs (R93). -/
def ctoUs (v : BitVec 4) : Nat :=
  if v = 0b0001 then 100
  else if v = 0b0010 then 10000
  else if v = 0b0110 then 200000
  else if v = 0b1001 then 800000
  else if v = 0b1010 then 3000000
  else 50000

/-- TAG_MODE in use: 0 8-bit, 1 10-bit, 2 14-bit (R89, R114). -/
def tagMode (s : State) (f : Nat) : Nat :=
  let p := (fnOf s f).pci
  if s.pcie.2.2 && p.tag14 then 2 else if p.tag10 then 1 else 0

/-- Usable tags of a function (R89). -/
def usableTags (s : State) (f : Nat) : Nat := if tagMode s f = 0 then 256 else 1024

/-- Outstanding tags of a function. -/
def outstandingTags (s : State) (f : Nat) : Nat :=
  ((fnOf s f).pci.tags.filter (fun kv => match kv.2 with | .outstanding _ _ _ _ => true | _ => false)).length
/-- Quarantined tags of a function. -/
def quarantinedTags (s : State) (f : Nat) : Nat :=
  ((fnOf s f).pci.tags.filter (fun kv => match kv.2 with | .quarantined _ => true | _ => false)).length

/-- Free tags of a function: its usable tags less those outstanding and in quarantine (R114). -/
def freeTagCount (s : State) (f : Nat) : Nat := usableTags s f - (outstandingTags s f + quarantinedTags s f)

/-- The lowest free usable tag of a function, if there is one (R91, R107, R114). -/
def freeTag (s : State) (f : Nat) : Option Nat :=
  if freeTagCount s f = 0 then none
  else (List.range (usableTags s f)).find? (fun t => !thas (fnOf s f).pci.tags t)

/-- A tag taken for a non-posted request. -/
def takeTag (s : State) (f t : Nat) (why : ReadFor) (page : Option (Nat × Nat)) : State :=
  updPci s f (fun p => { p with tags := tput p.tags t (.outstanding why (ctoUs p.cto) false page) })

/-- A read of host memory issued with a free tag; without one, or without BME, the work waits (R92, R98). Its request
carries the PASID of the leaf that translated it (R86). -/
def issueRead (s : State) (f : Nat) (why : ReadFor) (dva len : Nat) : State :=
  match leafOf s (asidOf f) dva, freeTag s f with
  | .host pasid iova _, some t =>
    if busOn s f then
      emit (takeTag s f t why (some (pasid, iova / 4096))) (.readRequest f t pasid iova len (atsOn s f))
    else s
  | _, _ => s

/-- Bytes of the read that begins at an address: up to Max Read Request Size and the 4 KiB boundary (R89). -/
def readLen (s : State) (f dva n : Nat) : Nat := min n (min (max 1 (fnOf s f).pci.mrrs) (4096 - dva % 4096))

/-- The reads of host memory that a range takes, in its order; `fuel` bounds them. -/
def readPieces (s : State) (f : Nat) : Nat → Nat → Nat → List (Nat × Nat)
  | 0, _, _ => []
  | fuel + 1, dva, n =>
    if n = 0 then []
    else
      let k := readLen s f dva n
      let rest := readPieces s f fuel (dva + k) (n - k)
      match leafOf s (asidOf f) dva with
      | .host _ _ _ => (dva, k) :: rest
      | _ => rest

/-- The reads of host memory that some ranges take. -/
def spanReads (s : State) (f : Nat) (spans : List (Nat × Nat)) : List (Nat × Nat) :=
  spans.flatMap (fun p => readPieces s f p.2 p.1 p.2)

/-- Reads issued one by one. -/
def issueReads (s : State) (f : Nat) (why : ReadFor) (l : List (Nat × Nat)) : State :=
  l.foldl (fun s p => issueRead s f why p.1 p.2) s

/-- The host pages of some reads have their translations: ATS is off, or the ATC holds them (R77, R289). -/
def readsTranslated (s : State) (f : Nat) (l : List (Nat × Nat)) : Bool :=
  !atsOn s f || l.all (fun p => match leafOf s (asidOf f) p.1 with
    | .host pasid iova _ => s.atc.contains (f, pasid, iova / 4096)
    | _ => true)

/-- What a host read that ends inside a command leaves behind (R91, R93, R96, R99): AER and the Status register as for any
read, a timeout's tag in quarantine. -/
def noteRead (s : State) (f status : Nat) : State :=
  if status = 0x11 then
    let s1 := aer (cnt s f 0x210 1) f .completionTimeout
    match freeTag s1 f with
    | some t => updPci s1 f (fun p => { p with tags := tput p.tags t (.quarantined (s.now + ctoUs p.cto)) })
    | none => s1
  else if status = 0x12 then updPci s f (fun p => { p with rcvMAbort := true })
  else if status = 0x13 then updPci s f (fun p => { p with rcvTAbort := true })
  else if status = 0x14 then aer s f .poisonedTlp
  else if status = 0x10 then cnt s f 0x208 1
  else s

/-! ### Pages taken and released (R179, R255, R261) -/

/-- The first free pages of a pool from a candidate on: lowest addresses first, since the specification leaves
the choice to firmware (log entry 8). `fuel` bounds the candidates tried. -/
def pickPages (s : State) (p : Nat) : Nat → Nat → Nat → List Nat
  | 0, _, _ => []
  | _ + 1, _, 0 => []
  | fuel + 1, cand, n + 1 =>
    if poolBase p + poolSize p ≤ cand then []
    else if (pageOf s cand).state = .free then cand :: pickPages s p fuel (cand + 1) n
    else pickPages s p fuel (cand + 1) (n + 1)

/-- `n` free pages of a pool, or none when it has fewer. -/
def findPages (s : State) (p n : Nat) : Option (List Nat) :=
  let l := pickPages s p (s.pages.length + n) (poolBase p) n
  if l.length = n then some l else none

/-- The first run of 8,192 free pages aligned to 512 MiB from a candidate on (R179). -/
def pickBlock (s : State) (p : Nat) : Nat → Nat → Option Nat
  | 0, _ => none
  | fuel + 1, cand =>
    if poolBase p + poolSize p < cand + 8192 then none
    else if s.pages.any (fun kv => cand ≤ kv.1 && kv.1 < cand + 8192 && kv.2.state != .free) then
      pickBlock s p fuel (cand + 8192)
    else some cand

/-- Pages taken for an owner: allocated, their class and object set, their correctable-error count restarted
(R238, R256), every byte reading 0 (R261). -/
def takePages (s : State) (ps : List Nat) (asid : Nat) (cls : PClass) (object : Nat) : State :=
  ps.foldl (fun s p => updPage (putMem s (cellsZero s.mem (65536 * p) 65536)) p (fun x => { x with
    state := .allocated, owner := asid, cls := cls, object := object, ce := 0 })) s

/-- Retires a page: SCRUB_c_RETIRED advances on the controller of R695 and PAGE_RETIRED is posted to the PF. -/
def retirePage (s : State) (p reason line : Nat) : State :=
  let c := retireScrub line
  let s1 := updPage s p (fun x => { x with state := .retired, cls := .free, object := 0, owner := 0, dest := none })
  let s2 := updScrub s1 c (fun x => { x with retired := x.retired + 1 })
  let s3 := logErr s2 { seq := 0, code := 5, cls := 2, die := pageDie p, addr := 65536 * p, detail := le 1 reason }
  postFw s3 0 {
    code := 0x0021, object := 65536 * p,
    data := le 1 reason ++ le 1 (pageTier p) ++ le 1 (pageDie p) ++ le 1 0 ++ le 4 (scrubOf s2 c).retired }

/-- Pages released: to quarantine for zeroing, or retired when marked so (R255, R261); the page that a migration copies
to goes with its source. -/
def releasePages (s : State) (ps : List Nat) : State :=
  ps.foldl (fun s p =>
    let x := pageOf s p
    let gone := fun (y : Page) => { y with state := .quarantined, cls := .free, object := 0, owner := 0, dest := none }
    let s := match x.dest with
      | some q => updPage s q gone
      | none => s
    if x.state = .free ∨ x.state = .quarantined ∨ x.state = .retired then s
    else if x.retireOnRelease then retirePage s p 2 (if x.retireLine = 0 then 65536 * p else x.retireLine)
    else updPage s p gone) s

/-! ### Handles (R168) -/

/-- A type's serials of a function are not used up: 24 bits, 0 never used (R168). -/
def serialLeft (s : State) (typ f : Nat) : Bool := decide (tget 1 s.serials (16 * typ + f) < 2 ^ 24)

/-- The next handle of a type for a function, and the state that has issued it. -/
def newHandle (s : State) (typ f : Nat) : Nat × State :=
  let n := tget 1 s.serials (16 * typ + f)
  (typ * 2 ^ 28 + f * 2 ^ 24 + n, { s with serials := tput s.serials (16 * typ + f) (n + 1) })

/-- An object of a table that a handle names: one whose command has reached its commit point (R124). -/
def findObj {α : Type} (s : State) (t : Tbl α) (h : Nat) : Option α := if hidden s h then none else tfind t h

/-- Whether an object of an owner is usable by a function: its own, or shared by the PF (R168, R169). -/
def usableBy (owner : Nat) (shared : Bool) (f : Nat) : Bool := owner = f || shared

/-! ### Device-fatal conditions (R628, R64) -/

/-- Device health of the state sensor: 1 NORMAL, 2 DEGRADED, 3 FATAL (R622, R655, R656). -/
def health (s : State) : Nat :=
  if isFatal s || s.pins.thermtrip then 3 else if isReady s && isDegraded s then 2 else 1

/-- A change of the device-health sensor asserts SMB_ALERT_N (R653). -/
def noteHealth (s : State) : State :=
  if s.mgmt.health = health s then s
  else { s with mgmt := { s.mgmt with health := health s }, pins := { s.pins with smbAlert := true } }

/-- A device-fatal condition: the cause and the stage reached are recorded, STAGE goes to 0xFF, FAULT_N is
driven low, READY and READY_OUT fall, engines stop, AER reports it in the PF and the error log records it. -/
def deviceFatal (s : State) (cause : Nat) : State :=
  if isFatal s then s
  else
    let st := s.boot.stage
    let s1 := logErr s { seq := 0, code := 0xFF, cls := 8, status := cause, detail := le 1 st }
    let s2 := aer s1 0 .uncorrectableInternal
    let s3 := { s2 with boot := { s2.boot with failStage := st, failCause := cause },
                        pins := { s2.pins with faultLow := true, readyOut := false }, steps := [] }
    noteHealth (bootLog (setStage s3 0xFF) logFatal cause)

/-! ### Command outcomes -/

/-- The bytes of a slot (R117). -/
def slotBytes (s : State) (f slot : Nat) : List Byte :=
  tget (List.replicate 256 0) (fnOf s f).slots slot

/-- Sets the bytes of a slot. -/
def putSlot (s : State) (f slot : Nat) (b : List Byte) : State :=
  updFn s f (fun x => { x with slots := tput x.slots slot (padTo 256 b) })

/-- The response a completed slot holds (R119). -/
def respBytes (req : List Byte) (o : CmdOutcome) : List Byte :=
  padTo 256 (req.take 2 ++ le 2 o.status ++ (req.drop 4).take 4 ++ le 2 o.resp.length ++ le 1 o.dieMask ++ le 1 0 ++
    le 4 o.detail ++ o.resp)

/-- A slot completes: the response is written, the owner bit clears, MB_DONE is set, and CMD_DONE is posted when
the command asked for it and the event queue is open (R119, R124, R159, R170). -/
def completeSlot (s : State) (f slot : Nat) (o : CmdOutcome) : State :=
  let req := slotBytes s f slot
  let s1 := putSlot s f slot (respBytes req o)
  let s2 := updFn s1 f (fun x => { x with
    owner := setBit x.owner slot false, done := setBit x.done slot true,
    cmds := x.cmds.filter (fun c => c.slot != slot) })
  let event := match (fnOf s f).cmds.find? (fun c => c.slot = slot) with
    | some c => c.event
    | none => bit (field req 2 2) 0
  if event && (fnOf s f).evq.opened then
    post s2 f { code := 0x0001, object := slot + 2 ^ 32 * field req 4 4 }
  else s2

end Sys2Proof.Machine
end

