-- ==== Sys2Proof/Machine/Flits.lean ====
section
/-! DEFINITION. The die links: routes, CRC, packets in flits, send queues with their batches and credits, and the flits that a
link sends (01 R14, R15, R19, 10 R328 to R337, 21 R606). -/

namespace Sys2Proof.Machine

open Sys2Proof

/-! ### Links and routes (R14, R15, R19) -/

/-- The two dies a link joins, the first-named one first; die code 4 is the Harbour die. -/
def linkEnds : Nat → Nat × Nat
  | 0 => (0, 1)
  | 1 => (1, 3)
  | 2 => (3, 2)
  | 3 => (2, 0)
  | n => (4, n - 4)

/-- Whether a link is a B-link. -/
def isBLink (l : Nat) : Bool := l < 4
/-- Whether a link touches a die. -/
def touches (l d : Nat) : Bool := (linkEnds l).1 = d || (linkEnds l).2 = d
/-- The links of a Crest die. -/
def linksOf (d : Nat) : List Nat := (List.range 8).filter (fun l => touches l d)
/-- Whether a link carries traffic. -/
def linkWorks (s : State) (l : Nat) : Bool :=
  let st := (linkOf s l).state
  (st == .up || st == .repair) && (!isBLink l || s.boot.blinkUp.getLsbD l)

/-- The place of a die in the ring CREST_0, CREST_1, CREST_3, CREST_2. -/
def ringPlace : Nat → Nat
  | 0 => 0
  | 1 => 1
  | 3 => 2
  | _ => 3

/-- The B-links from one Crest die to another going round the ring in the order of their numbers. -/
def pathUp (a b : Nat) : List Nat :=
  (List.range ((ringPlace b + 4 - ringPlace a) % 4)).map (fun i => (ringPlace a + i) % 4)
/-- The B-links from one Crest die to another going round the ring the other way. -/
def pathDown (a b : Nat) : List Nat :=
  (List.range ((ringPlace a + 4 - ringPlace b) % 4)).map (fun i => (ringPlace a + 3 - i) % 4)

/-- The route between two Crest dies: the shortest path over working B-links, the one whose first hop is
horizontal when two are shortest (R14), and both S-links when no such path works (R15). -/
def crestRoute (s : State) (a b : Nat) : Option (List Nat) :=
  let ok := fun p => p.all (linkWorks s)
  let u := pathUp a b
  let w := pathDown a b
  let horizontal := fun (p : List Nat) => p.head?.any (fun l => l % 2 = 0)
  if ok u && ok w then
    if u.length < w.length then some u
    else if w.length < u.length then some w
    else if horizontal u then some u else some w
  else if ok u then some u
  else if ok w then some w
  else if linkWorks s (4 + a) && linkWorks s (4 + b) then some [4 + a, 4 + b]
  else none

/-- The route between two die codes. -/
def route (s : State) (a b : Nat) : Option (List Nat) :=
  if a = b then some []
  else if a = 4 then (if linkWorks s (4 + b) then some [4 + b] else none)
  else if b = 4 then (if linkWorks s (4 + a) then some [4 + a] else none)
  else crestRoute s a b

/-- The die at the other end of a link. -/
def otherEnd (l d : Nat) : Nat := if (linkEnds l).1 = d then (linkEnds l).2 else (linkEnds l).1

/-- The dies of a set joined to those already reached by one working B-link inside the set. -/
def joinStep (s : State) (dies reached : List Nat) : List Nat :=
  dies.filter (fun d => d ∈ reached || (List.range 4).any (fun l =>
    linkWorks s l && touches l d && otherEnd l d ∈ reached))

/-- Whether working B-links join the dies of a set without passing through another die (R19). -/
def joined (s : State) (dies : List Nat) : Bool :=
  match dies with
  | [] => false
  | d :: _ =>
    let r := joinStep s dies (joinStep s dies (joinStep s dies [d]))
    dies.all (· ∈ r)

/-! ### Credits (R333, R347) -/

/-- Initial credits of a link: REQ, RSP, BULK, MGMT. -/
def initialCredits (l : Nat) : List Nat := if isBLink l then [48, 96, 96, 8] else [32, 64, 64, 8]
/-- A link's books as its link-init exchange leaves them. -/
def freshVcs (l : Nat) : List VcBook :=
  (initialCredits l).map (fun n => { initial := n, held := n })
/-- Groups of a link. -/
def groupCount (l : Nat) : Nat := if isBLink l then 32 else 16
/-- GROUPS_UP of a link: 0 when it is not up (R229). -/
def groupsUp (s : State) (l : Nat) : Nat :=
  let k := linkOf s l
  if k.state == .up || k.state == .repair then groupCount l - k.disabled.length else 0

/-! ### CRC-16 and the side-band (R328, R329) -/

/-- One bit into the CRC, polynomial 0x8BB7. -/
def crcBit (c : BitVec 16) (b : Bool) : BitVec 16 := if c.msb = b then c <<< 1 else (c <<< 1) ^^^ 0x8BB7
/-- One byte into the CRC, its most significant bit first. -/
def crcByte (c : BitVec 16) (b : Byte) : BitVec 16 := [7, 6, 5, 4, 3, 2, 1, 0].foldl (fun c i => crcBit c (b.getLsbD i)) c
/-- The CRC-16 of some bytes: initial value 0xFFFF, no final XOR. -/
def crc16 (l : List Byte) : BitVec 16 := l.foldl crcByte 0xFFFF
/-- The CRC of a flit: its data, then bits [63:16] of its side-band from the least significant byte. -/
def flitCrc (data : List Byte) (side : Nat) : BitVec 16 := crc16 (data ++ le 6 (side / 65536))

/-- KINDs of a flit. -/
def kindData : Nat := 0
def kindReplay : Nat := 2

/-- The fields of a received flit's side-band. -/
def flitKind (x : Flit) : Nat := bits x.side.toNat 60 58
def flitSeq (x : Flit) : Nat := bits x.side.toNat 57 50
def flitAck (x : Flit) : Nat := bits x.side.toNat 49 42
def flitCrVc (x : Flit) : Nat := bits x.side.toNat 41 40
def flitCrCount (x : Flit) : Nat := bits x.side.toNat 39 34
/-- A flit received without a CRC error, its START in place. -/
def flitClean (x : Flit) : Bool :=
  decide (bits x.side.toNat 63 61 = 0b101) && decide ((flitCrc x.data x.side.toNat).toNat = bits x.side.toNat 15 0)

/-- The side-band of a flit as its sender makes it. -/
def flitSide (kind seq ack crVc crCount : Nat) (data : List Byte) : Nat :=
  let top := 5 * 2 ^ 61 + kind * 2 ^ 58 + seq % 256 * 2 ^ 50 + ack % 256 * 2 ^ 42 + crVc * 2 ^ 40 + crCount * 2 ^ 34
  top + (flitCrc data top).toNat

/-! ### Packets (R330 to R332) -/

/-- OPCODEs. -/
def opRdReq : Nat := 1
def opWrReq : Nat := 2
def opRdRsp : Nat := 3
def opWrAck : Nat := 4
def opErrRsp : Nat := 5
def opMgmt : Nat := 6

/-- The data of a packet lie at its DPA. -/
def atDpa (op : Nat) : Bool := op = opRdReq || op = opWrReq || op = opRdRsp

/-- The POISON bits of `n` bytes at an address: bit i for the i-th 64-byte line that they touch. -/
def poisonBits (poison : List Nat) (addr n : Nat) : Nat :=
  if n = 0 then 0
  else ((List.range ((addr + n - 1) / 64 - addr / 64 + 1)).filter (fun i => poison.contains (64 * (addr / 64 + i)))).foldl
    (fun v i => v + 2 ^ i) 0

/-- A packet's header, in full or compressed. -/
def packetHeader (p : Parcel) (n : Nat) (short : Bool) : List Byte :=
  let flags := le 1 (poisonBits p.poison p.addr n)
  if short then le 1 p.op ++ flags ++ le 2 p.tag ++ le 2 n
  else le 1 p.op ++ le 1 (p.vc * 64 + p.dst * 8 + p.src) ++ flags ++ le 1 p.err ++ le 2 n ++ le 2 p.tag ++ le 6 p.addr ++ le 2 0

/-- What a flit takes of a queue: its bytes, the packets, what stays in the queue, and the DPA behind its last packet. -/
structure FlitFill where
  bytes : List Byte := []
  taken : List Parcel := []
  left  : List Parcel := []
  next  : Option Nat := none

/-- A packet fits the batch behind a DPA: a compressed header gives no DPA of its own, so the packet's must follow
(DEDUCED, log entry 140). -/
def follows (v3 : Bool) (p : Parcel) (next : Option Nat) : Bool :=
  match next with
  | none => true
  | some a => !v3 || p.op = opErrRsp || !atDpa p.op || a = p.addr

/-- Whole packets of one virtual channel between two dies put into a flit of which `used` bytes are taken. A transfer longer
than an empty flit holds is cut there (DESIGN CHOICE, log entry 140). -/
def fillFlit (v3 : Bool) (src dst : Nat) : List Parcel → Nat → Option Nat → FlitFill
  | [], _, next => { next := next }
  | p :: rest, used, next =>
    let short := v3 && next.isSome && p.op ≠ opErrRsp
    let h := if short then 6 else 16
    let n := p.data.length
    if p.src ≠ src || p.dst ≠ dst || !follows v3 p next then { left := p :: rest, next := next }
    else if used + h + n ≤ 256 then
      let r := fillFlit v3 src dst rest (used + h + n) (some (p.addr + n))
      { r with bytes := packetHeader p n short ++ p.data ++ r.bytes, taken := p :: r.taken }
    else if used = 0 then
      let m := 256 - h
      { bytes := packetHeader p m short ++ p.data.take m, taken := [{ p with data := p.data.take m, last := false }],
        left := { p with addr := p.addr + m, data := p.data.drop m } :: rest, next := some (p.addr + m) }
    else { left := p :: rest, next := next }

/-! ### Directions of a link (R228, R336) -/

/-- A direction of a link: from its first die, or towards it. -/
def dirOf (k : Link) (fromFirst : Bool) : LinkDir := if fromFirst then k.out else k.back
/-- The link with a direction changed. -/
def setDir (k : Link) (fromFirst : Bool) (g : LinkDir → LinkDir) : Link :=
  if fromFirst then { k with out := g k.out } else { k with back := g k.back }
/-- The state with a direction of a link changed. -/
def updDir (s : State) (l : Nat) (fromFirst : Bool) (g : LinkDir → LinkDir) : State := updLink s l (fun k => setDir k fromFirst g)

/-- The end that reports a link's registers is its first one: of a B-link, while that die is usable (R228). -/
def firstReports (s : State) (l : Nat) : Bool := !isBLink l || dieUsable s (linkEnds l).1

/-- A virtual channel has a packet waiting and a credit. -/
def vcReady (d : LinkDir) (vc : Nat) : Bool :=
  d.queue.any (fun p => p.vc = vc) && decide (0 < (d.vcs.getD vc ({} : VcBook)).held)

/-- A batch's most flits under a link version (R332). -/
def batchMax (version : Nat) : Nat := if 3 ≤ version then 16 else 8

/-- A batch goes on with the next packet of its virtual channel: it has room, the ends are the same, and a compressed header
gives the packet's DPA. -/
def batchGoes (version : Nat) (b : Batch) (d : LinkDir) : Bool :=
  match d.queue.find? (fun p => p.vc = b.vc) with
  | none => false
  | some p => p.src = b.src && p.dst = b.dst && decide (b.flits < batchMax version) && follows (decide (3 ≤ version)) p (some b.next)

/-- RSP, REQ and BULK in their turn behind a virtual channel (R336). -/
def turnOrder (turn : Nat) : List Nat := if turn = 1 then [0, 2, 1] else if turn = 0 then [2, 1, 0] else [1, 0, 2]

/-- The virtual channel of the next flit: MGMT first, then the batch that runs, then the others in turn; none without a
packet, a credit, or room in the replay buffer of 64 flits (R334, R336, R338). -/
def nextVc (version : Nat) (d : LinkDir) : Option Nat :=
  if 64 ≤ d.unacked.length then none
  else if vcReady d 3 then some 3
  else match d.batch with
    | some b => if vcReady d b.vc && batchGoes version b d then some b.vc else (turnOrder d.turn).find? (vcReady d)
    | none => (turnOrder d.turn).find? (vcReady d)

/-- A packet put into the send queue of the next link of its route. -/
def putParcel (s : State) (from_ : Nat) (p : Parcel) : State :=
  match p.route with
  | [] => s
  | l :: _ => updDir s l ((linkEnds l).1 = from_) (fun d => { d with queue := d.queue ++ [p] })

/-! ### Transactions (R331, R332) -/

/-- The virtual channel of a request: REQ, or BULK for a write of 1 KiB or more (R333). -/
def reqVc (write : Bool) (len : Nat) : Nat := if write && 1024 ≤ len then 2 else 0
/-- The virtual channel of an answer: RSP, or BULK for read data beyond 256 B (R333; DEDUCED, log entry 140). -/
def rspVc (len : Nat) : Nat := if 256 < len then 2 else 1

/-- A request's packets join the queue of the first link of its route. -/
def sendRequest (s : State) (t : OutTxn) : State :=
  let x := t.txn
  putParcel s x.src.val {
    op := if t.write then opWrReq else opRdReq, vc := reqVc t.write x.data.length, src := x.src.val, dst := x.dst.val,
    tag := x.tag, addr := x.addr, data := if t.write then x.data else le 2 x.len, poison := if t.write then x.poison else [],
    route := t.links }

/-- An answer's packets join the queue of the first link of the way back. -/
def sendAnswer (s : State) (t : OutTxn) (a : Answer) : State :=
  let x := t.txn
  putParcel s x.dst.val {
    op := if a.err ≠ 0 then opErrRsp else if t.write then opWrAck else opRdRsp, vc := rspVc a.data.length,
    src := x.dst.val, dst := x.src.val, err := a.err, tag := x.tag, addr := x.addr, data := a.data, poison := a.poison,
    route := t.links.reverse }

/-- The same transaction. -/
def sameTxn (t u : OutTxn) : Bool := t.txn.tag = u.txn.tag && t.txn.src = u.txn.src
/-- A packet belongs to a transaction. -/
def parcelOf (t : OutTxn) (p : Parcel) : Bool :=
  p.tag = t.txn.tag && ((p.op ≤ opWrReq && p.src = t.txn.src.val) || (opRdRsp ≤ p.op && p.op ≤ opErrRsp && p.dst = t.txn.src.val))
/-- What is still queued of a transaction goes. -/
def dropParcels (s : State) (t : OutTxn) : State :=
  let clean := fun (d : LinkDir) => { d with queue := d.queue.filter (fun p => !parcelOf t p) }
  { s with links := tmap s.links (fun _ k => { k with out := clean k.out, back := clean k.back }) }

/-- Data stored with some of their 64-byte lines, by their addresses at the source, marked poisoned: each such line takes the
poison encoding at the destination (R332). `from_` is the address of the data at the source. -/
def storeMarked (s : State) (addr from_ : Nat) (b : List Byte) (poison : List Nat) : State :=
  let s1 := (storeAt s addr b []).1
  ((List.range b.length).filter (fun k => poison.contains (64 * ((from_ + k) / 64)))).foldl (fun s k => setPoison s (addr + k)) s1

/-- A transaction ends with its answer: the requester's controller stores what it has read. -/
def finishTxn (s : State) (t : OutTxn) (a : Answer) : State :=
  let s1 := { s with txns := s.txns.filter (fun u => !sameTxn t u) }
  match t.txn.into with
  | some q => if t.write || a.err ≠ 0 then s1 else storeMarked s1 q t.txn.addr a.data a.poison
  | none => s1

/-- The end of a transfer reaches its destination: a request is there to be served, an answer ends its transaction. -/
def arrive (s : State) (p : Parcel) : State :=
  if !p.last then s
  else match s.txns.find? (fun t => parcelOf t p) with
    | none => s
    | some t =>
      match t.phase with
      | .asked => if p.op ≤ opWrReq then
          { s with txns := s.txns.map (fun u => if sameTxn t u then { u with phase := .arrived } else u) } else s
      | .returning a => if opRdRsp ≤ p.op then finishTxn s t a else s
      | _ => s

/-! ### Sending (R332 to R338) -/

/-- An audit marker (R606). -/
def isMarker (p : Parcel) : Bool := p.op = opMgmt && byteAt p.data 0 = 0x23
/-- The books of a direction latched at its sender, and at its receiver. -/
def latchSend (d : LinkDir) : LinkDir :=
  { d with latched := d.vcs.mapIdx (fun i b =>
      let o := d.latched.getD i ({} : VcBook)
      { b with received := o.received, out := o.out, occupied := o.occupied }) }
def latchReceive (d : LinkDir) : LinkDir :=
  { d with latched := d.vcs.mapIdx (fun i b =>
      let o := d.latched.getD i ({} : VcBook)
      { o with received := b.received, out := b.out, occupied := b.occupied }) }
/-- The counters of one end of a link latched: those of what it sends and of what it receives. -/
def latchEnd (s : State) (l : Nat) (first : Bool) : State :=
  updDir (updDir s l first latchSend) l (!first) latchReceive

/-- A packet that a flit has carried over a link: to the next link of its route, or to its destination. -/
def passOnward (s : State) (l : Nat) (fromFirst : Bool) (p : Parcel) : State :=
  let there := if fromFirst then (linkEnds l).2 else (linkEnds l).1
  let s1 := if isMarker p then latchEnd s l fromFirst else s
  match p.route.drop 1 with
  | [] => arrive s1 p
  | rest => putParcel s1 there { p with route := rest }

/-- One flit sent on a virtual channel: it takes a credit and stays in the replay buffer, and its packets go onward. DESIGN
CHOICE (log entry 140): what they do follows at once, since each flit is delivered once and in order (R339). -/
def sendFlit (s : State) (l : Nat) (fromFirst : Bool) (vc : Nat) : State :=
  let k := linkOf s l
  let d := dirOf k fromFirst
  let mine := d.queue.filter (fun p => p.vc = vc)
  match mine with
  | [] => s
  | p :: _ =>
    let runs := match d.batch with
      | some b => if b.vc = vc && batchGoes k.version b d then some b else none
      | none => none
    let fill := fillFlit (decide (3 ≤ k.version)) p.src p.dst mine 0 (runs.map (·.next))
    let batch := if vc = 3 then d.batch else some {
      vc := vc, src := p.src, dst := p.dst, next := fill.next.getD 0, flits := ((runs.map (·.flits)).getD 0) + 1 }
    let s1 := updLink s l (fun k =>
      { setDir k fromFirst (fun d => { d with
          queue := d.queue.filter (fun q => !(q.vc = vc)) ++ fill.left, batch := batch, turn := if vc = 3 then d.turn else vc,
          txSeq := (d.txSeq + 1) % 256, unacked := d.unacked ++ [{ seq := d.txSeq, vc := vc, data := padTo 256 fill.bytes }],
          vcs := d.vcs.mapIdx (fun i b => if i = vc then { b with held := b.held - 1, sent := (b.sent + 1) % 2 ^ 32 } else b) }) with
        tx := if firstReports s l = fromFirst then sat64 k.tx 1 else k.tx })
    fill.taken.foldl (fun s p => passOnward s l fromFirst p) s1

/-- The link carries flits. -/
def linkUp (s : State) (l : Nat) : Bool := (linkOf s l).state == .up || (linkOf s l).state == .repair

/-- A direction of a link that may send, with the virtual channel of its next flit. -/
def readyDir (s : State) : Option (Nat × Bool × Nat) :=
  ((List.range 8).filter (linkUp s)).findSome? (fun l =>
    [true, false].findSome? (fun b => (nextVc (linkOf s l).version (dirOf (linkOf s l) b)).map (fun vc => (l, b, vc))))

/-- Flits sent while a direction may send; `fuel` bounds them. -/
def pumpFlits : Nat → State → State
  | 0, s => s
  | fuel + 1, s =>
    match readyDir s with
    | none => s
    | some (l, b, vc) => pumpFlits fuel (sendFlit s l b vc)

/-- A bound on the flits that the queued packets take over the links of their routes. -/
def flitsLeft (s : State) : Nat :=
  (s.links.map (fun kv => ((kv.2.out.queue ++ kv.2.back.queue).map (fun p => (p.data.length / 200 + 2) * (p.route.length + 1))).sum)).sum

/-- What waits in the send queues goes as far as credits and replay buffers let it. -/
def pump (s : State) : State := pumpFlits (flitsLeft s) s

end Sys2Proof.Machine
end

