-- ==== Sys2Proof/Machine/Fabric.lean ====
section
/-! DEFINITION. The die fabric as operations: which dies a link joins, routes, credits, placement checks, the
link-level steps when a die or a link goes, and seizing of scratchpad banks. -/

namespace Sys2Proof.Machine

open Sys2Proof

/-! ### Placement words (R16 to R20) -/

/-- The Crest dies a die mask names. -/
def maskDies (m : Nat) : List Nat := bitList 4 m
/-- TIER of a placement word. -/
def placeTier (w : Nat) : Nat := bits w 9 8
/-- DIES of a placement word. -/
def placeMask (w : Nat) : Nat := bits w 7 0
/-- Reserved bits set, or the reserved TIER: the first check of R20. -/
def placeReserved (w : Nat) : Bool := bits w 15 10 ≠ 0 || placeTier w = 3 || bits w 7 5 ≠ 0
/-- The mask of named Crest dies that are not USABLE. -/
def unavailable (s : State) (m : Nat) : Nat :=
  ((maskDies m).filter (fun d => !dieUsable s d)).foldl (fun a d => a + 2 ^ d) 0
/-- The shape of a region's placement (R18). -/
def regionShape (w : Nat) : Bool :=
  if placeTier w = 0 then (placeMask w ∈ [1, 2, 4, 8]) else placeMask w = 16
/-- The shape of an engine group's placement: the first sentence of R19. -/
def groupShape (w : Nat) : Bool :=
  placeTier w = 0 && placeMask w ≠ 0 && placeMask w < 16

/-! ### Links that stop (R343, R347, R348) -/

/-- A direction of a link that carries nothing: its credits are written off together and its queue and replay buffer
discarded (R347). -/
def deadDir (d : LinkDir) : LinkDir := { vcs := d.vcs.map (fun _ => ({} : VcBook)) }

/-- A link goes to a state in which it carries nothing. -/
def linkDead (s : State) (l : Nat) (st : LinkState) : State :=
  updLink s l (fun k => { k with state := st, repairDue := false, out := deadDir k.out, back := deadDir k.back })

/-- What becomes of an outstanding transaction when a link of its route stops carrying traffic: it is answered STRANDED by
the surviving end when its destination is gone, when no route is left or when it has been reissued before; otherwise it is
reissued over the re-formed route. -/
def settleTxn (s : State) (t : OutTxn) : Option OutTxn :=
  let gone := fun (d : Nat) => d < 4 && !(dieUsable s d || (dieOf s d).state == .draining)
  match route s t.txn.src.val t.txn.dst.val with
  | some links =>
    if gone t.txn.dst.val || gone t.txn.src.val || t.reissued then none
    else some { t with links := links, reissued := true, phase := .asked }
  | none => none

/-- The outstanding transactions whose route held a link that has stopped, settled: what of them is still in a queue goes,
and each reissue is logged and sent. -/
def settleTxns (s : State) (l : Nat) : State :=
  let hit := s.txns.filter (fun t => t.links.contains l)
  let s1 := hit.foldl dropParcels { s with txns := s.txns.filter (fun t => !t.links.contains l) }
  let s2 := (hit.filterMap (settleTxn s)).foldl (fun s t =>
    sendRequest (logErr { s with txns := s.txns ++ [t] } { seq := 0, code := 0x31, cls := 1, addr := t.txn.addr, detail := le 1 l }) t) s1
  pump s2

/-- A B-link goes down while its dies are usable: BLINK_UP clears, BLINK_DOWN is posted, routes re-form (R343). -/
def blinkDown (s : State) (l : Nat) : State :=
  let s1 := { linkDead s l .down with boot := { s.boot with blinkUp := setBit s.boot.blinkUp l false } }
  postFw (settleTxns s1 l) 0 { code := 0x0011, object := l }

/-! ### Bank ownership (R302, R307) -/

/-- The poisoned words of a bank. -/
def bankPoison (s : State) (d b : Nat) : List Nat :=
  s.poison.filter (fun a => bankBase d b ≤ a && decide (a < bankBase d b + 0x20000))

/-- A bank's contents zeroed with valid check bits: full writes, which clear poison (R244). -/
def zeroBank (s : State) (d b : Nat) : State :=
  (bankPoison s d b).foldl overwrite (putMem s (cellsZero s.mem (bankBase d b) 0x20000))

/-- A seizure fences a bank: it is SEIZED, OWNER reads 0x10, and a handover in progress is abandoned (R307, R308).
`onward` is the owner it goes to when it is clean; `march` says that a memory fault
asks for March C−. NEXT_OWNER shows to whom it goes (DEDUCED from the worked example of 09). A bank already SEIZED keeps
its state (R630). -/
def seizeBank (s : State) (d b onward : Nat) (march : Bool := false) : State :=
  if (bankOf s d b).state = .seized then s
  else
    let old := (bankOf s d b).owner
    let s1 := updBank s d b (fun x => { x with
      state := .seized, owner := 0x10, next := onward, zeroDue := true, seizedFor := onward, waits := [],
      marching := if march then some 2 else none })
    logErr s1 { seq := 0, code := 0x20, cls := 2, die := d, addr := bankBase d b, detail := le 1 old ++ le 1 (b2n march) }

/-- The banks of a die code. -/
def bankNums (d : Nat) : List Nat := List.range (bankCount d)

/-! ### Loss and exclusion of a die (R65, R225, R637) -/

/-- A die answers no more: its links go to STRANDED, its transactions are settled, its state is LOST with a
cause, and the loss of the last usable Crest die is device-fatal: after roll call of a start-up as at READY (R64, R346,
R347, R637). The die-loss path of R638 is a command of its own. -/
def loseDie (s : State) (d cause : Nat) : State :=
  let live := (dieOf s d).state ≠ .absent ∧ (dieOf s d).state ≠ .lost ∧ (dieOf s d).state ≠ .excluded
  if live then
    let s1 := updDie s d (fun x => { x with state := .lost, cause := cause, lossDue := true, lostCount := sat8 x.lostCount })
    let s2 := { s1 with boot := { s1.boot with
      dieResets := sat8 s1.boot.dieResets,
      dieUsable := setBit s1.boot.dieUsable d false,
      blinkUp := (linksOf d).foldl (fun v l => if isBLink l then setBit v l false else v) s1.boot.blinkUp } }
    let s3 := (linksOf d).foldl (fun s l => settleTxns (linkDead s l .stranded) l) s2
    noteHealth (if s3.boot.dieUsable = 0 && (isReady s3 || (s3.boot.identDone && !isFatal s3)) then deviceFatal s3 0x07 else s3)
  else s

/-- A die that answered roll call cannot be used: EXCLUDED with a cause, removed from DIE_USABLE, reported by
DIE_EXCLUDED; with no die left the start-up fails with NO_USABLE_CREST (R64, R65). -/
def excludeDie (s : State) (d cause : Nat) : State :=
  let s1 := updDie s d (fun x => { x with state := .excluded, cause := cause })
  let s2 := { s1 with boot := { s1.boot with dieUsable := setBit s1.boot.dieUsable d false } }
  let s3 := post s2 0 { code := 0x0012, object := 2 ^ d + 256 * cause }
  if s3.boot.dieUsable = 0 then deviceFatal s3 0x07 else s3

/-- The dies a start-up still counts on. -/
def liveDies (s : State) : List Nat := bitList 4 s.boot.dieUsable.toNat

/-- The voltage of the next step towards a target. -/
def avsNext (x : Die) (target : Nat) : Nat :=
  if x.reqMv < target then min target (x.reqMv + 50) else max target (x.reqMv - 50)

/-- AVS asks for the fused operating point at self-calibration, by steps of at most 50 mV (R681). -/
def avsTowards (s : State) (d target : Nat) : State :=
  let x := dieOf s d
  if x.avsNoAck then s
  else
    let next := avsNext x target
    if next = x.reqMv || x.avsBusy then updDie s d (fun y => { y with avsTarget := target })
    else emit (updDie s d (fun y => { y with avsTarget := target, avsBusy := true, avsAcked := false })) (.avs d next)

/-- Stage 0x06 begins when every live die runs verified firmware. -/
def endDieFw (s : State) : State :=
  if s.boot.stage == 5 && (liveDies s).all (fun d => s.boot.dieFw.getLsbD d) && s.boot.dieUsable != 0 then
    (liveDies s).foldl (fun s d => avsTowards s d (dieOf s d).fuses.fusedMv) (setStage s 6)
  else s

/-- The controllers a start-up trains: the HBM of each live die and the 16 of LP5X. -/
def neededCtrls (s : State) : List Nat := liveDies s ++ (List.range 16).map (4 + ·)

/-- Stage 0x07 ends when every controller has trained; the extended test replaces stage 0x09 by 0x08 (R60). -/
def endTraining (s : State) : State :=
  if s.boot.stage == 7 && (neededCtrls s).all (· ∈ s.boot.trained) then
    setStage s (if s.boot.straps.cfgBoot.getLsbD 1 then 8 else 9)
  else s

/-- KEEP_EFF of a die: 0 while gated, half the planned keep with a floor of 2 during a fast trip, one halving
however many causes hold (R40 to R42, R44). -/
def keepEff (x : Die) : Nat :=
  if x.gated then 0
  else if x.tripTemp || x.tripPower || x.tripEpr then max 2 (x.keepPlan / 2)
  else x.keepPlan

end Sys2Proof.Machine
end

