-- ==== Sys2Proof/Machine/Items.lean ====
section
/-! DEFINITION. The configuration items: identifiers, instances, ranges, defaults and classes (20 R590, 17 R530,
18 R557, 19 R583, 07 R251), and the values in force. -/

namespace Sys2Proof.Machine

open Sys2Proof

/-! ### Identifiers (R590) -/

def idFairness : Nat := 0x0101
def idBalance : Nat := 0x0102
def idWeight : Nat := 0x0103
def idBucketRate : Nat := 0x0104
def idBucketDepth : Nat := 0x0105
def idAdmitHold : Nat := 0x0106
def idLendMax : Nat := 0x0107
def idPrefillChunk : Nat := 0x0108
def idPrefillStep : Nat := 0x0109
def idMaxBatch : Nat := 0x010A
def idRiskPct : Nat := 0x010B
def idStepBound : Nat := 0x010C
def idHbmLow : Nat := 0x010D
def idHbmHigh : Nat := 0x010E
def idPoolGib : Nat := 0x0201
def idPoolFull : Nat := 0x0202
def idSpecNodes : Nat := 0x0203
def idEnergyCap : Nat := 0x0301
def idAdmitEnergy : Nat := 0x0302
def idAdmitGen : Nat := 0x0303
def idScrubEnable : Nat := 0x0401
def idScrubPeriod : Nat := 0x0402
def idTtl : Nat := 0x0501
def idPrefixShare : Nat := 0x0502
def idVocabMap : Nat := 0x0503
def idGrammarMap : Nat := 0x0504
def idMaxNew : Nat := 0x0505
def idFastAllow : Nat := 0x0506
def idGroupMove : Nat := 0x0601
def idQuotaH : Nat := 0x0701
def idQuotaC : Nat := 0x0702

/-- An item's classes (R198). -/
inductive ItemClass where
  | tide | bound | quiesce
  deriving DecidableEq, Repr

/-- An item: number of instances, value length, range of its value, default, class. A scrubber item's class
depends on the scrubber's enable. -/
structure CfgItem where
  count : Nat
  len   : Nat
  lo    : Nat
  hi    : Nat
  dflt  : Nat
  cls   : ItemClass
  deriving DecidableEq, Repr

/-- The item of an identifier, if WCI 3.2 defines it. -/
def itemOf (id : Nat) : Option CfgItem :=
  match id with
  | 0x0101 => some ⟨1, 1, 0, 1, 0, .tide⟩
  | 0x0102 => some ⟨1, 1, 0, 1, 0, .tide⟩
  | 0x0103 => some ⟨16, 1, 1, 255, 1, .tide⟩
  | 0x0104 => some ⟨16, 4, 0, 4294967295, 0, .tide⟩
  | 0x0105 => some ⟨16, 4, 1, 4294967295, 16777216, .tide⟩
  | 0x0106 => some ⟨1, 2, 0, 10000, 100, .tide⟩
  | 0x0107 => some ⟨4, 1, 0, 16, 14, .tide⟩
  | 0x0108 => some ⟨1, 2, 256, 16384, 2048, .tide⟩
  | 0x0109 => some ⟨1, 4, 1024, 65536, 8192, .tide⟩
  | 0x010A => some ⟨1, 2, 1, 4096, 4096, .tide⟩
  | 0x010B => some ⟨1, 1, 50, 100, 90, .tide⟩
  | 0x010C => some ⟨1, 4, 5000, 1000000, 50000, .tide⟩
  | 0x010D => some ⟨4, 1, 1, 50, 2, .tide⟩
  | 0x010E => some ⟨4, 1, 1, 50, 4, .tide⟩
  | 0x0201 => some ⟨1, 2, 0, 764, 512, .tide⟩
  | 0x0202 => some ⟨16, 1, 0, 1, 0, .tide⟩
  | 0x0203 => some ⟨1, 1, 0, 32, 32, .tide⟩
  | 0x0301 => some ⟨16, 4, 0, 300000, 0, .tide⟩
  | 0x0302 => some ⟨1, 2, 0, 600, 30, .tide⟩
  | 0x0303 => some ⟨1, 4, 1, 65536, 512, .tide⟩
  | 0x0401 => some ⟨25, 1, 0, 1, 1, .quiesce⟩
  | 0x0402 => some ⟨25, 4, 60, 604800, 0, .quiesce⟩
  | 0x0501 => some ⟨1, 4, 1, 86400, 600, .bound⟩
  | 0x0502 => some ⟨16, 1, 0, 2, 1, .bound⟩
  | 0x0503 => some ⟨128, 8, 0, 2 ^ 64 - 1, 0, .bound⟩
  | 0x0504 => some ⟨128, 8, 0, 2 ^ 64 - 1, 0, .bound⟩
  | 0x0505 => some ⟨16, 4, 0, 4294967295, 0, .bound⟩
  | 0x0506 => some ⟨16, 1, 0, 1, 1, .bound⟩
  | 0x0601 => some ⟨1, 8, 0, 2 ^ 64 - 1, 0, .quiesce⟩
  | 0x0701 => some ⟨16, 4, 0, 2293760, 0, .tide⟩
  | 0x0702 => some ⟨16, 4, 0, 12517376, 0, .tide⟩
  | _ => none

/-- The key of an item's instance in a value table. -/
def itemKey (id idx : Nat) : Nat := id * 65536 + idx

/-- An instance's default: a scrubber's period as R232 gives it. -/
def itemDefault (id idx : Nat) : Nat :=
  if id = idScrubPeriod then (scrubDefault idx).period
  else match itemOf id with
    | some it => it.dflt
    | none => 0

/-- The value of a tide-applied or quiesce-required item in force (R589, R595). -/
def itemNow (s : State) (id idx : Nat) : Nat := tget (itemDefault id idx) s.conf.applied (itemKey id idx)

/-- The committed value of an item (R197). -/
def itemCommitted (s : State) (id idx : Nat) : Nat := tget (itemDefault id idx) s.conf.committed (itemKey id idx)

/-- INDEX of a record for every instance (R196). -/
def everyIdx : Nat := 0xFFFF

/-- A value in a shadow set: its own record, else the record for every instance, else committed (R197, R588). -/
def shadowValue (s : State) (sh : ItemVals) (id idx : Nat) : Nat :=
  match tfind sh (itemKey id idx) with
  | some v => v
  | none => tget (itemCommitted s id idx) sh (itemKey id everyIdx)

/-- The value a generation gives a generation-bound item (R592). -/
def itemBound (s : State) (gen id idx : Nat) : Nat :=
  if s.conf.older = some gen && gen ≠ s.conf.newest then tget (itemDefault id idx) s.conf.oldVals (itemKey id idx)
  else itemCommitted s id idx

/-- A SUBMIT's handle after the maps of its function (R594); a map with TO 0 is cleared. -/
def mapHandle (s : State) (gen id f h : Nat) : Nat :=
  match (List.range 8).find? (fun k => h ≠ 0 && itemBound s gen id (8 * f + k) % 2 ^ 32 = h &&
      itemBound s gen id (8 * f + k) / 2 ^ 32 ≠ 0) with
  | some k => itemBound s gen id (8 * f + k) / 2 ^ 32
  | none => h

/-- TENANT_WEIGHT. -/
def weightOf (s : State) (f : Nat) : Nat := itemNow s idWeight f
/-- Whether TOKEN_BUDGET is in force (R515). -/
def tokenBudget (s : State) : Bool := itemNow s idFairness 0 = 0
/-- Whether PROPORTIONAL is in force (R522). -/
def proportional (s : State) : Bool := itemNow s idBalance 0 = 1
/-- BUCKET_RATE of a tenant. -/
def bucketRate (s : State) (f : Nat) : Nat := itemNow s idBucketRate f

end Sys2Proof.Machine
end

