-- ==== Sys2Proof/Machine/Text.lean ====
section
/-! DEFINITION. Carding as a function of a run: UTF-8, normalisation, special literals, pre-split, the three
tokenisation models, bin tables and binning (13 R403 to R423), and the checks of vocabulary images and bin
tables (R414, R415, R417, R418). -/

namespace Sys2Proof.Machine

open Sys2Proof

/-! ### Vocabulary image fields (R414, R415) -/

def vocModel (b : List Byte) : Nat := byteAt b 6
def vocFlags (b : List Byte) : Nat := byteAt b 7
def vocSize (b : List Byte) : Nat := field b 8 4
def vocUnk (b : List Byte) : Nat := field b 12 4
def vocEos (b : List Byte) : Nat := field b 16 4
def vocBos (b : List Byte) : Nat := field b 20 4
def vocMaxPiece (b : List Byte) : Nat := field b 26 2
def vocClasses (b : List Byte) : Nat := byteAt b 28
def vocSpecials (b : List Byte) : Nat := field b 30 2
def vocUnkScore (b : List Byte) : Nat := field b 40 4
def vocMerges (b : List Byte) : Nat := field b 44 4
/-- Offset of a section. -/
def secOff (b : List Byte) (i : Nat) : Nat := field b (64 + 16 * i) 8
/-- Length of a section. -/
def secLen (b : List Byte) (i : Nat) : Nat := field b (72 + 16 * i) 8
/-- A section is present. -/
def secHas (b : List Byte) (i : Nat) : Bool := secOff b i ≠ 0 || secLen b i ≠ 0
/-- No token. -/
def noToken : Nat := 0xFFFFFFFF

/-- KIND of a token's PIECES entry. -/
def pieceKind (b : List Byte) (t : Nat) : Nat := field b (secOff b 3 + 8 * t + 6) 2
/-- STRING_LENGTH of a token's PIECES entry. -/
def pieceLen (b : List Byte) (t : Nat) : Nat := field b (secOff b 3 + 8 * t + 4) 2
/-- A token's piece string. -/
def pieceStr (b : List Byte) (t : Nat) : List Byte :=
  (b.drop (secOff b 3 + 8 * vocSize b + field b (secOff b 3 + 8 * t) 4)).take (pieceLen b t)
/-- An ordinary entry: neither special nor byte-fallback, with a string (R411, R412). -/
def ordinary (b : List Byte) (t : Nat) : Bool :=
  !bit (pieceKind b t) 1 && !bit (pieceKind b t) 2 && pieceLen b t ≠ 0
/-- A byte's fallback token. -/
def byteToken (b : List Byte) (x : Byte) : Nat := field b (secOff b 7 + 4 * x.toNat) 4
/-- The class of a code point (R409). -/
def classOf (b : List Byte) (c : Nat) : Nat :=
  byteAt b (secOff b 0 + 8704 + 256 * field b (secOff b 0 + 2 * (c / 256)) 2 + c % 256)
/-- Whether a piece boundary stands between two code points (R409). -/
def splits (b : List Byte) (x y : Nat) : Bool := bit (field b (secOff b 1 + 8 * classOf b x) 8) (classOf b y)
/-- A special literal: its token and its bytes. -/
def literal (b : List Byte) (i : Nat) : Nat × List Byte :=
  let e := secOff b 2 + 72 * i
  (field b e 4, (b.drop (e + 8)).take (byteAt b (e + 4)))

/-! ### UTF-8 (R403 to R405, R435) -/

/-- What stands at the front of a byte string. -/
inductive Utf8 where
  | none
  | ok (cp n : Nat)
  | ill (n : Nat)
  | incomplete (n : Nat)
  deriving DecidableEq, Repr

/-- Length of the sequence a lead byte starts and the range of its second byte (Unicode Table 3-7). -/
def utf8Lead (b : Nat) : Option (Nat × Nat × Nat) :=
  if b < 0x80 then some (1, 0, 0)
  else if b < 0xC2 then none
  else if b < 0xE0 then some (2, 0x80, 0xBF)
  else if b = 0xE0 then some (3, 0xA0, 0xBF)
  else if b = 0xED then some (3, 0x80, 0x9F)
  else if b < 0xF0 then some (3, 0x80, 0xBF)
  else if b = 0xF0 then some (4, 0x90, 0xBF)
  else if b < 0xF4 then some (4, 0x80, 0xBF)
  else if b = 0xF4 then some (4, 0x80, 0x8F)
  else none

/-- Continuation bytes that follow a lead, at most `n`, the first in its own range. -/
def contBytes (lo hi : Nat) : Nat → List Byte → List Nat
  | 0, _ => []
  | _ + 1, [] => []
  | n + 1, b :: rest =>
    if lo ≤ b.toNat ∧ b.toNat ≤ hi then b.toNat % 64 :: contBytes 0x80 0xBF n rest else []

/-- The well-formed sequence or maximal subpart at the front (R403). -/
def utf8Next (l : List Byte) : Utf8 :=
  match l with
  | [] => .none
  | b :: rest =>
    match utf8Lead b.toNat with
    | none => .ill 1
    | some (len, lo, hi) =>
      let cont := contBytes lo hi (len - 1) rest
      if cont.length = len - 1 then
        let top := if len = 1 then b.toNat else b.toNat % 2 ^ (7 - len)
        .ok (cont.foldl (fun a c => 64 * a + c) top) len
      else if cont.length = rest.length then .incomplete (1 + cont.length)
      else .ill (1 + cont.length)

/-- The UTF-8 bytes of a code point. -/
def utf8Enc (c : Nat) : List Byte :=
  let x := fun (n : Nat) => BitVec.ofNat 8 n
  if c < 0x80 then [x c]
  else if c < 0x800 then [x (0xC0 + c / 64), x (0x80 + c % 64)]
  else if c < 0x10000 then [x (0xE0 + c / 4096), x (0x80 + c / 64 % 64), x (0x80 + c % 64)]
  else [x (0xF0 + c / 262144), x (0x80 + c / 4096 % 64), x (0x80 + c / 64 % 64), x (0x80 + c % 64)]

/-- A decoded item of a run with its input offset: a code point, a byte that becomes a byte-fallback token, or
the place where the run is rejected. -/
inductive Item where
  | cp (c off : Nat)
  | raw (b : Byte) (off : Nat)
  | bad (off : Nat)
  deriving DecidableEq, Repr

/-- The items an ill-formed subpart becomes (R404). -/
def illItems (mode off : Nat) (l : List Byte) : List Item :=
  if mode = 0 then [.cp 0xFFFD off]
  else if mode = 1 then l.mapIdx (fun i b => .raw b (off + i))
  else [.bad off]

/-- A run decoded from an offset; an incomplete tail is held unless the run has ended (R404, R405). -/
def decodeRun (mode : Nat) (final : Bool) : Nat → Nat → List Byte → List Item
  | 0, _, _ => []
  | fuel + 1, off, l =>
    match utf8Next l with
    | .none => []
    | .ok c n => .cp c off :: decodeRun mode final fuel (off + n) (l.drop n)
    | .ill n => illItems mode off (l.take n) ++ decodeRun mode final fuel (off + n) (l.drop n)
    | .incomplete n => if final then illItems mode off (l.take n) else []

/-! ### Normalisation (R406): code points with their input offsets -/

/-- Places a combining mark in the canonical order behind those already placed (reversed list). -/
def placeMark (c : Nat × Nat) : List (Nat × Nat) → List (Nat × Nat)
  | [] => [c]
  | x :: rest =>
    if Config.combiningClass c.1 ≠ 0 ∧ Config.combiningClass c.1 < Config.combiningClass x.1 then
      x :: placeMark c rest
    else c :: x :: rest

/-- Stream-Safe insertion: U+034F after every 30 consecutive non-starters. -/
def streamSafe : Nat → List (Nat × Nat) → List (Nat × Nat)
  | _, [] => []
  | n, c :: rest =>
    if Config.combiningClass c.1 = 0 then c :: streamSafe 0 rest
    else if n = 30 then (0x034F, c.2) :: c :: streamSafe 1 rest
    else c :: streamSafe (n + 1) rest

/-- Composition under way: what is finished, the open starter, and the marks behind it. -/
structure Compose where
  fin  : List (Nat × Nat) := []
  st   : Option (Nat × Nat) := none
  mid  : List (Nat × Nat) := []
  deriving DecidableEq, Repr

/-- One code point composed onto the open starter unless it is blocked. -/
def composeStep (a : Compose) (c : Nat × Nat) : Compose :=
  let cc := Config.combiningClass c.1
  match a.st with
  | none => if cc = 0 then { a with st := some c } else { a with fin := a.fin ++ [c] }
  | some s =>
    let blocked := match a.mid.getLast? with
      | none => false
      | some x => decide (cc ≤ Config.combiningClass x.1)
    match (if blocked then none else Config.compose s.1 c.1) with
    | some p => { a with st := some (p, s.2) }
    | none =>
      if cc = 0 then { fin := a.fin ++ s :: a.mid, st := some c, mid := [] }
      else { a with mid := a.mid ++ [c] }

/-- NFC (1) or NFKC (2) of a stretch of code points; 0 leaves it. -/
def normalise (form : Nat) (l : List (Nat × Nat)) : List (Nat × Nat) :=
  if form = 0 then l
  else
    let d := (l.map (fun c => (Config.decompose (form = 2) c.1).map (fun x => (x, c.2)))).flatten
    let ordered := ((streamSafe 0 d).foldl (fun acc c => placeMark c acc) []).reverse
    let r := ordered.foldl composeStep ({} : Compose)
    r.fin ++ (match r.st with
      | none => []
      | some s => s :: r.mid)

/-! ### Special literals and pre-split (R408, R409) -/

/-- A stretch that a stage emits: a piece of code points, a token of its own, or a rejection. -/
inductive Seg where
  | piece (l : List (Nat × Nat))
  | tok (t off : Nat)
  | bad (off : Nat)
  deriving DecidableEq, Repr

/-- The code points of a literal. -/
def literalCps (b : List Byte) (i : Nat) : List Nat :=
  (decodeRun 0 true 64 0 (literal b i).2).filterMap (fun x => match x with
    | .cp c _ => some c
    | _ => none)

/-- The longest literal at the front of a stretch: its token and length. -/
def literalAt (b : List Byte) (l : List (Nat × Nat)) : Option (Nat × Nat) :=
  (List.range (vocSpecials b)).foldl (fun best i =>
    let c := literalCps b i
    if c.length ≠ 0 ∧ c.isPrefixOf (l.map (·.1)) then
      match best with
      | some (t, n) => if n < c.length then some ((literal b i).1, c.length) else some (t, n)
      | none => some ((literal b i).1, c.length)
    else best) none

/-- A stretch cut at the literals it holds; `cur` is the open ordinary stretch. -/
def cutLiterals (b : List Byte) : Nat → List (Nat × Nat) → List (Nat × Nat) → List Seg
  | 0, cur, _ => if cur.isEmpty then [] else [.piece cur]
  | fuel + 1, cur, l =>
    match l with
    | [] => if cur.isEmpty then [] else [.piece cur]
    | c :: rest =>
      match literalAt b l with
      | some (t, n) =>
        (if cur.isEmpty then [] else [.piece cur]) ++ .tok t c.2 :: cutLiterals b fuel [] (l.drop n)
      | none => cutLiterals b fuel (cur ++ [c]) rest

/-- Length of the longest suffix that is a proper prefix of some literal: what a lane holds back (R408). -/
def literalHold (b : List Byte) (l : List (Nat × Nat)) : Nat :=
  ((List.range (l.length + 1)).reverse.find? (fun n =>
    n ≠ 0 && (List.range (vocSpecials b)).any (fun i =>
      let c := literalCps b i
      decide (n < c.length) && decide (c.take n = (l.drop (l.length - n)).map (·.1))))).getD 0

/-- Pieces of a stretch by code-point class (R409); `cur` is the open piece. -/
def presplit (b : List Byte) : List (Nat × Nat) → List (Nat × Nat) → List (List (Nat × Nat))
  | cur, [] => if cur.isEmpty then [] else [cur]
  | cur, c :: rest =>
    match cur.getLast? with
    | none => presplit b [c] rest
    | some p => if splits b p.1 c.1 then cur :: presplit b [c] rest else presplit b (cur ++ [c]) rest

/-- A piece cut at MAX_PIECE bytes (R409): `size` is the byte length of `cur`. -/
def cutPiece (maxP : Nat) : List (Nat × Nat) → Nat → List (Nat × Nat) → List (List (Nat × Nat))
  | cur, _, [] => if cur.isEmpty then [] else [cur]
  | cur, size, c :: rest =>
    let n := (utf8Enc c.1).length
    if maxP < size + n ∧ ¬cur.isEmpty then cur :: cutPiece maxP [c] n rest
    else cutPiece maxP (cur ++ [c]) (size + n) rest

/-! ### Tokenisation models (R410 to R412) -/

/-- Lowest merge index of a pair and its result token. -/
def mergeOf (b : List Byte) (x y : Nat) : Option (Nat × Nat) :=
  (List.range (vocMerges b)).findSome? (fun i =>
    let e := secOff b 4 + 12 * i
    if field b e 4 = x ∧ field b (e + 4) 4 = y then some (i, field b (e + 8) 4) else none)

/-- The pair to merge next: lowest index, leftmost; its place and result. -/
def bestMerge (b : List Byte) : Nat → List Nat → Option (Nat × Nat × Nat)
  | i, x :: y :: rest =>
    let tail := bestMerge b (i + 1) (y :: rest)
    match mergeOf b x y, tail with
    | none, t => t
    | some (r, z), none => some (r, i, z)
    | some (r, z), some (r', i', z') => if r ≤ r' then some (r, i, z) else some (r', i', z')
  | _, _ => none

/-- Byte-level BPE (R410): each round merges one pair, so the length bounds the rounds. -/
def bpe (b : List Byte) : Nat → List Nat → List Nat
  | 0, l => l
  | n + 1, l =>
    match bestMerge b 0 l with
    | none => l
    | some (_, i, z) => bpe b n (l.take i ++ z :: l.drop (i + 2))

/-- The longest ordinary entry of the wanted continuation flag that matches at the front, lowest token first. -/
def longestEntry (b : List Byte) (cont : Bool) (l : List Byte) : Option (Nat × Nat) :=
  (List.range (vocSize b)).foldl (fun best t =>
    if ordinary b t && (bit (pieceKind b t) 0 == cont) && (pieceStr b t).isPrefixOf l then
      match best with
      | some (u, n) => if n < pieceLen b t then some (t, pieceLen b t) else some (u, n)
      | none => some (t, pieceLen b t)
    else best) none

/-- Greedy longest match (R411): the tokens, or the byte at which no entry matches. -/
def greedy (b : List Byte) : Nat → Nat → List Byte → Except Nat (List Nat)
  | 0, _, _ => .ok []
  | fuel + 1, pos, l =>
    if l.isEmpty then .ok []
    else
      match longestEntry b (pos ≠ 0) l with
      | none => .error pos
      | some (t, n) =>
        match greedy b fuel (pos + n) (l.drop n) with
        | .ok r => .ok (t :: r)
        | .error p => .error p

/-- The best ordinary entry whose string is exactly some bytes: highest score in the order of R380, then lowest
token. -/
def entryFor (b : List Byte) (s : List Byte) : Option (Nat × Nat) :=
  (List.range (vocSize b)).foldl (fun best t =>
    if ordinary b t && pieceStr b t == s then
      let sc := field b (secOff b 5 + 4 * t) 4
      match best with
      | some (u, w) => if rankKey w < rankKey sc then some (t, sc) else some (u, w)
      | none => some (t, sc)
    else best) none

/-- A candidate of the unigram lattice: its start, its token (none: uncovered code point) and its total. -/
structure Lattice where
  start : Nat
  token : Option Nat
  total : Nat
  deriving DecidableEq, Repr

/-- The candidate over [s, e) of a piece's code points, if there is one. -/
def candidate (b : List Byte) (cps : List Nat) (s e : Nat) : Option (Option Nat × Nat) :=
  match entryFor b (((cps.drop s).take (e - s)).map utf8Enc).flatten with
  | some (t, sc) => some (some t, sc)
  | none => if e = s + 1 then some (none, vocUnkScore b) else none

/-- The lattice node at e from the totals of the earlier nodes (index 0 is position 0): smallest s on ties. -/
def latticeNode (b : List Byte) (cps : List Nat) (done : List Lattice) (e : Nat) : Lattice :=
  (List.range e).foldl (fun best s =>
    match candidate b cps s e with
    | none => best
    | some (t, sc) =>
      let total := fadd (done.getD s { start := 0, token := none, total := 0 }).total sc
      if best.start = e ∨ rankKey best.total < rankKey total then { start := s, token := t, total := total }
      else best) { start := e, token := none, total := 0 }

/-- All lattice nodes of a piece, position 0 first. -/
def lattice (b : List Byte) (cps : List Nat) : List Lattice :=
  (List.range cps.length).foldl (fun done i => done ++ [latticeNode b cps done (i + 1)])
    [{ start := 0, token := none, total := 0 }]

/-- The walk back from a position, in forward order: (start, token). -/
def walkBack (l : List Lattice) : Nat → Nat → List (Nat × Option Nat)
  | 0, _ => []
  | fuel + 1, e =>
    if e = 0 then []
    else
      let x := l.getD e { start := 0, token := none, total := 0 }
      walkBack l fuel x.start ++ [(x.start, x.token)]

/-- What carding a stretch yields: tokens with the offset that emits them, up to a rejection. -/
structure Carded where
  toks : List (Nat × Nat) := []
  bad  : Option Nat := none
  deriving DecidableEq, Repr

/-- Concatenation up to the first rejection. -/
def Carded.andThen (a c : Carded) : Carded :=
  match a.bad with
  | some _ => a
  | none => { toks := a.toks ++ c.toks, bad := c.bad }

/-- Input offset of byte `i` of a piece: inside a code point it counts on only when the text is not
normalised (R423). -/
def byteOffset (norm : Nat) (piece : List (Nat × Nat)) (i : Nat) : Nat :=
  (((piece.map (fun c => (utf8Enc c.1).mapIdx (fun k _ => if norm = 0 then c.2 + k else c.2))).flatten).getD i 0)

/-- One piece tokenised (R410 to R412). -/
def tokenise (b : List Byte) (norm : Nat) (piece : List (Nat × Nat)) : Carded :=
  let off := (piece.headD (0, 0)).2
  let bytes := (piece.map (fun c => utf8Enc c.1)).flatten
  if vocModel b = 1 then
    { toks := (bpe b bytes.length (bytes.map (byteToken b))).map (fun t => (t, off)) }
  else if vocModel b = 2 then
    match greedy b bytes.length 0 bytes with
    | .ok r => { toks := r.map (fun t => (t, off)) }
    | .error p =>
      if vocUnk b = noToken then { bad := some (byteOffset norm piece p) } else { toks := [(vocUnk b, off)] }
  else
    let cps := piece.map (·.1)
    (walkBack (lattice b cps) (cps.length + 1) cps.length).foldl (fun acc x =>
      acc.andThen (match x.2 with
        | some t => { toks := [(t, off)] }
        | none =>
          let c := piece.getD x.1 (0, 0)
          if bit (vocFlags b) 0 then { toks := (utf8Enc c.1).map (fun y => (byteToken b y, off)) }
          else if vocUnk b = noToken then { bad := some c.2 }
          else { toks := [(vocUnk b, off)] })) {}

/-! ### A whole text run -/

/-- Modes of a text stream (R194). -/
structure TextModes where
  utf8 : Nat := 0
  norm : Nat := 0
  specials : Bool := false
  deriving DecidableEq, Repr

/-- The image lacks what the modes need (R407). -/
def lacks (b : List Byte) (m : TextModes) : Bool :=
  (m.utf8 = 1 && !bit (vocFlags b) 0) || (m.norm = 1 && !bit (vocFlags b) 1) || (m.norm = 2 && !bit (vocFlags b) 2)

/-- Maximal stretches of code points between byte tokens and rejections. -/
def stretches : List (Nat × Nat) → List Item → List (Sum (List (Nat × Nat)) Item)
  | cur, [] => if cur.isEmpty then [] else [.inl cur]
  | cur, .cp c off :: rest => stretches (cur ++ [(c, off)]) rest
  | cur, x :: rest => (if cur.isEmpty then [] else [.inl cur]) ++ .inr x :: stretches [] rest

/-- A stretch without what a lane still holds at its end: from the last starter on under normalisation. -/
def heldBack (m : TextModes) (l : List (Nat × Nat)) : List (Nat × Nat) :=
  if m.norm = 0 then l
  else (l.reverse.dropWhile (fun c => decide (Config.combiningClass c.1 ≠ 0))).drop 1 |>.reverse

/-- The segments of a run before tokenisation. `final` says that the END descriptor is carded: until then the
last stretch stays open, as far as the lane holds it. -/
def segments (b : List Byte) (m : TextModes) (bytes : List Byte) (final : Bool) : List Seg :=
  let st := stretches [] (decodeRun m.utf8 final bytes.length 0 bytes)
  let n := st.length
  (st.mapIdx (fun i x =>
    let isOpen := !final && decide (i + 1 = n)
    match x with
    | .inl l =>
      let norm := normalise m.norm (if isOpen then heldBack m l else l)
      let safe := if isOpen && m.specials then norm.take (norm.length - literalHold b norm) else norm
      let segs := if m.specials then cutLiterals b safe.length [] safe else [.piece safe]
      let pieces : List Seg := (segs.map (fun g => match g with
        | .piece p => ((presplit b [] p).map (fun q => (cutPiece (vocMaxPiece b) [] 0 q).map Seg.piece)).flatten
        | g => [g])).flatten
      if isOpen then
        (match pieces.getLast? with
         | some (.piece _) => pieces.dropLast
         | _ => pieces)
      else pieces
    | .inr (.raw x off) => [.tok (byteToken b x) off]
    | .inr (.bad off) => [.bad off]
    | .inr (.cp c off) => [.piece [(c, off)]])).flatten

/-- A text run carded: the tokens known so far and the rejection, if one is decided (R402 to R413, R423). -/
def cardText (b : List Byte) (m : TextModes) (bytes : List Byte) (final : Bool) : Carded :=
  if bytes.isEmpty then {}
  else if lacks b m then { bad := some 0 }
  else
    let r := (segments b m bytes final).foldl (fun (acc : Carded) g =>
      match acc.bad with
      | some _ => acc
      | none => acc.andThen (match g with
        | .piece p => tokenise b m.norm p
        | .tok t off => { toks := [(t, off)] }
        | .bad off => { bad := some off })) {}
    let bos := bit (vocFlags b) 3 && !r.toks.isEmpty
    let toks := if bos then (vocBos b, 0) :: r.toks else r.toks
    match toks[16777216]? with
    | some x => { toks := toks.take 16777216, bad := some x.2 }
    | none => { toks := toks, bad := r.bad }

/-! ### Bin tables (R417 to R419, R441) -/

def tabFlags (b : List Byte) : Nat := byteAt b 6
def tabN (b : List Byte) : Nat := field b 8 4
def tabBase (b : List Byte) : Nat := field b 12 4
def tabStride (b : List Byte) : Nat := field b 16 4
def tabMissing (b : List Byte) : Nat := field b 20 4
def tabLead (b : List Byte) : Nat := field b 24 4
/-- Boundary j as a binary64 pattern. -/
def tabBound (b : List Byte) (j : Nat) : Nat := field b (64 + 8 * j) 8
/-- Length that the header gives. -/
def tabLen (b : List Byte) : Nat := 64 + 8 * tabN b + (if bit (tabFlags b) 0 then 8 * (tabN b + 1) else 0)

/-- The first of a list of checks that fails, as DETAIL. -/
def firstFailing (l : List (Bool × Nat)) : Option Nat :=
  (l.find? (·.1)).map (·.2)

/-- The checks of a bin table in byte order (R417, R418, R441): DETAIL of the first failure. -/
def tableCheck (b : List Byte) : Option Nat :=
  let n := tabN b
  let head : List (Bool × Nat) :=
    [(field b 0 4 ≠ 0x54425856, 0), (field b 4 2 ≠ 1, 4), (4 ≤ tabFlags b, 6), (byteAt b 7 ≠ 0, 7),
     (n = 0 || 65536 < n, 8), (tabStride b = 0 || 262143 < tabStride b, 16),
     (262143 < tabBase b + tabStride b * n, 16),
     (tabMissing b ≠ noToken && 262144 ≤ tabMissing b, 20), (tabLead b ≠ noToken && 262144 ≤ tabLead b, 24),
     (!zeroAt b 28 36, (firstNonzero b 28 36).getD 28)]
  match firstFailing head with
  | some d => some d
  | none =>
    let body : List (Bool × Nat) := ((List.range n).map (fun j =>
        [(isNan64 (tabBound b j) || isInf64 (tabBound b j), 64 + 8 * j),
         (decide (0 < j) && decide (key64 (tabBound b j) ≤ key64 (tabBound b (j - 1))), 64 + 8 * j)])).flatten ++
      (if bit (tabFlags b) 0 then (List.range (n + 1)).map (fun i =>
        (isNan64 (field b (64 + 8 * n + 8 * i) 8), 64 + 8 * n + 8 * i)) else [])
    let present := body.filter (fun c => decide (c.2 + 8 ≤ b.length))
    match firstFailing present with
    | some d => some d
    | none => if b.length ≠ tabLen b then some (min b.length (tabLen b)) else none

/-- Bin of a finite value: boundaries at or below it (R419). -/
def binOf (b : List Byte) (v : Nat) : Nat :=
  ((List.range (tabN b)).filter (fun j => decide (key64 (tabBound b j) ≤ key64 v))).length

/-- The token of a binary64 element, or none where the run is rejected (R419). -/
def elemToken (b : List Byte) (v : Nat) : Option Nat :=
  if isNan64 v then (if tabMissing b = noToken then none else some (tabMissing b))
  else if isInf64 v then
    if bit (tabFlags b) 1 then none
    else if v / 2 ^ 63 % 2 = 1 then some (tabBase b)
    else some (tabBase b + tabN b * tabStride b)
  else some (tabBase b + binOf b v * tabStride b)

/-- The binary64 value just below a finite one. -/
def pred64 (v : Nat) : Nat :=
  if v % 2 ^ 63 = 0 then 2 ^ 63 + 1
  else if v / 2 ^ 63 % 2 = 1 then v + 1
  else v - 1

/-- The binary64 value nearest half the sum of two, ties to even. -/
def mid64 (x y : Nat) : Nat :=
  match (unpack fp64 x).add (unpack fp64 y) with
  | .fin neg m e => pack fp64 (.fin neg m (e - 1))
  | z => pack fp64 z

/-- The representative of a bin (R441). -/
def representative (b : List Byte) (i : Nat) : Nat :=
  let n := tabN b
  if bit (tabFlags b) 0 then field b (64 + 8 * n + 8 * i) 8
  else if i = 0 then pred64 (tabBound b 0)
  else if i = n then tabBound b (n - 1)
  else
    let m := mid64 (tabBound b (i - 1)) (tabBound b i)
    if key64 m = key64 (tabBound b i) then tabBound b (i - 1) else m

/-! ### Vocabulary image checks (R414, R415) -/

/-- Whether a token ID is in range. -/
def tokenOk (b : List Byte) (t : Nat) : Bool := decide (t < vocSize b)

/-- The header checks in byte order (R414). -/
def vocHeader (b : List Byte) : List (Bool × Nat) :=
  let t := fun (v : Nat) => v ≠ noToken && !tokenOk b v
  [(field b 0 4 ≠ 0x43565856, 0), (field b 4 2 ≠ 1, 4), (vocModel b = 0 || 3 < vocModel b, 6),
   (15 < vocFlags b, 7), (vocSize b = 0 || 262144 < vocSize b, 8), (t (vocUnk b), 12), (t (vocEos b), 16),
   (t (vocBos b) || (vocBos b = noToken && bit (vocFlags b) 3), 20), (field b 24 2 ≠ 0x0F01, 24),
   (vocMaxPiece b < 16 || 4096 < vocMaxPiece b, 26), (vocClasses b = 0 || 64 < vocClasses b, 28),
   (8 < byteAt b 29 || (vocModel b ≠ 2 && byteAt b 29 ≠ 0), 29), (1024 < vocSpecials b, 30),
   (!zeroAt b (32 + byteAt b 29) (8 - byteAt b 29), (firstNonzero b (32 + byteAt b 29) (8 - byteAt b 29)).getD 32),
   (vocModel b ≠ 3 && vocUnkScore b ≠ 0, 40),
   (1048576 < vocMerges b || (vocModel b ≠ 1 && vocMerges b ≠ 0), 44),
   (!zeroAt b 48 16, (firstNonzero b 48 16).getD 48)]

/-- A section must be present, may be present, or must be absent. -/
def vocPresence (b : List Byte) (i : Nat) : Option Bool :=
  if i = 0 ∨ i = 1 ∨ i = 3 then some true
  else if i = 2 then (if vocSpecials b ≠ 0 then some true else none)
  else if i = 4 then (if vocMerges b ≠ 0 then some true else none)
  else if i = 5 then (if vocModel b = 3 then some true else none)
  else if i = 6 then some (decide (vocFlags b / 2 % 4 ≠ 0))
  else some (bit (vocFlags b) 0)

/-- The length that a section's layout gives it, where it is fixed. -/
def vocLen (b : List Byte) (i : Nat) : Option Nat :=
  if i = 1 then some 512
  else if i = 2 then some (72 * vocSpecials b)
  else if i = 4 then some (12 * vocMerges b)
  else if i = 5 then some (4 * vocSize b)
  else if i = 7 then some 1024
  else none

/-- The checks of the SECTIONS entries in byte order: presence, alignment, place, overlap and length; a breach
shows at the entry. -/
def vocSections (b : List Byte) : List (Bool × Nat) :=
  (List.range 8).map (fun i =>
    let here := secHas b i
    let bad := match vocPresence b i with
      | some p => p != here
      | none => false
    let place := here && (secOff b i % 64 ≠ 0 || secOff b i < 256 || b.length < secOff b i + secLen b i ||
      (List.range i).any (fun j => secHas b j && decide (secOff b j < secOff b i + secLen b i) &&
        decide (secOff b i < secOff b j + secLen b j)))
    let len := here && (match vocLen b i with
      | some n => secLen b i ≠ n
      | none => if i = 0 then (secLen b i < 8704 || (secLen b i - 8704) % 256 ≠ 0)
                else if i = 3 then secLen b i < 8 * vocSize b else false)
    (bad || place || len || (vocModel b = 1 && i = 7 && !here), 64 + 16 * i))

/-- The content checks of the sections: indices, tokens, strings and reserved bytes. -/
def vocContents (b : List Byte) : List (Bool × Nat) :=
  let o := secOff b
  let blocks := (secLen b 0 - 8704) / 256
  ((List.range 4352).map (fun i => (decide (blocks ≤ field b (o 0 + 2 * i) 2), o 0 + 2 * i))) ++
  ((List.range (256 * blocks)).map (fun i => (decide (vocClasses b ≤ byteAt b (o 0 + 8704 + i)), o 0 + 8704 + i))) ++
  ((List.range (secLen b 2 / 72)).map (fun i =>
    let e := o 2 + 72 * i
    let n := byteAt b (e + 4)
    [(!tokenOk b (field b e 4), e), (n = 0 || 64 < n, e + 4), (!zeroAt b (e + 5) 3, (firstNonzero b (e + 5) 3).getD e),
     (!zeroAt b (e + 8 + n) (64 - n), (firstNonzero b (e + 8 + n) (64 - n)).getD e)])).flatten ++
  ((List.range (vocSize b)).map (fun t =>
    let e := o 3 + 8 * t
    [(decide (secLen b 3 < 8 * vocSize b + field b e 4 + pieceLen b t), e), (decide (8 ≤ pieceKind b t), if byteAt b (e + 6) < 8 then e + 7 else e + 6)])).flatten ++
  ((List.range (secLen b 4 / 12)).map (fun i =>
    (List.range 3).map (fun k => (!tokenOk b (field b (o 4 + 12 * i + 4 * k) 4), o 4 + 12 * i + 4 * k)))).flatten ++
  (if secHas b 7 then (List.range 256).map (fun i => (!tokenOk b (field b (o 7 + 4 * i) 4), o 7 + 4 * i)) else [])

/-- DETAIL of the first rule of R414 and R415 that an image breaks, if it breaks one. -/
def vocabCheck (b : List Byte) : Option Nat :=
  if b.length < 256 then some b.length
  else if 134217728 < b.length then some 134217728
  else
    match firstFailing (vocHeader b) with
    | some d => some d
    | none =>
      match firstFailing (vocSections b) with
      | some d => some d
      | none =>
        if !zeroAt b 192 64 then firstNonzero b 192 64
        else ((vocContents b).filter (·.1)).foldl (fun m c =>
          match m with
          | none => some c.2
          | some d => some (min d c.2)) none

/-- CRC-32C of a byte string (R452), bit-reflected. -/
def crc32c (b : List Byte) : Nat :=
  let step := fun (c : Nat) => if c % 2 = 1 then (c / 2) ^^^ 0x82F63B78 else c / 2
  (b.foldl (fun c x => step (step (step (step (step (step (step (step (c ^^^ x.toNat))))))))) 0xFFFFFFFF) ^^^ 0xFFFFFFFF

end Sys2Proof.Machine
end

