-- ==== Sys2Proof/Machine/Streams.lean ====
section
/-! DEFINITION. Output streams: what a committed token contributes, the UTF-8 assembler, stop strings, the index
walk, and the placing of output in buffers (14 R428 to R446). -/

namespace Sys2Proof.Machine

open Sys2Proof

/-- A STREAM_DONE record (R144, R146). -/
def streamDone (s : State) (f ring idx stream status count ledger : Nat) (tag : DWord) : State :=
  record s f (cplOf s f ring)
    { kind := 6, status := status, srcRing := ring, srcIndex := idx, ledger := ledger, userTag := tag,
      count := count, stream := stream % 65536 }

/-- The USER_TAG of a ledger index in a record: 0 when it names none. -/
def tagOf (s : State) (i : Nat) : DWord := if i = noLedger then 0 else (entOf s i).b.userTag

/-- A vocabulary image's bytes. -/
def vocabBytes (s : State) (h : Nat) : List Byte := (tget (default : Vocab) s.vocabs h).bytes
/-- A bin table's bytes. -/
def tableBytes (s : State) (h : Nat) : List Byte := (tget (default : BinTable) s.bins h).bytes

/-- Request flags of R140. -/
def flagFast (b : ReqBind) : Bool := b.flags.getLsbD 0
def flagSpeculate (b : ReqBind) : Bool := b.flags.getLsbD 1
def flagDrain (b : ReqBind) : Bool := b.flags.getLsbD 2
def flagReadmit (b : ReqBind) : Bool := b.flags.getLsbD 3
def flagNumeric (b : ReqBind) : Bool := b.flags.getLsbD 4

/-- COMMITTED_LEN. -/
def committedLen (e : Entry) : Nat := e.promptLen + e.generated
/-- The generated tokens of a request's history. -/
def generatedTokens (e : Entry) : List Nat := e.tokens.drop e.promptLen
/-- A request has ended. -/
def ended (st : ReqState) : Bool := st == .done || st == .failed
/-- A request is live: admitted and not ended. -/
def live (st : ReqState) : Bool := !(st == .free) && !ended st

/-! ### Text: what a token contributes (R434) and how it is assembled (R435) -/

/-- Bytes a token contributes; `first` says that no earlier token of the request contributed any. -/
def tokBytes (img : List Byte) (specials first : Bool) (t : Nat) : List Byte :=
  if vocSize img ≤ t then []
  else
    let k := pieceKind img t
    if bit k 1 then (if specials then pieceStr img t else [])
    else if bit k 2 then pieceStr img t
    else if vocModel img = 2 && !bit k 0 && !first then 0x20 :: pieceStr img t
    else pieceStr img t

/-- An ill-formed subpart under UTF8_MODE: U+FFFD or its own bytes. -/
def illBytes (mode : Nat) (l : List Byte) : List Byte := if mode = 1 then l else [0xEF, 0xBF, 0xBD]

/-- What the assembler emits of some bytes, and what it holds. -/
def assemble (mode : Nat) : Nat → List Byte → List Byte × List Byte
  | 0, l => ([], l)
  | fuel + 1, l =>
    match utf8Next l with
    | .none => ([], [])
    | .incomplete _ => ([], l)
    | .ok _ n => let r := assemble mode fuel (l.drop n); (l.take n ++ r.1, r.2)
    | .ill n => let r := assemble mode fuel (l.drop n); (illBytes mode (l.take n) ++ r.1, r.2)

/-- The longest suffix of some bytes that is a proper prefix of a stop string (R439). -/
def stopSuffix (stops : List (List Byte)) (l : List Byte) : Nat :=
  ((List.range (l.length + 1)).reverse.find? (fun n =>
    stops.any (fun p => decide (n < p.length) && p.take n == l.drop (l.length - n)))).getD 0

/-- The length of the longest stop string that ends at the end of some bytes: the match that starts earliest
(R440). -/
def stopMatch (stops : List (List Byte)) (l : List Byte) : Option Nat :=
  (stops.filter (fun p => decide (p.length ≤ l.length) && p == l.drop (l.length - p.length))).foldl
    (fun m p => some (max (m.getD 0) p.length)) none

/-- Emitted bytes passed through stop-string matching: written, held, and whether a match completed. -/
def stopFeed (stops : List (List Byte)) : List Byte → List Byte → List Byte × List Byte × Bool
  | held, [] => ([], held, false)
  | held, b :: rest =>
    let w := held ++ [b]
    match stopMatch stops w with
    | some n => (w.take (w.length - n), [], true)
    | none =>
      let n := stopSuffix stops w
      let r := stopFeed stops (w.drop (w.length - n)) rest
      (w.take (w.length - n) ++ r.1, r.2.1, r.2.2)

/-- The assembler and stop-string state of a request. -/
structure Asm where
  utf8  : List Byte := []
  held  : List Byte := []
  any   : Bool := false
  hit   : Bool := false
  out   : List Byte := []
  deriving DecidableEq, Repr

/-- One committed token felted: `eos` says that it is the EOS that ends the request. -/
def feedTok (img : List Byte) (mode : Nat) (specials : Bool) (stops : List (List Byte)) (a : Asm)
    (t : Nat) (eos : Bool) : Asm :=
  if a.hit || eos then a
  else
    let b := tokBytes img specials (!a.any) t
    let r := assemble mode (a.utf8.length + b.length) (a.utf8 ++ b)
    let m := stopFeed stops a.held r.1
    { utf8 := if m.2.2 then [] else r.2, held := m.2.1, any := a.any || !b.isEmpty, hit := m.2.2,
      out := a.out ++ m.1 }

/-- Tokens fed until a stop string completes: the state after, and how many tokens were fed. -/
def feedAll (img : List Byte) (mode : Nat) (specials : Bool) (stops : List (List Byte)) :
    Asm → List Nat → Asm × Nat
  | a, [] => (a, 0)
  | a, t :: rest =>
    let a' := feedTok img mode specials stops a t (t = vocEos img)
    if a'.hit then (a', 1)
    else
      let r := feedAll img mode specials stops a' rest
      (r.1, r.2 + 1)

/-- A request's assembler state. -/
def asmOf (x : EntryX) : Asm := { utf8 := x.heldUtf8, held := x.stopHeld, any := x.contributed, hit := x.stopHit }

/-- The output stream of a request. -/
def outStreamOf (s : State) (i : Nat) : Stream :=
  (streamOf s (entOf s i).b.fn (entOf s i).b.outStream).getD ({} : Stream)

/-- Committed tokens of a request not yet felted. -/
def unfelted (s : State) (i : Nat) : List Nat := (generatedTokens (entOf s i)).drop (entXOf s i).felted

/-- How many of some new tokens commit before a stop string completes, and whether one completes (R440). Stop
strings match text only, and matching goes on through a drain, since a drained request still runs to its natural
end (DEDUCED, log entry 14). -/
def stopCut (s : State) (i : Nat) (new : List Nat) : Nat × Bool :=
  let e := entOf s i
  if flagNumeric e.b || e.b.stops.isEmpty then (new.length, false)
  else
    let st := outStreamOf s i
    let img := vocabBytes s e.b.vocab
    let a := (feedAll img st.utf8 st.specials e.b.stops (asmOf (entXOf s i)) (unfelted s i)).1
    let r := feedAll img st.utf8 st.specials e.b.stops a new
    (r.2, r.1.hit)

/-! ### Buffers (R428 to R432) -/

/-- COUNT_k of a numeric descriptor, 1 beyond its dimensions (R421). -/
def countAt (d : StrDesc) (k : Nat) : Nat := if k < d.dims then d.counts.getD k 1 else 1
/-- Elements of a numeric descriptor. -/
def elemCount (d : StrDesc) : Nat := countAt d 0 * countAt d 1 * countAt d 2 * countAt d 3
/-- Bytes of an element. -/
def elemSize (d : StrDesc) : Nat := if d.f64 then 8 else 4

/-- The count of R95: what is complete at the last 4 KiB restart point. -/
def restartCount (x : Stream) (d : StrDesc) : Nat :=
  let unit := if x.kind = 4 then 4096 / elemSize d else 4096
  x.done / unit * unit

/-- The buffer in use completes: its STREAM_DONE goes out with the count written (R431), or after a refused write
with the count of R95 (R246, R444). -/
def outFinish (s : State) (f i status : Nat) : State :=
  match streamOf s f i with
  | none => s
  | some x =>
    match x.queue with
    | [] => s
    | (idx, d) :: rest =>
      let who := x.takers.headD noLedger
      let s1 := updStream s f i (fun y => { y with
        queue := rest, done := 0, started := false, runErr := false, tail := [] })
      streamDone s1 f x.ring idx i status (if status = 0 then x.done else restartCount x d) who (tagOf s who)

/-- The buffer in use ends badly: what was written behind its last restart point goes to the next buffer (R95). -/
def outFail (s : State) (f st i status : Nat) : State :=
  match streamOf s f st with
  | none => s
  | some x =>
    match x.queue with
    | [] => s
    | (_, d) :: _ =>
      let s1 := updEntX s i (fun y =>
        if x.kind = 4 then { y with felted := y.felted - (x.done - restartCount x d) }
        else { y with pendingOut := x.tail ++ y.pendingOut })
      outFinish (if status = 0x18 then cnt s1 f 0x418 1 else s1) f st status

/-- Every queued buffer of a stream returned unused: STREAM_CLOSED with COUNT 0 (R432). -/
def outReturn (s : State) (f i : Nat) : State :=
  match streamOf s f i with
  | none => s
  | some x =>
    x.queue.foldl (fun s q => streamDone s f x.ring q.1 i 0x19 0 noLedger 0)
      (updStream s f i (fun y => { y with
        queue := [], done := 0, started := false, runErr := false, tail := [] }))

/-- Whether output may be written to a range now: its tier X pages need a function that may issue requests (R98, R446) and,
with ATS enabled, their translations (R77). -/
def mayPlace (s : State) (f dva n : Nat) : Bool :=
  (List.range n).all (fun k => match leafOf s (asidOf f) (dva + k) with
    | .host pasid iova _ => busOn s f && (!atsOn s f || s.atc.contains (f, pasid, iova / 4096))
    | _ => true)

/-- Every byte of a range may be written by the function (R272). -/
def writable (s : State) (f dva : Nat) (n : Nat) : Bool :=
  (List.range n).all (fun k => match leafOf s (asidOf f) (dva + k) with
    | .mapped _ _ w => w
    | .host _ _ w => w
    | _ => false)

/-- Felted text placed in the buffers of its stream, from restart point to restart point; `fuel` bounds the pieces
tried. A refused partial write ends its buffer with POISON_PARTIAL_WRITE, a fault with PERMISSION_FAULT, and the
output goes on in the next one (R288, R444). -/
def placeText (s : State) (f st i : Nat) : Nat → State
  | 0 => s
  | fuel + 1 =>
    let out := (entXOf s i).pendingOut
    match streamOf s f st with
    | none => s
    | some x =>
      match x.queue with
      | [] => s
      | (_, d) :: _ =>
        let a := d.buffer + x.done
        let n := min out.length (min (d.length - x.done) (4096 - x.done % 4096))
        if out.isEmpty || x.takers.head? ≠ some i || !mayPlace s f a n then s
        else
          if !writable s f a n then placeText (outFail s f st i 0x18) f st i fuel
          else
            let r := storeDva s f a (out.take n) true false []
            if !r.2.isEmpty then placeText (refusedFound (outFail r.1 f st i 0x16) r.2) f st i fuel
            else
            let s2 := updEntX r.1 i (fun y => { y with pendingOut := out.drop n })
            let s3 := cnt (updStream s2 f st (fun y => { y with
              done := y.done + n,
              tail := if (x.done + n) % 4096 = 0 then [] else y.tail ++ out.take n })) f 0x110 n
            placeText (if x.done + n = d.length then outFinish s3 f st 0 else s3) f st i fuel

/-- A bound on the pieces that placing a request's output takes. -/
def placeFuel (s : State) (f st i : Nat) : Nat :=
  2 * ((streamOf s f st).getD ({} : Stream)).queue.length + (entXOf s i).pendingOut.length + 2

/-- A request's text placed; the buffer in use completes when the felting of what has committed is done and at least one
byte stands in it (R431). -/
def placeStep (s : State) (f st i : Nat) : State :=
  let s1 := placeText s f st i (placeFuel s f st i)
  let wrote := match streamOf s1 f st with
    | some y => y.kind = 2 && decide (0 < y.done) && (y.takers.head? == some i) && (entXOf s1 i).pendingOut.isEmpty &&
        (unfelted s1 i).isEmpty
    | none => false
  if wrote then outFinish s1 f st 0 else s1

/-- The address of element `n` in walk order (R421). -/
def elemAddr (d : StrDesc) (n : Nat) : Nat :=
  let i0 := n % countAt d 0
  let i1 := n / countAt d 0 % countAt d 1
  let i2 := n / (countAt d 0 * countAt d 1) % countAt d 2
  let i3 := n / (countAt d 0 * countAt d 1 * countAt d 2)
  (((d.buffer : Int) + i0 * d.strides.getD 0 0 + i1 * d.strides.getD 1 0 + i2 * d.strides.getD 2 0 +
    i3 * d.strides.getD 3 0) % (2 ^ 64 : Int)).toNat

/-- What a committed token does to the numeric buffer in use (R442). -/
inductive NumAct where
  | skip
  | lead
  | write (v : Nat)
  | foreign
  deriving DecidableEq, Repr

/-- The act of a token on a bin table; `fresh` says that the buffer has received no token. -/
def numAct (eos : Nat) (tab : List Byte) (fresh : Bool) (t : Nat) : NumAct :=
  let i := (t - tabBase tab) / tabStride tab
  if t = eos then .skip
  else if fresh && t = tabLead tab && tabLead tab ≠ noToken then .lead
  else if tabBase tab ≤ t && (t - tabBase tab) % tabStride tab = 0 && i ≤ tabN tab then .write (representative tab i)
  else if t = tabMissing tab && tabMissing tab ≠ noToken then .write fp64.nan
  else .foreign

/-- An element's bytes: binary64 as it is, binary32 rounded (R443). -/
def elemBytes (d : StrDesc) (v : Nat) : List Byte := if d.f64 then le 8 v else le 4 (narrow v)

/-- One element written into the numeric buffer in use, which completes when its walk ends (R431, R443). -/
def putElem (s : State) (f st i : Nat) (d : StrDesc) (done v : Nat) : State :=
  let a := elemAddr d done
  let back := updEntX s i (fun y => { y with felted := y.felted - 1 })
  if !writable s f a (elemSize d) then outFail back f st i 0x18
  else
    let r := storeDva s f a (elemBytes d v) true false []
    if !r.2.isEmpty then
      refusedFound (outFail (updEntX r.1 i (fun y => { y with felted := y.felted - 1 })) f st i 0x16) r.2
    else
    let s2 := cnt (updStream r.1 f st (fun y => { y with done := y.done + 1, started := true })) f 0x118 1
    if done + 1 = elemCount d then outFinish s2 f st 0 else s2

/-! ### Vocabulary SRAM (R416, R424) -/

/-- Vocabulary SRAM: 48 banks of 128 KiB. -/
def vocabSram : Nat := 6291456
/-- Bytes of vocabulary SRAM that resident images leave free. -/
def sramFree (s : State) : Nat := vocabSram - ((s.vocabs.filter (·.2.resident)).map (fun kv => kv.2.bytes.length)).sum
/-- Bytes that cached tables take. -/
def sramTables (s : State) : Nat := ((s.bins.filter (·.2.cached)).map (fun kv => kv.2.bytes.length)).sum
/-- The least recently used cached table other than `h`. -/
def oldestTable (s : State) (h : Nat) : Option Nat :=
  ((s.bins.filter (fun kv => kv.2.cached && kv.1 ≠ h)).foldl (fun best kv =>
    match best with
    | some (_, t) => if kv.2.usedAt < t then some (kv.1, kv.2.usedAt) else best
    | none => some (kv.1, kv.2.usedAt)) none).map (·.1)
/-- Tables dropped, least recently used first, until the cache fits. -/
def evictTables (s : State) (h : Nat) : Nat → State
  | 0 => s
  | n + 1 =>
    if sramTables s ≤ sramFree s then s
    else match oldestTable s h with
      | none => s
      | some k => evictTables { s with bins := tmap s.bins (fun i t => if i = k then { t with cached := false } else t) } h n
/-- A table in use now, for the cache's order. -/
def useTable (s : State) (h : Nat) : State :=
  { s with bins := tmap s.bins (fun i t => if i = h then { t with usedAt := s.now } else t) }
/-- Whether a table is ready for a lane: cached, or larger than the cache. -/
def tableReady (s : State) (h : Nat) : Bool :=
  (tget (default : BinTable) s.bins h).cached || decide (sramFree s < (tableBytes s h).length)

/-! ### Lanes' turns (R397, R445) -/

/-- How far a key lies behind the one whose turn is next, in a round of `n`. -/
def turnDist (n next k : Nat) : Nat := (k + n - next % n) % n

/-- The first of two streams has its turn before the second: functions in turn, and within a function its rings or
streams in turn. -/
def sooner (t : Turn) (f k g l : Nat) : Bool :=
  if f = g then decide (turnDist 65536 (tget 0 t.next f) k < turnDist 65536 (tget 0 t.next f) l)
  else decide (turnDist 16 t.fn f < turnDist 16 t.fn g)

/-- The turns after a stream has been taken: the next function and, of its function, the next ring or stream. -/
def turned (t : Turn) (f k : Nat) : Turn := { fn := f + 1, next := tput t.next f (k + 1) }

/-- Every open stream: its function, its ID and itself. -/
def everyStream (s : State) : List (Nat × Nat × Stream) :=
  s.fns.flatMap (fun kv => kv.2.streams.map (fun x => (kv.1, x.1, x.2)))

/-- The EOS_TOKEN of a request's vocabulary. -/
def eosOf (s : State) (i : Nat) : Nat := vocEos (vocabBytes s (entOf s i).b.vocab)

/-- The numeric buffer in use of a request: the stream serves it, and the next element's address may be placed; without one
its output is held (R148, R428, R446). -/
def numBuffer (s : State) (i : Nat) : Option (StrDesc × Stream) :=
  let x := outStreamOf s i
  match x.queue with
  | [] => none
  | (_, d) :: _ =>
    if (x.takers.head? == some i) && mayPlace s (entOf s i).b.fn (elemAddr d x.done) (elemSize d) then some (d, x) else none

/-- The numeric buffer that a request's next token goes to now: one whose table is cached, too (R424). -/
def numRoom (s : State) (i : Nat) : Option (StrDesc × Stream) := (numBuffer s i).filter (fun b => tableReady s b.1.table)

/-- Committed tokens felted into numeric buffers while buffers last (R442); `fuel` bounds the tokens taken, those
of a buffer that ended badly being taken again. The EOS that ends the request needs no buffer. -/
def feltNum (s : State) (f st i : Nat) : Nat → State
  | 0 => s
  | fuel + 1 =>
    match unfelted s i with
    | [] => s
    | t :: _ =>
      let took := updEntX s i (fun y => { y with felted := y.felted + 1 })
      if t = eosOf s i then feltNum took f st i fuel
      else
        match numRoom s i with
        | none => s
        | some (d, x) =>
          let used := useTable took d.table
          match numAct (eosOf s i) (tableBytes s d.table) (!x.started) t with
          | .skip => feltNum used f st i fuel
          | .lead => feltNum (updStream used f st (fun y => { y with started := true })) f st i fuel
          | .write v => feltNum (putElem used f st i d x.done v) f st i fuel
          | .foreign =>
            let s1 := if x.runErr then used
              else logErr (updStream used f st (fun y => { y with runErr := true }))
                { seq := 0, code := 0x13, cls := 3, fn := f, ledger := i, detail := le 4 t ++ le 8 x.done }
            feltNum (putElem s1 f st i d x.done fp64.nan) f st i fuel

/-- The first committed token of the request that lies beyond its vocabulary is logged (R434). -/
def logForeign (s : State) (i : Nat) (new : List Nat) : State :=
  let e := entOf s i
  let img := vocabBytes s e.b.vocab
  if (entXOf s i).foreign then s
  else
    match new.findIdx? (fun t => decide (vocSize img ≤ t)) with
    | none => s
    | some k =>
      logErr (updEntX s i (fun y => { y with foreign := true }))
        { seq := 0, code := 0x13, cls := 3, fn := e.b.fn, ledger := i,
          detail := le 4 (new.getD k 0) ++ le 8 ((entXOf s i).felted + k) }

/-- A request's committed tokens felted (R433 to R443). -/
def felt (s : State) (i : Nat) : State :=
  let e := entOf s i
  let f := e.b.fn
  let new := unfelted s i
  if (entXOf s i).drained then updEntX s i (fun y => { y with felted := e.generated })
  else if flagNumeric e.b then feltNum s f e.b.outStream i (new.length + 1024 * ((outStreamOf s i).queue.length + 1))
  else
    let st := outStreamOf s i
    let s0 := logForeign s i new
    let a := (feedAll (vocabBytes s e.b.vocab) st.utf8 st.specials e.b.stops (asmOf (entXOf s0 i)) new).1
    let s1 := updEntX s0 i (fun y => { y with
      heldUtf8 := a.utf8, stopHeld := a.held, contributed := a.any, stopHit := a.hit,
      pendingOut := y.pendingOut ++ a.out, felted := e.generated })
    placeStep s1 f e.b.outStream i

/-- Output held beyond 4 KiB: the request is left out of steps (R148, R446). DESIGN CHOICE (log entry 128): while no buffer
gives a numeric stream's element size, each committed token not yet felted counts as 8 bytes; R148 does not say. -/
def outHeld (s : State) (i : Nat) : Bool :=
  let x := entXOf s i
  if flagNumeric (entOf s i).b then decide (4096 < 8 * (unfelted s i).length)
  else decide (4096 < x.pendingOut.length + x.heldUtf8.length + x.stopHeld.length)

/-! ### The end of a request's output (R432, R436, R446) -/

/-- The bytes still held at the end join the output once: the incomplete sequence as one ill-formed subpart
behind the bytes held for a stop string. -/
def flushHolds (s : State) (i : Nat) : State :=
  let x := entXOf s i
  if x.closed || x.drained || x.stopHit || flagNumeric (entOf s i).b then updEntX s i (fun y => { y with closed := true })
  else
    let tail := if x.heldUtf8.isEmpty then [] else illBytes (outStreamOf s i).utf8 x.heldUtf8
    updEntX s i (fun y => { y with
      closed := true, pendingOut := y.pendingOut ++ x.stopHeld ++ tail, heldUtf8 := [], stopHeld := [] })

/-- A request leaves its output stream: the buffer in use completes, and the queued buffers pass to the next
admitted request or are returned. -/
def detach (s : State) (i : Nat) : State :=
  let f := (entOf s i).b.fn
  let st := (entOf s i).b.outStream
  match streamOf s f st with
  | none => s
  | some x =>
    let s1 := if x.takers.head? = some i && (0 < x.done || x.started) then outFinish s f st 0 else s
    let s2 := updStream s1 f st (fun y => { y with takers := remove y.takers i })
    match streamOf s2 f st with
    | some y => if y.takers.isEmpty then outReturn s2 f st else s2
    | none => s2

/-- REQUEST_END (R501). -/
def requestEnd (s : State) (i : Nat) : State :=
  let e := entOf s i
  let s1 := updEntX s i (fun x => { x with recordDue := false })
  record s1 e.b.fn e.b.cplRing
    { kind := 4, status := e.endStatus, srcRing := e.b.reqRing, srcIndex := e.b.reqIndex, ledger := i,
      userTag := e.b.userTag, count := e.generated, commLen := committedLen e, ttft := e.ttftUs,
      energy := (entXOf s i).energy }

/-- The output of an ended request is settled: what it holds is flushed, placed while buffers last, and when
nothing is left the request leaves its stream and REQUEST_END is produced (R146, R436). -/
def settleOutput (s : State) (i : Nat) : State :=
  let e := entOf s i
  if !ended e.state || !(entXOf s i).recordDue then s
  else if !(unfelted s i).isEmpty && !(entXOf s i).drained then s
  else
    let s1 := flushHolds s i
    let s2 := placeText s1 e.b.fn e.b.outStream i (placeFuel s1 e.b.fn e.b.outStream i)
    if (entXOf s2 i).pendingOut.isEmpty || (entXOf s2 i).drained then requestEnd (detach s2 i) i else s2

/-- New room on an output stream: the request it serves places what it holds, and an ended one settles. The next
request of the stream follows when the first leaves; `fuel` bounds the requests served. -/
def serveOutput (s : State) (f st : Nat) : Nat → State
  | 0 => s
  | fuel + 1 =>
    match (streamOf s f st).bind (fun x => x.takers.head?) with
    | none => s
    | some i =>
      if ended (entOf s i).state then
        let s1 := settleOutput s i
        if (entXOf s1 i).recordDue then s1 else serveOutput s1 f st fuel
      else placeStep s f st i

/-- A DRAIN cancel takes effect on the output: nothing is written from now on, the buffer in use completes, and
queued buffers are returned when no other request names the stream (R432, R446). -/
def drainOutput (s : State) (i : Nat) : State :=
  let f := (entOf s i).b.fn
  let st := (entOf s i).b.outStream
  let s1 := updEntX s i (fun x => { x with drained := true, pendingOut := [], felted := (entOf s i).generated })
  match streamOf s1 f st with
  | none => s1
  | some x =>
    let s2 := if x.takers.head? = some i && (0 < x.done || x.started) then outFinish s1 f st 0 else s1
    if x.takers = [i] then outReturn s2 f st else s2

end Sys2Proof.Machine
end

