-- ==== Sys2Proof/Machine/Life.lean ====
section
/-! DEFINITION. The life of a request as operations: budgets, token history, KV blocks with their claims, prefix
sharing, Tidepool moves, pauses, ends and release (16 R470 to R502, 17 R516, 18 R531 to R556). -/

namespace Sys2Proof.Machine

open Sys2Proof

/-! ### Budgets (R484, R516) -/

/-- Moves tokens between a tenant's bucket, its reserved term and its spent term. -/
def charge (s : State) (i : Nat) (bucket reserved spent : Int) : State :=
  let f := (entOf s i).b.fn
  let s1 := updFn s f (fun x => { x with
    bucket := x.bucket + bucket, reserved := ((x.reserved : Int) + reserved).toNat,
    spent := ((x.spent : Int) + spent).toNat })
  updEntX s1 i (fun x => { x with
    reserved := ((x.reserved : Int) + reserved).toNat, spent := ((x.spent : Int) + spent).toNat })

/-- Settles the prompt reservation: `p` prefilled tokens are spent, the rest returns to the bucket. -/
def settleBudget (s : State) (i p : Nat) : State :=
  let r := (entXOf s i).reserved
  if r = 0 then s else charge s i ((r : Int) - p) (-(r : Int)) p

/-! ### KV blocks (R531 to R538) -/

/-- The model a request runs on. -/
def modelOf (s : State) (i : Nat) : Model := tget (default : Model) s.models (entXOf s i).runsOn
/-- A group's dies in rank order (R359). -/
def groupDies (m : Model) : List Nat := maskDies (placeMask m.placement)
/-- KV_DIE_BYTES, LPP and PPB of a model (R531). -/
def kvDieBytes (m : Model) : Nat := m.image.kvBytes / (groupDies m).length
def layersPerPage (m : Model) : Nat := 65536 / (32 * kvDieBytes m)
def pagesPerBlock (m : Model) : Nat := m.image.layers / layersPerPage m
/-- The home die of page `k` of a block. -/
def homeDie (m : Model) (k : Nat) : Nat := (groupDies m).getD (k / pagesPerBlock m) 0
/-- An empty block: every page absent-reserved. -/
def newBlock (m : Model) (reserve : Bool) : KvBlock :=
  { pages := List.replicate (pagesPerBlock m * (groupDies m).length) 0, reserve := reserve }
/-- Absent pages of a block, by index. -/
def absentPages (b : KvBlock) : List Nat :=
  if b.pooled then [] else (List.range b.pages.length).filter (fun k => b.pages.getD k 0 = 0)
/-- Claims of a request on a pool: pages of its blocks that are not allocated, on their home dies, or on tier C (pool
4) where R696 has moved the claim (R535). -/
def claimsOf (s : State) (i p : Nat) : Nat :=
  let m := modelOf s i
  ((entOf s i).kv.map (fun b => ((absentPages b).filter (fun k =>
    if k ∈ b.onC then p = 4 else homeDie m k = p)).length)).sum
/-- Claims on a pool. -/
def claimsOn (s : State) (p : Nat) : Nat := (s.ledger.map (fun kv => claimsOf s kv.1 p)).sum
/-- Free pages of a pool less its claims (R538; DEDUCED: the free pages that R525, R526, R536 and R537 compare are
these, log entry 17). -/
def freeLess (s : State) (p : Nat) : Nat := freePages s p - claimsOn s p
/-- `n` pages of a pool that no claim stands for, or none when it has fewer (R538). -/
def findFree (s : State) (p n : Nat) : Option (List Nat) := if n ≤ freeLess s p then findPages s p n else none
/-- HBM_LOW_PCT and HBM_HIGH_PCT of a die. -/
def lowPct (s : State) (d : Nat) : Nat := itemNow s idHbmLow d
def highPct (s : State) (d : Nat) : Nat := itemNow s idHbmHigh d
/-- A pool that would have `n` free pages keeps at least `pct` % of its pool. -/
def atLeastPct (d n pct : Nat) : Bool := decide (pct * poolSize d ≤ 100 * n)

/-! ### Token history (R478) -/

/-- The device address of the root table of a request's page list: 512 bytes in the tier C firmware area (R470, R532). -/
def pageRootDpa (i : Nat) : Nat := 65536 * areaFirst 4 + 512 * (Config.pageRoot i % (128 * areaPages 4))

/-- Tier C pages of 16,384 tokens allocated as the history grows. A page that no free tier C page serves is left
out of the list (log entry 16). -/
def growHistory (s : State) (i : Nat) : State :=
  let e := entOf s i
  let need := max 1 (cdiv e.tokens.length 16384) - e.histPages.length
  match findFree s 4 need with
  | some ps =>
    let s1 := takePages s ps (asidOf e.b.fn) .history i
    updEnt s1 i (fun x => { x with histPages := x.histPages ++ ps })
  | none => s

/-- Tokens written into a request's history from position `lo` on, 4 bytes each, page by page (R478); `fuel` bounds the
pages. -/
def putHistory (s : State) (i : Nat) : Nat → Nat → List Nat → State
  | 0, _, _ => s
  | fuel + 1, lo, toks =>
    if toks.isEmpty then s
    else
      let n := 16384 - lo % 16384
      let s1 := match (entOf s i).histPages[lo / 16384]? with
        | some p => (storeAt s (65536 * p + 4 * (lo % 16384)) ((toks.take n).map (le 4)).flatten []).1
        | none => s
      putHistory s1 i fuel (lo + n) (toks.drop n)

/-- A request's history grown over its sequence, and its tokens from position `lo` on written there. -/
def noteHistory (s : State) (i lo : Nat) : State :=
  let s1 := growHistory s i
  let toks := (entOf s1 i).tokens.drop lo
  putHistory s1 i (toks.length / 16384 + 2) lo toks

/-! ### Covers and reserves (R535 to R538) -/

/-- Blocks that cover slots 0 to L − 1 (R535). -/
def blocksFor (len : Nat) : Nat := cdiv len 32
/-- A request's cover, without its reserve. -/
def coverBlocks (e : Entry) : Nat := (e.kv.filter (fun b => !b.reserve)).length
/-- RESERVE_PAGES. -/
def reservePages (e : Entry) : Nat := b2n (e.kv.any (·.reserve))
/-- KV_PAGES: allocated pages, shared ones included. -/
def kvPageCount (e : Entry) : Nat := (e.kv.map (fun b => (b.pages.filter (· ≠ 0)).length)).sum

/-- Whether one more block can be claimed on every die of the group, keeping `pct` % of each pool free when it is
given. -/
def canClaim (s : State) (i : Nat) (low : Bool) : Bool :=
  let m := modelOf s i
  (groupDies m).all (fun d =>
    decide (pagesPerBlock m ≤ freeLess s d) &&
    (!low || atLeastPct d (freeLess s d - pagesPerBlock m) (lowPct s d)))

/-- Adds a block to a request. -/
def addBlock (s : State) (i : Nat) (b : KvBlock) : State := updEnt s i (fun e => { e with kv := e.kv ++ [b] })

/-- A page of a block taken for a request: from the pool its claim stands on, its home die's or tier C, else from
tier C (R287, R536, R696). -/
def takeKvPage (s : State) (i d : Nat) : Option (Nat × State) :=
  let asid := asidOf (entOf s i).b.fn
  match findPages s d 1 with
  | some (p :: _) => some (p, takePages s [p] asid .liveKv i)
  | _ =>
    match findPages s 4 1 with
    | some (p :: _) => some (p, takePages s [p] asid .liveKv i)
    | _ => none

/-- The absent pages of a block allocated, those in `onC` from tier C. -/
def fillPages (s : State) (i : Nat) (m : Model) (onC : List Nat) : Nat → List Nat → List Nat × State
  | _, [] => ([], s)
  | k, p :: rest =>
    if p ≠ 0 then
      let r := fillPages s i m onC (k + 1) rest
      (p :: r.1, r.2)
    else
      match takeKvPage s i (if k ∈ onC then 4 else homeDie m k) with
      | some (q, s1) =>
        let r := fillPages s1 i m onC (k + 1) rest
        (q :: r.1, r.2)
      | none =>
        let r := fillPages s i m onC (k + 1) rest
        (0 :: r.1, r.2)

/-- Every page of block `b` of a request allocated: each first write faults a page in, which is counted (R286, R535). -/
def fillBlock (s : State) (i b : Nat) : State :=
  match (entOf s i).kv[b]? with
  | none => s
  | some x =>
    let r := fillPages s i (modelOf s i) x.onC 0 x.pages
    let spilled := r.1.any (fun p => decide (0x1000000 ≤ p))
    let n := (r.1.filter (· ≠ 0)).length - (x.pages.filter (· ≠ 0)).length
    let s1 := if n = 0 then r.2 else cnt r.2 (entOf s i).b.fn 0x400 n
    updEnt s1 i (fun e => { e with kv := e.kv.set b { x with pages := r.1, spilled := x.spilled || spilled, onC := [] } })

/-- Blocks 0 to n − 1 of a request allocated. -/
def fillBlocks (s : State) (i n : Nat) : State := (List.range n).foldl (fun s b => fillBlock s i b) s

/-- One more cover block (R536): the reserve joins the cover; else it is claimed from tier H at any level; else
the columns that tier H cannot serve come from tier C. None when neither has the pages. -/
def growCover (s : State) (i : Nat) : Option State :=
  let e := entOf s i
  let m := modelOf s i
  if e.kv.any (·.reserve) then
    some (updEnt s i (fun x => { x with kv := x.kv.map (fun b => { b with reserve := false }) }))
  else if canClaim s i false then some (addBlock s i (newBlock m false))
  else
    let short := (groupDies m).filter (fun d => decide (freeLess s d < pagesPerBlock m))
    let n := short.length * pagesPerBlock m
    match findFree s 4 n with
    | some ps =>
      let s1 := takePages s ps (asidOf e.b.fn) .liveKv i
      let pages := (newBlock m false).pages.mapIdx (fun k _ =>
        if homeDie m k ∈ short then ps.getD (short.idxOf (homeDie m k) * pagesPerBlock m + k % pagesPerBlock m) 0 else 0)
      some (addBlock s1 i { newBlock m false with pages := pages, spilled := true })
    | none => none

/-- The cover grown to `n` blocks; false when it cannot be. -/
def coverTo (s : State) (i n : Nat) : Nat → State × Bool
  | 0 => (s, decide (n ≤ coverBlocks (entOf s i)))
  | fuel + 1 =>
    if n ≤ coverBlocks (entOf s i) then (s, true)
    else
      match growCover s i with
      | some s1 => coverTo s1 i n fuel
      | none => (s, false)

/-- The speculation reserve claimed when the pools allow it (R535, R536). -/
def claimReserve (s : State) (i : Nat) : State :=
  if (entOf s i).kv.any (·.reserve) || !canClaim s i true then s
  else addBlock s i (newBlock (modelOf s i) true)

/-- The reserve released: its claim dropped, its allocated pages returned (R535, R548). -/
def dropReserve (s : State) (i : Nat) : State :=
  let e := entOf s i
  let ps := ((e.kv.filter (·.reserve)).map (fun b => b.pages.filter (· ≠ 0))).flatten
  updEnt (releasePages s ps) i (fun x => { x with kv := x.kv.filter (fun b => !b.reserve) })

/-- One KV page left by a request: another sharer takes it over, or it is released (R542). -/
def leavePage (s : State) (i p : Nat) : State :=
  let rest := remove (pageOf s p).sharers i
  match rest with
  | [] => releasePages s [p]
  | _ =>
    let heir := rest.foldl min (rest.headD 0)
    updPage s p (fun x => { x with
      sharers := if rest.length = 1 then [] else rest, object := heir, owner := asidOf (entOf s heir).b.fn })

/-- Every KV page of a request released. -/
def releaseKv (s : State) (i : Nat) : State :=
  let ps := ((entOf s i).kv.map (fun b => b.pages.filter (· ≠ 0))).flatten
  let s1 := ps.foldl (fun s p => leavePage s i p) s
  let s2 := updEnt s1 i (fun e => { e with kv := [], kvDone := 0 })
  updEntX s2 i (fun x => { x with poolPages := 0, moving := false, fillFrom := 0 })

/-- A page of the KV store replaced by another wherever a request names it. -/
def remapKv (s : State) (p q : Nat) : State :=
  { s with ledger := tmap s.ledger (fun _ e => { e with
      kv := e.kv.map (fun b => { b with pages := b.pages.map (fun x => if x = p then q else x) }) }) }

/-! ### KV entries (R531, R534, R545, R547) -/

/-- The lines of the entry that a slot of a request holds on every die and for every layer: rank, layer, line and device
address (R531). -/
def entryLines (s : State) (i slot : Nat) : List (Nat × Nat × Nat × Nat) :=
  let m := modelOf s i
  let pages := ((entOf s i).kv.getD (slot / 32) {}).pages
  let l := (List.range (groupDies m).length).flatMap (fun r => (List.range m.image.layers).flatMap (fun y =>
    (List.range (kvDieBytes m / 64)).map (fun k =>
      (r, y, k, 65536 * pages.getD (r * pagesPerBlock m + y / layersPerPage m) 0 +
        (y % layersPerPage m * 32 + slot % 32) * kvDieBytes m + 64 * k))))
  l.filter (fun x => decide (65536 ≤ x.2.2.2))

/-- The entry of the last of some tokens written into a slot with full writes (R534, R545): its bytes are the operators'
results, which depend in reproducible order on the image, the die count and the tokens alone (R372). -/
def putKvEntry (s : State) (i slot draw : Nat) (toks : List Nat) : State :=
  let m := modelOf s i
  (entryLines s i slot).foldl (fun s x =>
    (storeWord s x.2.2.2 (padTo 64 (Config.kvLine m.image.digest (groupDies m).length x.1 x.2.1 x.2.2.1 toks draw)) .clean).1) s

/-- The draw number of a step's results: 0 in reproducible order (R371, R372). -/
def drawOf (s : State) (fast : Bool) : Nat := if fast then s.freeCtr + 1 else 0

/-- The entries of positions `lo` to `hi` of a request written. -/
def putKvEntries (s : State) (i lo hi : Nat) (fast : Bool) : State :=
  let s1 := (List.range (hi + 1 - lo)).foldl (fun s' k =>
    putKvEntry s' i (lo + k) (drawOf s fast) ((entOf s' i).tokens.take (lo + k + 1))) s
  if fast then drawn s1 else s1

/-- An entry copied from one slot to another, on every die and for every layer, with full writes (R547). -/
def copyEntry (s : State) (i src dst : Nat) : State :=
  ((entryLines s i src).zip (entryLines s i dst)).foldl (fun s' x =>
    (storeWord s' x.2.2.2.2 ((List.range 64).map (fun k => cellRead s.mem (x.1.2.2.2 + k))) .clean).1) s

/-- The name by which the model's fault rows call page `k` of a request's page list (log entry 18). -/
def kvDva (i k : Nat) : Nat := 2 ^ 56 + i * 2 ^ 40 + k * 65536
/-- The request and page number that such a name calls. -/
def kvName (dva : Nat) : Option (Nat × Nat) :=
  if 2 ^ 56 ≤ dva ∧ dva < 2 ^ 57 then some ((dva - 2 ^ 56) / 2 ^ 40, dva % 2 ^ 40 / 65536) else none
/-- The name of page `k` of a request's token history, and the request and page number that such a name calls. -/
def histDva (i k : Nat) : Nat := 2 ^ 57 + i * 2 ^ 40 + k * 65536
def histName (dva : Nat) : Option (Nat × Nat) :=
  if 2 ^ 57 ≤ dva then some ((dva - 2 ^ 57) / 2 ^ 40, dva % 2 ^ 40 / 65536) else none

/-! ### Prefix sharing (R539 to R542) -/

/-- Positions that a request's prefill covers: its whole sequence so far. -/
def prefillTarget (e : Entry) : Nat := committedLen e
/-- Prefill tokens still to compute. -/
def prefillLeft (e : Entry) : Nat := prefillTarget e - e.kvDone
/-- The prompt KV is complete: the request has sampled and no re-prefill is due. -/
def kvComplete (s : State) (i : Nat) : Bool :=
  decide (0 < (entOf s i).generated) && (entXOf s i).reprefill == 0

/-- Whether two requests may share under their functions' PREFIX_SHARE (R539). -/
def mayShare (s : State) (i d : Nat) : Bool :=
  let a := entOf s i
  let b := entOf s d
  let ps := fun (e : Entry) => itemBound s e.b.gen idPrefixShare e.b.fn
  if a.b.fn = b.b.fn then decide (1 ≤ ps a)
  else ps a = 2 && ps b = 2 && (modelOf s i).shared

/-- Leading blocks of two token lists that agree, as far as `n` blocks. -/
def agreeing (a b : List Nat) : Nat → Nat
  | 0 => 0
  | n + 1 => if a.take 32 = b.take 32 && (a.take 32).length = 32 then 1 + agreeing (a.drop 32) (b.drop 32) n else 0

/-- Matched blocks between a new request and a candidate donor (R539). -/
def matchedBlocks (s : State) (i d : Nat) : Nat :=
  agreeing (entOf s i).tokens (entOf s d).tokens (((entOf s i).promptLen - 1) / 32)

/-- Whether a ledger entry may be a donor for a request. A donor holds its KV in tier H, or is still to prefill
it (log entry 19). -/
def donorOk (s : State) (i d : Nat) : Bool :=
  let e := entOf s d
  d ≠ i && live e.state && !(e.state == .expired) && !(e.state == .pausedPool) && !flagFast e.b && e.promptLen ≠ 0 &&
    (entXOf s d).runsOn = (entXOf s i).runsOn && e.b.vocab = (entOf s i).b.vocab && mayShare s i d

/-- The donor: most matched blocks, lowest index (R539). -/
def findDonor (s : State) (i : Nat) : Option (Nat × Nat) :=
  (s.ledger.filter (fun kv => donorOk s i kv.1)).foldl (fun best kv =>
    let n := matchedBlocks s i kv.1
    match best with
    | some (_, m) => if m < n then some (kv.1, n) else best
    | none => if 0 < n then some (kv.1, n) else none) none

/-- A request takes over the first `n` blocks of its donor (R540, R541): its prefill starts behind them. -/
def shareBlocks (s : State) (i d n : Nat) : State :=
  let blocks := ((entOf s d).kv.take n).map (fun b => { b with shared := true })
  let ps := (blocks.map (fun b => b.pages.filter (· ≠ 0))).flatten
  let s1 := ps.foldl (fun s p => updPage s p (fun x => { x with
    sharers := insertNew (insertNew x.sharers d) i })) s
  let s2 := updEnt s1 d (fun e => { e with kv := e.kv.mapIdx (fun k b => if k < n then { b with shared := true } else b) })
  updEntX (updEnt s2 i (fun e => { e with kv := blocks, kvDone := 32 * blocks.length })) i
    (fun x => { x with fillFrom := 32 * blocks.length })

/-- A waiter's wait ends: it shares what there is, and its donor's count falls (R540). -/
def endWait (s : State) (i n : Nat) : State :=
  match (entXOf s i).prefixParent with
  | none => s
  | some d =>
    let s1 := updEntX s i (fun x => { x with prefixParent := none, prefixLen := 0 })
    let s2 := updEntX s1 d (fun x => { x with prefixWaiters := remove x.prefixWaiters i })
    if live (entOf s2 i).state then shareBlocks s2 i d n else s2

/-- The waiters of a donor whose matched blocks are now all committed share them (R540). -/
def waitersReady (s : State) (d : Nat) : State :=
  (entXOf s d).prefixWaiters.foldl (fun s w =>
    if 32 * (entXOf s w).prefixLen ≤ (entOf s d).kvDone then endWait s w (entXOf s w).prefixLen else s) s

/-- The waiters of a donor that stops prefilling short share the blocks it has completed (R540). -/
def waitersStop (s : State) (d : Nat) : State :=
  (entXOf s d).prefixWaiters.foldl (fun s w =>
    endWait s w (min (entXOf s w).prefixLen ((entOf s d).kvDone / 32))) s

/-- A completed prompt looks for a donor: it shares at once, or waits in ADMITTED (R539, R540). -/
def prefixMatch (s : State) (i : Nat) : State :=
  if flagFast (entOf s i).b then s
  else
    match findDonor s i with
    | none => s
    | some (d, n) =>
      let e := entOf s d
      let filling := e.state == .admitted || e.state == .prefill || (e.state == .draining && !kvComplete s d)
      if 32 * n ≤ e.kvDone then shareBlocks s i d n
      else if filling then
        updEntX (updEntX s i (fun x => { x with prefixParent := some d, prefixLen := n })) d
          (fun x => { x with prefixWaiters := x.prefixWaiters ++ [i] })
      else shareBlocks s i d (min n (e.kvDone / 32))

/-! ### Prompt runs (R396, R402, R423) -/

/-- The mark in a stream's list of takers for a request that has ended: its run is consumed without carding. -/
def goneTaker : Nat := 0xFFFFFFFF

/-- A request that ends before its run is complete leaves its mark on the run, which stays its run (R396, R427). -/
def leaveRun (s : State) (i : Nat) : State :=
  let b := (entOf s i).b
  updStream s b.fn b.inStream (fun x =>
    let k := ((x.takers.takeWhile (fun t => t ≠ i)).filter (fun t => t = goneTaker)).length
    if x.takers.contains i then
      { x with takers := x.takers.map (fun t => if t = i then goneTaker else t),
               gone := x.gone.take k ++ (i, b.userTag) :: x.gone.drop k }
    else x)

/-! ### Tidepool moves (R551, R552) -/

/-- Pages of the Tidepool in use or promised to moves under way. -/
def poolUsed (s : State) : Nat := (s.ledgerX.map (fun kv => kv.2.poolPages)).sum
/-- Tier C pages that moves under way will take. -/
def poolPromised (s : State) : Nat := ((s.ledgerX.filter (fun kv => kv.2.moving)).map (fun kv => kv.2.poolPages)).sum
/-- A paused state. -/
def paused (st : ReqState) : Bool := st == .pausedHot || st == .pausedPool || st == .expired
/-- Whether a move of a request carries a page: it is unshared, or every sharer is paused (R551). -/
def movesPage (s : State) (p : Nat) : Bool := (pageOf s p).sharers.all (fun t => paused (entOf s t).state)
/-- Pages a request's move takes to the Tidepool, spilled pages included. -/
def movePageList (s : State) (i : Nat) : List Nat :=
  ((((entOf s i).kv.filter (fun b => !b.reserve && !b.pooled)).map (fun b => b.pages.filter (· ≠ 0))).flatten).filter
    (movesPage s)
/-- Free Tidepool pages: within TIDEPOOL_GIB and the free pages of tier C (R552). -/
def poolFree (s : State) : Nat :=
  min (itemNow s idPoolGib 0 * 16384 - poolUsed s) (freeLess s 4 - poolPromised s)

/-! ### Ends of requests (R482, R500, R501) -/

/-- A request leaves its prefix parent. -/
def leaveParent (s : State) (i : Nat) : State :=
  match (entXOf s i).prefixParent with
  | none => s
  | some d =>
    updEntX (updEntX s i (fun x => { x with prefixParent := none, prefixLen := 0 })) d
      (fun x => { x with prefixWaiters := remove x.prefixWaiters i })

/-- A request reaches DONE or FAILED with a status: counted, its reservation settled, its run left, its reserve
released, its waiters served, and its output settled (R427, R436, R484, R500, R501, R535, R540). -/
def endReq (s : State) (i : Nat) (st : ReqState) (status : Nat) : State :=
  let e := entOf s i
  if !live e.state then s
  else
    let s1 := updEnt s i (fun x => { x with state := st, endStatus := status, urgent := false, pauseDue := false })
    let s2 := updEntX s1 i (fun x => { x with
      recordDue := true, slot := false, maskFor := none, tree := [],
      moving := false, poolPages := if x.moving then 0 else x.poolPages })
    let s3 := cnt s2 e.b.fn (if st = .done then 0x10 else 0x18) 1
    let s4 := settleBudget s3 i (min e.kvDone e.promptLen)
    let s5 := if e.promptLen = 0 then leaveRun s4 i else s4
    let s6 := dropReserve (leaveParent s5 i) i
    let s7 := if e.forced then s6 else waitersStop s6 i
    settleOutput s7 i

/-- A request fails (R500). -/
def failReq (s : State) (i status : Nat) : State := endReq s i .failed status
/-- A request ends CANCELLED. -/
def cancelled (s : State) (i : Nat) : State := endReq s i .done 0x104

/-- STEP_FAULT, PERMISSION_FAULT and the other end statuses of R145. -/
def stStepFault : Nat := 0x203
def stPermission : Nat := 0x18
def stEnergyShed : Nat := 0x202
def stDieLost : Nat := 0x201
def stFlr : Nat := 0x200

/-! ### Pause and resume (R487 to R493, R551 to R554) -/

/-- A REQUEST_STATE record (R144). -/
def stateRecord (s : State) (i code : Nat) : State :=
  let e := entOf s i
  record s e.b.fn e.b.cplRing
    { kind := 5, srcRing := e.b.reqRing, srcIndex := e.b.reqIndex, ledger := i, userTag := e.b.userTag,
      commLen := committedLen e, detail := code }

/-- The claims of a request dropped: its reserve, and the blocks of its cover that hold no page (R551). -/
def dropClaims (s : State) (i : Nat) : State :=
  updEnt (dropReserve s i) i (fun e => { e with kv := e.kv.filter (fun b => b.pages.any (· ≠ 0)) })

/-- A Tidepool move starts, or is refused with TIDEPOOL_FULL and handled under TIDEPOOL_FULL_ACTION (R551,
R552). -/
def startMove (s : State) (i : Nat) : State :=
  let e := entOf s i
  if !(e.state == .pausedHot) || (entXOf s i).moving then s
  else
    let n := (movePageList s i).length
    if n ≤ poolFree s then
      let s1 := dropClaims s i
      updEntX s1 i (fun x => { x with moving := true, poolPages := n, poolRefused := false })
    else
      let act := itemNow s idPoolFull e.b.fn
      let ev : Event := { code := 0x50, object := poolFree s, data := le 4 i ++ le 1 act ++ le 3 0 ++ le 4 n }
      let s1 := if (entXOf s i).poolRefused then s
        else
          let s' := updEntX (postFw s 0 ev) i (fun x => { x with poolRefused := true })
          if e.b.fn = 0 then s' else postFw s' e.b.fn ev
      if act = 1 then cancelled s1 i else s1

/-- A pause takes effect (R488): the slot and the reserve go, a prefill stopped short serves its waiters, and a
host-paused request, or one whose pages the scheduler needs, starts its move (R489). -/
def pauseNow (s : State) (i : Nat) : State :=
  let e := entOf s i
  if e.state == .admitted || e.state == .prefill || e.state == .ready || e.state == .decode then
    let s1 := updEnt s i (fun x => { x with state := .pausedHot, pauseDue := false, pausedAt := s.now, hostAt := s.now, urgent := false })
    let s2 := cnt (updEntX s1 i (fun x => { x with slot := false, tree := [] })) e.b.fn 0x420 1
    let s3 := dropReserve (waitersStop s2 i) i
    if e.hostPause || (entXOf s i).moveDue then startMove s3 i else s3
  else s

/-- A pause is asked for: at the commit point of the step in flight, or at once (R488). -/
def askPause (s : State) (i : Nat) : State :=
  if (entXOf s i).inStep then updEnt s i (fun x => { x with pauseDue := true }) else pauseNow s i

/-- Whether pages of a request are in the Tidepool. -/
def hasPooled (s : State) (i : Nat) : Bool := (entOf s i).kv.any (·.pooled)

/-- A paused request resumes (R472, R491): to READY when its prompt KV is complete, to ADMITTED otherwise; from
EXPIRED, or marked CACHE_LOST, by re-prefill. A move under way stops (R551). -/
def wake (s : State) (i : Nat) : State :=
  let e := entOf s i
  let again := e.state == .expired || e.cacheLost
  let s1 := updEntX s i (fun x => { x with
    reprefill := if again && (0 < e.generated || 0 < e.promptLen) then 1 else x.reprefill,
    moving := false, poolPages := if x.moving then 0 else x.poolPages, resumedAt := s.now, moveDue := false,
    fillFrom := if again then 0 else x.fillFrom })
  let full := kvComplete s i && !again
  updEnt s1 i (fun x => { x with
    state := if full then .ready else .admitted, expiry := 0,
    kvDone := if again then 0 else x.kvDone })

/-- The time of a host pause that ends is taken out of the latency measures (R486). -/
def endHostTime (s : State) (i : Nat) : State :=
  let e := entOf s i
  let d := s.now - e.hostAt
  updEnt s i (fun x => { x with
    hostPaused := x.hostPaused + d, lastToken := if 0 < x.generated then x.lastToken + d else x.lastToken })

/-- Entry into EXPIRED: the KV is freed and REQUEST_STATE is written (R490). -/
def toExpired (s : State) (i : Nat) : State :=
  let f := (entOf s i).b.fn
  let s1 := releaseKv s i
  let s2 := updEnt s1 i (fun x => { x with state := .expired, expiry := 0 })
  stateRecord (cnt s2 f 0x430 1) i 7

/-- Damage to a request's KV marks it CACHE_LOST (R254, R492, R543): counted once until it is mended. -/
def markCacheLost (s : State) (i lo hi : Nat) : State :=
  let e := entOf s i
  let s1 := if e.cacheLost then s else cnt s e.b.fn 0x438 1
  let s2 := updEnt s1 i (fun x => { x with cacheLost := true })
  updEntX s2 i (fun x => { x with mend := false, damaged := match x.damaged with
    | some (a, b) => some (min a lo, max b hi)
    | none => some (lo, hi) })

/-! ### The prompt (R396, R484, R539, R579) -/

/-- A complete run reaches its request: prompt, history, budget, estimate and prefix match; an empty run leaves
no position to sample from and fails the request (log entry 20). -/
def promptDone (s : State) (i : Nat) (toks : List Nat) : State :=
  let e := entOf s i
  if toks.isEmpty then failReq s i stStepFault
  else
    let n := toks.length
    let rest := n - (entXOf s i).reserved
    let m := (modelOf s i).image
    let s1 := charge s i (-(rest : Int)) rest 0
    let s2 := updEnt s1 i (fun x => { x with promptLen := n, tokens := toks })
    let s3 := updEntX s2 i (fun x => { x with energyEst := (m.prefillNj * n + m.decodeNj * x.estGen) / 1000 })
    prefixMatch (noteHistory (cnt s3 e.b.fn 0x20 n) i 0) i

/-- The tokens known so far of the run a stream is carding. -/
def runTokens (s : State) (x : Stream) (vocab : Nat) : List Nat :=
  if x.kind = 3 then x.run
  else (cardText (vocabBytes s (if x.vocab = 0 then vocab else x.vocab))
    { utf8 := x.utf8, norm := x.normalise, specials := x.specials } x.carry false).toks.map (·.1)

/-- Tokens that the run a new request will take holds now (R516, R579). -/
def heldTokens (s : State) (f st vocab : Nat) : Nat :=
  match streamOf s f st with
  | none => 0
  | some x =>
    match x.runs with
    | some r :: _ => r.length
    | none :: _ => 0
    | [] => if x.takers.isEmpty && !x.runErr then (runTokens s x vocab).length else 0

/-- A request is charged the energy that its run has taken before a request took it (R560). -/
def chargeRun (s : State) (i uj : Nat) : State := updEntX s i (fun x => { x with energy := x.energy + uj })

/-- A newly admitted request takes the oldest run that no earlier request has taken (R396, R423). -/
def takeRun (s : State) (i : Nat) : State :=
  let b := (entOf s i).b
  match streamOf s b.fn b.inStream with
  | none => s
  | some x =>
    match x.runs with
    | run :: rest =>
      let s1 := updStream s b.fn b.inStream (fun y => { y with runs := rest, runEnergy := y.runEnergy.drop 1 })
      let s2 := chargeRun s1 i (x.runEnergy.headD 0)
      match run with
      | some r => promptDone s2 i r
      | none => failReq s2 i stStepFault
    | [] =>
      let bad := x.takers.isEmpty && x.runErr
      let mine := if x.takers.isEmpty then x.energy else 0
      let s1 := chargeRun (updStream s b.fn b.inStream (fun y => { y with
        takers := y.takers ++ [i], energy := if x.takers.isEmpty then 0 else y.energy })) i mine
      if bad then failReq s1 i stStepFault else s1

/-! ### Release (R501, R591) -/

/-- Generations that an entry other than FREE holds. -/
def genHeld (s : State) (g : Nat) : Bool := s.ledger.any (fun kv => !(kv.2.state == .free) && kv.2.b.gen = g)

/-- An older generation that no entry holds stops being live: GENERATION_DRAINED (R591, R603). DESIGN CHOICE (log entry 133):
the spec does not say whether firmware raises this event; it is posted at once, also during a control-processor restart. -/
def drainGeneration (s : State) : State :=
  match s.conf.older with
  | none => s
  | some g =>
    if genHeld s g then s
    else
      post { s with conf := { s.conf with older := none, oldVals := [] } } 0
        { code := 0x33, object := g, data := le 2 s.conf.newest }

/-- An entry returns to FREE: KV, history and entry are released, and a generation may drain. -/
def freeEntry (s : State) (i : Nat) : State :=
  let s1 := releaseKv (waitersStop s i) i
  let s2 := releasePages s1 (entOf s1 i).histPages
  drainGeneration { s2 with ledger := tdel s2.ledger i, ledgerX := tdel s2.ledgerX i }

/-- Nothing names an ended entry any more: no step, lane, mask or fault record (R501). -/
def unreferenced (s : State) (i : Nat) : Bool :=
  !(entXOf s i).inStep && !(entXOf s i).recordDue && (entXOf s i).recWritten &&
    !s.steps.any (fun kv => kv.2.members.any (fun m => m.1 = i)) &&
    !s.faults.any (fun r => r.works.any (fun w => match w with
      | .step _ l => l = i
      | _ => false)) &&
    !((entOf s i).forced && decide (0 < (entXOf s i).prefixWaiters.length))

end Sys2Proof.Machine
end

