-- ==== Sys2Proof/Machine/Carding.lean ====
section
/-! DEFINITION. The carding engine's commands and the felting lane: lanes, chunks, runs and their rejection
(13 R396 to R427, 14 R433). -/

namespace Sys2Proof.Machine

open Sys2Proof

/-- An engine of R178 takes new work of a function: enabled, not being stopped, and the device not fatal (R628). -/
def engineOn (s : State) (f bit_ : Nat) : Bool :=
  !isFatal s && (fnOf s f).engines.getLsbD bit_ && !(fnOf s f).engStop.getLsbD bit_

/-- A hold of the Harbour die keeps its lanes at their restart points (R596). -/
def harbourHeld (s : State) : Bool := s.conf.holding.getLsbD 4

/-- The vocabulary that the current run of a text stream is carded with (R399, R427). -/
def runVocab (s : State) (x : Stream) : Nat :=
  if x.vocab ≠ 0 then x.vocab
  else match x.takers.head? with
    | some i => (entOf s i).b.vocab
    | none => 0

/-- The current run is consumed without carding: it is rejected, or its request has ended (R423, R427). -/
def dropping (x : Stream) : Bool := x.runErr || x.takers.head? == some goneTaker

/-- Bytes or elements of a descriptor. -/
def descLen (x : Stream) (d : StrDesc) : Nat := if x.kind = 3 then elemCount d else d.length
/-- Bytes or elements between two restart points (R283). -/
def chunkUnit (x : Stream) (d : StrDesc) : Nat := if x.kind = 3 then 4096 / elemSize d else 4096
/-- The part of a descriptor that the next chunk carries. -/
def chunkLen (x : Stream) (d : StrDesc) : Nat := min (chunkUnit x d) (descLen x d - x.done)
/-- Addresses and lengths that the next chunk reads. -/
def chunkSpans (x : Stream) (d : StrDesc) : List (Nat × Nat) :=
  if x.kind = 3 then (List.range (chunkLen x d)).map (fun k => (elemAddr d (x.done + k), elemSize d))
  else [(d.buffer + x.done, chunkLen x d)]
/-- Whether some byte of the next chunk lies in tier X. -/
def chunkHost (s : State) (f : Nat) (x : Stream) (d : StrDesc) : Bool :=
  (chunkSpans x d).any (fun p => (List.range p.2).any (fun k => match leafOf s (asidOf f) (p.1 + k) with
    | .host _ _ _ => true
    | _ => false))

/-- Reads of host memory that the next chunk needs, split at Max Read Request Size and 4 KiB boundaries (R89, R282). -/
def chunkReads (s : State) (f : Nat) (x : Stream) (d : StrDesc) : List (Nat × Nat) :=
  if dropping x then [] else spanReads s f (chunkSpans x d)

/-- The reads may go now: the function may issue them, has the tags (R92, R98) and holds the translations (R77). -/
def readsMayGo (s : State) (f : Nat) (l : List (Nat × Nat)) : Bool :=
  l.isEmpty || (busOn s f && decide (l.length ≤ freeTagCount s f) && readsTranslated s f l)

/-- Reads outstanding for a descriptor of a stream. -/
def inputReads (s : State) (f st idx : Nat) : Bool :=
  (fnOf s f).pci.tags.any (fun kv => match kv.2 with
    | .outstanding (.streamInput a b) _ _ _ => a = st && b = idx
    | _ => false)

/-- The lane that works on a stream, if one does. -/
def laneOn (s : State) (f st : Nat) : Option Nat :=
  (s.lanesIn.find? (fun kv => kv.2.busy && kv.2.fn = f && kv.2.stream = st)).map (·.1)

/-- A lane leaves its stream, whose carry state goes to tier C (R397, R427). -/
def freeLane (s : State) (f st : Nat) : State :=
  { s with lanesIn := tmap s.lanesIn (fun _ l => if l.fn = f ∧ l.stream = st then { l with busy := false } else l) }

/-- The next chunk's reads are issued, or the lane leaves the stream at the restart point until they can be (R92,
R98). -/
def askChunk (s : State) (f st : Nat) : State :=
  match streamOf s f st with
  | none => s
  | some x =>
    match x.queue with
    | [] => freeLane s f st
    | (idx, d) :: _ =>
      let l := chunkReads s f x d
      if readsMayGo s f l then issueReads s f (.streamInput st idx) l else freeLane s f st

/-- Whether a stream's next descriptor is ready for a lane (R397, R399). -/
def readyIn (s : State) (lane f st : Nat) : Bool :=
  match streamOf s f st with
  | none => false
  | some x =>
    match x.queue with
    | [] => false
    | (idx, d) :: _ =>
      !harbourHeld s && (x.kind = 1 || x.kind = 3) && engineOn s f 1 && !(tget ({} : Lane) s.lanesIn lane).busy &&
        (laneOn s f st).isNone && !x.waiting && (x.lane.isNone || x.lane = some lane) && !inputReads s f st idx &&
        readsMayGo s f (chunkReads s f x d)

/-- Whether a stream's run is bound to a lane. -/
def boundTo (x : Stream) (lane : Nat) : Bool := x.lane == some lane

/-- Whether a lane may take a stream now: its next descriptor is ready, and no other has an earlier turn. A run bound to
the lane goes before the streams that any lane can take (R397; DEDUCED, log entry 144). -/
def mayTakeIn (s : State) (lane f st : Nat) : Bool :=
  readyIn s lane f st && (everyStream s).all (fun o =>
    let me := (streamOf s f st).getD ({} : Stream)
    let other := o.2.2
    !readyIn s lane o.1 o.2.1 || (boundTo me lane && !boundTo other lane) ||
      (boundTo me lane == boundTo other lane && !sooner s.turnIn o.1 other.ring f me.ring))

/-- A lane takes a stream's next descriptor: the run is bound to it and its first chunk is asked for. -/
def takeIn (s : State) (lane f st : Nat) : State :=
  let s1 := { s with
    turnIn := turned s.turnIn f ((streamOf s f st).getD ({} : Stream)).ring
    lanesIn := tput s.lanesIn lane { fn := f, stream := st, busy := true } }
  askChunk (updStream s1 f st (fun x => { x with lane := some lane, started := true })) f st

def execCardingLaneTake (lane f : Fin 16) (stream : Nat) (s : State) : Host.Outcome State Fault Refusal :=
  occurs s (mayTakeIn s lane f stream) "lane take" (takeIn s lane f stream)

/-! ### Ends of descriptors and runs -/

/-- A run is rejected (R423): logged with its offset, and a request that has taken it fails. -/
def rejectRun (s : State) (f st off : Nat) : State :=
  match streamOf s f st with
  | none => s
  | some x =>
    let who := x.takers.headD noLedger
    let s1 := logErr (updStream s f st (fun y => { y with runErr := true }))
      { seq := 0, code := 0x12, cls := 3, fn := f, ledger := who, status := if who = noLedger then 0 else stStepFault,
        detail := le 2 st ++ le 2 0 ++ le 8 off }
    if who = noLedger then s1 else failReq s1 who stStepFault

/-- The END descriptor has ended: the run is complete, rejected, or was dropped, and goes to its request or waits
for one (R396). -/
def closeRun (s : State) (f st : Nat) : State :=
  match streamOf s f st with
  | none => s
  | some x =>
    let c := if x.kind = 3 || dropping x then ({} : Carded)
      else cardText (vocabBytes s (runVocab s x)) { utf8 := x.utf8, norm := x.normalise, specials := x.specials } x.carry true
    let s1 := match c.bad with
      | some off => rejectRun s f st off
      | none => s
    let bad := x.runErr || c.bad.isSome
    let toks := if x.kind = 3 then x.run else c.toks.map (·.1)
    let fresh := fun (y : Stream) => { y with
      run := [], carry := [], elems := 0, runErr := false, started := false, lane := none, takers := y.takers.drop 1,
      gone := if y.takers.head? = some goneTaker then y.gone.drop 1 else y.gone, energy := 0 }
    match x.takers.head? with
    | none => updStream s1 f st (fun y => { fresh y with
        runs := y.runs ++ [if bad then none else some toks], runEnergy := y.runEnergy ++ [y.energy] })
    | some i =>
      let s2 := updStream s1 f st fresh
      if bad || i = goneTaker then s2 else promptDone s2 i toks

/-- A descriptor fetched on a ring and not yet consumed names a stream. -/
def fetchedFor (s : State) (f st : Nat) : Bool :=
  (fnOf s f).rings.any (fun kv => kv.2.fetched.any (fun d => match d with
    | .str _ e => e.stream = st
    | _ => false))

/-- A closed stream that has worked off its descriptors goes (R195). -/
def dropClosed (s : State) (f st : Nat) : State :=
  if 65536 ≤ st && !fetchedFor s f st && ((streamOf s f st).map (fun x => x.queue.isEmpty)).getD false then
    updFn s f (fun y => { y with streams := tdel y.streams st })
  else s

/-- The request whose run a stream's front descriptor belongs to, with its USER_TAG: one that has ended keeps its run
(R142, R396). -/
def runOwner (s : State) (x : Stream) : Nat × DWord :=
  match x.takers.head? with
  | none => (noLedger, 0)
  | some i => if i = goneTaker then x.gone.headD (noLedger, 0) else (i, tagOf s i)

/-- The front descriptor ends: STREAM_DONE, then what a rejection or the run's end brings (R401, R423). -/
def finishIn (s : State) (f st status count : Nat) (reject : Option Nat) : State :=
  match streamOf s f st with
  | none => s
  | some x =>
    match x.queue with
    | [] => s
    | (idx, d) :: rest =>
      let who := runOwner s x
      let s1 := freeLane (updStream s f st (fun y => { y with queue := rest, done := 0, waiting := false })) f st
      let s2 := streamDone s1 f x.ring idx st status count who.1 who.2
      let s3 := match reject with
        | some off => rejectRun s2 f st off
        | none => s2
      dropClosed (if d.endd then closeRun s3 f st else s3) f st

/-! ### Chunks -/

/-- A chunk's bytes, or the status that ends the descriptor: a host read's outcome (R94), a permission fault
(R288), a poisoned line (R427). -/
def chunkData (s : State) (f : Nat) (x : Stream) (d : StrDesc) (read : HostRead) : Except Nat (List Byte) :=
  let spans := chunkSpans x d
  let addrs := spans.flatMap (fun p => (List.range p.2).map (p.1 + ·))
  match chunkHost s f x d, read with
  | true, .failed st => .error st
  | _, _ =>
    let host := match read with
      | .bytes b => b
      | .failed _ => []
    let bad := addrs.any (fun a => match leafOf s (asidOf f) a with
      | .mapped _ dpa _ => isPoisoned s dpa
      | _ => false)
    let gone := addrs.any (fun a => match leafOf s (asidOf f) a with
      | .mapped _ _ _ => false
      | .host _ _ _ => false
      | _ => true)
    if gone then .error stPermission
    else if bad then .error 0x14
    else .ok (addrs.mapIdx (fun k a => match leafOf s (asidOf f) a with
      | .mapped _ dpa _ => cellRead s.mem dpa
      | _ => host.getD k 0))

/-- Text bytes appended to the run and carded (R402 to R413). A rejected run stops at the restart point before the offending
byte, so the chunk that decides it counts none (R216, R423). -/
def cardBytes (s : State) (f st : Nat) (x : Stream) (d : StrDesc) (b : List Byte) : State :=
  let carry := x.carry ++ b
  let done := x.done + b.length
  let last := decide (done = d.length)
  let c := cardText (vocabBytes s (runVocab s x)) { utf8 := x.utf8, norm := x.normalise, specials := x.specials }
    carry (last && d.endd)
  let s1 := updStream s f st (fun y => { y with carry := carry, done := done })
  match c.bad with
  | some off =>
    let start := carry.length - done
    finishIn s1 f st 0 (if off < start then 0 else (off - start) / 4096 * 4096) (some off)
  | none =>
    let s1 := cnt s1 f 0x100 b.length
    if last then finishIn s1 f st 0 done none else askChunk s1 f st

/-- The binary64 values of a chunk of elements. -/
def chunkVals (d : StrDesc) : Nat → List Byte → List Nat
  | 0, _ => []
  | n + 1, b =>
    let v := field b 0 (elemSize d)
    (if d.f64 then v else widen v) :: chunkVals d n (b.drop (elemSize d))

/-- Elements binned in order from offset `off` of the run: the tokens, or the offset of a rejection (R402, R419). -/
def binAll (tab : List Byte) (len : Nat) : Nat → List Nat → Except Nat (List Nat)
  | _, [] => .ok []
  | off, v :: rest =>
    match elemToken tab v with
    | none => .error off
    | some t =>
      if 16777216 ≤ len then .error off
      else match binAll tab (len + 1) (off + 1) rest with
        | .ok l => .ok (t :: l)
        | .error e => .error e

/-- Elements of a numeric chunk carded, the lead token before the descriptor's first element (R419 to R422). -/
def cardVals (s : State) (f st : Nat) (x : Stream) (d : StrDesc) (vals : List Nat) : State :=
  let tab := tableBytes s d.table
  let lead := if x.done = 0 && tabLead tab ≠ noToken then [tabLead tab] else []
  let done := x.done + vals.length
  let start := x.elems - x.done
  let unit := chunkUnit x d
  let r := if lead ≠ [] && decide (16777216 ≤ x.run.length) then .error x.elems
    else binAll tab (x.run.length + lead.length) x.elems vals
  match r with
  | .error off => finishIn s f st 0 ((off - start) / unit * unit) (some off)
  | .ok toks =>
    let s1 := cnt (updStream s f st (fun y => { y with
      run := y.run ++ lead ++ toks, elems := y.elems + vals.length, done := done })) f 0x108 vals.length
    if done = elemCount d then finishIn s1 f st 0 done none else askChunk s1 f st

/-- One chunk of the descriptor that a lane works on (R398). -/
def cardChunk (s : State) (lane : Nat) (read : HostRead) : State :=
  let l := tget ({} : Lane) s.lanesIn lane
  match streamOf s l.fn l.stream with
  | none => s
  | some x =>
    match x.queue with
    | [] => s
    | (_, d) :: _ =>
      if dropping x then finishIn s l.fn l.stream 0 0 none
      else match chunkData s l.fn x d read with
        | .error status =>
          finishIn (if status = stPermission then cnt s l.fn 0x418 1
            else if chunkHost s l.fn x d then noteRead s l.fn status else s) l.fn l.stream status x.done none
        | .ok b =>
          if x.kind = 3 then
            cardVals (useTable s d.table) l.fn l.stream x d (chunkVals d (chunkLen x d) b)
          else cardBytes s l.fn l.stream x d b

/-- Whether the lane may card a chunk now. -/
def mayChunk (s : State) (lane : Nat) : Bool :=
  let l := tget ({} : Lane) s.lanesIn lane
  l.busy && !harbourHeld s &&
  match streamOf s l.fn l.stream with
  | none => false
  | some x =>
    match x.queue with
    | [] => false
    | (idx, d) :: _ =>
      engineOn s l.fn 1 && !x.waiting && !inputReads s l.fn l.stream idx &&
        (ringOf s l.fn (cplOf s l.fn x.ring)).state != .held &&
        (dropping x || (if x.kind = 3 then tableReady s d.table
          else !(tget (default : Vocab) s.vocabs (runVocab s x)).reloading))

def execCardingChunk (lane : Fin 16) (read : HostRead) (s : State) : Host.Outcome State Fault Refusal :=
  occurs s (mayChunk s lane) "carding chunk" (cardChunk s lane read)

/-- A lane held by a fault or a pre-emption writes its carry state to tier C and serves other streams (R427). -/
def execCarryStateSpill (lane : Fin 16) (s : State) : Host.Outcome State Fault Refusal :=
  let l := tget ({} : Lane) s.lanesIn lane
  let held := match streamOf s l.fn l.stream with
    | some x => x.waiting || !engineOn s l.fn 1
    | none => false
  occurs s (l.busy && held) "carry state spill" (freeLane s l.fn l.stream)

/-- A bin table reaches the cache (R424). -/
def stageTable (s : State) (h : Nat) : State :=
  evictTables { s with bins := tmap s.bins (fun i t => if i = h then { t with cached := true, usedAt := s.now } else t) }
    h s.bins.length

def execBintableStaged (handle : Nat) (s : State) : Host.Outcome State Fault Refusal :=
  occurs s (thas s.bins handle && !tableReady s handle) "table staged" (stageTable s handle)

/-- A poisoned resident image has been loaded again from tier C (R259). -/
def execVocabImageReloaded (handle : Nat) (s : State) : Host.Outcome State Fault Refusal :=
  occurs s (tget (default : Vocab) s.vocabs handle).reloading "image reload"
    { s with vocabs := tmap s.vocabs (fun h v => if h = handle then { v with reloading := false } else v) }

/-! ### Felting lanes -/

/-- A felting lane felts what a request has committed (R433), and settles the output of one that has ended. -/
def feltTake (s : State) (lane i : Nat) : State :=
  let b := (entOf s i).b
  let s1 := { s with
    turnOut := turned s.turnOut b.fn b.outStream
    lanesOut := tput s.lanesOut lane { fn := b.fn, stream := b.outStream } }
  let s2 := felt s1 i
  let s3 := settleOutput s2 i
  serveOutput s3 b.fn b.outStream ((outStreamOf s3 i).takers.length + 1)

/-- Whether a request has tokens that a lane can felt: its image is not being loaded again, and a numeric token has an
element to go to in a buffer whose table is cached (R424, R446). -/
def readyOut (s : State) (i : Nat) : Bool :=
  let e := entOf s i
  let b := e.b
  !harbourHeld s && (live e.state || ended e.state) && engineOn s b.fn 2 && !(unfelted s i).isEmpty &&
    (ringOf s b.fn (cplOf s b.fn b.outRing)).state != .held &&
    (if flagNumeric b then (entXOf s i).drained || (unfelted s i).head? == some (eosOf s i) || (numRoom s i).isSome
    else !(tget (default : Vocab) s.vocabs b.vocab).reloading)

/-- Whether a lane may felt a request now: it is ready, and no ready stream has an earlier turn (R445). -/
def mayFelt (s : State) (i : Nat) : Bool :=
  readyOut s i && s.ledger.all (fun kv => !readyOut s kv.1 ||
    !sooner s.turnOut kv.2.b.fn kv.2.b.outStream (entOf s i).b.fn (entOf s i).b.outStream)

def execFeltingLaneTake (lane : Fin 16) (ledger : Nat) (s : State) : Host.Outcome State Fault Refusal :=
  occurs s (mayFelt s ledger) "felting lane take" (feltTake s lane ledger)

end Sys2Proof.Machine
end

