-- ==== Sys2Proof/Machine/Mailbox.lean ====
section
/-! DEFINITION. The mailbox: slot writes, the doorbell with the hardware checks, the order of commands, their
checks and their commit points (04 R117 to R131, 05 R164 to R174). -/

namespace Sys2Proof.Machine

open Sys2Proof

/-! ### Completion statuses (R125, R174) -/

def stInvalidOpcode : Nat := 0x0001
def stInvalidField : Nat := 0x0002
def stInvalidLength : Nat := 0x0003
def stNotReady : Nat := 0x0004
def stBusyRecovery : Nat := 0x0005
def stRetry : Nat := 0x0006
def stNotOpen : Nat := 0x0007
def stNotPermitted : Nat := 0x0008
def stIndirectFault : Nat := 0x0009
def stHandleInvalid : Nat := 0x0300
def stPlacementInvalid : Nat := 0x0400
def stDieUnavailable : Nat := 0x0401
def stIdentityMismatch : Nat := 0x0402
def stGenerationBusy : Nat := 0x0403
def stNoSpace : Nat := 0x0404
def stDvaConflict : Nat := 0x0405
def stInUse : Nat := 0x0406
def stImageInvalid : Nat := 0x0407
def stObjectLimit : Nat := 0x0408
def stRingInvalid : Nat := 0x0409
def stStateConflict : Nat := 0x040A
def stLoadFailed : Nat := 0x040B
def stAuditMismatch : Nat := 0x040C
def stMarchFailed : Nat := 0x040D
def stNothingStaged : Nat := 0x040E
def stVocabMismatch : Nat := 0x040F
def stLastDie : Nat := 0x0410
def stEngineDisabled : Nat := 0x0411
def stRejoinFailed : Nat := 0x0412

/-! ### The command table (R173) -/

/-- A command's row: PF only, needs an open function, payload bytes, accepts an indirect payload. -/
structure CmdRow where
  pfOnly   : Bool
  isOpen   : Bool
  payload  : Nat
  indirect : Bool
  deriving DecidableEq, Repr

/-- The row of an opcode that WCI 3.2 defines. -/
def cmdRow (op : Nat) : Option CmdRow :=
  match op with
  | 0x0101 => some ⟨false, false, 0, false⟩
  | 0x0201 => some ⟨false, false, 16, false⟩
  | 0x0202 => some ⟨false, true, 0, false⟩
  | 0x0203 => some ⟨false, true, 4, false⟩
  | 0x0301 => some ⟨false, false, 32, false⟩
  | 0x0302 => some ⟨false, false, 8, false⟩
  | 0x0303 => some ⟨false, true, 8, false⟩
  | 0x0401 => some ⟨false, true, 24, false⟩
  | 0x0402 => some ⟨false, true, 8, false⟩
  | 0x0403 => some ⟨false, true, 8, false⟩
  | 0x0501 => some ⟨false, true, 24, false⟩
  | 0x0502 => some ⟨false, true, 8, false⟩
  | 0x0503 => some ⟨false, true, 16, false⟩
  | 0x0504 => some ⟨false, true, 8, false⟩
  | 0x0601 => some ⟨false, true, 24, false⟩
  | 0x0602 => some ⟨false, true, 8, false⟩
  | 0x0701 => some ⟨false, true, 16, false⟩
  | 0x0801 => some ⟨false, true, 32, false⟩
  | 0x0802 => some ⟨false, true, 4, false⟩
  | 0x0803 => some ⟨false, true, 16, false⟩
  | 0x0804 => some ⟨false, true, 4, false⟩
  | 0x0901 => some ⟨true, true, 40, true⟩
  | 0x0902 => some ⟨false, true, 8, false⟩
  | 0x0903 => some ⟨true, true, 0, false⟩
  | 0x0904 => some ⟨true, true, 0, false⟩
  | 0x0A01 => some ⟨true, true, 4, false⟩
  | 0x0A02 => some ⟨false, true, 0, false⟩
  | 0x0B01 => some ⟨false, false, 8, false⟩
  | 0x0B02 => some ⟨true, true, 8, false⟩
  | 0x0B03 => some ⟨true, true, 12, false⟩
  | 0x0B04 => some ⟨true, true, 8, false⟩
  | 0x0C01 => some ⟨true, true, 0, false⟩
  | 0x0C02 => some ⟨true, true, 4, false⟩
  | _ => none

/-- The mailbox hardware answers the opcode itself (R122). -/
def hwOpcode (op : Nat) : Bool := op = 0x0101 || op = 0x0B01

/-! ### Slot fields (R117, R118) -/

def slotOp (b : List Byte) : Nat := field b 0 2
def slotFlags (b : List Byte) : Nat := field b 2 2
def slotIndirect (b : List Byte) : Bool := bit (slotFlags b) 2
def slotFence (b : List Byte) : Bool := bit (slotFlags b) 1
def slotLen (b : List Byte) : Nat := field b 8 2
def slotMask (b : List Byte) : Nat := byteAt b 10
/-- A payload field at a payload offset (R165). -/
def pay (b : List Byte) (off n : Nat) : Nat := field b (16 + off) n
/-- Reserved payload bytes as a check: whether one is nonzero, and the slot offset of the first. -/
def resv (b : List Byte) (off n : Nat) : Bool × Nat :=
  match firstNonzero b (16 + off) n with
  | some i => (true, i)
  | none => (false, 0)
/-- The offset of the first check that fails. -/
def firstBad (l : List (Bool × Nat)) : Option Nat :=
  (l.filter (·.1)).foldl (fun m x => some (match m with
    | some y => min x.2 y
    | none => x.2)) none

/-! ### Slot writes and the doorbell -/

/-- A write into the slot area at its offset: discarded and counted when the VX3 owns the slot (R120); other
widths and misaligned writes do nothing (R9). -/
def slotWrite (s : State) (f off width : Nat) (v : DWord) : State :=
  let slot := off / 256
  if !barOn s f then refuseAccess s f
  else if !((width = 4 || width = 8) && off % width = 0 && off < 8192) then s
  else if (fnOf s f).owner.getLsbD slot then cnt s f 0x308 1
  else putSlot s f slot (splice (slotBytes s f slot) (off % 256) (le width v.toNat))

def execSlotWrite (f : Fin 16) (off width : Nat) (value : DWord) (s : State) : Host.Outcome State Fault Refusal :=
  done s (slotWrite s f off width value)

/-- The first nonzero reserved part of a slot's header: FLAGS bits [15:3], bytes 11 to 15. -/
def headerBad (b : List Byte) : Option Nat :=
  if byteAt b 2 / 8 ≠ 0 then some 2
  else if byteAt b 3 ≠ 0 then some 3
  else firstNonzero b 11 5

/-- What the mailbox hardware answers itself, if it does not pass the command on (R122). -/
def hwAnswer (s : State) (f : Nat) (b : List Byte) : Option CmdOutcome :=
  if (fnOf s f).flrBusy then some { status := stRetry }
  else if !isReady s then some { status := stNotReady }
  else if s.cp.recovery then some { status := stBusyRecovery }
  else if 240 < slotLen b || (slotIndirect b && slotLen b ≠ 16) then some { status := stInvalidLength, detail := 8 }
  else match headerBad b with
    | some d => some { status := stInvalidField, detail := d }
    | none => if (cmdRow (slotOp b)).isNone then some { status := stInvalidOpcode } else none

/-- The checks that every command shares, in the order of R167: NOT_PERMITTED, NOT_OPEN, then an INDIRECT flag it
does not take, its length and its DIE_MASK (DEDUCED, log entry 22). -/
def sharedChecks (s : State) (f : Nat) (b : List Byte) : Option CmdOutcome :=
  match cmdRow (slotOp b) with
  | none => some { status := stInvalidOpcode }
  | some r =>
    if r.pfOnly && f ≠ 0 then some { status := stNotPermitted }
    else if r.isOpen && !(fnOf s f).opened then some { status := stNotOpen }
    else if slotIndirect b && !r.indirect then some { status := stInvalidField, detail := 2 }
    else if !slotIndirect b && slotLen b ≠ r.payload then some { status := stInvalidLength, detail := 8 }
    else if slotMask b ≠ 0 && slotOp b ≠ 0x0C01 && slotOp b ≠ 0x0C02 then some { status := stInvalidField, detail := 10 }
    else none

/-- What the mailbox hardware answers to DEVICE_INFO and DIAG_BOOTLOG: a refusal where R11, R165, R166 or R173 asks for
one, else the response (R122). -/
def hwOutcome (s : State) (f : Nat) (b : List Byte) (resp : List Byte) : CmdOutcome :=
  match headerBad b with
  | some d => { status := stInvalidField, detail := d }
  | none =>
    match sharedChecks s f b with
    | some o => o
    | none =>
      if slotOp b = 0x0B01 && (resv b 4 4).1 then { status := stInvalidField, detail := (resv b 4 4).2 }
      else { resp := resp }

/-- A command queued for the control processors, or for the mailbox hardware that answers it. -/
def queueCmd (s : State) (f slot : Nat) (b : List Byte) : State :=
  updFn s f (fun x => { x with cmds := x.cmds ++ [{
    slot := slot, opcode := slotOp b, fence := slotFence b, event := bit (slotFlags b) 0 }] })

/-- One slot submitted (R121, R122). -/
def submitSlot (s : State) (f slot : Nat) : State :=
  if (fnOf s f).owner.getLsbD slot then cnt s f 0x300 1
  else
    let b := slotBytes s f slot
    let s1 := updFn s f (fun x => { x with owner := setBit x.owner slot true })
    if hwOpcode (slotOp b) then queueCmd s1 f slot b
    else match hwAnswer s f b with
      | some o => completeSlot (cnt s1 f 0x310 1) f slot o
      | none => queueCmd s1 f slot b

/-- A write to DB_MBOX submits its slots in ascending order (R121). -/
def mailboxDoorbell (s : State) (f : Nat) (v : Word) : State :=
  if !barOn s f then refuseAccess s f
  else (bitList 32 v.toNat).foldl (fun s slot => submitSlot s f slot) s

def execDbMboxWrite (f : Fin 16) (value : Word) (s : State) : Host.Outcome State Fault Refusal :=
  done s (mailboxDoorbell s f value)

/-! ### Order of commands (R123, R170) -/

/-- The regions of a function that meet a range, as objects: those in creation too. -/
def rangeObjects (s : State) (f dva size : Nat) : List (Nat × Nat) :=
  (s.regions.filter (fun kv => kv.2.asid = asidOf f && decide (dva < kv.2.dva + kv.2.size) &&
    decide (kv.2.dva < dva + size))).map (fun kv => (1, kv.1))
/-- The region that holds a DVA, as an object. -/
def dvaObject (s : State) (f dva : Nat) : List (Nat × Nat) := rangeObjects s f dva 1
/-- A handle as an object. -/
def handleObject (h : Nat) : List (Nat × Nat) := if h = 0 then [] else [(1, h)]

/-- Items of R590 whose value names handles: VOCAB_MAP, GRAMMAR_MAP and GROUP_MOVE. -/
def mapItems : List Nat := [idVocabMap, idGrammarMap]

/-- The handles that a configuration record names (R594, R601). -/
def recObjects (r : List Byte) : List (Nat × Nat) :=
  let id := field r 0 2
  if mapItems.contains id then handleObject (field r 8 4) ++ handleObject (field r 12 4)
  else if id = idGroupMove then handleObject (field r 8 4)
  else []

/-- The handles that the 40-byte records of a payload name. -/
def recsObjects : Nat → List Byte → List (Nat × Nat)
  | 0, _ => []
  | n + 1, b => recObjects b ++ recsObjects n (b.drop 40)

/-- The handles that a CONFIG_STAGE's records name, inline or in the payload it reads. -/
def stageObjects (b : List Byte) (read : Option HostRead) : List (Nat × Nat) :=
  if slotIndirect b then
    match read with
    | some (.bytes x) => recsObjects (x.length / 40) x
    | _ => []
  else recObjects (b.drop 16)

/-- The objects that a slot's command names: handles (1), rings (2), ledger entries (3); a DVA names its region. -/
def namedObjects (s : State) (f : Nat) (b : List Byte) (read : Option HostRead) : List (Nat × Nat) :=
  let h := handleObject (pay b 0 4)
  let d := dvaObject s f (pay b 0 8)
  match slotOp b with
  | 0x0201 => d
  | 0x0301 => rangeObjects s f (pay b 0 8) (pay b 8 8)
  | 0x0302 => h
  | 0x0303 => d
  | 0x0401 => d
  | 0x0402 => h
  | 0x0403 => h
  | 0x0501 => d
  | 0x0502 => h
  | 0x0503 => d
  | 0x0504 => h
  | 0x0601 => d ++ handleObject (pay b 16 4)
  | 0x0602 => h
  | 0x0701 => (3, pay b 0 4) :: dvaObject s f (pay b 8 8)
  | 0x0801 => [(2, pay b 0 1), (2, pay b 3 1)] ++ dvaObject s f (pay b 8 8) ++ dvaObject s f (pay b 16 8)
  | 0x0802 => [(2, pay b 0 1)]
  | 0x0803 => (2, pay b 3 1) :: handleObject (pay b 4 4)
  | 0x0901 => (if slotIndirect b then d else []) ++ stageObjects b read
  | _ => []

/-- The commands of the control processors ahead of a slot's command in submission order. -/
def earlierCmds (x : Fn) (slot : Nat) : List Cmd :=
  (x.cmds.takeWhile (fun c => c.slot ≠ slot)).filter (fun c => !hwOpcode c.opcode)

/-- Whether a queued command may start (R123, R129): in submission order, behind a FENCE and the commands whose
objects it names. The mailbox hardware's own answers wait for nothing. -/
def mayStart (s : State) (f slot op : Nat) : Bool :=
  match (fnOf s f).cmds.find? (fun c => c.slot = slot) with
  | none => false
  | some c =>
    let names := fun (e : Cmd) => namedObjects s f (slotBytes s f e.slot) e.read
    let before := earlierCmds (fnOf s f) slot
    c.opcode = op && !c.started &&
      (hwOpcode op || (!s.cp.recovery && isReady s && !c.marked &&
        before.all (fun e => e.started && !e.fence && (names e).all (fun o => !(names c).contains o)) &&
        (!c.fence || before.isEmpty)))

/-! ### Running a command (R165 to R167) -/

/-- What a command's body answers: the state after it and its outcome, or no outcome while it still runs. -/
abbrev Ran := State × Option CmdOutcome

/-- A refused command: no effect. -/
def bad (s : State) (status detail : Nat) : Ran := (s, some { status := status, detail := detail })
/-- A command that has committed with a response. -/
def good (s : State) (resp : List Byte) : Ran := (s, some { resp := resp })
/-- A command that runs on. -/
def running (s : State) : Ran := (s, none)
/-- Field checks, the first that fails deciding (R167). -/
def fields (s : State) (l : List (Bool × Nat)) (k : Ran) : Ran :=
  match firstBad l with
  | some d => bad s stInvalidField d
  | none => k

/-- Changes the record of a slot's command. -/
def updCmd (s : State) (f slot : Nat) (g : Cmd → Cmd) : State :=
  updFn s f (fun x => { x with cmds := x.cmds.map (fun c => if c.slot = slot then g c else c) })

/-- What a command's start does that its commit point completes: the shared checks pass, and `pre` begins (R124). -/
def beginCmd (s : State) (f slot : Nat) (pre : State → List Byte → State) : State :=
  let b := slotBytes s f slot
  let s1 := match sharedChecks s f b with
    | some _ => s
    | none => pre s b
  updCmd s1 f slot (fun c => { c with started := true, startedAt := s.now })

/-- The answer of a row whose command has every effect at its commit point: it starts when R123 lets it. -/
def runBegin (s : State) (f slot op : Nat) (pre : State → List Byte → State) : Host.Outcome State Fault Refusal :=
  occurs s (mayStart s f slot op) "command start" (beginCmd s f slot pre)

/-- The shared checks, then a command's own body. -/
def checked (s : State) (f slot : Nat) (body : State → List Byte → Ran) : Ran :=
  let b := slotBytes s f slot
  match sharedChecks s f b with
  | some o => (s, some o)
  | none => body s b

/-- A command starts that reaches its commit point by itself, with the end of what it has set off: a refusal goes to the
journal (R124). -/
def startCmd (s : State) (f slot : Nat) (body : State → List Byte → Ran) : State :=
  let r := checked s f slot body
  updCmd r.1 f slot (fun c => { c with started := true, outcome := r.2, startedAt := s.now })

/-- The answer of such a row. -/
def runCmd (s : State) (f slot op : Nat) (body : State → List Byte → Ran) : Host.Outcome State Fault Refusal :=
  occurs s (mayStart s f slot op) "command start" (startCmd s f slot body)

/-- Handles of the loaded objects and regions. -/
def allHandles (s : State) : List Nat :=
  s.regions.map (·.1) ++ s.models.map (·.1) ++ s.vocabs.map (·.1) ++ s.grammars.map (·.1) ++ s.bins.map (·.1)

/-- A command starts that reserves pages, clusters, vocabulary SRAM or an object slot (R172): what it builds is named by
nothing until its commit point (R124); a refusal goes to the journal. -/
def reserveCmd (s : State) (f slot : Nat) (body : State → List Byte → Ran) : State :=
  let r := checked s f slot body
  let made := (allHandles r.1).filter (fun h => !(allHandles s).contains h)
  updCmd { r.1 with uncommitted := r.1.uncommitted ++ made.map (fun h => (h, f, slot)) } f slot (fun c => { c with
    started := true, startedAt := s.now, outcome := r.2.filter (fun o => o.status ≠ 0),
    ready := r.2.filter (fun o => o.status = 0) })

/-- The answer of such a row. -/
def runReserve (s : State) (f slot op : Nat) (body : State → List Byte → Ran) : Host.Outcome State Fault Refusal :=
  occurs s (mayStart s f slot op) "command start" (reserveCmd s f slot body)

/-- Whether a command is refused by the shared checks or by its own. -/
def turnedAway (s : State) (f slot : Nat) (body : State → List Byte → Ran) : Bool :=
  match (checked s f slot body).2 with
  | some o => o.status ≠ 0
  | none => false

/-! ### Host reads of commands (R92, R94, R126, R281) -/

/-- The host reads of a slot's command still to be asked for go out while tags and BME allow them: `fuel` bounds them. -/
def pumpReads (f slot : Nat) : Nat → State → State
  | 0, s => s
  | fuel + 1, s =>
    match (fnOf s f).cmds.find? (fun c => c.slot = slot) with
    | none => s
    | some c =>
      if c.readLeft = 0 then s
      else
        let n := readLen s f c.readAt c.readLeft
        let next := fun (s : State) => updCmd s f slot (fun x => { x with readAt := x.readAt + n, readLeft := x.readLeft - n })
        match leafOf s (asidOf f) c.readAt with
        | .host pasid iova _ =>
          if atsOn s f && !s.atc.contains (f, pasid, iova / 4096) then s
          else if busOn s f && decide (0 < freeTagCount s f) then
            pumpReads f slot fuel (next (issueRead s f (.bulk slot) c.readAt n))
          else s
        | _ => pumpReads f slot fuel (next s)

/-- The reads of a function's commands go on. -/
def pumpAll (s : State) (f : Nat) : State :=
  (fnOf s f).cmds.foldl (fun s c => pumpReads f c.slot c.readLeft s) s

/-- A command asks for a range: its host reads go out (R281). -/
def askImage (s : State) (f slot dva len : Nat) : State :=
  pumpReads f slot len (updCmd s f slot (fun c => { c with readAt := dva, readLeft := len }))

/-- Every read of a slot's command has been asked for and has ended. -/
def readsOver (s : State) (f slot : Nat) : Bool :=
  (fnOf s f).cmds.all (fun c => c.slot ≠ slot || c.readLeft = 0) &&
    (fnOf s f).pci.tags.all (fun kv => match kv.2 with
      | .outstanding (.bulk k) _ _ _ => k ≠ slot
      | _ => true)

/-- A command that still runs reaches its commit point with an outcome, which COMMAND_COMMIT then answers. During a control-processor restart none does: the
marked slots complete when it ends (R128, R130). -/
def settleCmds (s : State) (f op : Nat) (o : Cmd → Option CmdOutcome) : State :=
  if s.cp.recovery then s
  else updFn s f (fun x => { x with cmds := x.cmds.map (fun c =>
    if c.opcode = op && c.started && c.outcome.isNone then { c with outcome := o c } else c) })

end Sys2Proof.Machine
end

