-- ==== Sys2Proof/Machine/Objects.lean ====
section
/-! DEFINITION. Regions and loaded objects as operations: who uses them, and how they are released (05 R168 to R190,
08 R264 to R279, 09 R299 to R305, 11 R358). -/

namespace Sys2Proof.Machine

open Sys2Proof

/-! ### Who names an object -/

/-- The lowest ledger entry that is not FREE and meets a condition. -/
def userEntry (s : State) (p : Nat → Entry → Bool) : Option Nat :=
  (s.ledger.find? (fun kv => !(kv.2.state == .free) && p kv.1 kv.2)).map (·.1)

/-- The generations that are live (R591). -/
def liveGens (s : State) : List Nat := s.conf.newest :: s.conf.older.toList

/-- Whether a map item of a live generation names a handle (R186, R190, R594). -/
def mapNames (s : State) (id h : Nat) : Bool :=
  h ≠ 0 && (liveGens s).any (fun g => (List.range 128).any (fun k =>
    let v := itemBound s g id k
    v % 2 ^ 32 ≠ 0 && v / 2 ^ 32 ≠ 0 && (v % 2 ^ 32 = h || v / 2 ^ 32 = h)))

/-- The IN_USE DETAIL of a vocabulary, if something other than model `skip` names it (R186). -/
def vocabUser (s : State) (h skip : Nat) : Option Nat :=
  match userEntry s (fun _ e => e.b.vocab = h) with
  | some i => some i
  | none =>
    if s.models.any (fun kv => kv.1 ≠ skip && kv.2.vocab = h) || s.grammars.any (fun kv => kv.2.vocab = h) ||
        s.fns.any (fun kv => kv.2.streams.any (fun st => decide (st.1 < 65536) && st.2.vocab = h)) || mapNames s idVocabMap h then some noLedger
    else none

/-- Stream descriptors fetched and not yet completed of a function: queued on a stream or fetched on a ring. -/
def fetchedDescs (s : State) (f : Nat) : List StrDesc :=
  ((fnOf s f).streams.map (fun kv => kv.2.queue.map (·.2))).flatten ++
    ((fnOf s f).rings.map (fun kv => kv.2.fetched.filterMap (fun d => match d with
      | .str _ x => some x
      | _ => none))).flatten

/-- Whether a fetched descriptor of any function names a bin table (R188). -/
def tableBusy (s : State) (h : Nat) : Bool :=
  s.fns.any (fun kv => (fetchedDescs s kv.1).any (fun d => d.table = h && h ≠ 0))

/-- The address range that a stream descriptor's buffer spans. -/
def descSpan (d : StrDesc) : Nat × Nat :=
  if d.typ = 3 ∨ d.typ = 4 then
    let reach := (List.range d.dims).map (fun k => ((countAt d k : Int) - 1) * d.strides.getD k 0)
    let lo := (reach.filter (· < 0)).sum
    let hi := (reach.filter (0 < ·)).sum
    (((d.buffer : Int) + lo).toNat, ((d.buffer : Int) + hi).toNat + elemSize d)
  else (d.buffer, d.buffer + d.length)

/-- Entry sizes of a ring (R132). -/
def entrySize (t : RingType) : Nat := if t = .req then 128 else 64

/-- Whether a range meets a region. -/
def meets (r : Region) (lo hi : Nat) : Bool := decide (lo < r.dva + r.size) && decide (r.dva < hi)

/-- The ranges of DVAs that a slot's command works on: an image, an indirect payload, a ring with its write-back word, an
event queue, a query's destination (R170, R180). -/
def cmdSpans (b : List Byte) : List (Nat × Nat) :=
  let d := pay b 0 8
  match slotOp b with
  | 0x0201 => [(d, 64 * 2 ^ pay b 8 1)]
  | 0x0401 => [(d, pay b 8 8)]
  | 0x0501 => [(d, pay b 8 8)]
  | 0x0503 => [(d, pay b 8 4)]
  | 0x0601 => [(d, pay b 8 8)]
  | 0x0701 => if pay b 8 8 = 0 then [] else [(pay b 8 8, 256)]
  | 0x0801 => [(pay b 8 8, (if pay b 1 1 = 1 then 128 else 64) * 2 ^ pay b 2 1), (pay b 16 8, 4)]
  | 0x0901 => if slotIndirect b then [(d, pay b 8 4)] else []
  | _ => []

/-- A command that has started before a slot's, and has not completed, works in a region (R180). -/
def cmdInRegion (s : State) (f slot : Nat) (r : Region) : Bool :=
  (earlierCmds (fnOf s f) slot).any (fun c => c.started &&
    (cmdSpans (slotBytes s f c.slot)).any (fun p => meets r p.1 (p.1 + p.2)))

/-- An event queue, a ring or a fetched descriptor's buffer lies in a region (R180). -/
def regionBusy (s : State) (f : Nat) (r : Region) : Bool :=
  let x := fnOf s f
  (x.evq.opened && meets r x.evq.base (x.evq.base + 64 * 2 ^ x.evq.sizeLog2)) ||
    x.rings.any (fun kv => kv.2.state != .closed &&
      (meets r kv.2.base (kv.2.base + entrySize kv.2.typ * 2 ^ kv.2.sizeLog2) || meets r kv.2.wb (kv.2.wb + 4))) ||
    (fetchedDescs s f).any (fun d => meets r (descSpan d).1 (descSpan d).2)

/-! ### Translations (R276, R277, R279) -/

/-- Every translation of a range of an ASID leaves the TLBs, and the ATC when the region is tier X. -/
def dropRange (s : State) (asid : Nat) (r : Region) : State :=
  { s with
    tlbs := s.tlbs.filter (fun e => !(e.2.1 = asid && r.dva ≤ e.2.2 && e.2.2 < r.dva + r.size)),
    atc := if r.tier = 2 then s.atc.filter (fun e => !(e.1 + 1 = asid && e.2.1 = r.pasid &&
        r.iova ≤ 4096 * e.2.2 && 4096 * e.2.2 < r.iova + r.size)) else s.atc }

/-- Every translation of a function leaves the TLBs and the ATC (R279). -/
def dropAsid (s : State) (f : Nat) : State :=
  { s with tlbs := s.tlbs.filter (fun e => e.2.1 ≠ asidOf f), atc := s.atc.filter (fun e => e.1 ≠ f),
           shooting := s.shooting.filter (fun e => e.1 ≠ asidOf f), stale := s.stale.filter (fun e => e.1 ≠ asidOf f) }

/-! ### Release -/

/-- A region unmapped: shoot-down on every die, then its pages go to quarantine (R180). -/
def dropRegion (s : State) (h : Nat) : State :=
  match tfind s.regions h with
  | none => s
  | some r => releasePages { dropRange s r.asid r with regions := tdel s.regions h } r.pages

/-- A vocabulary image released. -/
def dropVocab (s : State) (h : Nat) : State :=
  releasePages { s with vocabs := tdel s.vocabs h } (tget (default : Vocab) s.vocabs h).pages

/-- A bin table released. -/
def dropTable (s : State) (h : Nat) : State :=
  releasePages { s with bins := tdel s.bins h } (tget (default : BinTable) s.bins h).pages

/-- A grammar image and its copies released (R190). -/
def dropGrammar (s : State) (h : Nat) : State :=
  releasePages { s with grammars := tdel s.grammars h } (tget (default : Grammar) s.grammars h).pages

/-- A bank handed on: zeroed when its owner changes, then OWNED or UNOWNED (R302). -/
def handBank (s : State) (d b owner : Nat) : State :=
  let x := bankOf s d b
  if x.state = .seized || x.owner = owner && x.state = .owned then s
  else
    let s1 := if x.state = .unowned && !x.zeroDue then s else zeroBank s d b
    updBank s1 d b (fun y => { y with
      owner := owner, next := owner, state := if owner = 0x1F then .unowned else .owned, zeroDue := false })

/-- Clusters of a die given back in CREST_n_CLUSTERS; the mirror of a lost die keeps its last values (R225, R358). -/
def clearClusters (s : State) (d dense stream : Nat) : State :=
  if (dieOf s d).state == .lost then s
  else updDie s d (fun x => { x with
    denseOwn := x.denseOwn &&& ~~~ (BitVec.ofNat 16 dense), streamOwn := x.streamOwn &&& ~~~ (BitVec.ofNat 16 stream) })

/-- The clusters of a group given back. -/
def freeClusters (s : State) (m : Model) : State :=
  (List.range 4).foldl (fun s d => clearClusters s d (tget 0 m.denseMask d) (tget 0 m.streamMask d)) s

/-- CREST_n_CLUSTERS of a rejoined die: the clusters that the groups on it hold. -/
def ownClusters (s : State) (d : Nat) : State :=
  updDie s d (fun x => { x with
    denseOwn := s.models.foldl (fun v kv => v ||| BitVec.ofNat 16 (tget 0 kv.2.denseMask d)) 0,
    streamOwn := s.models.foldl (fun v kv => v ||| BitVec.ofNat 16 (tget 0 kv.2.streamMask d)) 0 })

/-- A group's banks handed to no owner (R303). -/
def freeBanks (s : State) (m : Model) : State :=
  m.banks.foldl (fun s k => handBank s (k / 64) (k % 64) 0x1F) s

/-- A model released: clusters, banks, weights, replica and embedded vocabulary (R183, R303, R358). `seize` says
that an FLR takes the banks (R305). -/
def dropModel (s : State) (h : Nat) (seize : Bool) : State :=
  match tfind s.models h with
  | none => s
  | some m =>
    let s1 := freeClusters { s with models := tdel s.models h } m
    let s2 := if seize then m.banks.foldl (fun s k => seizeBank s (k / 64) (k % 64) 0x1F) s1 else freeBanks s1 m
    let s3 := releasePages s2 (m.weights ++ m.replicaPages ++ m.movePages)
    if m.vocab = 0 then s3 else dropVocab s3 m.vocab

/-! ### Clusters and banks of a new group (R299, R358) -/

/-- The `n` lowest clear bits of a cluster map, as a mask. -/
def lowestFree (own : BitVec 16) (n : Nat) : Option Nat :=
  let l := ((List.range 16).filter (fun i => !own.getLsbD i)).take n
  if l.length = n then some (l.map (2 ^ ·)).sum else none

/-- Banks that the clusters of a group take on a die: default banks first, then banks already owned and unused,
then the lowest UNOWNED (R299). -/
def groupBanks (s : State) (d code dense stream : Nat) : Option (List Nat) :=
  let wanted := ((bitList 16 dense).map (fun k => [2 * k, 2 * k + 1])).flatten ++
    ((bitList 16 stream).map (fun k => [32 + 2 * k, 33 + 2 * k])).flatten
  let used := (s.models.map (fun kv => kv.2.banks)).flatten
  let mine := (bankNums d).filter (fun b => (bankOf s d b).state == .owned && (bankOf s d b).owner = code &&
    !used.contains (64 * d + b))
  let open_ := (bankNums d).filter (fun b => (bankOf s d b).state == .unowned && !(bankOf s d b).zeroDue)
  let dflt := wanted.filter (fun b => mine.contains b || open_.contains b)
  let rest := (mine ++ open_).filter (fun b => !dflt.contains b)
  let all := dflt ++ rest.take (wanted.length - dflt.length)
  if all.length = wanted.length then some (all.map (64 * d + ·)) else none

/-- What a slot's command has built without reaching its commit point is released (R130, R171). -/
def dropBuilt (s : State) (f slot : Nat) : State :=
  let hs := (s.uncommitted.filter (fun u => u.2 = (f, slot))).map (·.1)
  let s1 := hs.foldl (fun s h => dropModel s h false) s
  let s2 := hs.foldl dropRegion (hs.foldl dropTable (hs.foldl dropGrammar (hs.foldl dropVocab s1)))
  { s2 with uncommitted := s2.uncommitted.filter (fun u => u.2 ≠ (f, slot)) }

/-- What a slot's command has built becomes visible (R124). -/
def showBuilt (s : State) (f slot : Nat) : State := { s with uncommitted := s.uncommitted.filter (fun u => u.2 ≠ (f, slot)) }

/-- A command's read has failed: what it has built goes, and this is its outcome (R94, R126). -/
def failRead (s : State) (f slot : Nat) (o : CmdOutcome) : State :=
  updCmd (dropBuilt s f slot) f slot (fun c => if c.outcome.isNone then { c with
    started := true, outcome := some o, ready := none, readLeft := 0 } else c)

/-- The loaded objects of a function released, as an FLR does (R103, R105, R305). -/
def dropObjects (s : State) (f : Nat) : State :=
  let s1 := ((s.grammars.filter (fun kv => kv.2.owner = f)).map (·.1)).foldl dropGrammar s
  let s2 := ((s1.models.filter (fun kv => kv.2.owner = f)).map (·.1)).foldl (fun s h => dropModel s h true) s1
  let s3 := ((s2.vocabs.filter (fun kv => kv.2.owner = f)).map (·.1)).foldl dropVocab s2
  let s4 := ((s3.bins.filter (fun kv => kv.2.owner = f)).map (·.1)).foldl dropTable s3
  ((s4.regions.filter (fun kv => kv.2.asid = asidOf f)).map (·.1)).foldl dropRegion s4

/-- The remaining banks that a function owns are seized (R305). -/
def seizeBanksOf (s : State) (f : Nat) : State :=
  (List.range 5).foldl (fun s d => (bankNums d).foldl (fun s b =>
    if (bankOf s d b).owner = f && !((bankOf s d b).state == .unowned) then seizeBank s d b 0x1F else s) s) s

end Sys2Proof.Machine
end

