-- ==== Sys2Proof/Machine/Power.lean ====
section
/-! DEFINITION. Pins, clocks and package resets: rows PWR_GOOD_IN_RISE to REFCLK_LOSS, CREST_PLL_LOSS,
CREST_ROOT_PLL_LOCK, RAIL_RETURN and PERST_N_DEASSERTION_TAKEN (02 R43 to R54, R67, 26 R677, R685, R687). -/

namespace Sys2Proof.Machine

open Sys2Proof

/-! ### Package resets (R45, R50 to R54, R208) -/

/-- What a die keeps over PERST_N and hot reset: its fuses and LOST_COUNT (R208). EPR_N, while it is low, halves the
die's CCLK as before (R41, R42, R63). -/
def keptDie (eprN : Bool) (x : Die) : Die := { fuses := x.fuses, lostCount := x.lostCount, tripEpr := !eprN }

/-- What a die keeps over a power-on reset: its fuses, and the halving that EPR_N holds. -/
def coldDie (eprN : Bool) (x : Die) : Die := { fuses := x.fuses, tripEpr := !eprN }

/-- The records of the four Crest dies, each changed. -/
def mapDies (t : Tbl Die) (g : Die → Die) : Tbl Die := (List.range 4).map (fun d => (d, g (tget ({} : Die) t d)))

/-- A function's PCIe state after a package reset: the PF alone is enabled; the sticky bits stay over a hot
reset (R45). -/
def resetFn (f : Nat) (sticky : Bool) (x : Fn) : Fn :=
  { pci := { enabled := f = 0, aer := if sticky then x.pci.aer else [],
             aerHeader := if sticky then x.pci.aerHeader else 0 } }

/-- The state that PERST_N or a hot reset leaves: every field at its reset value but for what R45 and R208 keep.
The latched thermal trip stays, and with it the last temperature that each die read (R47). -/
def packageReset (s : State) (last : Nat) (hot : Bool) : State :=
  noteHealth { (State.reset) with
    pins := { s.pins with readyOut := false, faultLow := false },
    boot := { straps := if hot then s.boot.straps else ({} : Straps), smbAddr := s.boot.smbAddr,
              lastReset := last, dieResets := s.boot.dieResets, cpRestarts := s.boot.cpRestarts },
    hbFuses := s.hbFuses,
    dies := mapDies s.dies (keptDie s.pins.eprN),
    thermal := if s.pins.thermtrip then s.thermal else [],
    training := s.training,
    fns := tmap (tput s.fns 0 (fnOf s 0)) (fun f x => resetFn f hot x),
    energy := { bmcW := s.energy.bmcW, limitBmc := s.energy.limitBmc },
    mgmt := s.mgmt, freeCtr := s.freeCtr, out := s.out, pending := s.pending }

/-- The state that a power-on reset leaves: fuses alone are kept (R45), and the running firmware copies and
anti-rollback fuses of the flash (R658 to R660). -/
def powerOnReset (s : State) : State :=
  { (State.reset) with
    pins := { s.pins with readyOut := false, faultLow := false, thermtrip := false, smbAlert := false },
    hbFuses := s.hbFuses,
    dies := mapDies s.dies (coldDie s.pins.eprN),
    mgmt := { alive := true, fw := s.mgmt.fw, keyHashes := s.mgmt.keyHashes },
    freeCtr := s.freeCtr, out := s.out, pending := s.pending }

/-- Every die-link port in LOOPBACK (R352). -/
def allLoopback (s : State) : State :=
  (List.range 8).foldl (fun s l => updLink s l (fun k => { k with state := .loopback })) s

/-- Start-up begins at stage 0x01 with the sampled straps, or the test mode they choose is entered (R46, R56,
R67, R673). A latched thermal trip stops it. -/
def startUp (s : State) : State :=
  if s.pins.thermtrip then s
  else
    let s1 := setStage s 1
    let s2 := if s.boot.straps.cfgBoot.toNat % 4 = 3 then bootLog s1 logStrapReserved 3 else s1
    if s.boot.straps.testMode = 0 then s2
    else
      let s3 := { s2 with boot := { s2.boot with testMode := true } }
      if s.boot.straps.testMode = 1 then allLoopback s3
      else if s.boot.straps.testMode = 3 then bootLog s3 logStrapReserved 0x13
      else s3

/-- Identity runs in discovery mode: the Harbour die is blank, CFG_BOOT_2 is high, or the package test asks for
it (01, R31, R673). -/
def discovery (s : State) : Bool :=
  !s.hbFuses.fused || s.boot.straps.cfgBoot.getLsbD 2 || s.boot.straps.testMode.getLsbD 1

/-! ### Firmware copies (R658 to R660) -/

/-- A component's copies. -/
def fwOf (s : State) (c : Nat) : FwComp := tget ({} : FwComp) s.mgmt.fw c
/-- The state with a component changed. -/
def updFw (s : State) (c : Nat) (g : FwComp → FwComp) : State :=
  { s with mgmt := { s.mgmt with fw := tmod ({} : FwComp) s.mgmt.fw c g } }
/-- A copy is bootable: its signature verifies, its SVN is at least the fused counter and at most 63, and its
stepping is B0 (R659, R660). -/
def bootable (c : FwComp) (x : FwCopy) : Bool :=
  x.valid && x.signed && decide (c.counter ≤ x.svn) && decide (x.svn ≤ 63) && x.stepping == 0xB0
/-- The running copy. -/
def runningCopy (c : FwComp) : FwCopy := if c.runB then c.bb else c.a
/-- The version of a component's running copy: as delivered, or of the image that an update wrote (log entry 6). -/
def runningVersion (s : State) (c : Nat) : BitVec 32 :=
  let x := fwOf s c
  (runningCopy x).version.getD (Config.fwVersion (2 * c + b2n x.runB))
/-- Whether copy B is tried first: the copy marked pending, or with none pending the copy that ran last
(R659; log entry 9). -/
def preferB (c : FwComp) : Bool := if c.bb.pending then true else if c.a.pending then false else c.runB
/-- The copy a start-up takes: the preferred copy when bootable, else the other with FW_FALLBACK in the boot log,
else none (R659). -/
def takeCopy (s : State) (c : Nat) : Option State :=
  let x := fwOf s c
  let b := preferB x
  let first := if b then x.bb else x.a
  let other := if b then x.a else x.bb
  let used := fun (useB : Bool) (s : State) => updFw s c (fun y => { y with
    runB := useB, a := { y.a with pending := y.a.pending && useB }, bb := { y.bb with pending := y.bb.pending && !useB } })
  if bootable x first then some (used b s)
  else if bootable x other then some (bootLog (used (!b) s) logFwFallback c)
  else none

/-! ### Pins -/

/-- PWR_GOOD_IN rises: a power-on reset; the SMB_ADDR_ straps are sampled and the management controller starts
(R45, R649, R651), with a
pending copy of its own firmware (R658). -/
def risePwr (s : State) (smb : BitVec 2) : State :=
  let s0 := powerOnReset s
  let s1 := (takeCopy s0 3).getD s0
  { s1 with pins := { s1.pins with pwrGood := true, railHeld := false },
            boot := { s1.boot with smbAddr := smb, earlyPerst := s.pins.perstN } }

def execPwrGoodInRise (smbAddr : BitVec 2) (s : State) : Host.Outcome State Fault Refusal :=
  occursAlways (!s.pins.pwrGood) "PWR_GOOD_IN is high" (risePwr s smbAddr)

/-- PWR_GOOD_IN falls: the package is held in reset as for a power-on reset, and a latched trip is released
(R47, R687). -/
def fallPwr (s : State) : State :=
  let s1 := powerOnReset s
  { s1 with pins := { s1.pins with pwrGood := false }, mgmt := { s1.mgmt with alive := false } }

def execPwrGoodInFall (s : State) : Host.Outcome State Fault Refusal :=
  occursAlways s.pins.pwrGood "PWR_GOOD_IN is low" (fallPwr s)

/-- PERST_N is asserted: the package resets and stays in reset (R45, R67). -/
def assertPerst (s : State) : State :=
  let s1 := packageReset s 2 false
  { s1 with pins := { s1.pins with perstN := false } }

def execPerstNAssert (s : State) : Host.Outcome State Fault Refusal :=
  occursAlways (s.pins.pwrGood && s.pins.perstN) "PERST_N is asserted or power is not good" (assertPerst s)

/-- PERST_N deasserts: the straps are sampled and start-up begins; a deassertion less than 100 ms after
PWR_GOOD_IN rose is taken later (R46, R685). -/
def deassertPerst (s : State) (straps : Straps) (early : Bool) : State :=
  let s1 := { s with pins := { s.pins with perstN := true } }
  if early then { s1 with boot := { s1.boot with earlyPerst := true } }
  else startUp { s1 with boot := { s1.boot with straps := straps }, now := 0 }

def execPerstNDeassert (straps : Straps) (early : Bool) (s : State) : Host.Outcome State Fault Refusal :=
  occursAlways (s.pins.pwrGood && !s.pins.perstN) "PERST_N is deasserted or power is not good"
    (deassertPerst s straps early)

/-- The moment 100 ms after PWR_GOOD_IN rose is taken as the deassertion (R685). -/
def takeDeassertion (s : State) (straps : Straps) : State :=
  startUp { s with boot := { s.boot with straps := straps, earlyPerst := false }, now := 0 }

def execPerstNDeassertionTaken (straps : Straps) (s : State) : Host.Outcome State Fault Refusal :=
  occursAlways (s.pins.pwrGood && s.boot.earlyPerst) "no early deassertion waits" (takeDeassertion s straps)

/-- A device-fatal condition of `old` kept over a package reset that is neither a power-on reset nor a PERST_N
assertion: nothing is started (R26, R43, R45, R54). -/
def keepFatal (old s : State) : State :=
  { s with boot := { s.boot with
             stage := 0xFF, failStage := old.boot.failStage, failCause := old.boot.failCause,
             dieUsable := old.boot.dieUsable, trainCached := old.boot.trainCached, log := old.boot.log,
             identCauses := old.boot.identCauses },
           pins := { s.pins with faultLow := true } }

/-- A hot reset, link disable or DL_Down: the package resets with the straps of before and start-up runs again;
a device-fatal condition is kept and nothing is started (R45, R67). -/
def hotReset (s : State) (dlDown : Bool) : State :=
  let s1 := packageReset s (if dlDown then 4 else 3) true
  if isFatal s then keepFatal s s1 else startUp s1

def execHotReset (dlDown : Bool) (s : State) : Host.Outcome State Fault Refusal :=
  occurs s (s.pins.pwrGood && s.pins.perstN) "the package is held in reset" (hotReset s dlDown)

/-! ### Rails and clocks (R43, R687, R688) -/

/-- A die's root PLL has stopped: it forwards no clock and is lost with CAUSE 0x06 (R43, R687). A start-up that waited
for the die alone goes on without it. Of a die that was there, CREST_n_CLKSTAT keeps its last value (R225). -/
def dieClockLost (s : State) (d : Nat) : State :=
  let s1 := loseDie s d 0x06
  endTraining (endDieFw (if (dieOf s1 d).state == .lost then s1 else updDie s1 d (fun x => { x with rootLock := false })))

/-- A rail stays out of range for more than 10 µs (R687). -/
def railFault (s : State) (r : Rail) : State :=
  match r with
  | .crest d => dieClockLost s d.val
  | .hbmPlane d => dieClockLost s d.val
  | .other =>
    let s1 := fallPwr s
    { s1 with pins := { s1.pins with pwrGood := true, railHeld := true } }

def execRailFault (rail : Rail) (s : State) : Host.Outcome State Fault Refusal :=
  occursAlways (s.pins.pwrGood && !s.pins.railHeld) "power is not good" (railFault s rail)

def execRailReturn (s : State) : Host.Outcome State Fault Refusal :=
  occursAlways (s.pins.pwrGood && s.pins.railHeld) "no rail holds the package in reset" (risePwr s s.boot.smbAddr)

/-- The Harbour root PLL or the PCIe PHY PLL loses lock after READY: device-fatal REFCLK_LOSS (R43, R627). -/
def execRefclkLoss (s : State) : Host.Outcome State Fault Refusal :=
  occurs s (isReady s) "the device is not READY"
    (deviceFatal { s with boot := { s.boot with pllLocked := false } } 0x09)

/-- A Crest root PLL loses lock (R43). -/
def execCrestPllLoss (d : Fin 4) (s : State) : Host.Outcome State Fault Refusal :=
  occurs s ((dieOf s d.val).rootLock && !((dieOf s d.val).state == .lost)) "the die's root PLL is not locked"
    (dieClockLost s d.val)

/-- A Crest root PLL locks: the die's B-link sequencers start training where both ends have locked (R38,
R345). -/
def lockCrest (s : State) (d : Nat) : State :=
  let s1 := updDie s d (fun x => { x with rootLock := true })
  (linksOf d).foldl (fun s l =>
    if isBLink l && (linkOf s l).state == .down && (dieOf s (otherEnd l d)).rootLock then
      updLink s l (fun k => { k with state := .training })
    else s) s1

def execCrestRootPllLock (d : Fin 4) (s : State) : Host.Outcome State Fault Refusal :=
  occurs s (s.pins.perstN && !s.pins.railHeld && !s.pins.thermtrip && !(dieOf s d.val).rootLock &&
      !((dieOf s d.val).state == .lost))
    "the die is held in reset or its PLL is locked" (lockCrest s d.val)

end Sys2Proof.Machine
end

