-- ==== Sys2Proof/Machine/Boot.lean ====
section
/-! DEFINITION. Start-up: rows HARBOUR_PLL_LOCK to BOOT_TIMEOUT (02 R56 to R74, 01 R23 to R32, 25 R658 to
R660). -/

namespace Sys2Proof.Machine

open Sys2Proof

/-! ### Clocks and firmware -/

/-- The Harbour PLLs lock and the boot ROM goes on to FW_VERIFY (R38, R59). -/
def execHarbourPllLock (s : State) : Host.Outcome State Fault Refusal :=
  occurs s (s.boot.stage == 1 && !s.boot.pllLocked) "start-up is not waiting for the PLLs"
    (setStage { s with boot := { s.boot with pllLocked := true } } 2)

/-- The Harbour PLLs are not locked at 0.1 ms: device-fatal HARBOUR_PLL (R64). -/
def execHarbourPllTimeout (s : State) : Host.Outcome State Fault Refusal :=
  occurs s (s.boot.stage == 1 && !s.boot.pllLocked) "start-up is not waiting for the PLLs" (deviceFatal s 0x01)

/-- The control processors run verified firmware and start the S-link sequencers (R345, stage 0x03). -/
def startSlinks (s : State) : State :=
  (List.range 4).foldl (fun s n => updLink s (4 + n) (fun k =>
    if k.state = .down then { k with state := .training } else k)) s

/-- Verification of the control-processor firmware ends (R59, R64, R659). -/
def verifyFw (s : State) : State :=
  match takeCopy s 1 with
  | some s1 => startSlinks (setStage { s1 with cp := { s1.cp with coreUp := 0xF } } 3)
  | none => deviceFatal s 0x02

def execFwVerifyDone (s : State) : Host.Outcome State Fault Refusal :=
  occurs s (s.boot.stage == 2) "start-up is not verifying firmware" (verifyFw s)

/-- Configuration requests complete normally from 100 ms after PERST_N deassertion (R69). -/
def execConfigSpaceReady (s : State) : Host.Outcome State Fault Refusal :=
  occurs s (s.pins.perstN && !s.boot.cfgReady) "the package is held in reset or configuration space answers"
    { s with boot := { s.boot with cfgReady := true } }

/-! ### Roll call (R23 to R32) -/

def execRollCallStart (s : State) : Host.Outcome State Fault Refusal :=
  occurs s (s.boot.stage == 3 && s.boot.straps.testMode != 1) "start-up is not training the S-links"
    (setStage { s with boot := { s.boot with rollCall := true } } 4)

/-- An identity mismatch: the cause is recorded and logged, and start-up fails with IDENTITY (R26, R32). -/
def mismatch (s : State) (causes : List Nat) : State :=
  if causes.isEmpty then s
  else
    let s1 := { s with boot := { s.boot with identCauses := causes.foldl insertNew s.boot.identCauses } }
    let s2 := causes.foldl (fun s c => bootLog s logIdentity c) s1
    deviceFatal s2 0x03

/-- HB_IDENTITY.CAUSE: the lowest cause that holds (R32). -/
def identCause (s : State) : Nat := s.boot.identCauses.foldl (fun a c => if a = 0 || c < a then c else a) 0

/-- The mismatches of an answering die (R24, R25). -/
def answerCauses (s : State) (port : Nat) : List Nat :=
  let x := (dieOf s port).fuses
  let production :=
    if discovery s then []
    else if x.fused then
      (if x.pos.toNat ≠ port then [1] else []) ++ (if x.serial ≠ s.hbFuses.serial then [2] else [])
    else [3]
  production ++ (if x.stepping ≠ 0xB0 then [5] else [])

/-- Whether a port of roll call has answered or been declared absent. -/
def settledPort (s : State) (n : Nat) : Bool := s.boot.diePresent.getLsbD n || s.boot.silent.getLsbD n
/-- Whether every port and every B-link of roll call is settled. -/
def rollCallOver (s : State) : Bool :=
  (List.range 4).all (settledPort s) && (List.range 4).all (fun l => s.boot.exchOver.getLsbD l)

/-- Roll call ends when every port and B-link is settled: without a mismatch DONE is set and stage 0x05 begins
(R31, R59). Where every die that answered has been lost since, start-up fails with NO_USABLE_CREST (R64). -/
def endRollCall (s : State) : State :=
  if rollCallOver s then
    let s1 := { s with boot := { s.boot with rollCall := false } }
    if s.boot.identCauses.isEmpty && s.boot.stage == 4 then
      let s2 := { s1 with boot := { s1.boot with identDone := true } }
      if s.boot.dieUsable = 0 then deviceFatal s2 0x07
      else if s.boot.testMode then s2 else setStage s2 5
    else s1
  else s

/-- A die's answer is received and checked, and the die is assigned its position (R23, R24). -/
def answer (s : State) (port : Nat) : State :=
  let s1 := updDie s port (fun x => { x with
    state := .starting, answered := true, assigned := BitVec.ofNat 2 port, linkVer := (linkOf s (4 + port)).version })
  let s2 := { s1 with boot := { s1.boot with
    diePresent := setBit s1.boot.diePresent port true, dieUsable := setBit s1.boot.dieUsable port true } }
  endRollCall (mismatch s2 (answerCauses s2 port))

/-- A die whose root PLL is not locked does not answer (R64). -/
def execRollCallAnswer (port : Fin 4) (s : State) : Host.Outcome State Fault Refusal :=
  occurs s (s.boot.rollCall && !settledPort s port.val && (linkOf s (4 + port.val)).state == .up &&
      (dieOf s port.val).rootLock) "roll call does not wait for this port" (answer s port.val)

/-- A silent port is absent; with no die at all the identity mismatch of cause 6 holds (R25, R27). -/
def silentPort (s : State) (port : Nat) : State :=
  let s1 := { s with boot := { s.boot with silent := setBit s.boot.silent port true } }
  let s2 := post s1 0 { code := 0x0010, object := 2 ^ port }
  let none_ := (List.range 4).all (fun n => s2.boot.silent.getLsbD n)
  endRollCall (if none_ then mismatch s2 [6] else s2)

def execRollCallSilent (port : Fin 4) (s : State) : Host.Outcome State Fault Refusal :=
  occurs s (s.boot.rollCall && !settledPort s port.val) "roll call does not wait for this port"
    (silentPort s port.val)

/-- A neighbour position received at one end of a B-link: recorded, checked against the ring, and the link's bit
set when both ends have theirs (R25, R31, R34). A die's B-link ports take their roles with its position (R23). -/
def exchange (s : State) (l : Nat) (atFirst : Bool) (pos : BitVec 2) : State :=
  let me := if atFirst then (linkEnds l).1 else (linkEnds l).2
  let want := if atFirst then (linkEnds l).2 else (linkEnds l).1
  let s1 := updDie s me (fun x => if l % 2 = 0 then { x with neighH := pos } else { x with neighV := pos })
  let ex := setBit s1.boot.exchanged (2 * l + b2n atFirst) true
  let both := ex.getLsbD (2 * l) && ex.getLsbD (2 * l + 1)
  let good := pos.toNat = want
  let s2 := { s1 with boot := { s1.boot with
    exchanged := ex,
    exchOver := if both || !good then setBit s1.boot.exchOver l true else s1.boot.exchOver,
    blinkUp := if both && good && !s1.boot.exchOver.getLsbD l then setBit s1.boot.blinkUp l true else s1.boot.blinkUp } }
  endRollCall (if good then s2 else mismatch s2 [4])

def execNeighbourExchange (l : Fin 4) (atFirst : Bool) (pos : BitVec 2) (s : State) :
    Host.Outcome State Fault Refusal :=
  occurs s (s.boot.rollCall && !s.boot.exchOver.getLsbD l.val && (linkOf s l.val).state == .up &&
      (dieOf s (linkEnds l.val).1).answered && (dieOf s (linkEnds l.val).2).answered)
    "roll call does not wait for this B-link" (exchange s l.val atFirst pos)

/-- A B-link without an exchange 7 ms into roll call is down (R28). -/
def exchangeTimeout (s : State) (l : Nat) : State :=
  let s1 := { linkDead s l .down with boot := { s.boot with
    exchOver := setBit s.boot.exchOver l true, blinkUp := setBit s.boot.blinkUp l false } }
  endRollCall (post s1 0 { code := 0x0011, object := l })

def execNeighbourExchangeTimeout (l : Fin 4) (s : State) : Host.Outcome State Fault Refusal :=
  occurs s (s.boot.rollCall && !s.boot.exchOver.getLsbD l.val) "roll call does not wait for this B-link"
    (exchangeTimeout s l.val)

/-! ### Stages 0x05 to 0x0B (R56 to R66) -/

/-- A frame is acknowledged: the requested voltage is the step's (R681). -/
def avsAck (s : State) (d : Nat) : State :=
  updDie s d (fun x => { x with reqMv := avsNext x x.avsTarget, avsAcked := true })

def execAvsFrameAck (d : Fin 4) (s : State) : Host.Outcome State Fault Refusal :=
  occurs s ((dieOf s d.val).avsBusy && !(dieOf s d.val).avsAcked) "no frame waits for an acknowledgement" (avsAck s d.val)

/-- A step has settled, and the next one starts (R681, R682). -/
def avsSettled (s : State) (d : Nat) : State :=
  avsTowards (updDie s d (fun x => { x with avsBusy := false, avsAcked := false })) d (dieOf s d).avsTarget

def execAvsStepSettled (d : Fin 4) (s : State) : Host.Outcome State Fault Refusal :=
  occurs s ((dieOf s d.val).avsBusy && (dieOf s d.val).avsAcked) "no step settles" (avsSettled s d.val)

/-- The retries of a frame fail: the die keeps its last acknowledged voltage and makes no further request, its keep is at
most 12 while that voltage lies below the fused point, and the failure is recorded (R683). -/
def avsFails (s : State) (d : Nat) : State :=
  let s1 := updDie s d (fun x => { x with
    avsBusy := false, avsNoAck := true, keepPlan := if x.reqMv < x.fuses.fusedMv then min x.keepPlan 12 else x.keepPlan })
  if isReady s then logErr s1 { seq := 0, code := 0x70, cls := 2, die := d, detail := le 1 2 } else bootLog s1 logAvsNoAck d

def execAvsNoAck (d : Fin 4) (s : State) : Host.Outcome State Fault Refusal :=
  occurs s ((dieOf s d.val).avsBusy && !(dieOf s d.val).avsAcked) "no frame waits for an acknowledgement" (avsFails s d.val)

/-- Die firmware is loaded and verified on a die, or the die is excluded (R64, R658). -/
def dieFwLoaded (s : State) (d : Nat) (ok : Bool) : State :=
  match (if ok then takeCopy s 2 else none) with
  | some s1 => endDieFw { s1 with boot := { s1.boot with dieFw := setBit s1.boot.dieFw d true } }
  | none => endDieFw (excludeDie s d 0x02)

def execDieFwLoaded (d : Fin 4) (ok : Bool) (s : State) : Host.Outcome State Fault Refusal :=
  occurs s (s.boot.stage == 5 && s.boot.dieUsable.getLsbD d.val && !s.boot.dieFw.getLsbD d.val)
    "start-up does not wait for this die's firmware" (dieFwLoaded s d.val ok)

/-- Self-calibration ends and memory training starts: the TEMP of each die at this moment decides what the training
cache serves (R61). -/
def selfCalDone (s : State) : State :=
  setStage { s with boot := { s.boot with trainTemps := s.thermal.map (fun kv => (kv.1, kv.2.temp)) } } 7

def execSelfCalDone (s : State) : Host.Outcome State Fault Refusal :=
  occurs s (s.boot.stage == 6) "self-calibration is not running" (selfCalDone s)

/-- Whether two temperatures, in 1/16 °C, lie within 20 °C (R61). -/
def within20 (a b : BitVec 12) : Bool := decide (a.toInt - b.toInt ≤ 320 ∧ b.toInt - a.toInt ≤ 320)

/-- The die code whose temperature governs a controller's cached training (02). -/
def ctrlDie (c : Nat) : Nat := if c < 4 then c else 4

/-- The cached training of a controller serves at a temperature (R61). -/
def cachedAt (s : State) (c : Nat) (temp : BitVec 12) : Bool :=
  match tfind s.training c with
  | some e => within20 e.temp temp
  | none => false

/-- A controller's training or verification ends (R61, R64). A failed verification falls back to full training.
DESIGN CHOICE (log entry 121): R44 gives no instant at which HBM_PLL_LOCK becomes 1; the model sets it at the successful
training of the die's HBM3E controller. -/
def trainingDone (s : State) (c : Nat) (ok : Bool) : State :=
  let temp := tget 0 s.boot.trainTemps (ctrlDie c)
  let cached := cachedAt s c temp && !s.boot.fullTrain.contains c
  let ok_ := fun (s : State) => endTraining
    { (if c < 4 then updDie s c (fun x => { x with hbmLock := true }) else s) with
      boot := { s.boot with trained := s.boot.trained ++ [c], trainCached := s.boot.trainCached || cached } }
  if ok && cached then ok_ s
  else if ok then ok_ { s with training := tput s.training c { temp := temp } }
  else if cached then { s with boot := { s.boot with trainCached := true, fullTrain := s.boot.fullTrain ++ [c] } }
  else if c < 4 then endTraining (excludeDie s c 0x03)
  else deviceFatal s 0x04

def execMemTrainingDone (c : Fin 20) (ok : Bool) (s : State) : Host.Outcome State Fault Refusal :=
  occurs s (s.boot.stage == 7 && c.val ∈ neededCtrls s && !s.boot.trained.contains c.val)
    "start-up does not wait for this controller" (trainingDone s c.val ok)

/-- A page that failed the start-up test is retired before READY (R64, R66, R695). -/
def bootRetire (s : State) (page line : Nat) : State :=
  bootLog (retirePage s page 0 line) logPageRetired page

/-- Zeroing or the start-up march of memory ends (R56, R57, R64). DESIGN CHOICE (log entry 122): R64 gives no instant at
which a failing SRAM march of start-up test 0b01, which runs during memory training, takes effect; the model acts on
every march result here. -/
def memInit (s : State) (r : InitReport) : State :=
  let overLp := (List.range 16).any (fun c => 1024 < (r.lpLines.filter (fun a => retireScrub a = 4 + c)).length)
  if r.harbourSram then deviceFatal s 0x06
  else if overLp then deviceFatal s 0x05
  else
    let s0 := { putMem s [] with poison := [] }
    let s1 := r.crestSram.foldl (fun s d => if s.boot.dieUsable.getLsbD d.val then excludeDie s d.val 0x04 else s) s0
    let tooMany := fun d => 256 < (r.hbmPages.filter (fun p => p.1 = d)).length
    let s2 := (List.range 4).foldl (fun s d =>
      if tooMany d && s.boot.dieUsable.getLsbD d then excludeDie s d 0x05 else s) s1
    let s3 := (r.hbmPages.filter (fun p => !tooMany p.1)).foldl (fun s p => bootRetire s p.2 (65536 * p.2)) s2
    let s4 := r.lpLines.foldl (fun s a => bootRetire s (a / 65536) a) s3
    let s5 := r.banks.foldl (fun s p => updBank s p.1 p.2 (fun x => { x with
      state := .seized, owner := 0x10, marchFail := true })) s4
    if isFatal s5 then s5 else setStage s5 0x0A

def execMemoryInitDone (report : InitReport) (s : State) : Host.Outcome State Fault Refusal :=
  occurs s (s.boot.stage == 8 || s.boot.stage == 9) "memory is not being initialised" (memInit s report)

/-- The banks at READY: Crest banks UNOWNED, Harbour banks owned by 0x10, failed banks SEIZED (R298). -/
def readyBanks (s : State) : State :=
  (List.range 16).foldl (fun s b => if (bankOf s 4 b).marchFail then s else
    updBank s 4 b (fun x => { x with state := .owned, owner := 0x10 })) s

/-- The effective package limit: the lower of LIMIT_W and the BMC limit (R200). -/
def effLimit (s : State) : Nat := if s.energy.bmcW = 0 then s.energy.limitW else min s.energy.limitW s.energy.bmcW

/-- ENERGY_LIMIT_CHANGED for a new effective limit: the limits and SOURCE (R584). -/
def limitEvent (s : State) (old : Nat) : Event :=
  { code := 0x0040, object := effLimit s,
    data := le 2 old ++ le 2 s.energy.limitW ++ le 2 s.energy.bmcW ++ le 1 (b2n s.energy.limitBmc) }

/-- The floor of a domain in µJ per tide (R562). -/
def floorUj (d : Nat) : Nat := if d = 4 then 35000 else 12000
/-- The fast limit of an allowance in mW (R571). -/
def fastLimit (uj : Nat) : Nat := 12 * uj / 10
/-- A domain begins a tide without a grant: it runs on its floor (R564). -/
def onFloor (s : State) (d : Nat) : State :=
  updDom s d (fun x => { x with allowance := floorUj d, draw := 0, fastMw := fastLimit (floorUj d), onFloor := true })
/-- The first tide begins: no domain has a grant for it (R563, R564). -/
def startTides (s : State) : State := (liveDies s ++ [4]).foldl onFloor s

/-- READY: structures are built, the first audit is done, the anti-rollback counters rise to the running copies,
and the BMC limit takes effect (R59, R657, R660, R74). -/
def setReady (s : State) : State :=
  let s1 := setStage s 0x0B
  let s2 := { s1 with boot := { s1.boot with bootMs := s1.now / 1000 }, pins := { s1.pins with readyOut := true } }
  let s3 := (liveDies s2).foldl (fun s d => updDie s d (fun x => { x with state := .usable })) s2
  let s4 := [1, 2, 3].foldl (fun s c => updFw s c (fun x => { x with counter := max x.counter (runningCopy x).svn })) s3
  let s5 := startTides (readyBanks s4)
  let old := s5.energy.effW
  let s6 := { s5 with energy := { s5.energy with effW := effLimit s5, bmcShown := s5.energy.bmcW } }
  noteHealth (if effLimit s5 = old then s6 else post s6 0 (limitEvent s6 old))

def execReadySet (s : State) : Host.Outcome State Fault Refusal :=
  occurs s (s.boot.stage == 0x0A && !s.boot.testMode) "structures are not being built" (setReady s)

/-- READY is not set in time, or the watchdog expires before READY: BOOT_TIMEOUT (R62, R70). -/
def execBootTimeout (s : State) : Host.Outcome State Fault Refusal :=
  occurs s (decide (1 ≤ s.boot.stage) && decide (s.boot.stage < 0x0B)) "no start-up is running" (deviceFatal s 0x08)

end Sys2Proof.Machine
end

