-- ==== Sys2Proof/Machine/Registers.lean ====
section
/-! DEFINITION. The register map: what a 32-bit read of each register returns, the high-half latches, what
a 32-bit write does, and row MSIX_UNMASK (00 R7 to R10, 06 R208 to R233, 04 R116, R159 to R163). -/

namespace Sys2Proof.Machine

open Sys2Proof

/-! ### FN_, EVQ_ and RING_ blocks (R71, R114, R161, R162, R212 to R215) -/

/-- FN_STATUS (R71). -/
def fnStatus (s : State) (f : Nat) : Nat :=
  s.boot.stage * 2 ^ 24 + b2n (fnOf s f).flrBusy * 64 + b2n s.cp.recovery * 32 + b2n (fnOf s f).opened * 16 +
    b2n (isFatal s) * 4 + b2n (degradedShown s) * 2 + b2n (isReady s)

/-- Ledger entries of a function that are not FREE (R214). -/
def ledgerUse (s : State) (f : Nat) : Nat := (s.ledger.filter (fun kv => kv.2.state != .free && kv.2.b.fn = f)).length
/-- Ledger entries not FREE (R221). -/
def ledgerUseAll (s : State) : Nat := (s.ledger.filter (fun kv => kv.2.state != .free)).length

/-- FN_TAGS (R114). -/
def fnTags (s : State) (f : Nat) : Nat :=
  tagMode s f * 2 ^ 30 + quarantinedTags s f * 2 ^ 11 + outstandingTags s f

/-- EVQ_STATUS (R161). -/
def evqStatus (q : EvQ) : Nat :=
  if q.opened then b2n q.overflow * 2 ^ 13 + q.vector * 2 ^ 7 + q.sizeLog2 * 8 + 1 else b2n q.overflow * 2 ^ 13

/-- TYPE codes of RING_r_STATE (R162). -/
def ringTypeCode : RingType → Nat
  | .none => 0 | .req => 1 | .textIn => 2 | .textOut => 3 | .numIn => 4 | .numOut => 5 | .cpl => 6
/-- STATE codes of RING_r_STATE (R162). -/
def ringStateCode : RingState → Nat
  | .closed => 0 | .running => 1 | .held => 2 | .stopped => 3
/-- RING_r_STATE (R162). -/
def ringState (g : Ring) : Nat :=
  g.cause * 2 ^ 28 + g.cplRing * 2 ^ 22 + g.vector * 2 ^ 16 + g.sizeLog2 * 2 ^ 11 + ringTypeCode g.typ * 2 ^ 8 +
    ringStateCode g.state

/-- A register's value: its width in bits and its content. -/
structure RegVal where
  width : Nat
  value : Nat
  deriving DecidableEq, Repr

/-- A 32-bit register. -/
def r32 (v : Nat) : Option RegVal := some { width := 32, value := v }
/-- A 64-bit register. -/
def r64 (v : Nat) : Option RegVal := some { width := 64, value := v }

/-- The counters of the CNT_ block (R115, R163, R216). -/
def isCounter (o : Nat) : Bool :=
  o ∈ [0x000, 0x008, 0x010, 0x018, 0x020, 0x028, 0x030, 0x038, 0x100, 0x108, 0x110, 0x118, 0x120, 0x128, 0x130, 0x138,
       0x200, 0x208, 0x210, 0x218, 0x220, 0x228, 0x230, 0x238, 0x300, 0x308, 0x310, 0x318, 0x320, 0x328, 0x330, 0x338,
       0x400, 0x408, 0x410, 0x418, 0x420, 0x428, 0x430, 0x438]

/-- A slot as its owner reads it: while the control processors' restart holds it, STATUS reads BUSY_RECOVERY
(R128). -/
def slotView (s : State) (f slot : Nat) : List Byte := slotBytes s f slot

/-- The committed per-tide energy cap of a tenant, µJ: the item's value in force (R217, R581). -/
def capOf (s : State) (f : Nat) : Nat := itemNow s idEnergyCap f

/-- RING_, EVQ_ and FN_ENGINES as they read: an FLR resets them when it completes (R208; log entry 136). -/
def shownRegs (x : Fn) : FnShown := x.shown.getD { rings := x.rings, evq := x.evq, engines := x.engines }

/-- A register of a function's BAR0 by its offset: the whole register the offset starts (R116, R211 to R217). -/
def bar0Reg (s : State) (f off : Nat) : Option RegVal :=
  let x := fnOf s f
  let y := shownRegs x
  if off < 0x1000 then
    match off with
    | 0x0 => r32 (0x03020000 + f)
    | 0x4 => r32 (fnStatus s f)
    | 0x8 => r32 y.engines.toNat
    | 0xC => r32 (ledgerUse s f)
    | 0x10 => r32 (fnTags s f)
    | _ => none
  else if off < 0x4000 then
    if off = 0x1000 then r32 x.owner.toNat
    else if off = 0x1004 then r32 x.done.toNat
    else if 0x2000 ≤ off then
      some { width := 64, value := field (slotView s f ((off - 0x2000) / 0x100)) (off % 0x100) 8 }
    else none
  else if off < 0x5000 then
    if off = 0x4000 || (0x4100 ≤ off && off < 0x4200 && off % 4 = 0) then r32 0 else none
  else if off < 0x6000 then
    match off - 0x5000 with
    | 0x0 => r32 y.evq.prod
    | 0x4 => r32 y.evq.cons
    | 0x8 => r32 (evqStatus y.evq)
    | _ => none
  else if 0x8000 ≤ off && off < 0xA000 then
    let g := tget ({} : Ring) y.rings ((off - 0x8000) / 0x80)
    let open_ := fun (v : Nat) => if g.state = .closed then 0 else v
    match off % 0x80 with
    | 0x0 => r32 (ringState g)
    | 0x4 => r32 g.prod
    | 0x8 => r32 g.cons
    | 0x10 => r64 (open_ g.base)
    | 0x18 => r64 (open_ g.wb)
    | _ => none
  else if 0x10000 ≤ off && off < 0x11000 then
    if isCounter (off - 0x10000) then r64 (tget 0 x.counters (off - 0x10000)) else none
  else if 0x11000 ≤ off && off < 0x12000 then
    match off - 0x11000 with
    | 0x0 => r64 s.energy.tides
    | 0x8 => r32 x.enTide
    | 0xC => r32 (s.energy.bmcShown * 65536 + s.energy.effW)
    | 0x10 => r64 x.enTotal
    | 0x18 => r32 (capOf s f)
    | 0x20 => r64 x.enCapTides
    | _ => none
  else none

/-! ### PF-only blocks (R218 to R233) -/

/-- HB_BOOT_STATUS (R72). -/
def bootStatus (s : State) : Nat :=
  let b := s.boot
  b.dieUsable.toNat * 2 ^ 28 + (b.straps.cfgBoot.toNat % 4) * 2 ^ 26 + b2n b.trainCached * 2 ^ 25 +
    b2n b.straps.clkMode * 2 ^ 24 + b.failStage * 2 ^ 16 + b.failCause * 2 ^ 8 + b.stage
/-- HB_RESET_CAUSE (R51). -/
def resetCause (s : State) : Nat := s.boot.dieResets * 2 ^ 16 + s.boot.cpRestarts * 2 ^ 8 + s.boot.lastReset
/-- HB_IDENTITY (R31). -/
def identity (s : State) : Nat :=
  s.boot.diePresent.toNat * 2 ^ 20 + s.boot.blinkUp.toNat * 2 ^ 16 + identCause s * 2 ^ 8 + b2n s.boot.identDone * 2 +
    b2n (discovery s)
/-- HB_PCIE_STATUS (R113). -/
def pcieStatus (s : State) : Nat := b2n s.pcie.2.2 * 2 ^ 16 + s.pcie.2.1 * 2 ^ 8 + s.pcie.1
/-- HB_CP_STATUS (R220). -/
def cpStatus (s : State) : Nat :=
  s.cp.coreUp.toNat * 2 ^ 16 + s.cp.lastRestart * 16 + b2n s.cp.sentinel * 2 + b2n s.cp.recovery
/-- HB_LEDGER (R221). -/
def hbLedger (s : State) : Nat := (8192 - ledgerUseAll s) * 2 ^ 16 + ledgerUseAll s
/-- HB_GEN (R222). -/
def hbGen (s : State) : Nat := s.conf.newest * 2 ^ 16 + s.conf.older.getD s.conf.newest
/-- A thermal register (R224). -/
def thermReg (t : Thermal) : Nat := b2n t.throttle * 2 ^ 31 + t.maxT.toNat * 2 ^ 12 + t.temp.toNat

/-- CREST_n_STATE.STATE codes (R226). -/
def dieStateCode : DieState → Nat
  | .absent => 0 | .starting => 1 | .usable => 2 | .excluded => 3 | .lost => 4 | .rejoining => 5 | .draining => 6

/-- A register of the CREST_n_ block; of an absent die every register but CREST_n_STATE reads 0 (R225). -/
def crestReg (s : State) (n off : Nat) : Option RegVal :=
  let x := dieOf s n
  let live := x.state ≠ .absent
  let z := fun v => if live then v else 0
  match off with
  | 0x00 => r32 (z (x.linkVer * 2 ^ 12 + x.neighV.toNat * 2 ^ 10 + x.neighH.toNat * 2 ^ 8 + x.assigned.toNat * 16 +
      x.fuses.pos.toNat * 4 + b2n x.fuses.fused * 2 + b2n x.answered))
  | 0x08 => r64 (z x.fuses.serial.toNat)
  | 0x10 => r32 (z (b2n x.rootLock * 2 ^ 31 + b2n x.hbmLock * 2 ^ 30 + keepEff x * 2 ^ 16 + x.keepPlan * 2 ^ 8 +
      b2n (x.tripTemp || x.tripPower) * 4 + b2n x.tripEpr * 2 + b2n x.gated))
  | 0x20 => r32 (x.lostCount * 2 ^ 16 + x.cause * 2 ^ 8 + dieStateCode x.state)
  | 0x30 => r32 (z (thermReg (thermOf s n)))
  | 0x34 => r32 (z x.reqMv)
  | 0x38 => r32 (z (x.streamOwn.toNat * 2 ^ 16 + x.denseOwn.toNat))
  | _ => none

/-- LINK_l_STATE.STATE codes (R229). -/
def linkStateCode : LinkState → Nat
  | .down => 0 | .training => 1 | .up => 2 | .repair => 3 | .stranded => 4 | .loopback => 5

/-- Credits that the reporting end holds as sender of a virtual channel. -/
def heldCredits (s : State) (l vc : Nat) : Nat := ((dirOf (linkOf s l) (firstReports s l)).vcs.getD vc ({} : VcBook)).held

/-- A register of the LINK_ block (R228, R229). -/
def linkReg (s : State) (l off : Nat) : Option RegVal :=
  let k := linkOf s l
  match off with
  | 0x00 => r32 (k.version * 2 ^ 24 + groupsUp s l * 2 ^ 16 + k.spares * 2 ^ 8 + linkStateCode k.state)
  | 0x08 => r64 k.crc
  | 0x10 => r64 k.replay
  | 0x18 => r32 (heldCredits s l 3 * 2 ^ 24 + heldCredits s l 2 * 2 ^ 16 + heldCredits s l 1 * 2 ^ 8 + heldCredits s l 0)
  | 0x20 => r64 k.recentres
  | 0x28 => r64 k.tx
  | 0x30 => r64 k.rx
  | _ => none

/-- STATE codes of BANK_d_b (R230). -/
def bankStateCode : BankState → Nat
  | .unowned => 0 | .owned => 1 | .inHandover => 2 | .seized => 3
/-- BANK_d_b (R230). -/
def bankReg (x : Bank) : Nat :=
  bankStateCode x.state * 2 ^ 30 + b2n x.zeroDue * 2 ^ 29 + b2n x.marchFail * 2 ^ 28 + x.next * 2 ^ 8 + x.owner
/-- Banks of a die code in a state (R230). -/
def bankTally (s : State) (d : Nat) (st : BankState) : Nat :=
  ((bankNums d).filter (fun b => (bankOf s d b).state == st)).length
/-- BANK_d_COUNTS (R230). -/
def bankCounts (s : State) (d : Nat) : Nat :=
  bankTally s d .seized * 2 ^ 24 + bankTally s d .inHandover * 2 ^ 16 + bankTally s d .unowned * 2 ^ 8 + bankTally s d .owned

/-- A register of the BANK_ block. -/
def bankBlock (s : State) (off : Nat) : Option RegVal :=
  if off = 0x2000 then r64 s.bankRefused
  else
    let d := off / 0x400
    let o := off % 0x400
    if 5 ≤ d then none
    else if o = 0x100 then r32 (bankCounts s d)
    else if o % 4 = 0 && o / 4 < bankCount d then r32 (bankReg (bankOf s d (o / 4)))
    else none

/-- A register of the SCRUB_ block (R232). -/
def scrubReg (s : State) (c off : Nat) : Option RegVal :=
  if 25 ≤ c then none
  else
    let x := scrubOf s c
    match off with
    | 0x00 => r32 (b2n x.enable * 2 ^ 31 + x.period)
    | 0x08 => r64 x.pos
    | 0x10 => r64 x.passes
    | 0x18 => r64 x.ce
    | 0x20 => r64 x.ue
    | 0x28 => r32 x.retired
    | _ => none

/-- BALANCE and FAIRNESS in force: items 0x0102 and 0x0101 (R233, R530). -/
def balanceMode (s : State) : Nat := itemNow s idBalance 0
def fairnessMode (s : State) : Nat := itemNow s idFairness 0

/-- A register of the TIDE_ block (R233). -/
def tideReg (s : State) (off : Nat) : Option RegVal :=
  let e := s.energy
  if off = 0x0000 then r64 e.tides
  else if off = 0x0008 then r32 e.pkgUj
  else if off = 0x000C then r32 (e.effW * 65536 + balanceMode s * 2 + fairnessMode s)
  else if 0x10 ≤ off && off < 0x24 && off % 4 = 0 then r32 (domOf s ((off - 0x10) / 4)).grant
  else if 0x30 ≤ off && off < 0x44 && off % 4 = 0 then r32 (domOf s ((off - 0x30) / 4)).reservoir
  else if 0x50 ≤ off && off < 0x78 && off % 8 = 0 then r64 (domOf s ((off - 0x50) / 8)).floors
  else if off = 0x80 then r32 ((List.range 4).foldl (fun a n => a + (domOf s n).split * 2 ^ (8 * n)) 0)
  else if off = 0x90 then r32 (e.slackCount * 65536 + e.lastSlackUs)
  else none

/-- A register of the HB_ block (R219). -/
def hbReg (s : State) (off : Nat) : Option RegVal :=
  match off with
  | 0x0000 => r32 (bootStatus s)
  | 0x0004 => r32 (resetCause s)
  | 0x0008 => r32 s.boot.bootMs
  | 0x0100 => r32 (identity s)
  | 0x0108 => r64 s.hbFuses.serial.toNat
  | 0x0200 => r32 (pcieStatus s)
  | 0x0300 => r32 (cpStatus s)
  | 0x0400 => r32 (hbLedger s)
  | 0x0500 => r32 (hbGen s)
  | 0x0504 => r32 s.conf.shadow.length
  | 0x0600 => r32 (s.errNext % 2 ^ 32)
  | 0x0700 => r32 s.books.failed.toNat
  | 0x0708 => r64 s.books.lastTide
  | 0x0800 => r32 (thermReg (thermOf s 4))
  | _ => none

/-- A register of the PF's BAR4 by its offset (R79, R218); an unlisted offset of a block reads 0 (R210). -/
def bar4Reg (s : State) (f off : Nat) : Option RegVal :=
  if off < 0x400 then
    let v := vecOf s f (off / 16)
    if off % 16 = 0 then r64 v.addr
    else if off % 16 = 8 then some { width := 64, value := v.data.toNat + 2 ^ 32 * b2n v.masked }
    else none
  else if off = 0x2000 then
    r64 ((List.range 64).foldl (fun a i => a + b2n (vecOf s f i).pending * 2 ^ i) 0)
  else if f ≠ 0 then none
  else if 0x100000 ≤ off && off < 0x110000 then hbReg s (off - 0x100000)
  else if 0x200000 ≤ off && off < 0x240000 then crestReg s ((off - 0x200000) / 0x10000) (off % 0x10000)
  else if 0x300000 ≤ off && off < 0x300800 then linkReg s ((off - 0x300000) / 0x100) (off % 0x100)
  else if 0x310000 ≤ off && off < 0x320000 then bankBlock s (off - 0x310000)
  else if 0x320000 ≤ off && off < 0x330000 then scrubReg s ((off - 0x320000) / 0x40) (off % 0x40)
  else if 0x330000 ≤ off && off < 0x340000 then tideReg s (off - 0x330000)
  else none

/-- A register of a BAR by its offset. -/
def regAt (s : State) (f : Nat) (bar : Bar) (off : Nat) : Option RegVal :=
  match bar with
  | .bar0 => bar0Reg s f off
  | .bar4 => bar4Reg s f off
  | .config => none

/-- Key of a function's high-half latch of a register. -/
def latchKey (bar : Bar) (off : Nat) : Nat := (match bar with | .bar4 => 0x1000000 | _ => 0) + off

/-- A register with a high-half latch: one of the register reference, and no word of a slot or of the MSI-X table and PBA
(R9). -/
def latched (bar : Bar) (off : Nat) : Bool :=
  match bar with
  | .bar0 => !(decide (0x2000 ≤ off) && decide (off < 0x4000))
  | .bar4 => decide (0x100000 ≤ off)
  | .config => false

/-- What a 32-bit read at an offset returns, with the state after it: the low half of a 64-bit register loads the
function's latch, the high half reads the latch when it is loaded (R9). -/
def read32 (s : State) (f : Nat) (bar : Bar) (off : Nat) : Nat × State :=
  match regAt s f bar off with
  | some v =>
    if v.width = 64 && latched bar off then
      (v.value % 2 ^ 32, updFn s f (fun x => { x with
        latches := tput x.latches (latchKey bar off) (BitVec.ofNat 32 (v.value / 2 ^ 32)) }))
    else (v.value % 2 ^ 32, s)
  | none =>
    if 4 ≤ off then
      match regAt s f bar (off - 4) with
      | some v =>
        if v.width = 64 then
          match tfind (fnOf s f).latches (latchKey bar (off - 4)) with
          | some h => (h.toNat, s)
          | none => (v.value / 2 ^ 32 % 2 ^ 32, s)
        else (0, s)
      | none => (0, s)
    else (0, s)

/-! ### Register writes (R7 to R10, R69, R210) -/

/-- An item's committed value set outside a commit, as its register's direct write does (R7, R232). -/
def setCommitted (s : State) (id idx v : Nat) : State :=
  { s with conf := { s.conf with
      committed := tput s.conf.committed (itemKey id idx) v, applied := tput s.conf.applied (itemKey id idx) v } }

/-- A direct write of SCRUB_c_CTRL: the LCK fields, and with them the committed items that they show, take an in-range value
before the first COMMIT_CONFIG after reset, and nothing later (R7, R232). -/
def writeScrub (s : State) (c v : Nat) : State :=
  if s.conf.committedOnce then s
  else
    let period := if 60 ≤ v % 2 ^ 24 ∧ v % 2 ^ 24 ≤ 604800 then v % 2 ^ 24 else (scrubOf s c).period
    setCommitted (setCommitted (updScrub s c (fun x => { x with enable := bit v 31, period := period })) idScrubEnable c
      (b2n (bit v 31))) idScrubPeriod c period

/-- NEXT_OWNER of BANK_d_b written with HANDOVER 0: the RW field takes the value (R7, R230). A write with
HANDOVER 1 is the command BANK_HANDOVER. -/
def writeNextOwner (s : State) (d b v : Nat) : State := updBank s d b (fun x => { x with next := bits v 12 8 })

/-- A function's vectors may be unmasked: from READY and its FUNCTION_OPEN on (R52, R69). -/
def mayUnmask (s : State) (f : Nat) : Bool := isReady s && (fnOf s f).opened

/-- A write of one MSI-X table entry's word (R79, R83). Unmasking is the command MSIX_UNMASK. -/
def writeMsix (s : State) (f off v : Nat) : State :=
  updVec s f (off / 16) (fun x =>
    match off % 16 with
    | 0 => { x with addr := x.addr / 2 ^ 32 * 2 ^ 32 + v / 4 * 4 }
    | 4 => { x with addr := v * 2 ^ 32 + x.addr % 2 ^ 32 }
    | 8 => { x with data := BitVec.ofNat 32 v }
    | _ => { x with masked := x.masked || bit v 0 })

/-- A 32-bit write to a register without behaviour of its own: RW and W1C fields take it, read-only and unlisted
offsets ignore it, and the PF-only blocks ignore every write before READY (R7, R10, R69, R210). -/
def write32 (s : State) (f : Nat) (bar : Bar) (off v : Nat) : State :=
  match bar with
  | .bar0 =>
    if off = 0x1004 then updFn s f (fun x => { x with done := x.done &&& ~~~ (BitVec.ofNat 32 v) })
    else if off = 0x5008 && bit v 13 then updFn s f (fun x => { x with evq := { x.evq with overflow := false } })
    else s
  | .bar4 =>
    if off < 0x400 then writeMsix s f off v
    else if f ≠ 0 ∨ ¬ isReady s then s
    else if off = 0x100700 then
      { s with books := { s.books with failed := s.books.failed &&& ~~~ (BitVec.ofNat 32 v) } }
    else if 0x310000 ≤ off && off < 0x311400 && off % 4 = 0 then
      let d := (off - 0x310000) / 0x400
      let b := off % 0x400 / 4
      if b < bankCount d && !bit v 15 then writeNextOwner s d b v else s
    else if 0x320000 ≤ off && off < 0x320640 && off % 0x40 = 0 then writeScrub s ((off - 0x320000) / 0x40) v
    else s
  | .config => s

/-- Unmasking a vector sends the message whose PBA bit is pending (R83); it stays masked until READY and FUNCTION_OPEN
(R52, R69). -/
def unmask (s : State) (f v : Nat) : State :=
  if !barOn s f then refuseAccess s f
  else if !mayUnmask s f then s
  else
  let s1 := updVec s f v (fun x => { x with masked := false })
  if (vecOf s f v).pending then fireVector (updVec s1 f v (fun x => { x with pending := false })) f v else s1

def execMsixUnmask (f : Fin 16) (v : Fin 64) (s : State) : Host.Outcome State Fault Refusal :=
  done s (unmask s f.val v.val)

end Sys2Proof.Machine
end

