-- ==== Sys2Proof/Machine/FunctionCommands.lean ====
section
/-! DEFINITION. The device, function and memory commands: rows DEVICE_INFO to BAR2_WINDOW_SET and DIAG_BOOTLOG (05 R175 to
R181, R202). -/

namespace Sys2Proof.Machine

open Sys2Proof

/-! ### DEVICE_INFO and DIAG_BOOTLOG, answered by the mailbox hardware (R122) -/

/-- "VX3-912-A" in ASCII. -/
def orderCode : List Byte := [0x56, 0x58, 0x33, 0x2D, 0x39, 0x31, 0x32, 0x2D, 0x41]

/-- The firmware version, known once the control-processor firmware is verified. -/
def knownFw (s : State) : Nat :=
  let st := if isFatal s then s.boot.failStage else s.boot.stage
  if 3 ≤ st then (runningVersion s 1).toNat else 0

/-- The response of DEVICE_INFO (R175). -/
def deviceInfo (s : State) (f : Nat) : List Byte :=
  le 2 3 ++ le 2 2 ++ le 1 0xB0 ++ le 1 (b2n (discovery s)) ++ le 1 s.boot.diePresent.toNat ++
    le 1 s.boot.dieUsable.toNat ++ le 1 s.boot.blinkUp.toNat ++ le 1 f ++ le 1 s.boot.stage ++
    le 1 (b2n (isReady s) + 2 * b2n (degradedShown s) + 4 * b2n (isFatal s)) ++ le 4 (knownFw s) ++
    le 8 s.hbFuses.serial.toNat ++ le 2 36 ++ le 2 768 ++ le 4 262144 ++ le 4 8192 ++ le 2 s.energy.effW ++ le 2 0 ++
    padTo 16 orderCode ++ le 8 0

/-- An answer of the mailbox hardware: the slot completes at once, counted when it is a refusal (R163). -/
def hwComplete (s : State) (f slot : Nat) (o : CmdOutcome) : State :=
  completeSlot (if o.status = 0 then s else cnt s f 0x310 1) f slot o

def execDeviceInfo (f : Fin 16) (slot : Fin 32) (s : State) : Host.Outcome State Fault Refusal :=
  occurs s (mayStart s f slot 0x0101) "command start" (hwComplete s f slot (hwOutcome s f (slotBytes s f slot) (deviceInfo s f)))

/-- The boot log as text: at most 65,536 bytes, from the entries logged (R68, R202; log entry 4). -/
def bootText (s : State) : List Byte :=
  (s.boot.log.flatMap entryText).take 65536

/-- The response of DIAG_BOOTLOG (R202). -/
def bootLogAnswer (s : State) (off : Nat) : List Byte :=
  le 4 (bootText s).length ++ le 4 0 ++ ((bootText s).drop off).take 224

def execDiagBootlog (f : Fin 16) (slot : Fin 32) (s : State) : Host.Outcome State Fault Refusal :=
  occurs s (mayStart s f slot 0x0B01) "command start"
    (hwComplete s f slot (hwOutcome s f (slotBytes s f slot) (bootLogAnswer s (pay (slotBytes s f slot) 0 4))))

/-! ### Function commands -/

/-- Whether a range lies in tier X pages of a function (R133). -/
def hostRange (s : State) (f dva len : Nat) : Bool := inTierX s (asidOf f) dva len

/-- The 4 KiB pages of a range, by their first DVAs. -/
def pageDvas (dva len : Nat) : List Nat := (List.range (cdiv len 4096)).map (fun k => dva / 4096 * 4096 + 4096 * k)

/-- The events held for the PF before its first FUNCTION_OPEN are written first (R155). -/
def releaseHeld (s : State) : State :=
  s.pfHeld.foldl (fun s e => enqueue s 0 e)
    { s with pfHeld := [], boot := { s.boot with pfOpened := true } }

/-- FUNCTION_OPEN (R176, R208). -/
def functionOpen (s : State) (f : Nat) (b : List Byte) : Ran :=
  let dva := pay b 0 8
  let size := pay b 8 1
  fields s [(decide (63 < pay b 9 1), 25), resv b 10 6] (
    if (fnOf s f).opened then bad s stStateConflict 1
    else if size < 6 ∨ 12 < size then bad s stRingInvalid 24
    else if dva % 4096 ≠ 0 || !hostRange s f dva (64 * 2 ^ size) then bad s stRingInvalid 16
    else
      let s1 := updFn s f (fun x => { x with
        opened := true, enTotal := 0, latches := tdel x.latches 0x11010,
        evq := { opened := true, base := dva, sizeLog2 := size, vector := pay b 9 1, overflow := x.evq.overflow,
                 lost := if atsOn s f then pageDvas dva (64 * 2 ^ size) else [] } })
      good (if f = 0 && !s.boot.pfOpened then releaseHeld s1 else s1) [])

def execFunctionOpen (f : Fin 16) (slot : Fin 32) (s : State) : Host.Outcome State Fault Refusal :=
  runBegin s f slot 0x0201 (fun s _ => s)

/-- FUNCTION_CLOSE (R177). -/
def functionClose (s : State) (f : Nat) : Ran :=
  if (fnOf s f).rings.any (fun kv => kv.2.state != .closed) then bad s stInUse noLedger
  else match userEntry s (fun _ e => e.b.fn = f) with
    | some i => bad s stInUse i
    | none => good (updFn s f (fun x => { x with engines := 0, engStop := 0, opened := false, evq := { overflow := x.evq.overflow } })) []

def execFunctionClose (f : Fin 16) (slot : Fin 32) (s : State) : Host.Outcome State Fault Refusal :=
  runBegin s f slot 0x0202 (fun s _ => s)

/-- A step holds work of a function. -/
def inSteps (s : State) (f : Nat) : Bool :=
  s.steps.any (fun kv => kv.2.members.any (fun m => (entOf s m.1).b.fn = f))

/-- A carding stream of a function waits on a fault: its pre-emption waits for the service to end (R293). -/
def faultHeld (s : State) (f : Nat) : Bool := (fnOf s f).streams.any (fun kv => kv.2.waiting)

/-- An ENGINE_ENABLE that disables the engines of a mask has work of them still to stop. -/
def stopsWait (s : State) (f dis : Nat) : Bool := (bit dis 4 && inSteps s f) || (bit dis 1 && faultHeld s f)

/-- The carding lanes of a function leave their streams at their restart points. -/
def stopLanes (s : State) (f : Nat) : State :=
  { s with lanesIn := tmap s.lanesIn (fun _ l => if l.fn = f then { l with busy := false } else l) }

/-- The field checks of ENGINE_ENABLE, and what follows when they pass. -/
def engineFields (s : State) (b : List Byte) (k : Nat → Nat → Ran) : Ran :=
  let en := pay b 0 1
  let dis := pay b 1 1
  fields s [(decide (31 < en) || decide (Nat.land en dis ≠ 0), 16), (decide (31 < dis), 17), resv b 2 2] (k en dis)

/-- ENGINE_ENABLE starts: the engines named in DISABLE stop the function's work at its restart points (R178, R283). -/
def engineStops (s : State) (f : Nat) (b : List Byte) : State :=
  (engineFields s b (fun _ dis =>
    let s1 := updFn s f (fun x => { x with engStop := x.engStop ||| BitVec.ofNat 5 dis })
    (if bit dis 1 then stopLanes s1 f else s1, none))).1

/-- ENGINE_ENABLE at its commit point (R178). -/
def engineEnable (s : State) (f : Nat) (b : List Byte) : Ran :=
  engineFields s b (fun en dis =>
    let s1 := updFn s f (fun x => { x with
      engines := (x.engines &&& ~~~ (BitVec.ofNat 5 dis)) ||| BitVec.ofNat 5 en,
      engStop := x.engStop &&& ~~~ (BitVec.ofNat 5 dis) })
    good s1 (le 1 (fnOf s1 f).engines.toNat ++ le 3 0))

def execEngineEnable (f : Fin 16) (slot : Fin 32) (s : State) : Host.Outcome State Fault Refusal :=
  runBegin s f slot 0x0203 (fun s b => engineStops s f b)

/-! ### Memory commands -/

/-- A placement word at a slot offset: its reserved bits and TIER 0b11 as a field check (R17, R20). -/
def placeField (w off : Nat) : Bool × Nat :=
  if bits w 7 5 ≠ 0 then (true, off) else (decide (bits w 15 10 ≠ 0) || decide (placeTier w = 3), off + 1)

/-- Pages of a function's regions of a tier, against its quota (R590). -/
def overQuota (s : State) (f tier pages : Nat) : Bool :=
  let q := itemNow s (if tier = 0 then idQuotaH else idQuotaC) f
  let n := ((s.regions.filter (fun kv => kv.2.asid = asidOf f && kv.2.tier = tier)).map (fun kv => kv.2.size / 65536)).sum
  q ≠ 0 && decide (q < n + pages)

/-- The pool of a region's placement. -/
def regionPool (w : Nat) : Nat := if placeTier w = 0 then (maskDies (placeMask w)).headD 0 else 4

/-- Pages for a region: any free ones, or aligned runs of 8,192 for each 512 MiB leaf (R179). `n` counts leaves. -/
def blockRuns (s : State) (p : Nat) : Nat → Option (List Nat)
  | 0 => some []
  | n + 1 =>
    match pickBlock s p (s.pages.length + 1) ((poolBase p + 8191) / 8192 * 8192) with
    | none => none
    | some a =>
      let run := (List.range 8192).map (a + ·)
      match blockRuns { s with pages := run.foldl (fun t q => tput t q { state := .allocated }) s.pages } p n with
      | none => none
      | some rest => some (run ++ rest)

/-- REGION_CREATE (R179, R266, R267). -/
def regionCreate (s : State) (f : Nat) (b : List Byte) : Ran :=
  let dva := pay b 0 8
  let size := pay b 8 8
  let w := pay b 16 2
  let fl := pay b 18 2
  let pasid := pay b 20 4
  let iova := pay b 24 8
  let block := bit fl 1
  let x := placeTier w = 2
  let unit := if block then 536870912 else 65536
  fields s [(decide (size = 0), 24), placeField w 32, (decide (3 < fl % 256) || (x && block), 34),
      (decide (255 < fl), 35), (if x then decide (2 ^ 20 ≤ pasid) else decide (pasid ≠ 0), 36),
      (if x then decide (iova % 65536 ≠ 0) || decide (2 ^ 52 < iova + size) else decide (iova ≠ 0), 40)] (
    if !regionShape w then bad s stPlacementInvalid 32
    else if placeTier w = 0 && unavailable s (placeMask w) ≠ 0 then bad s stDieUnavailable (unavailable s (placeMask w))
    else if dva % unit ≠ 0 ∨ size % unit ≠ 0 ∨ firmwareWindow < dva + size ∨
        s.regions.any (fun kv => kv.2.asid = asidOf f && meets kv.2 dva (dva + size)) then bad s stDvaConflict 16
    else
      let n := size / 65536
      let p := regionPool w
      let pages := if x then some []
        else if overQuota s f (placeTier w) n then none
        else if block then (if n ≤ freeLess s p then blockRuns s p (n / 8192) else none)
        else findFree s p n
      match pages with
      | none => bad s stNoSpace (placeTier w)
      | some ps =>
        if 4096 ≤ (s.regions.filter (fun kv => kv.2.asid = asidOf f)).length then bad s stObjectLimit 4096
        else if !serialLeft s 1 f then bad s stObjectLimit 0xFFFFFF
        else
          let h := newHandle s 1 f
          let s1 := takePages h.2 ps (asidOf f) .tenant h.1
          let s2 := ps.foldl (fun (a : State × Nat) q => (updPage a.1 q (fun y => { y with dva := dva + 65536 * a.2 }), a.2 + 1))
            (s1, 0)
          let r : Region := {
            asid := asidOf f, dva := dva, size := size, tier := placeTier w, dies := placeMask w, block := block,
            writable := bit fl 0, pasid := pasid, iova := iova, pages := ps }
          good { s2.1 with regions := tput s2.1.regions h.1 r } (le 4 h.1 ++ le 4 0))

def execRegionCreate (f : Fin 16) (slot : Fin 32) (s : State) : Host.Outcome State Fault Refusal :=
  runReserve s f slot 0x0301 (fun s b => regionCreate s f b)

/-- REGION_DESTROY (R180). -/
def regionDestroy (s : State) (f slot : Nat) (b : List Byte) : Ran :=
  let h := pay b 0 4
  fields s [resv b 4 4] (
    match findObj s s.regions h with
    | none => bad s stHandleInvalid 16
    | some r =>
      if r.asid ≠ asidOf f then bad s stHandleInvalid 16
      else if regionBusy s f r || cmdInRegion s f slot r then bad s stInUse noLedger
      else good (dropRegion s h) [])

def execRegionDestroy (f : Fin 16) (slot : Fin 32) (s : State) : Host.Outcome State Fault Refusal :=
  runBegin s f slot 0x0302 (fun s _ => s)

/-- BAR2_WINDOW_SET (R181). -/
def bar2WindowSet (s : State) (f : Nat) (b : List Byte) : Ran :=
  let w := pay b 0 8
  fields s [(decide (w % 2 ^ 36 ≠ 0) || decide (2 ^ 48 ≤ w), 16)]
    (good (updFn s f (fun x => { x with window := w })) [])

def execBar2WindowSet (f : Fin 16) (slot : Fin 32) (s : State) : Host.Outcome State Fault Refusal :=
  runBegin s f slot 0x0303 (fun s _ => s)

end Sys2Proof.Machine
end

