-- ==== Sys2Proof/Machine/ObjectCommands.lean ====
section
/-! DEFINITION. The model, vocabulary, bin-table and grammar commands: rows MODEL_LOAD to GRAMMAR_UNLOAD (05 R182 to
R190, 13 R414 to R418, 15 R452 to R454). -/

namespace Sys2Proof.Machine

open Sys2Proof

/-! ### Reading an image (R94, R182, R288) -/

/-- The bytes of a range of a function's memory, region by region: those of tier X come from `host`, which holds the range
from its first byte on; none where a part of it is not mapped. `fuel` bounds the regions. -/
def gather (s : State) (f : Nat) (host : List Byte) : Nat → Nat → Nat → Option (List Byte)
  | 0, _, _ => none
  | fuel + 1, dva, len =>
    match regionAt s (asidOf f) dva with
    | none => none
    | some (_, r) =>
      let n := min len (r.dva + r.size - dva)
      let here := if r.tier = 2 then some (padTo n (host.take n))
        else if r.pages.isEmpty then none else some (devRead s (asidOf f) dva n)
      match here with
      | none => none
      | some l => if len ≤ n then some l else (gather s f (host.drop n) fuel (dva + n) (len - n)).map (l ++ ·)

/-- Whether some byte of a range lies in tier X, region by region. -/
def someHost (s : State) (f dva len : Nat) : Bool :=
  !spanIn s (asidOf f) (fun r => r.tier ≠ 2) (s.regions.length + 1) dva len &&
    spanIn s (asidOf f) (fun _ => true) (s.regions.length + 1) dva len

/-- A poisoned line lies in a range of a function's memory. -/
def rangePoisoned (s : State) (f dva len : Nat) : Bool :=
  s.regions.any (fun kv => !hidden s kv.1 && decide (kv.2.asid = asidOf f) && s.poison.any (fun a =>
    match kv.2.pages.findIdx? (fun p => decide (p = a / 65536)) with
    | some k =>
      let at_ := kv.2.dva + 65536 * k + a % 65536
      decide (dva < at_ + eccUnit a) && decide (at_ < dva + len)
    | none => false))

/-- The bytes of an image at a DVA of a function: what the host read returned for tier X, the device's own memory otherwise;
or the status that makes the read fail (R94, R288): a range that is not mapped, or whose pages a die's loss has taken, is a
permission fault. -/
def loadBytes (s : State) (f dva len : Nat) (read : HostRead) : Except Nat (List Byte) :=
  match someHost s f dva len, read with
  | true, .failed st => .error st
  | _, _ =>
    match gather s f (match read with | .bytes b => b | .failed _ => []) (s.regions.length + 1) dva (max 1 len) with
    | none => .error stPermission
    | some b => if rangePoisoned s f dva len then .error 0x14 else .ok (b.take len)

/-- An image's read: what it asks of the host goes out under the command, and its bytes follow; a read that fails ends the
load with LOAD_FAILED (R92, R94, R182). -/
def withImage (s : State) (f slot dva len : Nat) (read : HostRead) (k : State → List Byte → Ran) : Ran :=
  match loadBytes s f dva len read with
  | .error st => bad (if someHost s f dva len then noteRead s f st else s) stLoadFailed st
  | .ok b => k (askImage s f slot dva len) b

/-- Pages of a number of bytes. -/
def pagesFor (n : Nat) : Nat := max 1 (cdiv n 65536)

/-! ### Models -/

/-- The rules of R531 that an image's figures must meet. -/
def kvFits (m : ModelImage) : Bool :=
  m.kvBytes % m.dies = 0 && (m.kvBytes / m.dies) % 64 = 0 && 2048 % (m.kvBytes / m.dies) = 0 &&
    m.layers % (65536 / (32 * (m.kvBytes / m.dies))) = 0

/-- Tier H pages taken for each rank's share of the weights. -/
def takeWeights (s : State) (asid h : Nat) (cls : PClass) : List (Nat × Nat) → Option (List Nat × State)
  | [] => some ([], s)
  | (d, bytes) :: rest =>
    match findFree s d (pagesFor bytes) with
    | none => none
    | some ps =>
      match takeWeights (takePages s ps asid cls h) asid h cls rest with
      | none => none
      | some (more, s') => some (ps ++ more, s')

/-- The clusters and banks of a group taken, die by die. -/
def takeClusters (s : State) (code dense stream : Nat) : List Nat → Option (List (Nat × Nat × Nat × List Nat) × State)
  | [] => some ([], s)
  | d :: rest =>
    match lowestFree (dieOf s d).denseOwn dense, lowestFree (dieOf s d).streamOwn stream with
    | some dm, some sm =>
      match groupBanks s d code dm sm with
      | none => none
      | some banks =>
        let s1 := updDie s d (fun x => { x with
          denseOwn := x.denseOwn ||| BitVec.ofNat 16 dm, streamOwn := x.streamOwn ||| BitVec.ofNat 16 sm })
        let s2 := banks.foldl (fun s k => handBank s (k / 64) (k % 64) code) s1
        match takeClusters s2 code dense stream rest with
        | none => none
        | some (more, s') => some ((d, dm, sm, banks) :: more, s')
    | _, _ => none

/-- Residency of a new image of a length (R185, R416). -/
def fitsSram (s : State) (len : Nat) : Bool :=
  decide ((s.vocabs.filter (·.2.resident)).length < 4) && decide (len ≤ sramFree s)

/-- A vocabulary object put in place, its image copied into tier C; none when tier C has no room. -/
def placeVocab (s : State) (f : Nat) (shared pin : Bool) (img : List Byte) : Option (Nat × State) :=
  match findFree s 4 (pagesFor img.length) with
  | none => none
  | some ps =>
    let h := newHandle s 3 f
    let s1 := takePages h.2 ps (asidOf f) .image h.1
    let v : Vocab := {
      owner := f, shared := shared, pin := pin, bytes := img, resident := fitsSram s img.length, pages := ps }
    let s2 := { s1 with vocabs := tput s1.vocabs h.1 v }
    some (h.1, evictTables s2 0 s2.bins.length)

/-- The embedded vocabulary image of a model image: from the host read, or from the device's memory. -/
def embeddedVocab (s : State) (f dva : Nat) (read : HostRead) (m : ModelImage) : List Byte :=
  match loadBytes s f (dva + m.vocabOff) m.vocabLen (match read with
    | .bytes b => .bytes (b.drop m.vocabOff)
    | .failed st => .failed st) with
  | .ok b => b.take m.vocabLen
  | .error _ => []

/-- The placement checks of a group in the order of R20. -/
def groupPlacement (s : State) (w : Nat) : Option (Nat × Nat) :=
  if !groupShape w then some (stPlacementInvalid, 32)
  else if unavailable s (placeMask w) ≠ 0 then some (stDieUnavailable, unavailable s (placeMask w))
  else if !joined s (maskDies (placeMask w)) then some (stPlacementInvalid, 32)
  else none

/-- The reservations of a model load, with its outcome (R172, R182, R299, R358). -/
def formGroup (s : State) (f : Nat) (b : List Byte) (img : ModelImage) (voc : List Byte) : Ran :=
  let w := pay b 16 2
  let dense := pay b 18 1
  let stream := pay b 19 1
  let fl := pay b 20 2
  let dies := maskDies (placeMask w)
  let shared := bit fl 1
  let code := if shared then 0x10 else f
  match takeClusters s code dense stream dies with
  | none => bad s stNoSpace 2
  | some (parts, s1) =>
    let h := newHandle s1 2 f
    let cls := if bit fl 0 then PClass.weights else .weightsNoReplica
    match takeWeights h.2 (asidOf f) h.1 cls (dies.zip img.weightBytes) with
    | none => bad s stNoSpace 0
    | some (weights, s2) =>
      let total := (img.weightBytes.map pagesFor).sum
      match (if bit fl 0 then findFree s2 4 total else some []) with
      | none => bad s stNoSpace 1
      | some rep =>
        let s3 := takePages s2 rep (asidOf f) .replica h.1
        match (if img.vocabLen = 0 then some (0, s3) else placeVocab s3 f shared false voc) with
        | none => bad s stNoSpace 1
        | some (vh, s4) =>
          if 64 ≤ s.models.length then bad s stObjectLimit 64
          else if vh ≠ 0 && decide (64 ≤ s.vocabs.length) then bad s stObjectLimit 64
          else if !serialLeft s 2 f || (vh ≠ 0 && !serialLeft s 3 f) then bad s stObjectLimit 0xFFFFFF
          else
            let m : Model :=
              { owner := f, shared := shared, replica := bit fl 0, image := img, placement := w, dense := dense,
                stream := stream, denseMask := parts.map (fun p => (p.1, p.2.1)),
                streamMask := parts.map (fun p => (p.1, p.2.2.1)),
                banks := (parts.map (fun p => p.2.2.2)).flatten, weights := weights, replicaPages := rep, vocab := vh,
                loaded := (w, dense, stream) }
            ({ s4 with models := tput s4.models h.1 m },
             some { resp := le 4 h.1 ++ le 4 vh ++ le 8 (img.weightBytes.foldl max 0), dieMask := placeMask w })

/-- The depths of a template's nodes, which is also the head that proposes each (R544). -/
def templateDepths (l : List Nat) : List Nat :=
  l.foldl (fun ds p => ds ++ [if p = 0 then 1 else ds.getD (p - 1) 0 + 1]) []

/-- A tree template has at most 32 nodes, every parent before its children, and no node deeper than 4 or than its heads
(R544). -/
def templateFits (m : ModelImage) : Bool :=
  decide (m.template.length ≤ 32) && (m.template.mapIdx (fun k p => decide (p ≤ k))).all (fun x => x) &&
    (templateDepths m.template).all (fun d => decide (d ≤ 4) && decide (d ≤ m.heads))

/-- The limits that an image's figures can break: 262,144 vocabulary entries and 4 lookahead heads (R3, R182), the format
codes (R361), the operand pairs of the MAC arrays (R367), divided reductions in slices of whole blocks (R370), TOPK calls in
range (R381) and the tree template (R544). -/
def imageLimits (m : ModelImage) : Bool :=
  decide (m.vocabSize ≤ 262144) && decide (m.heads ≤ 4) && decide (1 ≤ m.weightFormat) && decide (m.weightFormat ≤ 6) &&
    m.pairs.all (fun p => macPair p.1 p.2) && m.splits.all (fun k => divides k m.dies) &&
    m.topks.all (fun p => topkFits p.1 p.2) && templateFits m

/-- MODEL_LOAD (R182). The byte at which an image breaks a limit or a rule of R531 is not stated: a free value. -/
def modelLoad (s : State) (f slot : Nat) (b : List Byte) (read : HostRead) (img : ModelImage) : Ran :=
  let dva := pay b 0 8
  let fl := pay b 20 2
  fields s [(decide (dva % 65536 ≠ 0), 16), placeField (pay b 16 2) 32,
      (decide (pay b 18 1 = 0) || decide (16 < pay b 18 1), 34), (decide (pay b 19 1 = 0) || decide (16 < pay b 19 1), 35),
      (decide (3 < fl % 256) || (bit fl 1 && f ≠ 0), 36), (decide (255 < fl), 37), resv b 22 2] (
    if !engineOn s f 0 then bad s stEngineDisabled 1
    else match groupPlacement s (pay b 16 2) with
      | some (st, d) => bad s st d
      | none => withImage s f slot dva (pay b 8 8) read (fun s _ =>
          match img.bad with
          | some d => bad s stImageInvalid d
          | none =>
            if !kvFits img || !imageLimits img then bad (drawn s) stImageInvalid (Config.freeNat s.freeCtr % 2 ^ 32)
            else
              let voc := embeddedVocab s f dva read img
              match (if img.vocabLen = 0 then none else vocabCheck voc) with
              | some d => bad s stImageInvalid (img.vocabOff + d)
              | none =>
                if (maskDies (placeMask (pay b 16 2))).length ≠ img.dies then bad s stPlacementInvalid 32
                else formGroup s f b img voc))

def execModelLoad (f : Fin 16) (slot : Fin 32) (read : HostRead) (image : ModelImage) (s : State) :
    Host.Outcome State Fault Refusal :=
  runReserve s f slot 0x0401 (fun s b => modelLoad s f slot b read image)

/-- The object of an unload or info command: NOT_PERMITTED for a VF that unloads a shared object (R169), reserved
bytes, then HANDLE_INVALID (R167). `own` finds its owner and SHARED. -/
def withObject (s : State) (f : Nat) (b : List Byte) (unload : Bool) (own : Option (Nat × Bool)) (k : Nat → Ran) : Ran :=
  match own with
  | some (o, shared) =>
    if unload && shared && f ≠ 0 then bad s stNotPermitted 0
    else fields s [resv b 4 4] (if usableBy o shared f then k (pay b 0 4) else bad s stHandleInvalid 16)
  | none => fields s [resv b 4 4] (bad s stHandleInvalid 16)

/-- Owner and SHARED of a model, a vocabulary, a bin table and a grammar. -/
def modelOwner (s : State) (h : Nat) : Option (Nat × Bool) := (findObj s s.models h).map (fun m => (m.owner, m.shared))
def vocabOwner (s : State) (h : Nat) : Option (Nat × Bool) := (findObj s s.vocabs h).map (fun m => (m.owner, m.shared))
def tableOwner (s : State) (h : Nat) : Option (Nat × Bool) := (findObj s s.bins h).map (fun m => (m.owner, m.shared))
def grammarOwner (s : State) (h : Nat) : Option (Nat × Bool) := (findObj s s.grammars h).map (fun m => (m.owner, m.shared))

/-- MODEL_UNLOAD (R183). A request that a die loss has moved to the model counts as one that names it (R639). -/
def modelUnload (s : State) (f : Nat) (b : List Byte) : Ran :=
  withObject s f b true (modelOwner s (pay b 0 4)) (fun h =>
    match userEntry s (fun i e => e.b.model = h || (entXOf s i).runsOn = h) with
    | some i => bad s stInUse i
    | none =>
      let m := tget (default : Model) s.models h
      match (if m.vocab = 0 then none else vocabUser s m.vocab h) with
      | some d => bad s stInUse d
      | none => good (dropModel s h false) [])

def execModelUnload (f : Fin 16) (slot : Fin 32) (s : State) : Host.Outcome State Fault Refusal :=
  runBegin s f slot 0x0402 (fun s _ => s)

/-- The response of MODEL_INFO (R184). -/
def modelInfo (m : Model) : List Byte :=
  let i := m.image
  le 4 i.layers ++ le 4 i.vocabSize ++ le 4 i.kvBytes ++ le 1 i.weightFormat ++ le 1 i.heads ++ le 2 m.loaded.1 ++
    le 1 m.loaded.2.1 ++ le 1 m.loaded.2.2 ++ le 2 (b2n m.replica + 2 * b2n m.shared) ++ le 4 i.prefillNj ++ le 4 i.decodeNj ++
    le 4 m.vocab ++ le 8 i.weightBytes.sum ++ le 8 0

/-- MODEL_INFO (R184). -/
def modelInfoCmd (s : State) (f : Nat) (b : List Byte) : Ran :=
  withObject s f b false (modelOwner s (pay b 0 4)) (fun h => good s (modelInfo (tget (default : Model) s.models h)))

def execModelInfo (f : Fin 16) (slot : Fin 32) (s : State) : Host.Outcome State Fault Refusal :=
  runBegin s f slot 0x0403 (fun s _ => s)

/-! ### Vocabularies (R185, R186, R414 to R416) -/

/-- VOCAB_LOAD (R185). DESIGN CHOICE (log entry 126): a VF that sets SHARED here, or in BINTABLE_LOAD or GRAMMAR_LOAD, gets
INVALID_FIELD at the FLAGS byte, as R182 says for MODEL_LOAD; R169 gives these commands no status. -/
def vocabLoad (s : State) (f slot : Nat) (b : List Byte) (read : HostRead) : Ran :=
  let dva := pay b 0 8
  let len := pay b 8 8
  let fl := pay b 16 1
  fields s [(decide (dva % 65536 ≠ 0), 16), (decide (3 < fl) || (bit fl 1 && f ≠ 0), 32), resv b 17 7] (
    if !engineOn s f 0 then bad s stEngineDisabled 1
    else withImage s f slot dva len read (fun s img =>
      if 134217728 < len then bad s stImageInvalid 134217728
      else
        match vocabCheck img with
        | some d => bad s stImageInvalid d
        | none =>
          if bit fl 0 && !fitsSram s img.length then bad s stNoSpace 3
          else if 64 ≤ s.vocabs.length then bad s stObjectLimit 64
          else if !serialLeft s 3 f then bad s stObjectLimit 0xFFFFFF
          else match placeVocab s f (bit fl 1) (bit fl 0) img with
            | none => bad s stNoSpace 1
            | some (h, s1) => good s1 (le 4 h ++ le 1 (b2n (fitsSram s img.length)) ++ le 3 0)))

def execVocabLoad (f : Fin 16) (slot : Fin 32) (read : HostRead) (s : State) : Host.Outcome State Fault Refusal :=
  runReserve s f slot 0x0501 (fun s b => vocabLoad s f slot b read)

/-- VOCAB_UNLOAD (R186). -/
def vocabUnload (s : State) (f : Nat) (b : List Byte) : Ran :=
  withObject s f b true (vocabOwner s (pay b 0 4)) (fun h =>
    match vocabUser s h 0 with
    | some d => bad s stInUse d
    | none => good (dropVocab s h) [])

def execVocabUnload (f : Fin 16) (slot : Fin 32) (s : State) : Host.Outcome State Fault Refusal :=
  runBegin s f slot 0x0502 (fun s _ => s)

/-! ### Bin tables (R187, R188, R417, R418) -/

/-- BINTABLE_LOAD (R187). Its bin count is N + 1 (R419). -/
def bintableLoad (s : State) (f slot : Nat) (b : List Byte) (read : HostRead) : Ran :=
  let dva := pay b 0 8
  let len := pay b 8 4
  let fl := pay b 12 1
  fields s [(decide (dva % 8 ≠ 0), 16), (decide (len = 0) || decide (1048576 < len), 24),
      (decide (1 < fl) || (bit fl 0 && f ≠ 0), 28), resv b 13 3] (
    withImage s f slot dva len read (fun s t =>
      match tableCheck t with
      | some d => bad s stImageInvalid d
      | none =>
        if 4096 ≤ s.bins.length then bad s stObjectLimit 4096
        else if !serialLeft s 5 f then bad s stObjectLimit 0xFFFFFF
        else match findFree s 4 (pagesFor len) with
          | none => bad s stNoSpace 1
          | some ps =>
            let h := newHandle s 5 f
            let s1 := takePages h.2 ps (asidOf f) .image h.1
            let x : BinTable := { owner := f, shared := bit fl 0, bytes := t, pages := ps }
            good { s1 with bins := tput s1.bins h.1 x } (le 4 h.1 ++ le 4 (tabN t + 1))))

def execBintableLoad (f : Fin 16) (slot : Fin 32) (read : HostRead) (s : State) : Host.Outcome State Fault Refusal :=
  runReserve s f slot 0x0503 (fun s b => bintableLoad s f slot b read)

/-- BINTABLE_UNLOAD (R188). -/
def bintableUnload (s : State) (f : Nat) (b : List Byte) : Ran :=
  withObject s f b true (tableOwner s (pay b 0 4)) (fun h =>
    if tableBusy s h then bad s stInUse noLedger else good (dropTable s h) [])

def execBintableUnload (f : Fin 16) (slot : Fin 32) (s : State) : Host.Outcome State Fault Refusal :=
  runBegin s f slot 0x0504 (fun s _ => s)

/-! ### Grammars (R189, R190, R452 to R454) -/

def gramFlags (h : List Byte) : Nat := byteAt h 7
def gramStates (h : List Byte) : Nat := field h 20 4
def gramDepth (h : List Byte) : Nat := field h 28 2
def gramPages (h : List Byte) : Nat := field h 40 4

/-- A section's entry in a grammar header, and whether its bounds break R453 in an image of a length. -/
def gramSection (h : List Byte) (len i : Nat) : List (Bool × Nat) :=
  let o := field h (64 + 16 * i) 8
  let n := field h (72 + 16 * i) 8
  let absent := o = 0 && n = 0
  if 6 ≤ i then
    match firstNonzero h (64 + 16 * i) 16 with
    | some k => [(true, k)]
    | none => []
  else
  let need := i < 5 || (i = 5 && bit (gramFlags h) 1)
  let clash := (List.range i).any (fun j =>
    let o' := field h (64 + 16 * j) 8
    let n' := field h (72 + 16 * j) 8
    decide (o < o' + n') && decide (o' < o + n))
  [(absent == need, 64 + 16 * i),
   (!absent && need && (decide (o % 64 ≠ 0) || decide (o < 256) || clash || decide (len < o + n)), 64 + 16 * i)]

/-- The header checks of a grammar image in byte order (R452, R453). -/
def gramHeader (h : List Byte) (len : Nat) : Option Nat :=
  let z := fun (o n : Nat) => (match firstNonzero h o n with
    | some i => (true, i)
    | none => (false, 0) : Bool × Nat)
  firstFailing ([
    (decide (field h 0 4 ≠ 0x4D475856), 0), (decide (field h 4 2 ≠ 1), 4),
    (decide (byteAt h 6 = 0) || decide (4 < byteAt h 6), 6), (decide (3 < gramFlags h), 7),
    (decide (field h 8 4 = 0) || decide (262144 < field h 8 4), 8),
    (decide (field h 12 4 ≠ noToken) && decide (262144 ≤ field h 12 4), 12),
    (decide (gramStates h = 0) || decide (65536 < gramStates h) || (byteAt h 6 = 4 && gramStates h ≠ 1), 20),
    (decide (field h 24 4 = 0) || decide (16384 < field h 24 4) || (byteAt h 6 = 4 && field h 24 4 ≠ 1), 24),
    (decide (gramDepth h = 0) || decide (256 < gramDepth h), 28),
    (decide (field h 30 2 = 0) || decide (4096 < field h 30 2), 30),
    (decide (gramStates h ≤ field h 32 4), 32),
    (if bit (gramFlags h) 1 then decide (field h 36 4 = 0) || decide (65536 < field h 36 4)
      else decide (field h 36 4 ≠ 0), 36),
    (decide (gramPages h = 0) || decide (65536 < gramPages h), 40), z 44 20] ++
    ((List.range 8).map (gramSection h len)).flatten ++ [z 192 64])

/-- The image was compiled against a vocabulary: VOCAB_SIZE, EOS_TOKEN and VOCAB_CRC agree (R454). -/
def gramMatches (h img : List Byte) : Bool :=
  field h 8 4 = vocSize img && field h 12 4 = vocEos img && field h 16 4 = crc32c img

/-- The first byte of the first range constraint that breaks R459 for a vocabulary of a size. -/
def badRange (img : GrammarImage) (size : Nat) : Option Nat :=
  ((img.ranges.filter (fun r => decide (r.last < r.first) || r.period = 0 || decide (r.hi < r.lo) ||
    decide (size ≤ r.hi))).map (·.offset)).min?

/-- Pages for a grammar copy on each named die. -/
def takeCopies (s : State) (asid h n : Nat) : List Nat → Option (List Nat × State)
  | [] => some ([], s)
  | d :: rest =>
    match findFree s d n with
    | none => none
    | some ps =>
      match takeCopies (takePages s ps asid .image h) asid h n rest with
      | none => none
      | some (more, s') => some (ps ++ more, s')

/-- GRAMMAR_LOAD (R189, R454). -/
def grammarLoad (s : State) (f slot : Nat) (b : List Byte) (read : HostRead) (img : GrammarImage) : Ran :=
  let dva := pay b 0 8
  let len := pay b 8 8
  let vh := pay b 16 4
  let dies := pay b 20 1
  let fl := pay b 21 1
  fields s [(decide (dva % 65536 ≠ 0), 16), (decide (len = 0) || decide (268435456 < len), 24), (decide (vh = 0), 32),
      (decide (dies = 0) || decide (15 < dies), 36), (decide (1 < fl) || (bit fl 0 && f ≠ 0), 37), resv b 22 2] (
    match findObj s s.vocabs vh with
    | none => bad s stHandleInvalid 32
    | some v =>
      if !usableBy v.owner v.shared f then bad s stHandleInvalid 32
      else if !engineOn s f 0 then bad s stEngineDisabled 1
      else withImage s f slot dva len read (fun s bytes =>
        let h := padTo 256 bytes
        match gramHeader h len with
        | some d => bad s stImageInvalid d
        | none =>
          match (img.bad.toList ++ (badRange img (field h 8 4)).toList).min? with
          | some d => bad s stImageInvalid d
          | none =>
            if !gramMatches h v.bytes then bad s stVocabMismatch 32
            else if 512 ≤ s.grammars.length then bad s stObjectLimit 512
            else if !serialLeft s 4 f then bad s stObjectLimit 0xFFFFFF
            else if unavailable s dies ≠ 0 then bad s stDieUnavailable (unavailable s dies)
            else match findFree s 4 (pagesFor len) with
              | none => bad s stNoSpace 1
              | some ps =>
                let n := newHandle s 4 f
                let s1 := takePages n.2 ps (asidOf f) .image n.1
                match takeCopies s1 (asidOf f) n.1 (gramPages h) (maskDies dies) with
                | none => bad s stNoSpace 4
                | some (cs, s2) =>
                  let g : Grammar := {
                    owner := f, shared := bit fl 0, vocab := vh, image := img, header := h,
                    cacheDies := BitVec.ofNat 4 dies, copies := BitVec.ofNat 4 dies, pages := ps ++ cs }
                  good { s2 with grammars := tput s2.grammars n.1 g } (le 4 n.1 ++ le 4 (cdiv (gramPages h) 16))))

def execGrammarLoad (f : Fin 16) (slot : Fin 32) (read : HostRead) (image : GrammarImage) (s : State) :
    Host.Outcome State Fault Refusal :=
  runReserve s f slot 0x0601 (fun s b => grammarLoad s f slot b read image)

/-- GRAMMAR_UNLOAD (R190). -/
def grammarUnload (s : State) (f : Nat) (b : List Byte) : Ran :=
  withObject s f b true (grammarOwner s (pay b 0 4)) (fun h =>
    match userEntry s (fun _ e => e.b.grammar = h) with
    | some i => bad s stInUse i
    | none => if mapNames s idGrammarMap h then bad s stInUse noLedger else good (dropGrammar s h) [])

def execGrammarUnload (f : Fin 16) (slot : Fin 32) (s : State) : Host.Outcome State Fault Refusal :=
  runBegin s f slot 0x0602 (fun s _ => s)

end Sys2Proof.Machine
end

