-- ==== Sys2Proof/Machine/ConfigCommands.lean ====
section
/-! DEFINITION. The configuration and energy commands, BOOKS_AUDIT and ERRLOG_READ: rows CONFIG_STAGE to ENERGY_REPORT,
BOOKS_AUDIT and ERRLOG_READ (05 R196 to R205, 20 R586 to R602). -/

namespace Sys2Proof.Machine

open Sys2Proof

/-! ### CONFIG_STAGE (R196, R586 to R590) -/

/-- The length in bytes of a configuration record. -/
def recLen : Nat := 40

/-- The instances that a record names. -/
def recIdxs (it : CfgItem) (idx : Nat) : List Nat := if idx = everyIdx then List.range it.count else [idx]

/-- A range breach of the two HBM levels against the shadow values of the same die (R588, R590). -/
def levelsClash (s : State) (sh : ItemVals) (id v : Nat) (dies : List Nat) : Bool :=
  if id = idHbmLow then dies.any (fun d => decide (shadowValue s sh idHbmHigh d ≤ v))
  else if id = idHbmHigh then dies.any (fun d => decide (v ≤ shadowValue s sh idHbmLow d))
  else false

/-- Whether a function may use a vocabulary or grammar handle, by the item that maps it. -/
def mapUsable (s : State) (id f h : Nat) : Bool :=
  if id = idVocabMap then ((findObj s s.vocabs h).map (fun v => usableBy v.owner v.shared f)).getD false
  else ((findObj s s.grammars h).map (fun g => usableBy g.owner g.shared f)).getD false

/-- The first byte of a map value that breaks R594: a cleared map names TO 0. -/
def mapBad (s : State) (sh : ItemVals) (id v : Nat) (idxs : List Nat) : Option Nat :=
  let src := v % 2 ^ 32
  let dst := v / 2 ^ 32
  if dst = 0 then none
  else if src = 0 || idxs.any (fun k => !mapUsable s id (k / 8) src) then some 8
  else if idxs.any (fun k => !mapUsable s id (k / 8) dst) then some 12
  else if decide (1 < idxs.length) || idxs.any (fun k => (List.range 8).any (fun j =>
      let o := 8 * (k / 8) + j
      o ≠ k && (thas sh (itemKey id o) || thas sh (itemKey id everyIdx)) && shadowValue s sh id o % 2 ^ 32 = src &&
        shadowValue s sh id o / 2 ^ 32 ≠ 0)) then some 8
  else none

/-- The first byte of a GROUP_MOVE value that breaks R601. -/
def moveBad (s : State) (v : Nat) : Option Nat :=
  let w := v / 2 ^ 32 % 65536
  let d := v / 2 ^ 48 % 256
  let t := v / 2 ^ 56
  match findObj s s.models (v % 2 ^ 32) with
  | none => some 8
  | some m =>
    if placeReserved w || !groupShape w || unavailable s (placeMask w) ≠ 0 || !joined s (maskDies (placeMask w)) ||
        decide ((maskDies (placeMask w)).length ≠ (groupDies m).length) then some 12
    else if d = 0 ∨ 16 < d then some 14
    else if t = 0 ∨ 16 < t then some 15
    else none

/-- The first offending byte of a record, against a shadow set (R196, R588, R590). -/
def recBad (s : State) (sh : ItemVals) (r : List Byte) : Option Nat :=
  let id := field r 0 2
  let idx := field r 2 2
  match itemOf id with
  | none => some 0
  | some it =>
    let v := field r 8 it.len
    let z := fun (o n : Nat) => (match firstNonzero r o n with
      | some i => (true, i)
      | none => (false, 0) : Bool × Nat)
    match firstBad [(decide (it.count ≤ idx) && idx ≠ everyIdx, 2), (decide (field r 4 2 ≠ it.len), 4), z 6 2,
        (decide (v < it.lo) || decide (it.hi < v), 8), z (8 + it.len) (32 - it.len)] with
    | some o => some o
    | none =>
      if levelsClash s sh id v (recIdxs it idx) then some 8
      else if id = idVocabMap || id = idGrammarMap then mapBad s sh id v (recIdxs it idx)
      else if id = idGroupMove then moveBad s v
      else none

/-- A record staged: one for every instance replaces every record of its item (R586). -/
def stageRec (sh : ItemVals) (r : List Byte) : ItemVals :=
  let id := field r 0 2
  let idx := field r 2 2
  let len := match itemOf id with
    | some it => it.len
    | none => 0
  let sh1 := if idx = everyIdx then sh.filter (fun kv => kv.1 / 65536 ≠ id) else sh
  tput sh1 (itemKey id idx) (field r 8 len)

/-- Records staged in order: the shadow set after them, or the offset of the first offending byte. -/
def stageAll (s : State) : ItemVals → Nat → List (List Byte) → Except Nat ItemVals
  | sh, _, [] => .ok sh
  | sh, off, r :: rest =>
    match recBad s sh r with
    | some o => .error (off + o)
    | none => stageAll s (stageRec sh r) (off + recLen) rest

/-- A payload cut into records. -/
def cutRecs : Nat → List Byte → List (List Byte)
  | 0, _ => []
  | n + 1, b => b.take recLen :: cutRecs n (b.drop recLen)

/-- Records staged, or none of them. -/
def stage (s : State) (base : Nat) (b : List Byte) : Ran :=
  match stageAll s s.conf.shadow base (cutRecs (b.length / recLen) b) with
  | .error o => bad s stInvalidField o
  | .ok sh =>
    if 256 < sh.length then bad s stObjectLimit 256
    else good { s with conf := { s.conf with shadow := sh } } (le 4 sh.length)

/-- The checks of an indirect reference (R126). -/
def indirectFields (b : List Byte) : Option CmdOutcome :=
  let len := pay b 8 4
  match firstBad [(decide (len = 0) || decide (65536 < len), 24), resv b 12 4] with
  | some o => some { status := stInvalidField, detail := o }
  | none => if len % recLen ≠ 0 then some { status := stInvalidLength, detail := 24 } else none

/-- CONFIG_STAGE starts: its indirect payload is asked for (R126, R281). -/
def stageBegin (s : State) (f slot : Nat) (b : List Byte) (read : HostRead) : State :=
  let dva := pay b 0 8
  let len := pay b 8 4
  if slotIndirect b && (indirectFields b).isNone then
    match loadBytes s f dva len read with
    | .error st => failRead (if someHost s f dva len then noteRead s f st else s) f slot { status := stIndirectFault }
    | .ok x => updCmd (askImage s f slot dva len) f slot (fun c => { c with read := some (.bytes x) })
  else s

/-- CONFIG_STAGE at its commit point (R196). -/
def configStage (s : State) (f slot : Nat) (b : List Byte) : Ran :=
  if slotIndirect b then
    match indirectFields b with
    | some o => (s, some o)
    | none =>
      match ((fnOf s f).cmds.find? (fun c => c.slot = slot)).bind (·.read) with
      | some (.bytes x) => stage s 0 (padTo (pay b 8 4) x)
      | _ => bad s stIndirectFault 0
  else stage s 16 ((b.drop 16).take recLen)

def execConfigStage (f : Fin 16) (slot : Fin 32) (read : HostRead) (s : State) : Host.Outcome State Fault Refusal :=
  let s1 := updCmd s f slot (fun c => { c with read := some read })
  occurs s (mayStart s1 f slot 0x0901) "command start" (beginCmd s1 f slot (fun s b => stageBegin s f slot b read))

/-! ### CONFIG_READ (R197) -/

/-- Whether a VF may read an item: its instances are functions, and INDEX is the VF's own number (R197; DEDUCED, log
entry 129: the INDEX of another item is no function number). -/
def ownItem (f id idx : Nat) : Bool :=
  match itemOf id with
  | some it => it.count = 16 && idx = f
  | none => idx = f

/-- The value of an item in the older live generation: what that generation committed. -/
def itemOlder (s : State) (id idx : Nat) : Nat :=
  match itemOf id with
  | some it => if it.cls = .bound then tget (itemDefault id idx) s.conf.oldVals (itemKey id idx) else itemCommitted s id idx
  | none => 0

/-- CONFIG_READ. -/
def configRead (s : State) (f : Nat) (b : List Byte) : Ran :=
  let id := pay b 0 2
  let idx := pay b 2 2
  let src := pay b 4 1
  if f ≠ 0 && (src = 1 || decide (2 < src) || !ownItem f id idx) then bad s stNotPermitted 0
  else match itemOf id with
    | none => bad s stInvalidField 16
    | some it =>
      fields s [(decide (it.count ≤ idx), 18), (decide (2 < src), 20), resv b 5 3] (
        if src = 2 && s.conf.older.isNone then bad s stStateConflict 0
        else
          let gen := if src = 2 then s.conf.older.getD 0 else s.conf.newest
          let v := if src = 0 then itemCommitted s id idx
            else if src = 1 then shadowValue s s.conf.shadow id idx
            else itemOlder s id idx
          good s (le 2 gen ++ le 2 it.len ++ le 4 0 ++ padTo 32 (le it.len v)))

def execConfigRead (f : Fin 16) (slot : Fin 32) (s : State) : Host.Outcome State Fault Refusal :=
  runBegin s f slot 0x0902 (fun s _ => s)

/-! ### COMMIT_CONFIG and CONFIG_DISCARD (R198, R199, R591, R602) -/

/-- The scrubber of a scrubber item's key has ENABLE 1 before or after a commit (R590). -/
def scrubQuiet (s : State) (c : Nat) : Bool :=
  !(scrubOf s c).enable && shadowValue s s.conf.shadow idScrubEnable c = 0

/-- The class of a staged instance. -/
def stageClass (s : State) (key : Nat) : ItemClass :=
  let id := key / 65536
  if id = idScrubEnable || id = idScrubPeriod then (if scrubQuiet s (key % 65536) then .tide else .quiesce)
  else match itemOf id with
    | some it => it.cls
    | none => .tide

/-- The staged instances with their values, a record for every instance spread over its item. -/
def stagedAll (s : State) : ItemVals :=
  let spread := (s.conf.shadow.filter (fun kv => kv.1 % 65536 = everyIdx)).foldl (fun t kv =>
    (recIdxs ((itemOf (kv.1 / 65536)).getD ⟨0, 0, 0, 0, 0, .tide⟩) everyIdx).foldl (fun t k =>
      tput t (itemKey (kv.1 / 65536) k) kv.2) t) ([] : ItemVals)
  (s.conf.shadow.filter (fun kv => kv.1 % 65536 ≠ everyIdx)).foldl (fun t kv => tput t kv.1 kv.2) spread

/-- The staged instances of a class. -/
def stagedOf (s : State) (c : ItemClass) : ItemVals := (stagedAll s).filter (fun kv => stageClass s kv.1 = c)

/-- Records of a class staged. -/
def recordsOf (s : State) (c : ItemClass) : Nat :=
  (s.conf.shadow.filter (fun kv =>
    (recIdxs ((itemOf (kv.1 / 65536)).getD ⟨0, 0, 0, 0, 0, .tide⟩) (kv.1 % 65536)).any (fun k =>
      stageClass s (itemKey (kv.1 / 65536) k) = c))).length

/-- The number after a generation (R198). -/
def nextGen (g : Nat) : Nat := if g = 0xFFFF then 1 else g + 1

/-- CLASSES of a commit. -/
def classesOf (s : State) : Nat :=
  b2n (!(stagedOf s .tide).isEmpty) + 2 * b2n (!(stagedOf s .bound).isEmpty) + 4 * b2n (!(stagedOf s .quiesce).isEmpty)

/-- What a commit adds to the parts that wait for their application points. -/
def queueParts (s : State) (g : Nat) : Conf :=
  let t := stagedOf s .tide
  let q := stagedOf s .quiesce
  { s.conf with
    tideDue := if t.isEmpty then s.conf.tideDue
      else s.conf.tideDue ++ [{ gen := g, time := s.now, records := recordsOf s .tide, vals := t }],
    quiesce := if q.isEmpty then s.conf.quiesce else s.conf.quiesce ++ [{ gen := g, time := s.now, vals := q }] }

/-- The models that a commit's GROUP_MOVE names begin their preparation (R601). -/
def startMoves (s : State) (g : Nat) (vals : ItemVals) : State :=
  vals.foldl (fun s kv =>
    if kv.1 / 65536 = idGroupMove then
      { s with models := s.models.map (fun m => if m.1 = kv.2 % 2 ^ 32 then
          (m.1, { m.2 with moving := some (kv.2 / 2 ^ 32, g), moveReady := false }) else m) }
    else s) s

/-- The commit of a nonempty shadow set. -/
def commitShadow (s : State) : Ran :=
  let bound := !(stagedOf s .bound).isEmpty
  let old := s.conf.newest
  let g := nextGen old
  let all := stagedAll s
  let classes := classesOf s
  let quiet := stagedOf s .quiesce
  let conf := queueParts s g
  let committed := all.foldl (fun t kv => tput t kv.1 kv.2) s.conf.committed
  let s1 := if bound then
      let s' := { s with conf := { conf with
        committed := committed, oldVals := s.conf.committed, older := some old, newest := g, shadow := [],
        committedOnce := true } }
      drainGeneration (post s' 0 {
        code := 0x31, object := g, data := le 2 (if genHeld s old then old else g) })
    else
      { s with
        ledger := tmap s.ledger (fun _ e => if !(e.state == .free) && e.b.gen = old then { e with b := { e.b with gen := g } } else e),
        conf := { conf with committed := committed, newest := g, shadow := [], committedOnce := true } }
  good (startMoves s1 g quiet) (le 2 g ++ le 1 classes ++ le 5 0)

/-- COMMIT_CONFIG. -/
def commitConfig (s : State) : Ran :=
  if s.conf.shadow.isEmpty then bad s stNothingStaged 0
  else if !(stagedOf s .bound).isEmpty && s.conf.older.isSome then bad s stGenerationBusy (s.conf.older.getD 0)
  else commitShadow s

def execCommitConfig (f : Fin 16) (slot : Fin 32) (s : State) : Host.Outcome State Fault Refusal :=
  runBegin s f slot 0x0903 (fun s _ => s)

/-- CONFIG_DISCARD (R199). -/
def configDiscard (s : State) : Ran := good { s with conf := { s.conf with shadow := [] } } []

def execConfigDiscard (f : Fin 16) (slot : Fin 32) (s : State) : Host.Outcome State Fault Refusal :=
  runBegin s f slot 0x0904 (fun s _ => s)

/-! ### ENERGY_LIMIT_SET and ENERGY_REPORT (R200, R201) -/

/-- ENERGY_LIMIT_SET: the limit is recorded now and takes effect at the next tide boundary; the response holds the
limit that will be in effect (DEDUCED, log entry 24). -/
def energyLimitSet (s : State) (b : List Byte) : Ran :=
  let w := pay b 0 2
  fields s [(decide (w < 120) || decide (300 < w), 16), resv b 2 2] (
    let s1 := { s with energy := { s.energy with limitW := w, limitBmc := false } }
    good s1 (le 2 (effLimit s1) ++ le 2 s1.energy.bmcW))

def execEnergyLimitSet (f : Fin 16) (slot : Fin 32) (s : State) : Host.Outcome State Fault Refusal :=
  runBegin s f slot 0x0A01 (fun s _ => s)

/-- The response of ENERGY_REPORT. -/
def energyReport (s : State) (f : Nat) : List Byte :=
  let z := fun v => if f = 0 then v else 0
  le 8 s.energy.tides ++ le 4 (z s.energy.pkgUj) ++ le 2 (z s.energy.effW) ++ le 2 (z s.energy.bmcShown) ++
    le 4 (z (domOf s 4).grant) ++ le 4 (z (domOf s 0).grant) ++ le 4 (z (domOf s 1).grant) ++
    le 4 (z (domOf s 2).grant) ++ le 4 (z (domOf s 3).grant) ++ le 4 (fnOf s f).enTide ++ le 8 (fnOf s f).enTotal

def execEnergyReport (f : Fin 16) (slot : Fin 32) (s : State) : Host.Outcome State Fault Refusal :=
  runBegin s f slot 0x0A02 (fun s _ => s)

/-! ### BOOKS_AUDIT and ERRLOG_READ (R203, R205, R623) -/

/-- BOOKS_AUDIT: the audit runs at the next tide boundary; `arg` holds the equations named. -/
def booksAudit (s : State) (f slot : Nat) (b : List Byte) : Ran :=
  let e := pay b 0 4
  fields s [(decide (7 < pay b 1 1), 17), resv b 2 2, resv b 4 4]
    (running (updCmd s f slot (fun c => { c with arg := if e = 0 then 2047 else e })))

def execBooksAudit (f : Fin 16) (slot : Fin 32) (s : State) : Host.Outcome State Fault Refusal :=
  runCmd s f slot 0x0B02 (fun s b => booksAudit s f slot b)

/-- The entries that an ERRLOG_READ returns: up to 4 from a number on, or from the oldest held. -/
def errlogFrom (s : State) (start : Nat) : List LogEntry := (s.errlog.filter (fun e => decide (start ≤ e.seq))).take 4

/-- ERRLOG_READ: NEXT_SEQ is that of HB_ERRLOG (R223; DEDUCED, log entry 25). -/
def errlogRead (s : State) (b : List Byte) : Ran :=
  let es := errlogFrom s (pay b 0 4)
  fields s [resv b 4 4] (good s (le 4 s.errNext ++ le 4 es.length ++ (es.map logBytes).flatten))

def execErrlogRead (f : Fin 16) (slot : Fin 32) (s : State) : Host.Outcome State Fault Refusal :=
  runBegin s f slot 0x0B04 (fun s _ => s)

end Sys2Proof.Machine
end

