-- ==== Sys2Proof/Machine/Rank.lean ====
section
/-! DEFINITION. The order in which the scheduler ranks tenants and requests (17 R514, R518, R519). -/

namespace Sys2Proof.Machine

open Sys2Proof

/-- The unit of a tenant's virtual time: 1 divided by the least common multiple of the weights 1 to 255, so that
every quotient of R519 is a whole number of units. -/
def vtUnit : Nat :=
  8337245403447921335829504375888192675135162254454825924977726845769444687965016467695833282339504042669808000

/-- The level of a tenant's bucket over its depth, as a fraction; a tenant with BUCKET_RATE 0 ranks as 1 (R518). -/
def bucketRatio (s : State) (f : Nat) : Int × Nat :=
  if bucketRate s f = 0 then (1, 1) else ((fnOf s f).bucket, itemNow s idBucketDepth f)

/-- The fairness order of tenants: `f` comes before `g` (R518, R519). -/
def fairBefore (s : State) (f g : Nat) : Bool :=
  if tokenBudget s then
    let a := bucketRatio s f
    let b := bucketRatio s g
    decide (b.1 * a.2 < a.1 * b.2)
  else decide ((fnOf s f).virtualTime < (fnOf s g).virtualTime)

/-- Effective priority (R514). -/
def effPrio (e : Entry) : Nat := if e.urgent then e.b.priority - 2 else e.b.priority

/-- The keys of R514 in order, under an effective priority: request `i` ranks before request `j`. -/
def rankBy (s : State) (prio : Nat → Nat) (i j : Nat) : Bool :=
  let a := entOf s i
  let b := entOf s j
  if prio i ≠ prio j then decide (prio i < prio j)
  else if a.urgent ≠ b.urgent then a.urgent
  else if fairBefore s a.b.fn b.b.fn then true
  else if fairBefore s b.b.fn a.b.fn then false
  else if a.admitTime ≠ b.admitTime then decide (a.admitTime < b.admitTime)
  else decide (i < j)

/-- The order of R514. -/
def rankBefore (s : State) (i j : Nat) : Bool := rankBy s (fun k => effPrio (entOf s k)) i j

/-- A value put into a sorted list by an order. -/
def insertBy (lt : Nat → Nat → Bool) (x : Nat) : List Nat → List Nat
  | [] => [x]
  | y :: rest => if lt x y then x :: y :: rest else y :: insertBy lt x rest

/-- A list sorted by an order. -/
def sortBy (lt : Nat → Nat → Bool) (l : List Nat) : List Nat := l.foldr (insertBy lt) []

/-- Requests ranked by R514, first first. -/
def ranked (s : State) (l : List Nat) : List Nat := sortBy (rankBefore s) l

/-- The live requests of the ledger that meet a condition. -/
def liveWhere (s : State) (p : Nat → Entry → Bool) : List Nat :=
  (s.ledger.filter (fun kv => live kv.2.state && p kv.1 kv.2)).map (·.1)

end Sys2Proof.Machine
end

