-- ==== Sys2Proof/Machine/Pauses.lean ====
section
/-! DEFINITION. The requests that the scheduler pauses by itself, and the pauses that free tier H pages (17 R525, 16
R489). -/

namespace Sys2Proof.Machine

open Sys2Proof

/-- Pages of a block of a request's KV. -/
def blockPages (s : State) (i : Nat) : Nat := pagesPerBlock (modelOf s i) * (groupDies (modelOf s i)).length

/-- A request resumed less than 100 ms ago. -/
def justResumed (s : State) (i : Nat) : Bool :=
  (entXOf s i).resumedAt ≠ 0 && decide (s.now < (entXOf s i).resumedAt + 100000)

/-- Victim `i` is taken before victim `j`: the reverse of R514 with the exceptions of R525. -/
def victimBefore (s : State) (i j : Nat) : Bool :=
  let a := entOf s i
  let b := entOf s j
  if justResumed s i ≠ justResumed s j then justResumed s j
  else if a.b.priority ≠ b.b.priority then decide (b.b.priority < a.b.priority)
  else if a.urgent ≠ b.urgent then b.urgent
  else rankBefore s j i

/-- Victims in the order they are taken. -/
def victims (s : State) (l : List Nat) : List Nat := sortBy (victimBefore s) l

/-- A request that the scheduler may pause: priority 6 or 7, in a state that a pause takes, and not paused already. -/
def mayPause (e : Entry) : Bool :=
  decide (6 ≤ e.b.priority) && !e.schedPause &&
    (e.state == .admitted || e.state == .prefill || e.state == .ready || e.state == .decode)

/-- The scheduler pauses a request; `move` says that it needs its tier H pages. -/
def schedPause (s : State) (i : Nat) (move : Bool) : State :=
  askPause (updEntX (updEnt s i (fun e => { e with schedPause := true })) i (fun x => { x with moveDue := move })) i

/-- Allocated KV pages of a request in tier H of a die. -/
def pagesOnDie (s : State) (i d : Nat) : Nat :=
  ((entOf s i).kv.map (fun b => (b.pages.filter (fun p => p ≠ 0 && pageTier p = 0 && pageDie p = d)).length)).sum

/-- An in-Tidepool fault waits for a page of a die. -/
def pageWait (s : State) (d : Nat) : Bool :=
  s.faults.any (fun r => r.noPage && (match kvName r.dva with
    | some (i, k) => homeDie (modelOf s i) (k % blockPages s i) = d
    | none => false))

/-- Free pages of a die once the pages in quarantine are zeroed and the moves under way and due have ended. -/
def projected (s : State) (d : Nat) : Nat :=
  freeLess s d + poolCount s d .quarantined +
    ((liveWhere s (fun i _ => (entXOf s i).moving || ((entXOf s i).moveDue && !(entXOf s i).poolRefused))).map
      (fun i => pagesOnDie s i d)).sum

/-- The third trigger of R525: requests that hold pages of a die short of them move to the Tidepool, those that the
scheduler has paused already first, then those it may pause, until the projected free pages suffice. -/
def pauseForPages (s : State) (d : Nat) : State :=
  if !dieUsable s d || (atLeastPct d (freeLess s d) (lowPct s d) && !pageWait s d) then s
  else
    let idle := victims s (liveWhere s (fun i e => e.state == .pausedHot && e.schedPause && !(entXOf s i).moving &&
      !(entXOf s i).poolRefused && decide (0 < pagesOnDie s i d)))
    let busy := victims s (liveWhere s (fun i e => mayPause e && decide (0 < pagesOnDie s i d)))
    (idle ++ busy).foldl (fun s i =>
      if atLeastPct d (projected s d) (highPct s d) then s
      else if (entOf s i).state = .pausedHot then startMove (updEntX s i (fun x => { x with moveDue := true })) i
      else schedPause s i true) s

end Sys2Proof.Machine
end

