-- ==== Sys2Proof/Machine/PageTables.lean ====
section
/-! DEFINITION. The page tables: leaves, their 64-bit entries, the table pages of each copy, and walks (08 R269 to R275, 07
R236). -/

namespace Sys2Proof.Machine

open Sys2Proof

/-! ### Leaves (R272) -/

/-- The leaf of page `k` of a request's page list. -/
def kvLeaf (s : State) (i k : Nat) : Leaf :=
  let n := blockPages s i
  match (entOf s i).kv[k / n]? with
  | none => .unmapped
  | some b =>
    match b.pages[k % n]? with
    | none => .unmapped
    | some p =>
      if p = 0 then .absentReserved 0 (homeDie (modelOf s i) (k % n))
      else if b.pooled && pageTier p = 1 then .pooled (homeDie (modelOf s i) (k % n)) (65536 * p)
      else .mapped (pageTier p) (65536 * p) true

/-- The leaf of page `k` of a request's token history. -/
def histLeaf (s : State) (i k : Nat) : Leaf :=
  let e := entOf s i
  match e.histPages[k]? with
  | some p => .mapped 1 (65536 * p) true
  | none => if k < max 1 (cdiv e.tokens.length 16384) then .absentReserved 1 4 else .unmapped

/-- The leaf that a walk of an ASID ends in. -/
def walkLeaf (s : State) (asid dva : Nat) : Leaf :=
  match kvName dva, histName dva with
  | some (i, k), _ => if asidOf (entOf s i).b.fn = asid then kvLeaf s i k else .unmapped
  | none, some (i, k) => if asidOf (entOf s i).b.fn = asid then histLeaf s i k else .unmapped
  | none, none => leafOf s asid dva

/-- The first byte of a 64 KiB page. -/
def pageBase (dva : Nat) : Nat := dva / 65536 * 65536

/-! ### Entries (R6, R270, R271) -/

/-- A table-pointer entry that names the next table's page frame (R270). -/
def pointerEntry (frame : Nat) : Nat := frame * 65536 + 1

/-- The HOME field: a Crest die (R271). -/
def homeField (home : Nat) : Nat := home % 4 * 2 ^ 48

/-- A leaf entry (R271, R272). DESIGN CHOICE (log entry 26): an absent-reserved entry carries the W of the page it stands
for, 1. -/
def leafEntry : Leaf → Nat
  | .unmapped => 0
  | .absentReserved tier home => (if tier = 0 then homeField home else 0) + 64 + 16 + tier * 4 + 2
  | .mapped tier dpa w => dpa / 65536 * 256 + b2n w * 16 + tier * 4 + 3
  | .pooled home dpa => homeField home + dpa / 65536 * 256 + 128 + 16 + 4 + 3
  | .host pasid iova w => pasid * 2 ^ 44 + iova / 65536 * 256 + b2n w * 16 + 8 + 3

/-- The bytes of an entry: eight, little-endian (R6). -/
def entryLe (e : Nat) : List Byte := le 8 e

/-- Whether an entry points to a next-level table (R270). -/
def isPointer (e : Nat) : Bool := e % 4 = 1
/-- The page frame that a table pointer names. -/
def pointerFrame (e : Nat) : Nat := bits e 47 16

/-- The leaf that an entry spells; none for a malformed one (R271, R272). -/
def readLeaf (e : Nat) : Option Leaf :=
  let tier := bits e 3 2
  let w := bit e 4
  let dpa := 65536 * bits e 39 8
  let home := bits e 49 48
  let plain := bits e 63 50 = 0 && bits e 47 40 = 0 && !bit e 5
  if e = 0 then some .unmapped
  else if !bit e 1 then none
  else if !bit e 0 then
    (if bit e 6 && !bit e 7 && tier < 2 && plain && dpa = 0 then some (.absentReserved tier (if tier = 0 then home else 4)) else none)
  else if bit e 6 || bit e 5 then none
  else if tier = 2 then (if bit e 7 then none else some (.host (bits e 63 44) (65536 * bits e 43 8) w))
  else if tier = 3 then none
  else if bit e 7 then (if tier = 1 && plain then some (.pooled home dpa) else none)
  else if plain && home = 0 then some (.mapped tier dpa w) else none

/-! ### The table pages of a copy (R236, R269, R273) -/

/-- The DVA by which the tables know a page: the model's names of pages lie in the firmware window, and the pages of a KV
block in one contiguous block area (R531, log entry 18). -/
def tableDva (s : State) (dva : Nat) : Nat :=
  let window := fun (name k : Nat) => firmwareWindow + 65536 * ((Config.windowPage (name / 65536) + k) % 2 ^ 26) + dva % 65536
  if dva < 2 ^ 48 then dva
  else match kvName dva with
    | some (i, k) =>
      let n := blockPages s i
      window (kvDva i (k / n * n)) (k % n)
    | none => window dva 0

/-- The page of a copy that holds the table of a level for the DVAs of a prefix (R236). -/
def tableFrame (s : State) (d asid level pre : Nat) : Nat := findFrame s d (Config.tablePage d asid level pre) s.pages.length 0

/-- The bits of a DVA above those that a table of a level indexes: TOP is level 2 (R269). -/
def tablePrefix (dva level : Nat) : Nat := if level = 2 then 0 else if level = 1 then dva / 2 ^ 42 else dva / 2 ^ 29
/-- The entry of a table of a level that a DVA indexes (R269). -/
def tableIndex (dva level : Nat) : Nat :=
  if level = 2 then bits dva 47 42 else if level = 1 then bits dva 41 29 else bits dva 28 16

/-- The device address of the entry that a walk of a copy reads at a level. -/
def entryAddr (s : State) (d asid dva level : Nat) : Nat :=
  let a := tableDva s dva
  65536 * tableFrame s d asid level (tablePrefix a level) + 8 * tableIndex a level

/-- A DVA lies in a 512 MiB run of pages that one leaf of L1 maps (R179, R269). -/
def inBlock (s : State) (asid dva : Nat) : Bool :=
  match regionAt s asid dva with
  | none => false
  | some (_, r) =>
    let k := (dva / 2 ^ 29 * 2 ^ 29 - r.dva) / 65536
    let p := r.pages.getD k 0
    r.block && decide (p % 8192 = 0) && (List.range 8192).all (fun j => r.pages.getD (k + j) 0 = p + j)

/-- The level of the leaf of a DVA: L1 for a block, L0 for a page. -/
def leafLevel (s : State) (asid dva : Nat) : Nat := if inBlock s asid dva then 1 else 0

/-- The entry that a walk of a copy reads at a level: the leaf, or the pointer to the table below (R270, R271). -/
def tableEntry (s : State) (d asid dva level : Nat) : Nat :=
  let lv := leafLevel s asid dva
  if level ≤ lv then leafEntry (walkLeaf s asid (if lv = 1 then dva / 2 ^ 29 * 2 ^ 29 else pageBase dva))
  else pointerEntry (tableFrame s d asid (level - 1) (tablePrefix (tableDva s dva) (level - 1)))

/-- A walk of a copy from a level down: it ends in a leaf, or in a malformed entry (R269, R272). -/
def walkFrom (s : State) (d asid dva : Nat) : Nat → Option Leaf
  | 0 => readLeaf (tableEntry s d asid dva 0)
  | level + 1 =>
    let e := tableEntry s d asid dva (level + 1)
    if isPointer e then walkFrom s d asid dva level else readLeaf e

/-- The leaf that a walk of a copy ends in, for the page that holds the DVA: a block's leaf names the block's first page. -/
def walkTables (s : State) (d asid dva : Nat) : Option Leaf :=
  match walkFrom s d asid dva 2 with
  | some (.mapped tier dpa w) =>
    some (.mapped tier (if leafLevel s asid dva = 1 then dpa + pageBase dva % 2 ^ 29 else dpa) w)
  | l => l

/-! ### The copies (R273 to R275) -/

/-- The dies whose copy of the tables serves: the usable Crest dies and, as die code 4, the replica. -/
def tableDies (s : State) : List Nat := ((List.range 4).filter (dieUsable s)) ++ [4]

/-- The levels that a walk reads. -/
def walkLevels (s : State) (asid dva : Nat) : List Nat := if inBlock s asid dva then [2, 1] else [2, 1, 0]

/-- At some level of a walk no copy holds a clean entry (R274). -/
def noCleanEntry (s : State) (asid dva : Nat) : Bool :=
  !s.poison.isEmpty && (walkLevels s asid dva).any (fun l =>
    (tableDies s).all (fun d => isPoisoned s (entryAddr s d asid dva l)))

/-- The lines of a table page that are poisoned, written whole again (R244). -/
def rewritePage (s : State) (p : Nat) : State :=
  (s.poison.filter (fun a => decide (65536 * p ≤ a) && decide (a < 65536 * p + 65536))).foldl overwrite s

/-- The table pages of a walk rebuilt in every copy from the page frame records (R274). -/
def rebuildTables (s : State) (asid dva : Nat) : State :=
  (tableDies s).foldl (fun s d => (walkLevels s asid dva).foldl (fun s l =>
    rewritePage s (entryAddr s d asid dva l / 65536)) s) s

/-! ### A request's page list (R532, R533) -/

/-- The tier C page that holds list page `k` of a request (R236, R532). -/
def listFrame (s : State) (i k : Nat) : Nat := findFrame s 4 (Config.listPage i k) s.pages.length 0

/-- Entry `k` of a request's root table: the list page of blocks 8,192 k and on, valid where a block needs it (R532). -/
def rootEntry (s : State) (i k : Nat) : Nat :=
  if 8192 * k < (entOf s i).kv.length then 65536 * listFrame s i k + 1 else 0

/-- A request's root table: 64 entries of 8 B (R532). -/
def rootTable (s : State) (i : Nat) : List Byte := ((List.range 64).map (fun k => entryLe (rootEntry s i k))).flatten

/-- The block area of block `e` of a request, in its function's firmware window (R531). -/
def blockArea (s : State) (i e : Nat) : Nat := tableDva s (kvDva i (e * blockPages s i))

/-- The block entry of block `e` of a request: AREA, SPILLED, POOLED, SHARED, RESERVE and V (R533). -/
def blockEntry (s : State) (i e : Nat) : Nat :=
  match (entOf s i).kv[e]? with
  | none => 0
  | some b =>
    blockArea s i e / 65536 % 2 ^ 32 * 65536 + b2n b.spilled * 128 + b2n b.pooled * 64 + b2n b.shared * 32 + b2n b.reserve * 2 + 1

/-- Where the page list of a request says block `e` stands: the root entry, then the block entry, both valid (R532, R533). -/
def listedArea (s : State) (i e : Nat) : Option Nat :=
  if bit (rootEntry s i (e / 8192)) 0 && bit (blockEntry s i e) 0 then some (65536 * bits (blockEntry s i e) 47 16) else none

end Sys2Proof.Machine
end

