-- ==== Sys2Proof/Machine/Translation.lean ====
section
/-! DEFINITION. Page walks, faults, their service and shoot-downs: rows PAGE_WALK_DONE to SHOOTDOWN_COMPLETE (08 R269 to
R294, 03 R87, R88). -/

namespace Sys2Proof.Machine

open Sys2Proof

/-! ### Translation caches (R277) -/

/-- Entries of a die's page and block TLBs. -/
def tlbSize (die : Nat) : Nat := if die < 4 then 8704 else 4352

/-- A translation enters a die's TLBs, the oldest leaving a full one. -/
def addTlb (s : State) (die asid dva : Nat) : State :=
  let e := (die, asid, pageBase dva)
  let l := insertNew s.tlbs e
  let mine := l.filter (fun x => x.1 = die)
  { s with tlbs := if tlbSize die < mine.length then l.erase (mine.headD e) else l }

/-- A host translation enters the ATC (R85): 4,096 entries. -/
def addAtc (s : State) (f pasid page : Nat) : State :=
  let l := insertNew s.atc (f, pasid, page)
  { s with atc := if 4096 < l.length then l.drop 1 else l }

/-! ### Works -/

/-- The function a work belongs to. -/
def workFn (s : State) : WalkWork → Nat
  | .step _ i => (entOf s i).b.fn
  | .stream f _ => f
  | .ring f _ => f
  | .indirect f _ => f
  | .bulk f _ => f
  | .evq f => f

/-- The opcodes of the commands that read an image. -/
def loadOpcodes : List Nat := [0x0401, 0x0501, 0x0503, 0x0601]

/-- Whether a work is there to be served. -/
def workThere (s : State) : WalkWork → Bool
  | .step id i => (tget (default : Step) s.steps id).members.any (fun m => m.1 = i)
  | .stream f st => ((streamOf s f st).map (fun x => !x.queue.isEmpty)).getD false
  | .ring f r => (ringOf s f r).state == .running
  | .indirect f slot => (fnOf s f).cmds.any (fun c => c.slot = slot && c.opcode = 0x0901 && c.outcome.isNone)
  | .bulk f slot => (fnOf s f).cmds.any (fun c => c.slot = slot && loadOpcodes.contains c.opcode && c.outcome.isNone)
  | .evq f => (fnOf s f).evq.opened && !(fnOf s f).evq.failed

/-- The state with a step in flight changed. -/
def updStep (s : State) (id : Nat) (g : Step → Step) : State :=
  { s with steps := s.steps.map (fun kv => if kv.1 = id then (kv.1, g kv.2) else kv) }

/-- A request leaves a step; a step without requests ends. -/
def leaveStep (s : State) (id i : Nat) : State :=
  let s1 := updStep s id (fun x => { x with
    members := x.members.filter (fun m => m.1 ≠ i), waiting := remove x.waiting i })
  { updEntX s1 i (fun x => { x with inStep := false }) with
    steps := s1.steps.filter (fun kv => !kv.2.members.isEmpty) }

/-- A work waits for a fault. -/
def holdWork (s : State) : WalkWork → State
  | .step id i => updStep s id (fun x => { x with waiting := insertNew x.waiting i })
  | .stream f st => updStream s f st (fun x => { x with waiting := true })
  | _ => s

/-- A work resumes behind its fault; a request left out of steps may join them again (R291). -/
def freeWork (s : State) : WalkWork → State
  | .step id i => updEntX (updStep s id (fun x => { x with waiting := remove x.waiting i })) i (fun x => { x with faultOut := false })
  | .stream f st => updStream s f st (fun x => { x with waiting := false })
  | _ => s

/-- A translation of an event queue's page has failed: an event queue has no STOPPED state, so the queue takes no further
entry, what waits for it is lost, and OVERFLOW shows it (R134, R151, R154; DESIGN CHOICE, log entry 134). -/
def failEvq (s : State) (f : Nat) : State :=
  let mine := (fnOf s f).waiting.filter (fun w => match w with
    | .event _ _ => true
    | _ => false)
  updFn (cnt s f 0x320 mine.length) f (fun x => { x with
    evq := { x.evq with failed := true, overflow := x.evq.overflow || !mine.isEmpty },
    waiting := x.waiting.filter (fun w => match w with
      | .event _ _ => false
      | _ => true) })

/-- A work ends with a status: the table of R288, and HOST_PAGE_TIMEOUT of R87. -/
def endWork (s : State) (w : WalkWork) (status : Nat) : State :=
  let s0 := match w with
    | .stream f st => if ((streamOf s f st).map (fun x => x.kind % 2 == 0)).getD false || status ≠ stPermission then s
        else cnt s f 0x418 1
    | _ => if status = stPermission then cnt s (workFn s w) 0x418 1 else s
  match w with
  | .step id i => failReq (leaveStep s0 id i) i status
  | .stream f st =>
    (match streamOf s0 f st with
    | none => s0
    | some x =>
      if x.kind % 2 = 1 then finishIn s0 f st status x.done none
      else outFail s0 f st (x.takers.headD noLedger) status)
  | .ring f r => stopRing s0 f r 3
  | .indirect f slot => failRead s0 f slot { status := stIndirectFault }
  | .bulk f slot => failRead s0 f slot { status := stLoadFailed, detail := status }
  | .evq f => failEvq s0 f

/-! ### Fault records (R285, R290) -/

/-- The class of a record that waits for a Translation Completion: no fault yet. -/
def clsAwait : Nat := 4
/-- The class of a record of steps whose tier X read waits for a tag or for BME: no fault either (R92, R98). -/
def clsTag : Nat := 5

/-- Records of a die's fault queue. -/
def queued (s : State) (die : Nat) : Nat := (s.faults.filter (fun r => r.die = die && decide (r.cls < clsAwait))).length
/-- Records that a die's fault queue holds. -/
def queueSize (die : Nat) : Nat := if die < 4 then 1024 else 8192

/-- Whether a record is that of a page. -/
def recOf (asid dva : Nat) (r : FaultRec) : Bool := decide (r.asid = asid) && decide (r.dva = dva)
/-- The record of a page. -/
def findFault (s : State) (asid dva : Nat) : Option FaultRec := s.faults.find? (recOf asid dva)
/-- The record of a page changed. -/
def updFault (s : State) (asid dva : Nat) (g : FaultRec → FaultRec) : State :=
  { s with faults := s.faults.map (fun r => if recOf asid dva r then g r else r) }
/-- The record of a page gone. -/
def dropFault (s : State) (asid dva : Nat) : State :=
  { s with faults := s.faults.filter (fun r => !recOf asid dva r) }

/-- A fault is recorded: merged into the record of its page, or queued while its die's queue has room; an engine
that finds the queue full stays at its restart point (R290). -/
def addFault (s : State) (r : FaultRec) (w : WalkWork) : State :=
  match findFault s r.asid r.dva with
  | some _ => holdWork (updFault s r.asid r.dva (fun x => { x with
      works := insertNew x.works w, write := x.write || r.write })) w
  | none =>
    if queueSize r.die ≤ queued s r.die && decide (r.cls < clsAwait) then s
    else holdWork { s with faults := s.faults ++ [{ r with works := [w] }] } w

/-- A fault's service ends: its works resume. -/
def release (s : State) (r : FaultRec) : State := r.works.foldl freeWork (dropFault s r.asid r.dva)
/-- A fault is fatal to its works. -/
def fatalFault (s : State) (r : FaultRec) (status : Nat) : State :=
  r.works.foldl (fun s w => endWork s w status) (dropFault s r.asid r.dva)

/-- The fault class of the error log: 0 absent-reserved, 1 in-Tidepool, 2 host-nonresident (R626). -/
def faultCode (cls : Nat) : Nat := if cls ≤ 1 then 0 else if cls = 2 then 1 else 2

/-- A fault is abandoned (R293, R294): logged with its REASON, 0 a pre-emption, 1 an FLR, 2 a die's reset or loss
(R626). -/
def logAbandoned (s : State) (r : FaultRec) (reason : Nat) : State :=
  let i := (r.works.filterMap (fun w => match w with
    | .step _ i => some i
    | _ => none)).headD noLedger
  if clsAwait ≤ r.cls then s
  else logErr s { seq := 0, code := 0x10, cls := 3, die := r.die, fn := r.asid - 1, ledger := i, addr := r.dva,
                  detail := le 1 (faultCode r.cls) ++ le 1 reason }

/-- The faults of a request are dropped, as its squash or end does (R293); with a reason, they are abandoned. -/
def dropFaultsOf (s : State) (i : Nat) (reason : Option Nat) : State :=
  let mine := fun (w : WalkWork) => match w with
    | .step _ j => decide (j = i)
    | _ => false
  let hit := s.faults.filter (fun r => r.works.any mine)
  let kept := s.faults.map (fun r => { r with works := r.works.filter (fun w => !mine w) })
  let s1 := { s with faults := kept.filter (fun r => r.prSent || !r.works.isEmpty) }
  match reason with
  | some x => hit.foldl (fun s r => logAbandoned s r x) s1
  | none => s1

/-! ### Host translations (R87 to R89, R289) -/

/-- The ATS Translation Request of a page is outstanding. -/
def asking (s : State) (f pasid page : Nat) : Bool :=
  (fnOf s f).pci.tags.any (fun kv => match kv.2 with
    | .outstanding (.translation a b) _ _ _ => a = pasid && b = page
    | _ => false)

/-- An ATS Translation Request goes out when a tag and BME allow it; none goes twice. -/
def askTranslation (s : State) (f pasid page : Nat) : State :=
  match freeTag s f with
  | none => s
  | some t =>
    if asking s f pasid page || !busOn s f then s
    else emit (takeTag s f t (.translation pasid page) none) (.translationRequest f pasid page)

/-- Page Requests outstanding of a function. -/
def pagesAsked (s : State) (f : Nat) : Nat := (s.faults.filter (fun r => r.asid = asidOf f && r.prSent)).length

/-- The PASID and 4 KiB host page behind a DVA. -/
def hostPage (s : State) (asid dva : Nat) : Option (Nat × Nat) :=
  match walkLeaf s asid dva with
  | .host pasid iova _ => some (pasid, iova / 4096)
  | _ => none

/-- PRI serves a function: it and ATS are enabled, and no Response Failure has stopped it (R87, R88). -/
def priOn (s : State) (f : Nat) : Bool := atsOn s f && (fnOf s f).pci.priEn && !(fnOf s f).pci.priStopped

/-- The Page Requests that may go now: one per page, within the allocation, while BME is set and PRI serves the function
(R87, R88, R289, R293). -/
def sendPages (s : State) (f : Nat) : State :=
  s.faults.foldl (fun s r =>
    if r.asid = asidOf f && r.cls = 3 && !r.prSent && busOn s f && priOn s f && decide (pagesAsked s f < (fnOf s f).pci.priAlloc) then
      match hostPage s r.asid r.dva with
      | some (pasid, page) =>
        if s.faults.any (fun q => q.asid = r.asid && q.prSent && hostPage s q.asid q.dva = some (pasid, page)) then s
        else emit (cnt (updFault s r.asid r.dva (fun x => { x with prSent := true })) f 0x238 1) (.pageRequest f pasid page)
      | none => s
    else s) s

/-- Translation Requests of a function that still wait to go out. -/
def askAgain (s : State) (f : Nat) : State :=
  s.faults.foldl (fun s r =>
    if r.asid = asidOf f && r.cls = clsAwait then
      match hostPage s r.asid r.dva with
      | some (pasid, page) => askTranslation s f pasid page
      | none => s
    else s) s

/-- A page is not present on the host: a fault of class host-nonresident, or a permission fault where PRI does not
serve (R88, R289). -/
def notPresent (s : State) (r : FaultRec) : State :=
  let f := r.asid - 1
  if !priOn s f then fatalFault s r stPermission
  else if queueSize r.die ≤ queued s r.die then s
  else sendPages (updFault s r.asid r.dva (fun x => { x with cls := 3 })) f

/-! ### PAGE_WALK_DONE -/

/-- Whether an access to a host page needs no Translation Request: ATS is off, or the ATC holds it (R289). -/
def translated (s : State) (f pasid page : Nat) : Bool := !atsOn s f || s.atc.contains (f, pasid, page)

/-- The tier X reads of steps that wait for a tag or for BME go as far as they may (R92, R98, R101). -/
def retryReads (s : State) (f : Nat) : State :=
  s.faults.foldl (fun s r =>
    if r.asid = asidOf f && r.cls = clsTag && busOn s f && decide (r.works.length ≤ freeTagCount s f) then
      r.works.foldl (fun s w => match w with
        | .step id i => issueRead s f (.step id i) r.dva 64
        | _ => s) (release s r)
    else s) s

/-- A walk that ends in a host-mapped leaf: through ATS where it is enabled, untranslated where it is not (R272,
R289). A step's access then issues its tier X read (R94), of the 64-byte line (DESIGN CHOICE, log entry 135). -/
def hostWalk (s : State) (die f dva pasid iova : Nat) (write : Bool) (work : WalkWork) : State :=
  if translated s f pasid (iova / 4096) then
    let s1 := addTlb s die (asidOf f) dva
    match work with
    | .step _ _ => retryReads (addFault s1 { die := die, asid := asidOf f, dva := dva / 64 * 64, cls := clsTag, write := write } work) f
    | _ => s1
  else
    askTranslation (addFault s { die := die, asid := asidOf f, dva := dva / 4096 * 4096, cls := clsAwait, write := write } work)
      f pasid (iova / 4096)

/-- A malformed leaf is logged under the class of its effect: the request's, or its function's (R271, R626). -/
def logMalformed (s : State) (die asid dva : Nat) (w : WalkWork) : State :=
  logErr s {
    seq := 0, code := 0x70, die := die, fn := asid - 1, status := stPermission, addr := dva, detail := le 1 0,
    cls := match w with
      | .step _ _ => 3
      | _ => 4,
    ledger := match w with
      | .step _ i => i
      | _ => noLedger }

/-- The effect of a walk's end by its leaf. -/
def walkDone (s : State) (die asid dva : Nat) (write : Bool) (work : WalkWork) : State :=
  if noCleanEntry s asid dva then { s with stale := insertNew s.stale (asid, pageBase dva) }
  else
    match walkTables s die asid dva with
    | none => endWork (logMalformed s die asid dva work) work stPermission
    | some .unmapped => endWork s work stPermission
    | some (.absentReserved tier home) =>
      addFault s { die := if tier = 0 then home else die, asid := asid, dva := pageBase dva, cls := tier, write := write } work
    | some (.mapped _ _ w) => if write && !w then endWork s work stPermission else addTlb s die asid dva
    | some (.pooled home _) =>
      let none_ := (findFree s home 1).isNone
      let s1 := addFault s { die := die, asid := asid, dva := pageBase dva, cls := 2, write := write, noPage := none_ } work
      if none_ then pauseForPages s1 home else s1
    | some (.host pasid iova w) =>
      if write && !w then endWork s work stPermission
      else hostWalk s die (asid - 1) dva pasid (iova + dva % 65536) write work

/-- A die whose MMU serves a work: for a step also a serving die of its model's group (R12, R207); the Harbour die for the
engines that it holds. -/
def walksFor (s : State) (die : Nat) : WalkWork → Bool
  | .step id _ => die = 4 || ((groupDies (tget (default : Model) s.models (tget (default : Step) s.steps id).model)).contains die &&
      (dieUsable s die || (dieOf s die).state == .draining))
  | _ => die = 4

def execPageWalkDone (die : Fin 5) (asid dva : Nat) (write : Bool) (work : WalkWork) (s : State) :
    Host.Outcome State Fault Refusal :=
  occurs s (workThere s work && decide (asid = asidOf (workFn s work)) && !s.stale.contains (asid, pageBase dva) &&
      walksFor s die.val work) "page walk"
    (walkDone s die asid dva write work)

def execTablePageRebuilt (asid dva : Nat) (s : State) : Host.Outcome State Fault Refusal :=
  occurs s (s.stale.contains (asid, pageBase dva) && !s.cp.recovery) "table page rebuilt"
    (rebuildTables { s with stale := remove s.stale (asid, pageBase dva) } asid dva)

/-! ### Service (R286, R287, R292) -/

/-- A page replaced in a request's page list. -/
def setKvPage (s : State) (i k q : Nat) : State :=
  let n := blockPages s i
  updEnt s i (fun e => { e with kv := e.kv.modify (k / n) (fun b => { b with
    pages := b.pages.set (k % n) q, spilled := b.spilled || decide (pageTier q = 1) }) })

/-- The claim of an absent page stands on tier C (R696). -/
def onTierC (s : State) (i k : Nat) : Bool :=
  (((entOf s i).kv[k / blockPages s i]?).map (fun b => b.onC.contains (k % blockPages s i))).getD false

/-- An absent-reserved fault served: a zeroed page mapped and counted; one already mapped is not counted again
(R280); a speculative position without a page ends its branch (R287). -/
def serveAbsent (s : State) (r : FaultRec) : State :=
  let f := r.asid - 1
  match kvName r.dva, histName r.dva with
  | some (i, k), _ =>
    (match kvLeaf s i k with
    | .absentReserved _ home =>
      (match takeKvPage s i (if onTierC s i k then 4 else home) with
      | some (p, s1) => release (cnt (setKvPage s1 i k p) f 0x400 1) r
      | none => release (updEntX s i (fun x => { x with tree := [] })) r)
    | _ => release s r)
  | none, some (i, k) =>
    (match histLeaf s i k, findFree s 4 1 with
    | .absentReserved _ _, some ps =>
      release (cnt (updEnt (takePages s ps r.asid .history i) i (fun e => { e with histPages := e.histPages ++ ps })) f 0x400 1) r
    | .absentReserved _ _, none => s
    | _, _ => release s r)
  | none, none => release s r

/-- Whether the servicer of a fault works: the die manager of the home die for tier H, the control processors
otherwise (R286, R293). -/
def servicerUp (s : State) (r : FaultRec) : Bool :=
  if r.cls = 0 then dieUsable s r.die && !(dieOf s r.die).mgrDown else !s.cp.recovery

def execAbsentFaultServiced (asid dva : Nat) (s : State) : Host.Outcome State Fault Refusal :=
  match findFault s asid (pageBase dva) with
  | some r => occurs s (decide (r.cls ≤ 1) && servicerUp s r) "fault service" (serveAbsent s r)
  | none => .refused (.cannotOccur "fault service")

/-- A page's bytes and poison copied to another page. -/
def copyPage (s : State) (p q : Nat) : State :=
  let inP := fun a => decide (65536 * p ≤ a) && decide (a < 65536 * p + 65536)
  { putMem s ((s.mem.filter (fun c => inP c.1)).foldl (fun m c => cellWrite m (65536 * q + c.1 % 65536) c.2)
      (cellsZero s.mem (65536 * q) 65536)) with
    poison := (s.poison.filter inP).foldl (fun l a => insertNew l (65536 * q + a % 65536))
      (s.poison.filter (fun a => !(decide (65536 * q ≤ a) && decide (a < 65536 * q + 65536)))) }

/-- Every translation of a page name leaves the TLBs. -/
def dropTlb (s : State) (asid dva : Nat) : State :=
  { s with tlbs := s.tlbs.filter (fun e => !(e.2.1 = asid && e.2.2 = pageBase dva)) }

/-- A KV page of a request moved to a free page `q` and mapped there (R276): every sharer follows. -/
def moveKvPage (s : State) (i p q : Nat) : State :=
  let old := pageOf s p
  let s1 := copyPage (takePages s [q] old.owner .liveKv i) p q
  let s2 := updPage (remapKv s1 p q) q (fun x => { x with sharers := old.sharers, object := old.object })
  releasePages (updPage s2 p (fun x => { x with sharers := [] })) [p]

/-- A block is pooled while a page of it lies in the Tidepool. -/
def trimPooled (s : State) : State :=
  { s with ledger := tmap s.ledger (fun _ e => { e with
      kv := e.kv.map (fun b => { b with pooled := b.pooled && b.pages.any (fun p => decide (pageTier p = 1)) }) }) }

/-- An in-Tidepool fault served: the page is copied back to its home die. -/
def servePooled (s : State) (r : FaultRec) : State :=
  match kvName r.dva with
  | none => release s r
  | some (i, k) =>
    match kvLeaf s i k with
    | .pooled home dpa =>
      (match findFree s home 1 with
      | some (q :: _) =>
        let s1 := trimPooled (dropTlb (moveKvPage s i (dpa / 65536) q) r.asid r.dva)
        release (cnt (updEntX s1 i (fun x => { x with poolPages := x.poolPages - 1 })) (r.asid - 1) 0x408 1) r
      | _ => pauseForPages (updFault s r.asid r.dva (fun x => { x with noPage := true })) home)
    | _ => release s r

def execTidepoolFaultServiced (asid dva : Nat) (s : State) : Host.Outcome State Fault Refusal :=
  match findFault s asid (pageBase dva) with
  | some r => occurs s (decide (r.cls = 2) && !r.noPage && servicerUp s r) "fault service" (servePooled s r)
  | none => .refused (.cannotOccur "fault service")

/-- The home die of a pooled page has a free tier H page. -/
def pageFreed (s : State) (r : FaultRec) : Bool :=
  match walkLeaf s r.asid r.dva with
  | .pooled home _ => (findFree s home 1).isSome
  | _ => true

def execTidepoolFaultPageFreed (asid dva : Nat) (s : State) : Host.Outcome State Fault Refusal :=
  match findFault s asid (pageBase dva) with
  | some r => occurs s (decide (r.cls = 2) && r.noPage && pageFreed s r) "page freed"
      (updFault s r.asid r.dva (fun x => { x with noPage := false }))
  | none => .refused (.cannotOccur "page freed")

/-! ### Waits that end (R291, R293) -/

/-- A step has waited 2 ms: the request leaves it and its fault stays (R291). -/
def execStepFaultWaitTimeout (step ledger : Nat) (s : State) : Host.Outcome State Fault Refusal :=
  occurs s ((tget (default : Step) s.steps step).waiting.contains ledger) "step waits on no fault"
    (updEntX (leaveStep s step ledger) ledger (fun x => { x with faultOut := true }))

/-- A pre-emption or squash of a work is pending (R293). -/
def preempted (s : State) : WalkWork → Bool
  | .step id i =>
    let x := tget (default : Step) s.steps id
    let e := entOf s i
    x.preempt || x.squashAll || e.pauseDue || e.squash || !engineOn s e.b.fn 4
  | .stream f _ => !engineOn s f 1
  | _ => false

/-- A request taken off its step at a restart point: squashed, or paused, or left to be formed again. -/
def takeOff (s : State) (id i : Nat) : State :=
  let s1 := leaveStep s id i
  let e := entOf s1 i
  if e.squash then cancelled s1 i else if e.pauseDue then pauseNow s1 i else s1

/-- A pre-empted work taken at its restart point. -/
def takeWork (s : State) : WalkWork → State
  | .step id i => takeOff s id i
  | .stream f st => freeLane (updStream s f st (fun x => { x with waiting := false })) f st
  | _ => s

/-- A pre-emption has waited 2 ms: the fault is abandoned and the pre-empted works are taken (R293, R294). -/
def abandon (s : State) (r : FaultRec) : State :=
  let rest := r.works.filter (fun w => !preempted s w)
  let s1 := if rest.isEmpty && !r.prSent then dropFault s r.asid r.dva
    else updFault s r.asid r.dva (fun x => { x with works := rest })
  (r.works.filter (preempted s)).foldl takeWork (logAbandoned s1 r 0)

def execPreemptFaultWaitTimeout (asid dva : Nat) (s : State) : Host.Outcome State Fault Refusal :=
  match s.faults.find? (fun r => decide (r.asid = asid) && (decide (r.dva = dva) || decide (r.dva = pageBase dva))) with
  | some r => occurs s (r.works.any (preempted s)) "no pre-emption waits on the fault" (abandon s r)
  | none => .refused (.cannotOccur "no pre-emption waits on the fault")

/-! ### Shoot-downs (R276, R277) -/

/-- A shoot-down of a page: its translation leaves every TLB and walk cache, and the ATC for tier X. -/
def shoot (s : State) (asid dva : Nat) : State :=
  let s1 := dropTlb s asid dva
  let s2 := match hostPage s asid (pageBase dva) with
    | some (pasid, page) => { s1 with atc := s1.atc.filter (fun e =>
        !(e.1 + 1 = asid && e.2.1 = pasid && page ≤ e.2.2 && e.2.2 < page + 16)) }
    | none => s1
  { s2 with shooting := s2.shooting ++ [(asid, pageBase dva)] }

def execShootdown (asid dva : Nat) (s : State) : Host.Outcome State Fault Refusal := done s (shoot s asid dva)

/-- Shoot-downs of a page complete in the order of their issue: the oldest of it ends. -/
def execShootdownComplete (asid dva : Nat) (s : State) : Host.Outcome State Fault Refusal :=
  occurs s (s.shooting.contains (asid, pageBase dva)) "no shoot-down of the page is in progress"
    { s with shooting := s.shooting.erase (asid, pageBase dva) }

end Sys2Proof.Machine
end

