-- ==== Sys2Proof/Machine/Settle.lean ====
section
/-! DEFINITION. What becomes of the requests of a group whose die is lost or that moves: twins and re-admission
(16 R502, 18 R555, 22 R639). -/

namespace Sys2Proof.Machine

open Sys2Proof

/-- A step abandoned: none of its outputs commits, and pauses and squashes that wait for it take effect (R283). -/
def abandonStep (s : State) (id : Nat) : State :=
  (tget (default : Step) s.steps id).members.foldl (fun s m => takeOff s id m.1) s

/-- Every waiter of a request stops waiting for it, with what is left of its blocks. -/
def freeWaiters (s : State) (i n : Nat) : State :=
  (entXOf s i).prefixWaiters.foldl (fun s w => endWait s w (min (entXOf s w).prefixLen n)) s

/-- The pages of a request outside the Tidepool released; a request that had any re-prefills in full. -/
def dropHotKv (s : State) (i : Nat) : State :=
  let e := entOf s i
  if e.kv.all (·.pooled) then s
  else
    let s1 := ((e.kv.filter (fun b => !b.pooled)).map (fun b => b.pages.filter (· ≠ 0))).flatten.foldl
      (fun s p => leavePage s i p) s
    updEntX (updEnt s1 i (fun x => { x with kv := x.kv.filter (·.pooled), cacheLost := true })) i
      (fun x => { x with fillFrom := 0 })

/-- A request moved to model `h`'s group: the column "With re-admission" of R502; a fault of it is abandoned with the
given REASON. A forced drain has no group left and
ends. -/
def readmit (s : State) (i h reason : Nat) : State :=
  let e := entOf s i
  let s1 := updEntX (dropFaultsOf s i (some reason)) i (fun x => { x with
    runsOn := h, inStep := false, slot := false, tree := [], maskFor := none, faultOut := false })
  match e.state with
  | .admitted | .prefill | .ready | .decode | .draining =>
    let s2 := releaseKv (leaveParent (freeWaiters s1 i 0) i) i
    updEntX (updEnt s2 i (fun x => { x with
      state := if e.state = .draining then .draining else .admitted, kvDone := 0, cacheLost := false })) i
      (fun x => { x with reprefill := if 0 < e.kvDone || 0 < e.generated then 1 else x.reprefill, damaged := none })
  | .pausedHot => toExpired (updEntX s1 i (fun x => { x with moving := false, poolPages := 0 })) i
  | .pausedPool | .expired => dropHotKv s1 i
  | .cancelling => cancelled s1 i
  | .done | .failed => updEnt (freeWaiters s1 i 0) i (fun x => { x with forced := false })
  | .free => s

/-- A request fails with its die: DIE_LOST, or CANCELLED when its cancel was in progress (R502). -/
def loseReq (s : State) (i : Nat) : State :=
  let e := entOf s i
  if e.state == .cancelling then cancelled (dropFaultsOf s i (some 2)) i
  else if ended e.state then updEnt (freeWaiters s i 0) i (fun x => { x with forced := false })
  else failReq (freeWaiters (dropFaultsOf s i (some 2)) i 0) i stDieLost

/-- The twin of a request's model, the lowest handle that R639 allows. -/
def twinOf (s : State) (i : Nat) : Option Nat :=
  let m := modelOf s i
  (s.models.find? (fun kv =>
    kv.1 ≠ (entXOf s i).runsOn && !hidden s kv.1 && usableBy kv.2.owner kv.2.shared (entOf s i).b.fn && kv.2.image.digest = m.image.digest &&
      decide ((groupDies kv.2).length = (groupDies m).length) && (groupDies kv.2).all (dieUsable s) && !kv.2.unusable)).map (·.1)

/-- A request of a group that has lost a die: re-admitted on a twin, or failed. -/
def settleReq (s : State) (i : Nat) : State :=
  match twinOf s i with
  | some h => if flagReadmit (entOf s i).b && !((entOf s i).state == .cancelling) then readmit s i h 2 else loseReq s i
  | none => loseReq s i

/-- The requests that run on a model: live ones, and ended ones in a forced drain. -/
def groupReqs (s : State) (h : Nat) : List Nat :=
  (s.ledger.filter (fun kv => !(kv.2.state == .free) && (live kv.2.state || kv.2.forced) && (entXOf s kv.1).runsOn = h)).map (·.1)

/-- The steps in flight of a model. -/
def stepsOf (s : State) (h : Nat) : List Nat := (s.steps.filter (fun kv => kv.2.model = h)).map (·.1)

end Sys2Proof.Machine
end

