-- ==== Sys2Proof/Machine/Time.lean ====
section
/-! DEFINITION. What passing time counts: the counters of microseconds spent waiting (03 R92, 04 R147 to R149, 06 R216,
12 R391, 16 R480). -/

namespace Sys2Proof.Machine

open Sys2Proof

/-- Reads that a function would issue had it a free tag: a ring's fetch, a chunk of a stream's input that lies in tier X, a
Translation Request, the reads of steps and of commands (R92). -/
def readsWait (s : State) (f : Nat) : Bool :=
  let x := fnOf s f
  x.rings.any (fun kv => kv.2.state == .running && !kv.2.fetching && kv.2.fetched.isEmpty && !(kv.2.typ == .cpl) && kv.2.prod ≠ kv.2.fetchIdx) ||
    x.streams.any (fun kv => kv.2.kind % 2 == 1 && match kv.2.queue with
      | (_, d) :: _ => (match leafOf s (asidOf f) (d.buffer + (if d.typ = 1 then kv.2.done else 0)) with
        | .host _ _ _ => true
        | _ => false)
      | [] => false) ||
    s.faults.any (fun r => r.asid = asidOf f && r.cls = 4 && !(x.pci.tags.any (fun kv => match kv.2 with
      | .outstanding (.translation _ _) _ _ _ => true
      | _ => false))) ||
    s.faults.any (fun r => r.asid = asidOf f && r.cls = 5) || x.cmds.any (fun c => decide (0 < c.readLeft))

/-- A function that may issue requests waits for a free usable tag (R92). -/
def tagWait (s : State) (f : Nat) : Bool := busOn s f && freeTagCount s f = 0 && readsWait s f

/-- A completion ring of a function is HELD. -/
def anyHeld (s : State) (f : Nat) : Bool := (fnOf s f).rings.any (fun kv => kv.2.state == .held)

/-- Output streams of a function whose output is withheld (R148). -/
def withheld (s : State) (f : Nat) : Nat :=
  ((fnOf s f).streams.filter (fun kv => match kv.2.takers with
    | i :: _ => outHeld s i
    | [] => false)).length

/-- Requests of a function that wait for their prompt run (R149, R480). -/
def starving (s : State) (f : Nat) : Nat :=
  (s.ledger.filter (fun kv => kv.2.b.fn = f && kv.2.promptLen = 0 && (kv.2.state == .admitted || kv.2.state == .draining))).length

/-- A request's mask, or one of its tree's, is not there yet. -/
def maskLate (s : State) (i : Nat) : Bool :=
  (entOf s i).b.grammar ≠ 0 && !((entXOf s i).maskFor == some (entOf s i).generated && (entXOf s i).tree.all (·.ready))

/-- Requests of a function whose selection waits for a mask: their step has no layer left (R391, R463). -/
def maskWaits (s : State) (f : Nat) : Nat :=
  ((s.steps.filter (·.2.lastLayer)).map (fun kv => (kv.2.members.filter (fun m =>
    (entOf s m.1).b.fn = f && maskLate s m.1 && (m.2 = 0 || decide (committedLen (entOf s m.1) ≤ (entOf s m.1).kvDone + m.2)))).length)).sum

/-- A counter rises by `n`, when that is not 0. -/
def cntN (s : State) (f off n : Nat) : State := if n = 0 then s else cnt s f off n

/-- The waits of a function over `n` µs, counted. -/
def countWaits (n : Nat) (s : State) (f : Nat) : State :=
  let s1 := cntN s f 0x228 (if tagWait s f then n else 0)
  let s2 := cntN s1 f 0x328 (if anyHeld s f then n else 0)
  let s3 := cntN s2 f 0x330 (n * withheld s f)
  cntN (cntN s3 f 0x338 (n * starving s f)) f 0x128 (n * maskWaits s f)

/-- Time passes to a moment. -/
def elapse (s : State) (t : Nat) : State :=
  if t ≤ s.now then s else { (List.range 16).foldl (countWaits (t - s.now)) s with now := t }

end Sys2Proof.Machine
end

