-- ==== Sys2Proof/Machine/Slack.lean ====
section
/-! DEFINITION. Holds, slack tides and what they apply: lane repairs, scrubber changes and group moves (20 R595 to
R603, 10 R342 to R344). -/

namespace Sys2Proof.Machine

open Sys2Proof

/-! ### Held dies (R596) -/

/-- The die that a scrubber's change holds. -/
def scrubDie (c : Nat) : Nat := if c < 4 then c else if c < 20 then 4 else if c < 24 then c - 20 else 4

/-- An item instance is a scrubber's. -/
def isScrubKey (key : Nat) : Bool := key / 65536 = idScrubEnable || key / 65536 = idScrubPeriod

/-- The dies of the placement that a GROUP_MOVE value names. -/
def moveDies (v : Nat) : List Nat := maskDies (placeMask (v / 2 ^ 32 % 65536))

/-- The held dies of an item instance. -/
def keyDies (s : State) (key v : Nat) : List Nat :=
  if isScrubKey key then [scrubDie (key % 65536)]
  else groupDies (tget (default : Model) s.models (v % 2 ^ 32)) ++ moveDies v

/-- Dies as a mask. -/
def dieMask (l : List Nat) : BitVec 5 := l.foldl (fun m d => setBit m d true) 0

/-- An item instance may be taken by a hold: at least 1 ms old, and for a GROUP_MOVE prepared (R597). -/
def mayTake (s : State) (c : Commit) (key v : Nat) : Bool :=
  if isScrubKey key then decide (c.time + 1000 ≤ s.now)
  else match tfind s.models (v % 2 ^ 32) with
    | some m => m.moveReady && m.moving = some (v / 2 ^ 32, c.gen)
    | none => false

/-- Links whose repair is due and can run. -/
def dueRepairs (s : State) : List Nat :=
  (List.range 8).filter (fun l => (linkOf s l).repairDue &&
    ((linkOf s l).state == .up || (linkOf s l).state == .repair))

/-- A hold runs, or one whose dies are all lost has not reported yet (R600). -/
def holdRuns (s : State) : Bool := s.conf.holding ≠ 0 || s.conf.quiesce.any (fun c => !c.taken.isEmpty)

/-- At a tide boundary a hold starts for what is due, one hold at a time (R597; DESIGN CHOICE, log entry 27). During a
control-processor restart lane repairs alone go on (R600). -/
def startHold (s : State) : State :=
  if holdRuns s then s
  else
    let quiesce := s.conf.quiesce.map (fun c => { c with
      taken := if s.cp.recovery then [] else (c.vals.filter (fun kv => mayTake s c kv.1 kv.2)).map (·.1) })
    let repairs := dueRepairs s
    let dies := (quiesce.map (fun c => ((c.vals.filter (fun kv => kv.1 ∈ c.taken)).map (fun kv => keyDies s kv.1 kv.2)).flatten)).flatten ++
      (repairs.map (fun l => [(linkEnds l).1, (linkEnds l).2])).flatten
    if dies.isEmpty then s
    else { s with conf := { s.conf with
      quiesce := quiesce, repairs := repairs, holding := dieMask dies, holdSince := s.now, slack := false } }

/-- A model's group names a held die. -/
def groupHeld (s : State) (h : Nat) : Bool :=
  (groupDies (tget (default : Model) s.models h)).any (fun d => s.conf.holding.getLsbD d)

/-- Steps in flight on held dies. -/
def heldSteps (s : State) : List Nat := (s.steps.filter (fun kv => groupHeld s kv.2.model)).map (·.1)

/-- The hold has waited 100 ms: what still runs on the held dies is pre-empted at its next layer boundary (R597). -/
def execHoldStepTimeout (s : State) : Host.Outcome State Fault Refusal :=
  occurs s (s.conf.holding ≠ 0 && !(heldSteps s).isEmpty) "no hold waits on a step"
    ((heldSteps s).foldl (fun s id => updStep s id (fun x => { x with preempt := true }))
      (elapse s (s.conf.holdSince + 100000)))

/-! ### Lane repairs (R342, R344) -/

/-- What the repair of a group finds: nothing faulty unless the test says otherwise. -/
def testOf (found : List LaneTest) (l g : Nat) : LaneTest :=
  (found.find? (fun t => t.link = l && t.group = g)).getD { link := l, group := g }

/-- The repair of one group: its faulty wires go to free spares, or it is given up. -/
def repairGroup (s : State) (l : Nat) (t : LaneTest) : State :=
  let g := t.group
  let taken := tget 0 (linkOf s l).groupSpares g
  if t.clockBad || decide (2 < taken + t.wires.length) then
    logErr (updLink s l (fun k => { k with disabled := insertNew k.disabled g }))
      { seq := 0, code := 0x32, cls := 2, detail := le 1 l ++ le 1 g }
  else
    let s1 := updLink s l (fun k => { k with
      disabled := remove k.disabled g, groupErr := tdel k.groupErr g, spares := k.spares + t.wires.length,
      groupSpares := tput k.groupSpares g (taken + t.wires.length) })
    (t.wires.foldl (fun (a : State × Nat) w =>
      (postFw a.1 0 { code := 0x15, object := l + 256 * g, data := le 1 w ++ le 1 a.2 ++ le 1 (linkOf s1 l).spares }, a.2 + 1))
      (s1, taken)).1

/-- All groups of a link repaired: the disabled ones, and those in which the test finds a wire. -/
def repairLink (s : State) (found : List LaneTest) (l : Nat) : State :=
  let groups := (linkOf s l).disabled ++
    ((found.filter (fun t => t.link = l && !(linkOf s l).disabled.contains t.group)).map (·.group))
  let s1 := groups.foldl (fun s g => repairGroup s l (testOf found l g)) s
  updLink s1 l (fun k => { k with
    state := if k.state = .repair then .up else k.state, repairDue := false, marked := 0 })

/-! ### Scrubbers and group moves (R251, R598, R601) -/

/-- A scrubber item takes its value: the patrol keeps its place. -/
def applyScrub (s : State) (key v : Nat) : State :=
  let s1 := updScrub s (key % 65536) (fun x =>
    if key / 65536 = idScrubEnable then { x with enable := v ≠ 0 } else { x with period := v })
  { s1 with conf := { s1.conf with applied := tput s1.conf.applied key v } }

/-- The clusters and banks of a model as parts by die. -/
def partsOf (m : Model) : List (Nat × Nat × Nat × List Nat) :=
  (groupDies m).map (fun d => (d, tget 0 m.denseMask d, tget 0 m.streamMask d, m.banks.filter (fun k => k / 64 = d)))

/-- Parts given back: clusters cleared, banks handed to no owner. -/
def freeParts (s : State) (parts : List (Nat × Nat × Nat × List Nat)) : State :=
  parts.foldl (fun s p =>
    p.2.2.2.foldl (fun s k => handBank s (k / 64) (k % 64) 0x1F) (clearClusters s p.1 p.2.1 p.2.2.1)) s

/-- The switch of a prepared move: the group takes its new placement, its requests move, and what it leaves waits for
the end of the slack tide. -/
def switchGroup (s : State) (h v : Nat) : State :=
  match tfind s.models h with
  | none => s
  | some m =>
    let m' := { m with
      placement := v % 65536, dense := v / 65536 % 256, stream := v / 2 ^ 24,
      denseMask := m.moveMasks.map (fun p => (p.1, p.2.1)), streamMask := m.moveMasks.map (fun p => (p.1, p.2.2.1)),
      banks := (m.moveMasks.map (fun p => p.2.2.2)).flatten, weights := m.movePages,
      moving := none, moveReady := false, movePages := m.weights, moveMasks := partsOf m }
    let reqs := (groupReqs s h).filter (fun i => live (entOf s i).state)
    reqs.foldl (fun s i => readmit s i h 0) { s with models := tput s.models h m' }

/-- What a moved group has left is released (R601). -/
def releaseOld (s : State) : State :=
  s.models.foldl (fun s kv =>
    if kv.2.moving.isNone && !kv.2.moveMasks.isEmpty then
      let s1 := freeParts { s with models := tput s.models kv.1 { kv.2 with movePages := [], moveMasks := [] } } kv.2.moveMasks
      releasePages s1 kv.2.movePages
    else s) s

/-- What a failed move has taken ahead is given back. -/
def dropMove (s : State) (h : Nat) : State :=
  match tfind s.models h with
  | none => s
  | some m =>
    let s1 := { s with models := tput s.models h { m with moving := none, moveReady := false, movePages := [], moveMasks := [] } }
    releasePages (freeParts s1 m.moveMasks) m.movePages

/-- A commit notes the first of its items that failed or was deferred (R603). -/
def noteFail (c : Commit) (item cause : Nat) : Commit :=
  if c.cause = 0 then { c with failItem := item, cause := cause } else c

/-- The changes of one commit that a slack tide applies, in the order of R598 within the commit; a scrubber of a die
that is not usable waits for its rejoin (R600). -/
def applyCommit (s : State) (moves : Bool) (c : Commit) : State × Commit :=
  c.vals.foldl (fun (a : State × Commit) kv =>
    let key := kv.1
    if !(key ∈ c.taken) || isScrubKey key = moves then a
    else
      let c1 := { a.2 with vals := tdel a.2.vals key }
      if moves then
        if (keyDies a.1 key kv.2).all (dieUsable a.1) then (switchGroup a.1 (kv.2 % 2 ^ 32) (kv.2 / 2 ^ 32), c1)
        else (dropMove a.1 (kv.2 % 2 ^ 32), noteFail c1 idGroupMove 0x0401)
      else
        let d := scrubDie (key % 65536)
        if d < 4 && !dieUsable a.1 d then
          ({ a.1 with conf := { a.1.conf with atRejoin := tput a.1.conf.atRejoin key kv.2 } }, noteFail c1 (key / 65536) 0x0401)
        else (applyScrub a.1 key kv.2, c1)) (s, c)

/-- Every waiting commit's changes of a kind applied. -/
def applyAll (s : State) (moves : Bool) : State :=
  let r := s.conf.quiesce.foldl (fun (a : State × List Commit) c =>
    let x := applyCommit a.1 moves c
    (x.1, a.2 ++ [x.2])) (s, [])
  { r.1 with conf := { r.1.conf with quiesce := r.2 } }

/-- The changes that firmware runs are deferred past a control-processor restart (R600). -/
def deferAll (s : State) : State :=
  { s with conf := { s.conf with quiesce := s.conf.quiesce.map (fun c =>
      if c.taken.isEmpty then c else noteFail c ((c.taken.map (· / 65536)).foldl min 65535) 0x0005) } }

/-- SLACK_TIDE_START: what the hold has taken is applied (R597, R598). -/
def slackStart (s : State) (found : List LaneTest) : State :=
  let s1 := s.conf.repairs.foldl (fun s l => repairLink s found l) s
  let s2 := if s1.cp.recovery then deferAll s1 else applyAll (applyAll s1 false) true
  { s2 with conf := { s2.conf with slack := true } }

def execSlackTideStart (found : List LaneTest) (s : State) : Host.Outcome State Fault Refusal :=
  occurs s (holdRuns s && !s.conf.slack && (heldSteps s).isEmpty) "no hold is quiet" (slackStart s found)

/-- CONFIG_QUIESCE_APPLIED of a commit, once for each (R602, R603). -/
def postQuiesce (s : State) (dies us : Nat) (c : Commit) : State :=
  if c.posted then s
  else postFw s 0 {
    code := 0x32, object := c.gen,
    data := le 1 (b2n (c.cause ≠ 0)) ++ le 1 dies ++ le 2 (min us 0xFFFF) ++ le 2 c.failItem ++ le 2 c.cause }

/-- SLACK_TIDE_END: the held work is released, the tide is counted and each commit's event is posted; what a restart
deferred waits for a new slack tide (R598, R600). -/
def slackEnd (s : State) (us : Nat) : State :=
  let hit := s.conf.quiesce.filter (fun c => !c.taken.isEmpty)
  let dies := s.conf.holding.toNat
  let left := s.conf.quiesce.map (fun c => if c.taken.isEmpty then c else { c with taken := [], posted := true })
  let s1 := { s with
    conf := { s.conf with
      holding := 0, slack := false, repairs := [], quiesce := left.filter (fun c => !c.vals.isEmpty) },
    energy := { s.energy with slackCount := min 0xFFFF (s.energy.slackCount + 1), lastSlackUs := min us 0xFFFF } }
  releaseOld (hit.foldl (fun s c => postQuiesce s dies us c) s1)

def execSlackTideEnd (durationUs : Nat) (s : State) : Host.Outcome State Fault Refusal :=
  occurs s s.conf.slack "no slack tide runs" (slackEnd s durationUs)

/-- A held die is lost (R600): it is held no longer, its scrubber changes wait for its rejoin, and moves that name it
fail. -/
def heldDieLost (s : State) (d : Nat) : State :=
  let names := fun (kv : Nat × Nat) => (keyDies s kv.1 kv.2).contains d
  let fails : List Nat := ((s.conf.quiesce.map (fun c => c.vals.filter (fun kv => !isScrubKey kv.1 && names kv))).flatten).map (fun kv => kv.2 % 2 ^ 32)
  let atRejoin := (s.conf.quiesce.map (fun c => c.vals.filter (fun kv => isScrubKey kv.1 && kv.1 ∈ c.taken && names kv))).flatten.foldl
    (fun t kv => tput t kv.1 kv.2) s.conf.atRejoin
  let quiesce := s.conf.quiesce.map (fun c =>
    let gone := c.vals.filter (fun kv => names kv && (!isScrubKey kv.1 || kv.1 ∈ c.taken))
    match gone with
    | [] => c
    | (k, _) :: _ => noteFail { c with vals := c.vals.filter (fun kv => !gone.contains kv), taken := if c.taken.isEmpty then [k] else c.taken }
        (k / 65536) 0x0401)
  let s1 := { s with conf := { s.conf with
    holding := setBit s.conf.holding d false, atRejoin := atRejoin, quiesce := quiesce } }
  fails.foldl dropMove s1

/-- A move fails before the hold with NO_SPACE (R601): the commit's event goes at once when nothing else of it waits. -/
def moveFailed (s : State) (h gen cause : Nat) : State :=
  let s1 := dropMove s h
  let quiesce := s1.conf.quiesce.map (fun c =>
    if c.gen = gen then noteFail { c with vals := c.vals.filter (fun kv => !(kv.1 / 65536 = idGroupMove && kv.2 % 2 ^ 32 = h)) } idGroupMove cause
    else c)
  let s2 := (quiesce.filter (fun c => c.gen = gen && c.vals.isEmpty && c.taken.isEmpty)).foldl (fun s c => postQuiesce s 0 0 c) s1
  { s2 with conf := { s2.conf with quiesce := quiesce.filter (fun c => !(c.gen = gen && c.vals.isEmpty && c.taken.isEmpty)) } }

/-- The clusters, banks and pages of a move taken on the new dies, the weights copied there (R601). -/
def prepareMove (s : State) (h : Nat) (m : Model) (v : Nat) : Option State :=
  let code := if m.shared then 0x10 else m.owner
  let dies := maskDies (placeMask (v % 65536))
  match takeClusters s code (v / 65536 % 256) (v / 2 ^ 24) dies with
  | none => none
  | some (parts, s1) =>
    match takeWeights s1 (asidOf m.owner) h (if m.replica then .weights else .weightsNoReplica) (dies.zip m.image.weightBytes) with
    | none => none
    | some (ps, s2) =>
      some { s2 with models := tput s2.models h { m with movePages := ps, moveMasks := parts, moveReady := true } }

/-- GROUP_MOVE_PREPARED. -/
def movePrepared (s : State) (h : Nat) (ok : Bool) : State :=
  match tfind s.models h with
  | none => s
  | some m =>
    match m.moving with
    | none => s
    | some (v, gen) =>
      match (if ok then prepareMove s h m v else none) with
      | some s1 => s1
      | none => moveFailed s h gen 0x0404

def execGroupMovePrepared (model : Nat) (ok : Bool) (s : State) : Host.Outcome State Fault Refusal :=
  occurs s ((tget (default : Model) s.models model).moving.isSome && !(tget (default : Model) s.models model).moveReady &&
      !s.cp.recovery) "no move is in preparation" (movePrepared s model ok)

/-- What a new value does to the fairness accounts (R521, R608): a change of FAIRNESS_MODE sets every virtual time to
0, a lower BUCKET_DEPTH clips its tenant's level, and a BUCKET_RATE that leaves 0 raises a negative level to 0; the
refill total follows the level. -/
def noteFairness (old s : State) : State :=
  let mode := itemNow old idFairness 0 ≠ itemNow s idFairness 0
  { s with fns := tmap s.fns (fun f x =>
      let cut : Int := max 0 (x.bucket - itemNow s idBucketDepth f)
      let raise_ : Int := if bucketRate old f = 0 && bucketRate s f ≠ 0 then max 0 (-x.bucket) else 0
      { x with virtualTime := if mode then 0 else x.virtualTime, bucket := x.bucket - cut + raise_,
               refilled := x.refilled - cut + raise_ }) }

/-- Tide-applied items take their values at the first boundary at least 50 µs after their commit (R595, R603): `n` is
the tide count of the boundary. -/
def applyTide (s : State) (n : Nat) : State :=
  let due := s.conf.tideDue.filter (fun c => decide (c.time + 50 ≤ s.now))
  noteFairness s (due.foldl (fun s c =>
    let s1 := c.vals.foldl (fun s kv =>
      if isScrubKey kv.1 then applyScrub s kv.1 kv.2
      else { s with conf := { s.conf with applied := tput s.conf.applied kv.1 kv.2 } }) s
    postFw s1 0 { code := 0x30, object := c.gen, data := le 8 n ++ le 2 c.records })
    { s with conf := { s.conf with tideDue := s.conf.tideDue.filter (fun c => !decide (c.time + 50 ≤ s.now)) } })

end Sys2Proof.Machine
end

