-- ==== Sys2Proof/Machine/Recovery.lean ====
section
/-! DEFINITION. Restarts of the control processors and of die managers: rows CP_WATCHDOG_EXPIRY to
DIE_MANAGER_RESTART_DONE (04 R128 to R131, 09 R309, 22 R632 to R635). -/

namespace Sys2Proof.Machine

open Sys2Proof

/-! ### Control processors -/

/-- The slots that the control processors hold or have queued read BUSY_RECOVERY in their STATUS field (R128). -/
def markSlots (s : State) (f : Nat) : State :=
  (fnOf s f).cmds.foldl (fun s c =>
    if hwOpcode c.opcode then s
    else
      let s1 := putSlot s f c.slot (splice (slotBytes s f c.slot) 2 (le 2 stBusyRecovery))
      updCmd s1 f c.slot (fun x => { x with marked := true })) s

/-- The Harbour banks that the control processors hold: seized, zeroed and returned to them (R309). -/
def returnBanks (s : State) : State :=
  (bankNums 4).foldl (fun s b =>
    let x := bankOf s 4 b
    if x.owner = 0x10 && (x.state == .owned || x.state == .inHandover) then
      let s1 := logErr s { seq := 0, code := 0x20, cls := 2, die := 4, addr := bankBase 4 b, detail := le 1 0x10 }
      updBank (zeroBank s1 4 b) 4 b (fun y => { y with state := .owned, owner := 0x10, zeroDue := false })
    else s) s

/-- The sentinel starts a restart; one that runs already starts again, its bound unmoved (R632, R634). -/
def startRestart (s : State) (cause : Nat) : State :=
  let again := s.cp.recovery
  let s1 := { s with
    cp := { s.cp with
      recovery := true, inTide := true, sentinel := true, coreUp := 0, lastRestart := cause,
      startedAt := if again then s.cp.startedAt else s.now },
    boot := if again then s.boot else { s.boot with cpRestarts := sat8 s.boot.cpRestarts } }
  returnBanks ((List.range 16).foldl markSlots s1)

/-- The watchdog expires: a restart after READY, the end of start-up with BOOT_TIMEOUT before it (R70, R632). -/
def watchdog (s : State) : State := if isReady s then startRestart s 1 else deviceFatal s 0x08

def execCpWatchdogExpiry (s : State) : Host.Outcome State Fault Refusal :=
  occurs s (isReady s || (decide (1 ≤ s.boot.stage) && decide (s.boot.stage < 0x0B))) "no firmware runs" (watchdog s)

def execControlCoreFault (s : State) : Host.Outcome State Fault Refusal :=
  occurs s (isReady s) "the device is not READY" (startRestart s 2)

/-- The links of the dies that are rejoining go back to STRANDED with their dies (R207, R349). -/
def endRejoins (s : State) : State :=
  ((List.range 4).filter (fun d => (dieOf s d).state == .rejoining)).foldl (fun s d =>
    (linksOf d).foldl (fun s l => linkDead s l .stranded) (updDie s d (fun x => { x with state := .lost }))) s

/-- What an uncommitted command has begun is undone: it has no effect, and what it had built goes (R130, R171). -/
def undoCmd (s : State) (f : Nat) (c : Cmd) : State :=
  if !c.started || c.outcome.isSome then s
  else if c.opcode = 0x0203 then
    updFn s f (fun x => { x with engStop := x.engStop &&& ~~~ (BitVec.ofNat 5 (pay (slotBytes s f c.slot) 1 1)) })
  else if c.opcode = 0x0C01 then
    (List.range 4).foldl (fun s d => if (dieOf s d).state == .draining then updDie s d (fun x => { x with state := .usable }) else s) s
  else if c.opcode = 0x0C02 then endRejoins s
  else if c.opcode = 0x0B03 then
    { s with banks := tmap s.banks (fun _ b => match b.marching with
        | some 0 => { b with marching := none, zeroDue := !b.marchFail }
        | some 1 => { b with marching := none }
        | _ => b) }
  else dropBuilt s f c.slot

/-- Each marked slot completes: with its committed outcome, or with RETRY (R130). -/
def resolveSlots (s : State) (f : Nat) : State × Nat :=
  ((fnOf s f).cmds.filter (·.marked)).foldl (fun (a : State × Nat) c =>
    match c.outcome with
    | some o => (completeSlot a.1 f c.slot o, a.2)
    | none => (completeSlot (undoCmd a.1 f c) f c.slot { status := stRetry }, a.2 + 1)) (s, 0)

/-- The slots of every function resolved: with the number of each that read RETRY. -/
def resolveAll (s : State) : State × List (Nat × Nat) :=
  (List.range 16).foldl (fun (a : State × List (Nat × Nat)) f =>
    let r := resolveSlots a.1 f
    (r.1, a.2 ++ [(f, r.2)])) (s, [])

/-- The MGMT packets that waited in the Harbour receive buffers are taken, and their credits returned (R351). -/
def drainMgmt (s : State) : State :=
  (List.range 4).foldl (fun s n => updDir s (4 + n) false (fun d => { d with
    vcs := d.vcs.map (fun b => { b with out := (b.out + b.occupied) % 2 ^ 32, occupied := 0 }) })) s

/-- CP_RESTART_END: cores released, slots resolved, CP_RESTARTED and the held firmware events posted, the restart
logged (R131, R633). -/
def endRestart (s : State) : State :=
  let r := resolveAll (drainMgmt s)
  let held := s.cp.heldEvents
  let s1 := { r.1 with cp := { r.1.cp with recovery := false, sentinel := false, coreUp := 0xF, heldEvents := [] } }
  let s2 := r.2.foldl (fun s x => if (fnOf s x.1).opened then post s x.1 { code := 0x0004, object := x.2 } else s) s1
  let s3 := held.foldl (fun s e => post s e.1 e.2) s2
  logErr s3 { seq := 0, code := 0x50, cls := 6,
              detail := le 1 s.cp.lastRestart ++ le 3 0 ++ le 4 ((r.2.map (·.2)).sum) }

def execCpRestartEnd (s : State) : Host.Outcome State Fault Refusal :=
  occurs s (s.cp.recovery && isReady s) "no restart is in progress" (endRestart s)

/-- A restart breaks its bound or its firmware fails verification: device-fatal (R627, R634). -/
def execCpRestartTimeout (badFw : Bool) (s : State) : Host.Outcome State Fault Refusal :=
  occurs s (s.cp.recovery && isReady s) "no restart is in progress" (deviceFatal s (if badFw then 0x02 else 0x08))

/-! ### Die managers (R635) -/

def execDieManagerWatchdog (d : Fin 4) (s : State) : Host.Outcome State Fault Refusal :=
  occurs s ((dieUsable s d || (dieOf s d).state == .draining) && !(dieOf s d).mgrDown) "the die manager does not run"
    (updDie s d (fun x => { x with mgrDown := true }))

/-- A die manager's restart ends, or its copy fails verification and the die is lost with CAUSE 0x02. -/
def managerDone (s : State) (d : Nat) (ok : Bool) : State :=
  let s1 := updDie s d (fun x => { x with mgrDown := false, fwRestart := x.fwRestart + 1 })
  if ok then logErr s1 { seq := 0, code := 0x42, cls := 6, die := d }
  else loseDie s1 d 0x02

def execDieManagerRestartDone (d : Fin 4) (ok : Bool) (s : State) : Host.Outcome State Fault Refusal :=
  occurs s (dieOf s d).mgrDown "no die manager restarts" (managerDone s d ok)

end Sys2Proof.Machine
end

