-- ==== Sys2Proof/Machine/Ras.lean ====
section
/-! DEFINITION. ECC words, poison, patrol, page retirement and migration: rows DEMAND_READ to PAGE_ZEROED (07 R236 to
R264, R695, R696, 22 R636). -/

namespace Sys2Proof.Machine

open Sys2Proof

/-! ### Reads (R240 to R242, R252, R253) -/

/-- HARBOUR_SRAM (R73). -/
def causeHarbourSram : Nat := 0x06

/-- A ledger word restored from its tier C mirror, or what follows when that is poisoned too (R636). -/
def restoreWord (s : State) (addr store : Nat) : State :=
  if isPoisoned s (Config.mirrorLine addr) then
    if store = 0 then failReq (dropFaultsOf s (sramInst addr) none) (sramInst addr) stStepFault
    else deviceFatal s causeHarbourSram
  else logErr (overwrite s addr) { seq := 0, code := 0x51, cls := 1, die := 4, addr := logAddr addr, detail := le 1 store }

/-- The steps in flight on a die, to be replayed from their next layer boundary. -/
def replaySteps (s : State) (d : Nat) : State :=
  { s with steps := s.steps.map (fun kv =>
      if d ∈ groupDies (tget (default : Model) s.models kv.2.model) then (kv.1, { kv.2 with poisoned := true }) else kv) }

/-- A poisoned word of the regions of R636. -/
def sramFound (s : State) (addr : Nat) : State :=
  match sramRegion addr with
  | 1 => restoreWord s addr 0
  | 2 => restoreWord s addr 1
  | 3 => clearPoison (replaySteps s (addrDie addr)) addr
  | 4 => if isReady s then startRestart (clearPoison s addr) 2 else s
  | 5 => if s.cp.recovery then deviceFatal s causeHarbourSram else (storeWord s addr (List.replicate 8 0) .clean).1
  | _ => s

/-- What a read finds (R240), with what a poisoned word of the regions of R636 sets off. -/
def readWord (s : State) (addr source : Nat) (ecc : EccSeen) : State × Bool :=
  let r := checkWord s addr source ecc
  (if r.2 then sramFound r.1 addr else r.1, r.2)

/-! ### Poison consumption (R262) -/

/-- The page that holds the other copy of a weight or replica page: the page of the same number in the other list of
its model. -/
def otherCopy (s : State) (p : Nat) : Option Nat :=
  let r := pageOf s p
  match tfind s.models r.object with
  | none => none
  | some m =>
    if r.cls = .weights then m.replicaPages[m.weights.idxOf p]?
    else if r.cls = .replica then m.weights[m.replicaPages.idxOf p]?
    else none

/-- The line of the other copy that matches a line, when it is clean: a repair source (R258). -/
def repairSource (s : State) (addr : Nat) : Option Nat :=
  match otherCopy s (pageAt addr) with
  | some q => if isPoisoned s (65536 * q + addr % 65536) || !answers s (65536 * q) then none else some (65536 * q + addr % 65536)
  | none => none

/-- POISON_CONSUMED (R626). -/
def logConsumed (s : State) (addr ledger replay outcome : Nat) : State :=
  logErr s { seq := 0, code := 7, cls := 3, die := addrDie addr, ledger := ledger,
             fn := if ledger = noLedger then 0xFF else (entOf s ledger).b.fn, addr := addr,
             status := if outcome = 1 then stStepFault else 0, detail := le 1 replay ++ le 1 outcome }

/-- Every request of a step fails with STEP_FAULT. -/
def failStep (s : State) (id : Nat) : State :=
  (tget (default : Step) s.steps id).members.foldl (fun s m =>
    failReq (leaveStep (dropFaultsOf s m.1 none) id m.1) m.1 stStepFault) s

/-- A step is to be replayed for poisoned data: the replay counts once (R262). -/
def replayStep (s : State) (id : Nat) : State :=
  updStep s id (fun y => { y with poisoned := true, replays := if y.poisoned then y.replays else y.replays + 1 })

/-- Whether poisoned data still lets a step replay: its replay is due already, or fewer than two have run. -/
def mayReplay (x : Step) : Bool := x.poisoned || decide (x.replays < 2)

/-- A line of a grammar copy: an image page in a die's HBM (R454). -/
def isMaskLine (s : State) (addr : Nat) : Bool :=
  isDram addr && decide (addr / 0x000900000000 < 4) && (pageOf s (pageAt addr)).cls == .image

/-- A poisoned mask-cache line read: the owner is told, and firmware rewrites the line with a full write; the read is served
elsewhere (R469). -/
def rewriteMaskLine (s : State) (addr : Nat) : State :=
  let a := eccWord addr
  overwrite (poisonFound s a 1) a

/-- A step has read poisoned data. -/
def stepConsumes (s : State) (addr id i : Nat) : State :=
  let x := tget (default : Step) s.steps id
  let p := pageOf s (pageAt addr)
  if !x.members.any (fun m => m.1 = i) then s
  else if isMaskLine s addr then rewriteMaskLine s addr
  else if isDram addr && (p.cls = .weights || p.cls = .weightsNoReplica) then
    if (repairSource s addr).isSome && mayReplay x then
      logConsumed (replayStep s id) addr i x.replays 0
    else failStep (logConsumed s addr i x.replays 1) id
  else if isDram addr && p.cls = .liveKv && (p.object = i || i ∈ p.sharers) then
    leaveStep (logConsumed s addr i 0 0) id i
  else if sramRegion addr = 3 then
    if mayReplay x then logConsumed (replayStep s id) addr i x.replays 0
    else failStep (logConsumed s addr i x.replays 1) id
  else failReq (leaveStep (logConsumed s addr i 0 1) id i) i stStepFault

/-- A reader has consumed poison. A BAR2 read and firmware see the marked data alone (R82). -/
def consume (s : State) (addr : Nat) : Consumer → State
  | .step id i => stepConsumes s addr id i
  | .dma _ i => if live (entOf s i).state then failReq (logConsumed s addr i 0 1) i stStepFault else s
  | _ => s

/-- DEMAND_READ (R240 to R242, R262, R263). -/
def demandRead (s : State) (addr : Nat) (ecc : EccSeen) (c : Consumer) : State :=
  if !answers s addr then s
  else
    let r := readWord s addr 1 ecc
    if r.2 then consume r.1 addr c else r.1

def execDemandRead (addr : Nat) (ecc : EccSeen) (by_ : Consumer) (s : State) : Host.Outcome State Fault Refusal :=
  if known addr then done s (demandRead s addr ecc by_) else .fault (.unpopulatedDpa addr)

/-! ### Writes (R244 to R248) -/

/-- A full write of one ECC word. -/
def fullWrite (s : State) (addr : Nat) (data : List Byte) : State := (storeWord s addr data .clean).1

def execFullWrite (addr : Nat) (data : List Byte) (s : State) : Host.Outcome State Fault Refusal :=
  if !known addr then .fault (.unpopulatedDpa addr)
  else occurs s (addr % eccUnit addr = 0 && decide (data.length = eccUnit addr)) "the write does not cover one ECC word"
    (fullWrite s addr data)

/-- The writer of a refused partial write is told (R246). -/
def tellWriter (s : State) : Writer → State
  | .dma f st =>
    outFail s f st (((streamOf s f st).getD ({} : Stream)).takers.headD noLedger) 0x16
  | .step i => failReq (s.steps.foldl (fun s kv => if kv.2.members.any (fun m => m.1 = i) then leaveStep s kv.1 i else s) s) i stStepFault
  | .bar2 f => cnt s f 0x220 1
  | .firmware => logErr s { seq := 0, code := 0x70, cls := 2, detail := le 1 1 }

/-- What follows a write that some words refused: the writer is told, and POISON_FOUND with SOURCE 2 is posted, once for the
access (R246). -/
def refused (w : Writer) (r : State × List Nat) : State :=
  if r.2.isEmpty then r.1 else refusedFound (tellWriter r.1 w) r.2

/-- A partial write of one ECC word: read, then merged or refused. -/
def partialWrite (s : State) (addr : Nat) (data : List Byte) (ecc : EccSeen) (w : Writer) : State :=
  refused w (storeAt s addr data [(eccWord addr, ecc)])

def execPartialWrite (addr : Nat) (data : List Byte) (ecc : EccSeen) (by_ : Writer) (s : State) :
    Host.Outcome State Fault Refusal :=
  if !known addr then .fault (.unpopulatedDpa addr)
  else occurs s (!data.isEmpty && decide (addr % eccUnit addr + data.length ≤ eccUnit addr) &&
      decide (data.length < eccUnit addr)) "the write is not partial" (partialWrite s addr data ecc by_)

/-! ### Patrol (R249 to R253) -/

/-- The first address of a scrubber's range. -/
def scrubStart (c : Nat) : Nat :=
  if c < 4 then 0x000900000000 * c else if c < 20 then 0x010000000000 + 4096 * (c - 4) else 0
/-- Words of the scratchpads, and of all on-chip SRAM, of an SRAM scrubber's die: 8 of 30 MiB on a Crest die, 2 of 12 MiB
on the Harbour die (R3, R234, R295). -/
def bankWords (c : Nat) : Nat := if c < 24 then 1048576 else 262144
def sramWords (c : Nat) : Nat := if c < 24 then 3932160 else 1572864
/-- The end of a scrubber's range; for SRAM, its number of words. -/
def scrubEnd (c : Nat) : Nat :=
  if c < 4 then 0x000900000000 * (c + 1)
  else if c < 20 then 0x01C000000000
  else sramWords c
/-- The line or word after a position, the line of another controller's block being passed over. -/
def scrubNext (c a : Nat) : Nat :=
  if c < 4 then a + 64 else if c < 20 then (if (a + 64) % 4096 = 0 then a + 64 + 61440 else a + 64) else a + 1
/-- The first position of a scrubber's part of the next page. -/
def scrubPage (c a : Nat) : Nat :=
  if c < 4 then (a / 65536 + 1) * 65536 else (a / 65536 + 1) * 65536 + 4096 * (c - 4)
/-- A position moved past retired pages. -/
def scrubSkip (s : State) (c : Nat) : Nat → Nat → Nat
  | 0, a => a
  | n + 1, a => if c < 20 && (pageOf s (a / 65536)).state == .retired then scrubSkip s c n (scrubPage c a) else a
/-- The position that a patrol reads now: SCRUB_c_POS, or the start of the range where that lies before it. -/
def scrubAt (s : State) (c : Nat) : Nat := scrubSkip s c (s.pages.length + 1) (max (scrubStart c) (scrubOf s c).pos)

/-- The address of a patrol position. -/
def scrubAddr (c pos : Nat) : Nat :=
  if c < 20 then pos
  else
    if pos < bankWords c then bankBase (c - 20) 0 + 8 * pos
    else sramBase + Config.sramWord (c - 20) (pos - bankWords c) % 2 ^ 56

/-- A patrol read: the word is corrected or poisoned, and the position advances, wrapping at the end of a pass. -/
def patrolRead (s : State) (c : Nat) (ecc : EccSeen) : State :=
  let a := scrubAt s c
  let s1 := (readWord s (scrubAddr c a) 0 ecc).1
  let n := scrubSkip s c (s.pages.length + 1) (scrubNext c a)
  if n < scrubEnd c then updScrub s1 c (fun x => { x with pos := n })
  else updScrub s1 c (fun x => { x with pos := scrubStart c, passes := sat64 x.passes 1 })

def execPatrolRead (c : Fin 25) (ecc : EccSeen) (s : State) : Host.Outcome State Fault Refusal :=
  occurs s ((scrubOf s c.val).enable && isReady s && (scrubDie c.val = 4 || dieUsable s (scrubDie c.val)))
    "the scrubber does not run" (patrolRead s c.val ecc)

/-! ### Claims restored (R696) -/

/-- A pool's free pages are below its claims. -/
def overClaimed (s : State) (p : Nat) : Bool := decide (freePages s p < claimsOn s p)

/-- A request's reserve has a claim on a pool. -/
def reserveClaims (s : State) (i p : Nat) : Bool :=
  let m := modelOf s i
  (entOf s i).kv.any (fun b => b.reserve && (absentPages b).any (fun k => if k ∈ b.onC then p = 4 else homeDie m k = p))

/-- The requests with a claim on a pool, lowest ranked first. -/
def claimants (s : State) (p : Nat) : List Nat :=
  (ranked s (liveWhere s (fun i _ => decide (0 < claimsOf s i p)))).reverse

/-- One claim of a request moved to tier C: its last absent page on the die. -/
def moveClaim (s : State) (i d : Nat) : State :=
  let m := modelOf s i
  let pick := fun (b : KvBlock) => ((absentPages b).filter (fun k => !b.onC.contains k && homeDie m k = d)).reverse.head?
  let kv := (entOf s i).kv
  match (List.range kv.length).reverse.find? (fun j => ((kv[j]?).bind pick).isSome) with
  | none => s
  | some j => updEnt s i (fun e => { e with kv := e.kv.modify j (fun b => match pick b with
      | some k => { b with onC := b.onC ++ [k] }
      | none => b) })

/-- The bound of R538 restored after a retirement: reserves go first, then claims move to tier C, then the lowest
ranked claimant fails; `fuel` bounds the steps. -/
def restoreClaims (s : State) (p : Nat) : Nat → State
  | 0 => s
  | fuel + 1 =>
    if !overClaimed s p then s
    else
      match (claimants s p).find? (fun i => reserveClaims s i p) with
      | some i => restoreClaims (dropReserve s i) p fuel
      | none =>
        match claimants s p with
        | [] => s
        | i :: _ =>
          if p < 4 && decide (claimsOn s 4 < freePages s 4) then restoreClaims (moveClaim s i p) p fuel
          else
            let s1 := logErr s { seq := 0, code := 0x11, cls := 3, fn := (entOf s i).b.fn, ledger := i, status := stStepFault,
                                 detail := le 4 (blocksFor (committedLen (entOf s i))) }
            let s2 := (s.steps.filter (fun kv => kv.2.members.any (fun m => m.1 = i))).foldl (fun s kv => leaveStep s kv.1 i) s1
            restoreClaims (updEnt (failReq (dropFaultsOf s2 i none) i stStepFault) i (fun e => { e with
              kv := e.kv.map (fun b => { b with pages := b.pages.filter (· ≠ 0) }) })) p fuel

/-- The bound of a pool restored. -/
def restore (s : State) (p : Nat) : State := restoreClaims s p (s.ledger.length + s.ledger.length + claimsOn s p)

/-- A page retired and the bound of its pool kept. -/
def retire (s : State) (p reason line : Nat) : State :=
  let s1 := retirePage s p reason line
  match poolOf p with
  | some q => restore s1 q
  | none => s1

/-! ### Migration and repair (R256 to R258) -/

/-- Every use of a page replaced by another: regions, models, images, histories and KV. -/
def remapPage (s : State) (p q : Nat) : State :=
  let g := fun (l : List Nat) => l.map (fun x => if x = p then q else x)
  let s1 := remapKv s p q
  { s1 with
    regions := tmap s1.regions (fun _ r => { r with pages := g r.pages }),
    models := tmap s1.models (fun _ m => { m with weights := g m.weights, replicaPages := g m.replicaPages, movePages := g m.movePages }),
    vocabs := tmap s1.vocabs (fun _ v => { v with pages := g v.pages }),
    bins := tmap s1.bins (fun _ v => { v with pages := g v.pages }),
    grammars := tmap s1.grammars (fun _ v => { v with pages := g v.pages }),
    ledger := tmap s1.ledger (fun _ e => { e with histPages := g e.histPages }) }

/-- A migration starts, to a free page of the same pool; without one the page is only marked retire-on-release. -/
def startMigration (s : State) (p reason line : Nat) : State :=
  let x := pageOf s p
  match (poolOf p).bind (fun q => findPages s q 1) with
  | some (q :: _) =>
    let s1 := updPage (takePages s [q] x.owner x.cls x.object) q (fun y => { y with state := .migrating, sharers := x.sharers, dva := x.dva })
    let s2 := updPage s1 p (fun y => { y with state := .migrating, dest := some q, reason := reason, retireLine := if reason = 1 then y.retireLine else line })
    match poolOf p with
    | some k => restore s2 k
    | none => s2
  | _ => updPage s p (fun y => { y with retireOnRelease := true, retireLine := if y.retireLine = 0 then line else y.retireLine })

/-- Poisoned lines of a page. -/
def poisonedLines (s : State) (p : Nat) : List Nat := s.poison.filter (fun a => pageAt a = p && isDram a)

/-- WEIGHTS_REPAIRED with its log entry (R254, R264). -/
def repaired (s : State) (addr src method lines : Nat) : State :=
  let p := pageOf s (pageAt addr)
  let s1 := logErr s { seq := 0, code := 4, cls := 2, die := addrDie addr, addr := addr, detail := le 8 src }
  let ev : Event := { code := 0x22, object := p.object, data := le 8 addr ++ le 1 method ++ le 1 lines }
  if p.owner = 0 then s1 else postFw s1 (p.owner - 1) ev

/-- MIGRATION_DONE: the copy is mapped in place of the old page, which retires; a repair copies from the other copy. -/
def migrationDone (s : State) (p q : Nat) : State :=
  let x := pageOf s p
  let src := if x.reason = 3 then (otherCopy s p).getD p else p
  let s1 := copyPage s src q
  let bad := !(poisonedLines s1 q).isEmpty
  let s2 := updPage (remapPage s1 p q) q (fun y => { y with
    state := .allocated, retireOnRelease := bad, retireLine := if bad then (poisonedLines s1 q).headD 0 else 0 })
  let s3 := { s2 with tlbs := s2.tlbs.filter (fun e => !(e.2.1 = x.owner && e.2.2 = x.dva && x.dva ≠ 0)) }
  let s4 := if x.reason = 3 then
      repaired s3 x.retireLine (65536 * src + x.retireLine % 65536) 0 (poisonedLines s p).length
    else s3
  retire s4 p x.reason (if x.reason = 1 then x.ceLine else x.retireLine)

def execMigrationDone (page : Nat) (s : State) : Host.Outcome State Fault Refusal :=
  match (pageOf s page).dest with
  | some q => occurs s ((pageOf s page).state == .migrating && !s.cp.recovery) "no migration" (migrationDone s page q)
  | none => .refused (.cannotOccur "no migration")

/-- CE_COUNT_RETIRE (R236, R256). -/
def ceRetire (s : State) (p : Nat) : State :=
  let x := pageOf s p
  if (poolOf p).isNone || x.state == .free || x.state == .quarantined then retire s p 1 x.ceLine
  else startMigration s p 1 x.ceLine

def execCeCountRetire (page : Nat) (s : State) : Host.Outcome State Fault Refusal :=
  let x := pageOf s page
  occurs s (decide (16 ≤ x.ce) && !(x.state == .retired) && !(x.state == .migrating) && !s.cp.recovery)
    "the page's count has not reached 16" (ceRetire s page)

/-- PAGE_ZEROED: a quarantined page becomes free (R261). -/
def pageZeroed (s : State) (p : Nat) : State :=
  { updPage (putMem s (cellsZero s.mem (65536 * p) 65536)) p (fun x => { ce := x.ce, ceLine := x.ceLine }) with
    poison := s.poison.filter (fun a => !(isDram a && pageAt a = p)) }

def execPageZeroed (page : Nat) (s : State) : Host.Outcome State Fault Refusal :=
  occurs s ((pageOf s page).state == .quarantined) "the page is not quarantined" (pageZeroed s page)

/-! ### POISON_DISPOSITION (R254, R258, R259) -/

/-- The position that a line of a KV page holds (R531). -/
def kvPosition (s : State) (i p addr : Nat) : Nat :=
  let b := (entOf s i).kv.findIdx (fun x => p ∈ x.pages)
  32 * b + addr % 65536 / kvDieBytes (modelOf s i) % 32

/-- CACHE_LOST: logged and posted to the request's function (R254, R558, R626). -/
def cacheLost (s : State) (i addr cause lo hi : Nat) : State :=
  let s1 := logErr s { seq := 0, code := 6, cls := 3, die := addrDie addr, fn := (entOf s i).b.fn, ledger := i, addr := addr,
                       detail := le 1 cause ++ le 3 0 ++ le 4 lo ++ le 4 hi }
  postFw s1 (entOf s i).b.fn {
    code := 0x23, object := i, data := le 1 cause ++ le 1 0 ++ le 1 (addrDie addr) ++ le 1 0 ++ le 4 lo ++ le 4 hi }

/-- The requests that use a KV page. -/
def kvUsers (s : State) (p : Nat) : List Nat :=
  let x := pageOf s p
  if x.sharers.isEmpty then [x.object] else x.sharers

/-- A poisoned line of live KV damages one position of every request that uses it; the one with the lowest index rebuilds
a shared page for the others (R254, R543, R558). A request is not marked for a slot that holds no entry it reads: one at or
above L − 1, or beyond its prefill so far (R534, R550). -/
def damageLive (s : State) (addr : Nat) : State :=
  let users := (kvUsers s (pageAt addr)).filter (fun i => decide (kvPosition s i (pageAt addr) addr < (entOf s i).kvDone))
  users.foldl (fun s i =>
    let pos := kvPosition s i (pageAt addr) addr
    cacheLost (markCacheLost s i pos pos) i addr (if users.all (fun j => decide (i ≤ j)) then 0 else 2) pos pos) s

/-- A poisoned line of Tidepool KV loses every pooled page of its requests (R254, R556). -/
def damagePool (s : State) (addr : Nat) : State :=
  (kvUsers s (pageAt addr)).foldl (fun s i =>
    let s1 := cacheLost (markCacheLost s i 0 noLedger) i addr 1 0 noLedger
    let e := entOf s1 i
    let ps := ((e.kv.filter (·.pooled)).map (fun b => b.pages.filter (· ≠ 0))).flatten
    let s2 := ps.foldl (fun s p => leavePage s i p) s1
    let s3 := updEnt s2 i (fun x => { x with kv := x.kv.takeWhile (fun b => !b.pooled), kvDone := 0 })
    stateRecord (updEntX s3 i (fun x => { x with poolPages := 0, fillFrom := 0 })) i 6) s

/-- Poisoned weights with a repair source: migrated from the other copy, or rewritten in place (R258). -/
def repairWeights (s : State) (addr src : Nat) : State :=
  let p := pageAt addr
  if ((poolOf p).bind (fun q => findPages s q 1)).isSome then startMigration s p 3 (eccWord addr)
  else
    let good := (poisonedLines s p).filterMap (fun a => (repairSource s a).map (fun q => (a, q)))
    let s1 := good.foldl (fun s l => (storeWord s l.1 ((List.range 64).map (fun k => cellRead s.mem (l.2 + k))) .clean).1) s
    let s2 := updPage s1 p (fun y => { y with
      retireOnRelease := true, retireLine := if y.retireLine = 0 then eccWord addr else y.retireLine })
    repaired s2 addr src 1 good.length

/-- A scratchpad word: an UNOWNED bank is seized and marched, an owner is told (R259, R310). -/
def disposeBank (s : State) (addr source : Nat) : State :=
  let d := addrDie addr
  let b := (addr - bankBase d 0) / 0x20000
  if (bankOf s d b).state == .unowned then seizeBank s d b 0x1F true else poisonFound s addr source

/-- POISON_DISPOSITION by content class. A word of vocabulary SRAM is an image's, which is loaded again, or a cached bin
table's, which is dropped and fetched again (R259, R427). A page-table line is rewritten from another copy while its page is replaced by an
unused page of its firmware area (R236, R254; the replacement follows from the retirement, `tableFrame`). -/
def dispose (s : State) (addr source : Nat) : State :=
  if !isDram addr then
    if addr < sramBase then disposeBank s addr source
    else if sramRegion addr = 6 then
      { clearPoison s addr with
        vocabs := tmap s.vocabs (fun h v => if h = sramInst addr then { v with reloading := true } else v),
        bins := tmap s.bins (fun h t => if h = sramInst addr then { t with cached := false } else t) }
    else if sramRegion addr = 7 then clearPoison s addr
    else sramFound s addr
  else
    let p := pageAt addr
    match classCode s addr with
    | 0 => retire s p 0 addr
    | 3 =>
      let s1 := logErr (overwrite s addr) { seq := 0, code := 4, cls := 2, die := addrDie addr, addr := addr }
      retire s1 p 3 addr
    | 4 => damagePool (poisonFound s addr source) addr
    | 5 => damageLive (poisonFound s addr source) addr
    | _ =>
      match repairSource s addr with
      | some src => repairWeights (poisonFound s addr source) addr src
      | none => poisonFound s addr source

def execPoisonDisposition (addr source : Nat) (s : State) : Host.Outcome State Fault Refusal :=
  let p := pageOf s (pageAt addr)
  occurs s (isPoisoned s addr && known addr && decide (source ≤ 1) && !s.cp.recovery &&
      !(isDram addr && (p.state == .retired || p.state == .migrating))) "no poison to dispose of" (dispose s (eccWord addr) source)

end Sys2Proof.Machine
end

