-- ==== Sys2Proof/Machine/StreamCommands.lean ====
section
/-! DEFINITION. The request and stream commands: rows REQUEST_QUERY to STREAM_CLOSE (05 R191 to R195, 16 R470, 04 R132,
R133, R139). -/

namespace Sys2Proof.Machine

open Sys2Proof

/-! ### REQUEST_QUERY (R191, R470) -/

/-- The state codes of R471. -/
def stateCode : ReqState → Nat
  | .free => 0 | .admitted => 1 | .prefill => 2 | .ready => 3 | .decode => 4 | .pausedHot => 5 | .pausedPool => 6
  | .expired => 7 | .cancelling => 8 | .draining => 9 | .done => 10 | .failed => 11

/-- KV_TIER: 3 while a Tidepool move runs, 2 while a block lies in the Tidepool, 1 while pages are held in tier H. -/
def kvTierOf (s : State) (i : Nat) : Nat :=
  let e := entOf s i
  if (entXOf s i).moving then 3
  else if e.kv.any (·.pooled) then 2
  else if kvPageCount e = 0 then 0
  else 1

/-- KV_DIES: the mask of the home dies of a request's KV pages. -/
def kvDiesOf (s : State) (i : Nat) : Nat :=
  let m := modelOf s i
  let homes := ((entOf s i).kv.map (fun b => ((b.pages.mapIdx (fun k p => (k, p))).filter (fun x => x.2 ≠ 0)).map
    (fun x => homeDie m x.1))).flatten
  ((List.range 4).filter (fun d => homes.contains d)).foldl (fun a d => a + 2 ^ d) 0

/-- MARKS of an entry. -/
def marksOf (e : Entry) : Nat :=
  16 * b2n e.urgent + 8 * b2n e.cacheLost + 4 * b2n e.forced + 2 * b2n e.hostPause + b2n e.drainMode

/-- The fields of an entry from the SUBMIT: bytes 2 to 47 but END_STATUS, which is given. -/
def bindBytes (b : ReqBind) (endStatus : Nat) : List Byte :=
  le 1 b.fn ++ le 1 b.priority ++ le 2 b.flags.toNat ++ le 2 b.gen ++ le 8 b.userTag.toNat ++ le 4 b.model ++
    le 4 b.grammar ++ le 4 b.vocab ++ le 2 endStatus ++ le 1 b.inRing ++ le 1 b.outRing ++ le 4 b.ttft ++ le 4 b.tbt ++
    le 4 b.maxNew ++ le 2 b.inStream ++ le 2 b.outStream

/-- The 256 bytes of a ledger entry (R470); a FREE entry reads 0. The DPA of the page-list root is firmware's choice
(log entry 23). -/
def entryBytes (s : State) (i : Nat) : List Byte :=
  let e := entOf s i
  let x := entXOf s i
  if e.state = .free then List.replicate 256 0
  else
    padTo 256 (le 1 (stateCode e.state) ++ le 1 (marksOf e) ++ bindBytes e.b e.endStatus ++
      le 4 e.promptLen ++ le 4 (committedLen e) ++ le 4 e.generated ++ le 4 e.ttftUs ++ le 8 (250 * e.admitTime) ++
      le 8 (250 * e.lastToken) ++ le 8 (65536 * e.histPages.headD 0) ++
      le 8 (if kvPageCount e = 0 then 0 else pageRootDpa i) ++ le 1 (kvTierOf s i) ++ le 1 (kvDiesOf s i) ++ le 2 0 ++
      le 4 e.b.ttl ++ le 8 (250 * e.expiry) ++ le 8 x.spent ++ le 8 x.reserved ++ le 8 x.energy ++ le 8 x.energyEst ++
      le 8 e.b.seed.toNat ++ le 4 e.b.temp.toNat ++ le 4 e.b.topP.toNat ++ le 4 e.b.minP.toNat ++ le 2 e.b.topK ++
      le 1 e.b.stops.length ++ le 1 0 ++ le 1 x.specNodes ++ le 1 x.specAcc ++ le 1 (reservePages e) ++ le 1 0 ++
      le 4 (kvPageCount e) ++ le 4 x.prefixWaiters.length ++ le 4 (x.prefixParent.getD noLedger) ++ le 4 x.steps ++
      le 4 x.reprefills ++ le 8 e.hostPaused)

/-- REQUEST_QUERY: the entry inline, or written to a writable region of the function. -/
def requestQuery (s : State) (f : Nat) (b : List Byte) : Ran :=
  let i := pay b 0 4 % 8192
  let dva := pay b 8 8
  fields s [(decide (31 < pay b 1 1), 17), resv b 2 2, resv b 4 4,
      (dva ≠ 0 && (decide (dva % 64 ≠ 0) || !writable s f dva 256), 24)] (
    let e := entOf s i
    if f ≠ 0 && (e.state == .free || e.b.fn ≠ f) then bad s stHandleInvalid 16
    else if dva = 0 then good s ((entryBytes s i).take 240)
    else
      let r := storeDva s f dva (entryBytes s i) false false []
      good (firmwareRefused r.1 r.2) [])

/-- A REQUEST_QUERY that writes to host memory waits while its function may issue no request (R98) or while the page awaits
its translation (R77). -/
def queryMayRun (s : State) (f slot : Nat) : Bool :=
  let dva := pay (slotBytes s f slot) 8 8
  dva = 0 || mayPlace s f dva 256

def execRequestQuery (f : Fin 16) (slot : Fin 32) (s : State) : Host.Outcome State Fault Refusal :=
  runBegin s f slot 0x0701 (fun s _ => s)

/-! ### Rings (R192, R193) -/

/-- TYPE codes of R192. -/
def ringTypeOf : Nat → RingType
  | 1 => .req | 2 => .textIn | 3 => .textOut | 4 => .numIn | 5 => .numOut | 6 => .cpl | _ => .none

/-- A ring is open. -/
def ringIsOpen (g : Ring) : Bool := !(g.state == .closed)
/-- An open completion ring. -/
def openCpl (s : State) (f c : Nat) : Bool := ringIsOpen (ringOf s f c) && (ringOf s f c).typ == .cpl
/-- Whether a type is one of the stream types, which R132 counts together. -/
def streamType (t : RingType) : Bool := t == .textIn || t == .textOut || t == .numIn || t == .numOut
/-- At most this many rings of a type (R132). -/
def ringLimit (t : RingType) : Nat := if streamType t then 32 else 16
/-- Open rings that count with a type. -/
def ringsLike (s : State) (f : Nat) (t : RingType) : Nat :=
  ((fnOf s f).rings.filter (fun kv => ringIsOpen kv.2 && (kv.2.typ == t || (streamType t && streamType kv.2.typ)))).length

/-- The checks of RING_OPEN but for its limit (R133, R192). -/
def ringFields (s : State) (f : Nat) (b : List Byte) (k : Ran) : Ran :=
  let r := pay b 0 1
  let t := ringTypeOf (pay b 1 1)
  let size := pay b 2 1
  let c := pay b 3 1
  let cpl := t == .cpl
  let vec := pay b 4 1
  let thr := pay b 5 1
  let hold := pay b 6 2
  let base := pay b 8 8
  let wb := pay b 16 8
  fields s [(decide (63 < r), 16), (t == .none, 17), (if cpl then decide (63 < vec) else decide (vec ≠ 0), 20),
      (if cpl then decide (thr = 0) else decide (thr ≠ 0), 21), (if cpl then decide (1000 < hold) else decide (hold ≠ 0), 22),
      resv b 24 8] (
    if ringIsOpen (ringOf s f r) then bad s stRingInvalid 16
    else if size < 6 ∨ 16 < size then bad s stRingInvalid 18
    else if (if cpl then c ≠ r else !openCpl s f c) then bad s stRingInvalid 19
    else if base % 4096 ≠ 0 || !hostRange s f base (entrySize t * 2 ^ size) then bad s stRingInvalid 24
    else if wb % 64 ≠ 0 || !hostRange s f wb 4 then bad s stRingInvalid 32
    else k)

/-- Whether a command's body accepts it. -/
def accepts_ (r : Ran) : Bool := (r.2.map (fun o => decide (o.status = 0))).getD false

/-- The commands of an opcode that started before a slot's, have not completed and would succeed: they hold object slots
(R172). -/
def reservedBefore (s : State) (f slot op : Nat) (ok : List Byte → Bool) : Nat :=
  ((earlierCmds (fnOf s f) slot).filter (fun c => decide (c.opcode = op) && c.started && c.outcome.isNone &&
    ok (slotBytes s f c.slot))).length

/-- Open rings that count with a type, and those that earlier commands are opening. -/
def ringsTaken (s : State) (f slot : Nat) (t : RingType) : Nat :=
  ringsLike s f t + reservedBefore s f slot 0x0801 (fun b =>
    let u := ringTypeOf (pay b 1 1)
    (u == t || (streamType u && streamType t)) && accepts_ (ringFields s f b (good s [])))

/-- A ring's page of a DVA has its translation, or needs none (R134). -/
def pageTranslated (s : State) (f dva : Nat) : Bool :=
  !atsOn s f || match leafOf s (asidOf f) dva with
    | .host pasid iova _ => s.atc.contains (f, pasid, iova / 4096)
    | _ => true

/-- The 4 KiB pages of a ring: its entries' and its write-back word's. -/
def ringPages (g : Ring) : List Nat :=
  pageDvas g.base (entrySize g.typ * 2 ^ g.sizeLog2) ++ [g.wb / 4096 * 4096]

/-- Completion records of a stream ring's descriptors that are held, due or waiting to be written. -/
def pendingRecords (s : State) (f r : Nat) : Nat :=
  let mine := fun (x : Rec) => (x.kind = 6 || x.kind = 7) && x.srcRing = r
  ((fnOf s f).rings.map (fun kv => ((kv.2.held ++ kv.2.due).filter mine).length)).sum +
    ((fnOf s f).waiting.filter (fun w => match w with
      | .record _ x _ => mine x
      | _ => false)).length

/-- Descriptors of a ring ID that have no record yet: queued on a stream, fetched before the ring was closed and opened
again, or with their record pending (R139, R611). -/
def ringOwed (s : State) (f r : Nat) : Nat :=
  (((fnOf s f).streams.filter (fun kv => kv.2.ring = r)).map (fun kv => kv.2.queue.length)).sum + pendingRecords s f r +
    (((fnOf s f).rings.filter (fun kv => decide (64 ≤ kv.1) && decide (kv.1 % 64 = r))).map (fun kv => kv.2.fetched.length)).sum

/-- The key of a closed ring of an ID that is opened again while it has descriptors left: they complete and report behind
it (R139). -/
def closedRingKey (t : Tbl Ring) (r : Nat) : Nat :=
  r + 64 * (((List.range (t.length + 1)).find? (fun k => (tget ({} : Ring) t (r + 64 * (k + 1))).fetched.isEmpty)).getD 0 + 1)
/-- The rings of a function with what a closed ring has fetched kept apart from its ID. -/
def keepFetched (t : Tbl Ring) (r : Nat) : Tbl Ring :=
  let old := tget ({} : Ring) t r
  if old.fetched.isEmpty then t else tput t (closedRingKey t r) old

/-- RING_OPEN (R192): 0 is written to the write-back word, behind what waits (R100). The pages whose translations are not
there yet are asked for; where the page of the write-back word allows no write, the ring is stopped with cause TRANSLATION
at once (R134). -/
def ringOpen (s : State) (f slot : Nat) (b : List Byte) : Ran :=
  let r := pay b 0 1
  let t := ringTypeOf (pay b 1 1)
  ringFields s f b (
    if ringLimit t ≤ ringsTaken s f slot t then bad s stObjectLimit (ringLimit t)
    else
      let g : Ring := {
        state := .running, cplRing := pay b 3 1, vector := pay b 4 1, sizeLog2 := pay b 2 1, typ := t, base := pay b 8 8,
        wb := pay b 16 8, threshold := pay b 5 1, holdoff := pay b 6 2,
        finished := (2 ^ 32 - (ringOwed s f r + (ringOf s f r).fetched.length)) % 2 ^ 32 }
      let s1 := updFn s f (fun x => { x with
        rings := tput (keepFetched x.rings r) r { g with lost := (ringPages g).filter (fun a => !pageTranslated s f a) },
        latches := tdel (tdel x.latches (0x8010 + 0x80 * r)) (0x8018 + 0x80 * r) })
      let s2 := if !ringWritable s f (pay b 16 8) then stopRing s1 f r 3
        else if pageTranslated s f (pay b 16 8) && (fnOf s f).waiting.isEmpty then writeBack s1 f r
        else updFn s1 f (fun x => { x with waiting := x.waiting ++ [.writeback r] })
      good s2 [])

def execRingOpen (f : Fin 16) (slot : Fin 32) (s : State) : Host.Outcome State Fault Refusal :=
  runBegin s f slot 0x0801 (fun s _ => s)

/-- Whether an open stream of a function uses a ring. -/
def ringStreamed (s : State) (f r : Nat) : Bool :=
  (fnOf s f).streams.any (fun kv => decide (kv.1 < 65536) && decide (kv.2.ring = r))

/-- A request whose REQUEST_END, or a descriptor whose record, still goes to a completion ring: a live request, or an ended
one whose record is not written (R139, R147). -/
def ringReporter (s : State) (f r : Nat) : Option Nat :=
  userEntry s (fun i e => e.b.fn = f && e.b.cplRing = r && (live e.state || !(entXOf s i).recWritten))

/-- RING_CLOSE (R139, R193): a host-produced ring stops fetching, and what it has fetched goes on; a completion ring
goes with what it holds. DESIGN CHOICE (log entry 127): CAUSE, CPL_RING, VECTOR, SIZE_LOG2 and TYPE of RING_r_STATE and
RING_r_PROD and RING_r_CONS keep their values until the ring is opened again; R162 does not say what a closed ring shows,
but for RING_r_BASE and RING_r_WB (R215). -/
def ringClose (s : State) (f : Nat) (b : List Byte) : Ran :=
  let r := pay b 0 1
  let g := ringOf s f r
  fields s [(decide (63 < r), 16), resv b 1 3] (
    if !ringIsOpen g then bad s stRingInvalid 16
    else if g.typ = .cpl then
      match ringReporter s f r with
      | some i => bad s stInUse i
      | none =>
        if (fnOf s f).rings.any (fun kv => ringIsOpen kv.2 && kv.1 ≠ r && kv.2.cplRing = r) then bad s stInUse noLedger
        else good (updFn (dropHeld s f r) f (fun x => { x with
          rings := tmod ({} : Ring) x.rings r (fun y => { y with state := .closed, lost := [] }),
          waiting := x.waiting.filter (fun w => match w with
            | .writeback c => c ≠ r
            | _ => true) })) []
    else if ringStreamed s f r then
      bad s stInUse ((userEntry s (fun _ e => e.b.fn = f && (e.b.inRing = r || e.b.outRing = r))).getD noLedger)
    else good (updRing s f r (fun x => { x with state := .closed, fetching := false, submitAt := none, lost := [] })) [])

def execRingClose (f : Fin 16) (slot : Fin 32) (s : State) : Host.Outcome State Fault Refusal :=
  runBegin s f slot 0x0802 (fun s _ => s)

/-! ### Streams (R194, R195) -/

/-- Open streams of a function: a closed one that still works off its descriptors has a key of 65,536 or more. -/
def openStreams (s : State) (f : Nat) : Nat := ((fnOf s f).streams.filter (fun kv => decide (kv.1 < 65536))).length

/-- What a vocabulary image lacks for a text input mode (R407): byte tokens for UTF8_MODE 1, normalisation tables for
NORMALISE. -/
def lacksMode (s : State) (vocab utf8 norm : Nat) : Option Nat :=
  if vocab = 0 then none
  else
    let img := vocabBytes s vocab
    if utf8 = 1 && !bit (vocFlags img) 0 then some 24
    else if norm = 1 && !bit (vocFlags img) 1 then some 25
    else if norm = 2 && !bit (vocFlags img) 2 then some 25
    else none

/-- The checks of STREAM_OPEN but for its limit (R194, R407). SPECIALS has a meaning for the text kinds (R408, R434); the
table reserves bits [7:1] of FLAGS only. -/
def streamFields (s : State) (f : Nat) (b : List Byte) (k : Ran) : Ran :=
  let st := pay b 0 2
  let kind := pay b 2 1
  let r := pay b 3 1
  let vh := pay b 4 4
  let utf8 := pay b 8 1
  let norm := pay b 9 1
  let fl := pay b 10 1
  let text := kind = 1 || kind = 2
  let owner := (findObj s s.vocabs vh).map (fun v => usableBy v.owner v.shared f)
  fields s [(decide (kind = 0) || decide (4 < kind), 18), (decide (63 < r), 19), (!text && decide (vh ≠ 0), 20),
      (decide ((if kind = 1 then 2 else if kind = 2 then 1 else 0) < utf8), 24),
      (decide ((if kind = 1 then 2 else 0) < norm), 25), (decide (1 < fl), 26), resv b 11 5] (
    if vh ≠ 0 && owner ≠ some true then bad s stHandleInvalid 20
    else match (if kind = 1 then lacksMode s vh utf8 norm else none) with
      | some d => bad s stInvalidField d
      | none =>
        if (streamOf s f st).isSome then bad s stStateConflict 1
        else if !ringIsOpen (ringOf s f r) || !((ringOf s f r).typ == ringTypeOf (kind + 1)) then bad s stRingInvalid 19
        else k)

/-- STREAM_OPEN (R194): an ID already open is looked at before the limit, and the ring after it. -/
def streamOpen (s : State) (f slot : Nat) (b : List Byte) : Ran :=
  let full := decide (4096 ≤ openStreams s f + reservedBefore s f slot 0x0803 (fun b => accepts_ (streamFields s f b (good s []))))
  if full && accepts_ (streamFields s f b (good s [])) then bad s stObjectLimit 4096
  else streamFields s f b (
    let x : Stream := {
      kind := pay b 2 1, ring := pay b 3 1, vocab := pay b 4 4, utf8 := pay b 8 1, normalise := pay b 9 1,
      specials := bit (pay b 10 1) 0 }
    good (updFn s f (fun y => { y with streams := tput y.streams (pay b 0 2) x })) [])

def execStreamOpen (f : Fin 16) (slot : Fin 32) (s : State) : Host.Outcome State Fault Refusal :=
  runBegin s f slot 0x0803 (fun s _ => s)

/-- The first free key for a closed stream that still works off its descriptors. -/
def closedKey (s : State) (f st : Nat) : Nat :=
  65536 * (((List.range ((fnOf s f).streams.length + 1)).find? (fun k => (streamOf s f (st + 65536 * (k + 1))).isNone)).getD 0 + 1) + st

/-- A stream's key changed, with the reads and the lane that name it. -/
def rekey (s : State) (f st k : Nat) (x : Stream) : State :=
  let s1 := updFn s f (fun y => { y with
    streams := tput (tdel y.streams st) k { x with runs := [], runEnergy := [] },
    rings := tmap y.rings (fun _ g => { g with fetched := g.fetched.map (fun d => match d with
      | .str i e => if e.stream = st then .str i { e with stream := k } else d
      | other => other) }),
    pci := { y.pci with tags := tmap y.pci.tags (fun _ t => match t with
      | .outstanding (.streamInput a b) c z p => .outstanding (.streamInput (if a = st then k else a) b) c z p
      | other => other) } })
  { s1 with lanesIn := tmap s1.lanesIn (fun _ l => if l.fn = f ∧ l.stream = st then { l with stream := k } else l) }

/-- STREAM_CLOSE (R195): input descriptors already fetched still complete; queued output buffers are returned as R432
returns them. -/
def streamClose (s : State) (f : Nat) (b : List Byte) : Ran :=
  let st := pay b 0 2
  fields s [resv b 2 2] (
    match streamOf s f st with
    | none => bad s stStateConflict 0
    | some x =>
      let input := x.kind = 1 || x.kind = 3
      match userEntry s (fun _ e => e.b.fn = f && (if input then e.b.inStream = st else e.b.outStream = st)) with
      | some i => bad s stInUse i
      | none =>
        if !input then good (updFn (outReturn s f st) f (fun y => { y with streams := tdel y.streams st })) []
        else if x.queue.isEmpty && !fetchedFor s f st then good (updFn s f (fun y => { y with streams := tdel y.streams st })) []
        else good (rekey s f st (closedKey s f st) x) [])

def execStreamClose (f : Fin 16) (slot : Fin 32) (s : State) : Host.Outcome State Fault Refusal :=
  runBegin s f slot 0x0804 (fun s _ => s)

end Sys2Proof.Machine
end

