-- ==== Sys2Proof/Machine/HostLink.lean ====
section
/-! DEFINITION. The host link: rows BME_CLEAR to RECEIVER_ERROR (03 R76 to R112, R694, 04 R134, 08 R289). -/

namespace Sys2Proof.Machine

open Sys2Proof

/-! ### Ring fetches (R94, R137) -/

/-- A read of a ring's fetch is outstanding; one issued before BME was cleared does not count. -/
def fetchOut (s : State) (f r : Nat) : Bool :=
  (fnOf s f).pci.tags.any (fun kv => match kv.2 with
    | .outstanding (.ringFetch a) _ stale _ => a = r && !stale
    | _ => false)

/-- Descriptors that the next fetch of a ring reads: those the host has produced, as far as one 4 KiB page and the end of
the ring. -/
def fetchCount (g : Ring) : Nat :=
  min (sub32 g.prod g.fetchIdx) (min (4096 / entrySize g.typ) (2 ^ g.sizeLog2 - g.fetchIdx % 2 ^ g.sizeLog2))

/-- The reads that the next fetch of a ring takes (R89, R137). -/
def fetchReads (s : State) (f : Nat) (g : Ring) : List (Nat × Nat) :=
  let n := fetchCount g * entrySize g.typ
  readPieces s f n (g.base + entrySize g.typ * (g.fetchIdx % 2 ^ g.sizeLog2)) n

/-- A ring fetches what the host has produced, when it runs, has consumed what it fetched before (DESIGN CHOICE, log
entry 29), and has the translations and the tags (R92, R98, R134). -/
def startFetch (s : State) (f r : Nat) : State :=
  let g := ringOf s f r
  let l := fetchReads s f g
  if g.state == .running && !(g.typ == .cpl) && !(g.typ == .none) && !g.fetching && g.fetched.isEmpty && !fetchOut s f r &&
      !l.isEmpty && decide (l.length ≤ freeTagCount s f) && l.all (fun p => pageHeld s f g.lost p.1) && busOn s f &&
      !(fnOf s f).flrBusy then
    issueReads (updRing s f r (fun x => { x with fetching := true })) f (.ringFetch r) l
  else s

/-- What waits for a tag, a translation or BME goes on: ring fetches, Translation Requests, the reads of steps and of
commands (R92, R101). -/
def resumeReads (s : State) (f : Nat) : State :=
  pumpAll (retryReads (askAgain ((fnOf s f).rings.foldl (fun s kv => startFetch s f kv.1) s) f) f) f

/-- The host page behind a function's DVA is asked for, under a work that waits for it (R134, R289). -/
def askPage (s : State) (f dva : Nat) (w : WalkWork) : State :=
  match hostPage s (asidOf f) dva with
  | some (pasid, page) =>
    askTranslation (addFault s { die := 4, asid := asidOf f, dva := dva, cls := clsAwait } w) f pasid page
  | none => endWork s w stPermission

/-- The pages of a function's event queue and rings whose translations are not held are asked for (R134, R151). -/
def askLost (s : State) (f : Nat) : State :=
  if !atsOn s f then s
  else
    let s1 := if (fnOf s f).evq.opened && !(fnOf s f).evq.failed then
        (fnOf s f).evq.lost.foldl (fun s a => askPage s f a (.evq (Fin.ofNat 16 f))) s
      else s
    (fnOf s1 f).rings.foldl (fun s kv =>
      if ringWorks kv.2 then kv.2.lost.foldl (fun s a => askPage s f a (.ring (Fin.ofNat 16 f) (Fin.ofNat 64 kv.1))) s else s) s1

/-- A host page's translation leaves the event queue and the rings that hold it: they translate it again before the next
access (R134). -/
def losePage (s : State) (f pasid page : Nat) : State :=
  let hit := fun (l : List Nat) => l.filter (fun a => hostPage s (asidOf f) a = some (pasid, page))
  updFn s f (fun x => { x with
    evq := if x.evq.opened then { x.evq with
        lost := (hit (pageDvas x.evq.base (64 * 2 ^ x.evq.sizeLog2))).foldl insertNew x.evq.lost } else x.evq
    rings := tmap x.rings (fun _ g =>
      if ringWorks g then { g with lost := (hit (ringPages g)).foldl insertNew g.lost } else g) })

/-- A host page's translation is held again. -/
def holdPage (s : State) (f pasid page : Nat) : State :=
  let rest := fun (l : List Nat) => l.filter (fun a => hostPage s (asidOf f) a ≠ some (pasid, page))
  updFn s f (fun x => { x with
    evq := { x.evq with lost := rest x.evq.lost }
    rings := tmap x.rings (fun _ g => { g with lost := rest g.lost }) })

/-! ### Bus Master Enable and D-states (R98 to R102, R110 to R112) -/

/-- Reads outstanding when a function stops issuing are to be discarded (R99), and a ring's fetch starts again later
(R94). -/
def staleReads (s : State) (f : Nat) : State :=
  let s1 := updPci s f (fun p => { p with tags := tmap p.tags (fun _ t => match t with
    | .outstanding w c _ p => .outstanding w c true p
    | other => other) })
  updFn s1 f (fun x => { x with rings := tmap x.rings (fun _ g => { g with fetching := false }) })

/-- BME cleared: no new request is issued. -/
def bmeClear (s : State) (f : Nat) : State :=
  if !configOn s f || !(fnOf s f).pci.bme then s
  else updPci (staleReads s f) f (fun p => { p with bme := false })

def execBmeClear (f : Fin 16) (s : State) : Host.Outcome State Fault Refusal := done s (bmeClear s f.val)

/-- Output that waits for a function's host traffic goes on. -/
def serveAll (s : State) (f : Nat) : State :=
  (fnOf s f).streams.foldl (fun s kv => if kv.2.kind = 2 ∨ kv.2.kind = 4 then serveOutput s f kv.1 (kv.2.takers.length + 1) else s) s

/-- A function's traffic to the host runs again: what waited is written in its order, pending messages follow, and work
resumes (R101). -/
def resumeBus (s : State) (f : Nat) : State :=
  if busOn s f then serveAll (sendPages (resumeReads (flushWaiting s f) f) f) f else s

/-- BME set. -/
def bmeSet (s : State) (f : Nat) : State :=
  if !configOn s f || (fnOf s f).pci.bme then s
  else resumeBus (updPci s f (fun p => { p with bme := true })) f

def execBmeSet (f : Fin 16) (s : State) : Host.Outcome State Fault Refusal := done s (bmeSet s f.val)

/-- D3hot: as a cleared BME (R110). -/
def d3hotEntry (s : State) (f : Nat) : State :=
  if !configOn s f || (fnOf s f).pci.d3hot then s
  else updPci (staleReads s f) f (fun p => { p with d3hot := true })

def execD3hotEntry (f : Fin 16) (s : State) : Host.Outcome State Fault Refusal := done s (d3hotEntry s f.val)

/-! ### Function Level Reset (R103 to R109, R171, R305, R608) -/

/-- Every outstanding tag quarantined for the completion timeout in force; a tag in quarantine keeps its expiry. -/
def quarantineAll (s : State) (p : Pci) : Tbl TagState :=
  tmap p.tags (fun _ t => match t with
    | .outstanding _ _ _ _ => .quarantined (s.now + ctoUs p.cto)
    | other => other)

/-- Configuration space as an FLR leaves it: reset values but for the sticky AER bits (R45, R106). -/
def resetPci (s : State) (p : Pci) : Pci :=
  { enabled := p.enabled, tags := quarantineAll s p, aer := p.aer, aerHeader := p.aerHeader,
    aerPrefix := p.aerPrefix, severity := p.severity }

/-- The function's slots that have not completed read RETRY, and a command that has not committed has no effect (R171). The
mailbox hardware's own answers stay (R122). -/
def retrySlots (s : State) (f : Nat) : State :=
  ((fnOf s f).cmds.filter (fun c => !hwOpcode c.opcode)).foldl (fun s c =>
    completeSlot (if c.outcome.isNone then undoCmd s f c else s) f c.slot { status := stRetry }) s

/-- A request leaves every step. -/
def leaveSteps (s : State) (i : Nat) : State :=
  (s.steps.filter (fun kv => kv.2.members.any (fun m => m.1 = i))).foldl (fun s kv => leaveStep s kv.1 i) s

/-- Other functions' requests wait on the prefill of a request (R104). -/
def foreignWaiters (s : State) (i : Nat) : Bool :=
  (entXOf s i).prefixWaiters.any (fun w => (entOf s w).b.fn ≠ (entOf s i).b.fn)

/-- A request of the reset function fails with FLR: its output is discarded and its reservation returns whole to the
bucket. One on whose prefill other functions wait is marked FORCED_DRAIN and prefills on (R104, R495, R608). -/
def flrReq (s : State) (i : Nat) : State :=
  let e := entOf s i
  let s1 := updEntX s i (fun x => { x with drained := true, closed := true, pendingOut := [], heldUtf8 := [], stopHeld := [] })
  if !live e.state then updEntX s1 i (fun x => { x with recordDue := false, recWritten := true })
  else
    let r := (entXOf s i).reserved
    let s2 := dropFaultsOf (charge s1 i r (-(r : Int)) 0) i (some 1)
    let forced := foreignWaiters s i && (e.forced || !kvComplete s i)
    let s3 := if forced then updEnt s2 i (fun x => { x with forced := true }) else leaveSteps s2 i
    updEntX (failReq s3 i stFlr) i (fun x => { x with recordDue := false, recWritten := true })

/-- Entries of a function that are not FREE. -/
def entriesOf (s : State) (f : Nat) : List Nat :=
  (s.ledger.filter (fun kv => !(kv.2.state == .free) && kv.2.b.fn = f)).map (·.1)

/-- The carding and felting lanes of a function let go of their streams. -/
def dropLanes (s : State) (f : Nat) : State :=
  { s with lanesIn := tmap s.lanesIn (fun _ l => if l.fn = f then { l with busy := false } else l) }

/-- A function's DOE object is aborted and its SPDM connection starts again (R665). -/
def resetDoe (s : State) (f : Nat) : State :=
  { s with mgmt := { s.mgmt with spdm := tdel s.mgmt.spdm f, signing := s.mgmt.signing.filter (fun x => x.1 ≠ f) } }

/-- An FLR of one function starts. -/
def flrOne (s : State) (f : Nat) : State :=
  if (fnOf s f).flrBusy then s
  else
    let s0 := s.faults.foldl (fun s r => if r.asid = asidOf f then logAbandoned s r 1 else s) s
    let s1 := updFn { s0 with faults := s0.faults.filter (fun r => r.asid ≠ asidOf f) } f (fun x => { x with
      flrBusy := true, shown := some { rings := x.rings, evq := x.evq, engines := x.engines }, pci := resetPci s x.pci,
      rings := [], evq := ({} : EvQ), waiting := [], streams := [], engines := 0, engStop := 0 })
    let s2 := (entriesOf s f).foldl flrReq (resetDoe (retrySlots (dropLanes s1 f) f) f)
    seizeBanksOf { s2 with cp := { s2.cp with heldEvents := s2.cp.heldEvents.filter (fun e => e.1 ≠ f) } } f

/-- FUNCTION_RESET names a reset VF to the PF (R103). -/
def postReset (s : State) (f : Nat) : State := if f = 0 then s else post s 0 { code := 0x0005, object := f }

/-- The enabled VFs. -/
def enabledVfs (s : State) : List Nat := (List.range s.sriov).map (· + 1)

/-- An FLR of a VF. -/
def flrVf (s : State) (f : Nat) : State := if (fnOf s f).flrBusy then s else postReset (flrOne s f) f

/-- An FLR of the PF: VF Enable is cleared, each VF is reset with it, and the shadow set is emptied (R587, R694). The PF is
reset itself, so it gets no FUNCTION_RESET (R103). -/
def flrPf (s : State) : State :=
  if (fnOf s 0).flrBusy then s
  else
    let s1 := (enabledVfs s).foldl flrOne (flrOne s 0)
    { s1 with sriov := 0, vfMse := false, ari := false, numVfs := 0, conf := { s1.conf with shadow := [] } }

/-- INITIATE_FLR. -/
def initiateFlr (s : State) (f : Nat) : State :=
  if !configOn s f then s else if f = 0 then flrPf s else flrVf s f

def execInitiateFlr (f : Fin 16) (s : State) : Host.Outcome State Fault Refusal := done s (initiateFlr s f.val)

/-- The mailbox hardware's answers that wait are given before the slots reset (R122). -/
def answerHw (s : State) (f : Nat) : State :=
  ((fnOf s f).cmds.filter (fun c => hwOpcode c.opcode)).foldl (fun s c =>
    let b := slotBytes s f c.slot
    hwComplete s f c.slot (hwOutcome s f b (if c.opcode = 0x0101 then deviceInfo s f else bootLogAnswer s (pay b 0 4)))) s

/-- A function in the inert state of R53: what R208, R115 and R608 keep stays, and so do the slots' bytes and the tags in
quarantine. The latches of reset registers are not loaded (R9). A VF whose VF Enable was cleared is there no longer. -/
def inertFn (f sriov : Nat) (x : Fn) : Fn :=
  { pci := { x.pci with enabled := decide (f ≤ sriov) }, slots := x.slots,
    latches := x.latches.filter (fun kv => !(0x8000 ≤ kv.1 && kv.1 < 0xA000) && kv.1 < 0x1000000),
    counters := x.counters, enTide := x.enTide, enTotal := x.enTotal, enCapTides := x.enCapTides, capHeld := x.capHeld,
    bucket := x.bucket, bucketFrac := x.bucketFrac, refilled := x.refilled, spent := x.spent, reserved := x.reserved,
    virtualTime := x.virtualTime }

/-- FLR_COMPLETE: what the function owned is released and it is inert. -/
def flrComplete (s : State) (f : Nat) : State :=
  let s1 := dropAsid (dropObjects (answerHw s f) f) f
  updFn s1 f (fun x => inertFn f s1.sriov x)

/-- FLR_COMPLETE: that of the PF ends every FLR of a VF in progress with it (R109). -/
def flrEnd (s : State) (f : Nat) : State :=
  if f = 0 then ((List.range 16).filter (fun g => (fnOf s g).flrBusy)).foldl flrComplete s else flrComplete s f

def execFlrComplete (f : Fin 16) (s : State) : Host.Outcome State Fault Refusal :=
  occurs s (fnOf s f.val).flrBusy "no FLR of the function is in progress" (flrEnd s f.val)

/-- VF Enable cleared: every enabled VF is reset (R694). -/
def vfClear (s : State) : State :=
  if !configOn s 0 then s else { ((enabledVfs s).foldl flrVf s) with sriov := 0 }

def execVfEnableClear (s : State) : Host.Outcome State Fault Refusal := done s (vfClear s)

/-- VF Enable set with NumVFs: without ARI Capable Hierarchy only VFs 1 to 7 are enabled (R80). -/
def vfSet (s : State) (n : Nat) : State :=
  if !configOn s 0 || decide (s.sriov ≠ 0) then s
  else
    let k := if s.ari then min n 15 else min n 7
    (List.range k).foldl (fun s v => updPci s (v + 1) (fun p => { p with enabled := true }))
      { s with sriov := k, numVfs := min n 15 }

def execVfEnableSet (numVfs : Nat) (s : State) : Host.Outcome State Fault Refusal := done s (vfSet s numVfs)

/-- D3hot to D0: an FLR (R111). -/
def d0Return (s : State) (f : Nat) : State :=
  if !configOn s f || !(fnOf s f).pci.d3hot then s
  else initiateFlr (updPci s f (fun p => { p with d3hot := false })) f

def execD0Return (f : Fin 16) (s : State) : Host.Outcome State Fault Refusal := done s (d0Return s f.val)

/-! ### How a read ends (R94) -/

/-- The ends of a read other than a normal one. -/
inductive ReadEnd where
  | timeout | ur | ca | poison | aborted
  deriving DecidableEq, Repr

/-- The status of R145 for an end. -/
def endStatus : ReadEnd → Nat
  | .timeout => 0x11 | .ur => 0x12 | .ca => 0x13 | .poison => 0x14 | .aborted => 0x10

/-- Causes of a stopped ring (R138). -/
def causeFetch : Nat := 1
def causeIndex : Nat := 2

/-- A ring's fetch ends badly: refetched once after a timeout, else the ring stops (R94). DESIGN CHOICE (log entry 130): a
fetch of several reads is refetched as a whole, once every read of its first try has ended; what those end with no longer
counts, and R94 does not say whether it should. -/
def endFetch (s : State) (f r : Nat) (e : ReadEnd) : State :=
  let g := ringOf s f r
  if !g.fetching then s
  else match e with
    | .timeout =>
      if g.refetched then stopRing s f r causeFetch
      else startFetch (updRing s f r (fun x => { x with refetched := true, fetching := false })) f r
    | .aborted => s
    | _ => stopRing s f r causeFetch

/-- A read of a stream's input descriptor ends badly: the descriptor ends with the count it completed (R95). -/
def endInput (s : State) (f st idx : Nat) (e : ReadEnd) : State :=
  match streamOf s f st with
  | none => s
  | some x => if (x.queue.head?).any (fun q => q.1 = idx) then finishIn s f st (endStatus e) x.done none else s

/-- A step's tier X read ends badly. -/
def endStepRead (s : State) (id i : Nat) (e : ReadEnd) : State :=
  if !((tget (default : Step) s.steps id).members.any (fun m => m.1 = i)) then s
  else
    let fail := fun (s : State) => failReq (leaveStep s id i) i (endStatus e)
    match e with
    | .timeout =>
      if (entXOf s i).replays = 0 then abandonStep (updEntX s i (fun x => { x with replays := 1 })) id else fail s
    | .aborted => abandonStep s id
    | .poison => abandonStep (fail s) id
    | _ => fail s

/-- The fault records that wait for the translation of a host page. -/
def awaiting (s : State) (f pasid page : Nat) : List FaultRec :=
  s.faults.filter (fun r => r.asid = asidOf f && r.cls = clsAwait && hostPage s r.asid r.dva = some (pasid, page))

/-- A Translation Request ends badly: retried once after a timeout, again after BME is set, else a permission fault. -/
def endTranslation (s : State) (f pasid page : Nat) (e : ReadEnd) : State :=
  let l := awaiting s f pasid page
  match e with
  | .aborted => s
  | .timeout =>
    if l.any (·.retried) then l.foldl (fun s r => fatalFault s r stPermission) s
    else askTranslation (l.foldl (fun s r => updFault s r.asid r.dva (fun x => { x with retried := true })) s) f pasid page
  | _ => l.foldl (fun s r => fatalFault s r stPermission) s

/-- The outcome of a read reaches the work that issued it. -/
def endRead (s : State) (f : Nat) (w : ReadFor) (e : ReadEnd) : State :=
  match w with
  | .ringFetch r => endFetch s f r e
  | .streamInput st idx => endInput s f st idx e
  | .bulk slot => failRead s f slot (if slotOp (slotBytes s f slot) = 0x0901 then { status := stIndirectFault }
      else { status := stLoadFailed, detail := endStatus e })
  | .step id i => endStepRead s id i e
  | .translation p q => endTranslation s f p q e

/-- An outstanding read of a function uses a translation. -/
def pageInUse (s : State) (f pasid page : Nat) : Bool :=
  (fnOf s f).pci.tags.any (fun kv => match kv.2 with
    | .outstanding _ _ _ p => p = some (pasid, page)
    | _ => false)

/-- The Invalidation Completions of a function that may go now: no read that used the translation is outstanding (R85). -/
def endInvals (s : State) (f : Nat) : State :=
  (fnOf s f).pci.invals.foldl (fun s v =>
    if pageInUse s f v.2.1 v.2.2 then s
    else emit (updPci s f (fun p => { p with invals := remove p.invals v })) (.invalidationDone f v.1)) s

/-- A tag of a function freed. -/
def freeTagOf (s : State) (f tag : Nat) : State := endInvals (updPci s f (fun p => { p with tags := tdel p.tags tag })) f

/-- What a completion's status sets in the function's Status register and AER (R96). -/
def noteCpl (s : State) (f : Nat) : CplStatus → State
  | .ok => s
  | .ur => updPci s f (fun p => { p with rcvMAbort := true })
  | .ca => updPci s f (fun p => { p with rcvTAbort := true })
  | .poisoned => aer s f .poisonedTlp

/-- How a completion's status ends its read, if it does not end normally. -/
def cplEnd : CplStatus → Option ReadEnd
  | .ok => none
  | .ur => some .ur
  | .ca => some .ca
  | .poisoned => some .poison

/-- COMPLETION_RECEIVED: the last completion for a tag (R91, R94, R96, R97, R99). -/
def completion (s : State) (f tag : Nat) (st : CplStatus) : State :=
  match tfind (fnOf s f).pci.tags tag with
  | none => aer (cnt s f 0x218 1) f .unexpectedCompletion
  | some (.quarantined _) => cnt s f 0x200 1
  | some (.outstanding w _ stale _) =>
    let s1 := noteCpl (freeTagOf s f tag) f st
    resumeReads (if stale then endRead (cnt s1 f 0x208 1) f w .aborted
      else match cplEnd st with
        | none => s1
        | some e => endRead s1 f w e) f

/-- A Translation Request's normal answer is the command TRANSLATION_COMPLETION. -/
def isTranslation (s : State) (f tag : Nat) : Bool :=
  match tfind (fnOf s f).pci.tags tag with
  | some (.outstanding (.translation _ _) _ false _) => true
  | _ => false

def execCompletionReceived (f : Fin 16) (tag : Nat) (st : CplStatus) (s : State) : Host.Outcome State Fault Refusal :=
  occurs s (!(isTranslation s f.val tag && st == .ok)) "the completion is a Translation Completion" (completion s f.val tag st)

/-- COMPLETION_TIMEOUT_EXPIRY: AER, quarantine, and the owner's outcome (R91, R93, R94). -/
def timeout (s : State) (f tag : Nat) (w : ReadFor) (cto : Nat) : State :=
  let s1 := endInvals (updPci s f (fun p => { p with tags := tput p.tags tag (.quarantined (s.now + cto)) })) f
  endRead (aer (cnt s1 f 0x210 1) f .completionTimeout) f w .timeout

def execCompletionTimeoutExpiry (f : Fin 16) (tag : Nat) (s : State) : Host.Outcome State Fault Refusal :=
  match tfind (fnOf s f.val).pci.tags tag with
  | some (.outstanding w cto _ _) => done s (timeout s f.val tag w cto)
  | _ => .refused (.cannotOccur "the tag is not outstanding")

/-- TAG_QUARANTINE_EXPIRY: the tag is free again, and what waited for one goes on (R91, R92). -/
def quarantineEnd (s : State) (f tag until_ : Nat) : State :=
  resumeReads (freeTagOf (elapse s until_) f tag) f

def execTagQuarantineExpiry (f : Fin 16) (tag : Nat) (s : State) : Host.Outcome State Fault Refusal :=
  match tfind (fnOf s f.val).pci.tags tag with
  | some (.quarantined t) => done s (quarantineEnd s f.val tag t)
  | _ => .refused (.cannotOccur "the tag is not quarantined")

/-- An AtomicOp completes with Unsupported Request (R77, R96). -/
def execAtomicopReceived (f : Fin 16) (s : State) : Host.Outcome State Fault Refusal :=
  done s (aer (emit s (.unsupported f.val)) f.val .unsupportedRequest)

/-! ### BAR2 (R81, R82, R110) -/

/-- Bytes of BAR2 (R79). -/
def bar2Size : Nat := 2 ^ 36

/-- Every byte of a range lies in a page of tier H or C that answers. DESIGN CHOICE (log entry 131): R82 speaks of one target
page; an access that spans pages is a miss as a whole where one of them is. A page of a lost or excluded die counts as unmapped (R237, R640). -/
def onDevice (s : State) (asid dva n : Nat) (write : Bool) : Bool :=
  (List.range n).all (fun k => match leafOf s asid (dva + k) with
    | .mapped _ dpa w => (w || !write) && answers s dpa
    | _ => false)

/-- The ECC words of the device's memory behind a range of DVAs, in order. -/
def dvaWords (s : State) (asid dva n : Nat) : List Nat :=
  ((List.range n).filterMap (fun k => match leafOf s asid (dva + k) with
    | .mapped _ dpa _ => some (eccWord dpa)
    | _ => none)).foldl insertNew []

/-- A BAR2 read; an address behind the BAR is none of the function's (R79). Its words are classified as those of any read
(R240, R263); a poisoned one sets EP. -/
def bar2Read (s : State) (f off len : Nat) (seen : Seen) : State :=
  let dva := (fnOf s f).window + off
  let asid := asidOf f
  if bar2Size < off + len then s
  else if !barOn s f then refuseAccess (emit s (.unsupported f)) f
  else if isReady s && onDevice s asid dva len false then
    let r := readWords s seen (dvaWords s asid dva len)
    emit r.1 (.readData f (devRead s asid dva len) (!r.2.isEmpty))
  else emit (cnt s f 0x220 1) (.readData f (List.replicate len 0xFF) false)

def execBar2Read (f : Fin 16) (off len : Nat) (s : State) (seen : Seen := []) : Host.Outcome State Fault Refusal :=
  done s (bar2Read s f.val off len seen)

/-- A BAR2 write: stored word by word, or discarded and counted (R82, R245, R246). A poisoned write is reported through AER
and its data are not stored (R96; DEDUCED, log entry 30). -/
def bar2Write (s : State) (f : Fin 16) (off : Nat) (data : List Byte) (poisonedTlp : Bool) (seen : Seen) : State :=
  let dva := (fnOf s f.val).window + off
  if bar2Size < off + data.length then s
  else if !barOn s f.val then refuseAccess s f.val
  else if poisonedTlp then cnt (aer s f.val .poisonedTlp) f.val 0x220 1
  else if isReady s && onDevice s (asidOf f.val) dva data.length true then
    refused (.bar2 f) (storeDva s f.val dva data false false seen)
  else cnt s f.val 0x220 1

def execBar2Write (f : Fin 16) (off : Nat) (data : List Byte) (poisonedTlp : Bool) (s : State) (seen : Seen := []) :
    Host.Outcome State Fault Refusal := done s (bar2Write s f off data poisonedTlp seen)

/-! ### ATS and PRI (R85 to R88, R134, R289) -/

/-- INVALIDATION_REQUEST: the translation leaves the ATC, and the event queue and rings that hold it ask for it again; the
Invalidation Completion goes out behind the reads that used it (R85, R134). -/
def invalidate (s : State) (f itag pasid page : Nat) : State :=
  let s1 := { s with atc := s.atc.filter (fun e => e ≠ (f, pasid, page)) }
  let s2 := updPci (cnt s1 f 0x230 1) f (fun p => { p with invals := p.invals ++ [(itag, pasid, page)] })
  askLost (losePage (endInvals s2 f) f pasid page) f

def execInvalidationRequest (f : Fin 16) (itag pasid page : Nat) (s : State) : Host.Outcome State Fault Refusal :=
  done s (invalidate s f.val itag pasid page)

/-- The tag of an outstanding Translation Request, and whether BME was cleared since. -/
def translationTag (s : State) (f pasid page : Nat) : Option (Nat × Bool) :=
  (fnOf s f).pci.tags.findSome? (fun kv => match kv.2 with
    | .outstanding (.translation a b) _ stale _ => if a = pasid && b = page then some (kv.1, stale) else none
    | _ => none)

/-- A host page's translation has come: it is cached, what waited for it resumes, and the event queue and rings that it
serves go on (R134, R289). -/
def translationHeld (s : State) (f pasid page : Nat) : State :=
  flushWaiting (holdPage ((awaiting s f pasid page).foldl release (addAtc s f pasid page)) f pasid page) f

/-- TRANSLATION_COMPLETION: the translation is cached and the work goes on, or the page is not present (R289). -/
def translation (s : State) (f pasid page tag : Nat) (stale present : Bool) : State :=
  let s1 := freeTagOf s f tag
  resumeReads (
    if stale then cnt s1 f 0x208 1
    else if present then translationHeld s1 f pasid page
    else (awaiting s f pasid page).foldl notPresent s1) f

def execTranslationCompletion (f : Fin 16) (pasid page : Nat) (present : Bool) (s : State) :
    Host.Outcome State Fault Refusal :=
  match translationTag s f.val pasid page with
  | some (tag, stale) => done s (translation s f.val pasid page tag stale present)
  | none => .refused (.cannotOccur "no Translation Request of the page is outstanding")

/-- The fault records that wait on a Page Request of a host page. -/
def onPage (s : State) (f pasid page : Nat) : List FaultRec :=
  s.faults.filter (fun r => r.asid = asidOf f && r.cls = 3 && hostPage s r.asid r.dva = some (pasid, page))

/-- A Page Request of a host page is outstanding. -/
def pageAsked (s : State) (f pasid page : Nat) : Bool := (onPage s f pasid page).any (·.prSent)

/-- PRG_RESPONSE by its code (R87, R294): Success asks for the translation again. -/
def prgResponse (s : State) (f pasid page : Nat) (code : PrgCode) : State :=
  let l := onPage s f pasid page
  sendPages (match code with
    | .success => askTranslation (l.foldl (fun s r => updFault s r.asid r.dva (fun x => { x with
        cls := clsAwait, prSent := false, retried := false })) (cnt s f 0x410 1)) f pasid page
    | .invalid => l.foldl (fun s r => fatalFault s r stPermission) s
    | .failure =>
      (s.faults.filter (fun r => r.asid = asidOf f && r.cls = 3)).foldl (fun s r => fatalFault s r stPermission)
        (updPci s f (fun p => { p with priStopped := true }))) f

def execPrgResponse (f : Fin 16) (pasid page : Nat) (code : PrgCode) (s : State) : Host.Outcome State Fault Refusal :=
  occurs s (pageAsked s f.val pasid page) "no Page Request of the page is outstanding" (prgResponse s f.val pasid page code)

/-- No response within 1,000 ms: HOST_PAGE_TIMEOUT (R87). -/
def execPrgResponseTimeout (f : Fin 16) (pasid page : Nat) (s : State) : Host.Outcome State Fault Refusal :=
  occurs s (pageAsked s f.val pasid page) "no Page Request of the page is outstanding"
    (sendPages ((onPage s f.val pasid page).foldl (fun s r => fatalFault s r 0x15) s) f.val)

/-! ### The link (R76, R96, R113) -/

/-- A rate, width and mode that R76 lists. -/
def linkMode (speed width : Nat) (flit : Bool) : Bool :=
  decide (1 ≤ speed) && decide (speed ≤ 6) && [1, 2, 4, 8, 16].contains width && (flit || decide (speed < 6))

def execPcieLinkUp (speed width : Nat) (flit : Bool) (s : State) : Host.Outcome State Fault Refusal :=
  occurs s (s.pins.perstN && linkMode speed width flit) "no such link" { s with pcie := (speed, width, flit) }

/-- The AER class of an error that the PCIe controller detects, and whether the PF logs it (R96). -/
def rcvClass : RcvError → AerErr × Bool
  | .receiverError => (.receiverError, true)
  | .badTlp => (.badTlp, true)
  | .badDllp => (.badDllp, true)
  | .replayTimer => (.replayTimer, true)
  | .replayRollover => (.replayRollover, true)
  | .correctableInternal => (.correctableInternal, false)
  | .malformedTlp => (.malformedTlp, false)
  | .ecrc => (.ecrc, false)
  | .acsViolation => (.acsViolation, false)

def execReceiverError (f : Fin 16) (err : RcvError) (s : State) : Host.Outcome State Fault Refusal :=
  done s (aer s (if (rcvClass err).2 then 0 else f.val) (rcvClass err).1)

end Sys2Proof.Machine
end

