-- ==== Sys2Proof/Machine/Rings.lean ====
section
/-! DEFINITION. Rings, request descriptors and request control: rows DESCRIPTOR_FETCH to MSIX_HOLDOFF_EXPIRY and
ADMIT_HOLD_TIMEOUT (04 R132 to R151, 12 R385, 13 R399, R421, 14 R429, R430, R437, R438, 16 R473 to R499, 17 R517, 19
R579, R580). -/

namespace Sys2Proof.Machine

open Sys2Proof

/-! ### Request descriptors (R140, R385) -/

/-- The fields of a request descriptor. -/
def parseReq (b : List Byte) : ReqDesc :=
  { typ := field b 0 2, flags := BitVec.ofNat 16 (field b 2 2), priority := byteAt b 4, inRing := byteAt b 5,
    outRing := byteAt b 6, userTag := BitVec.ofNat 64 (field b 8 8), model := field b 16 4, grammar := field b 20 4,
    vocab := field b 24 4, ledger := field b 28 4, ttft := field b 32 4, tbt := field b 36 4, maxNew := field b 40 4,
    inStream := field b 44 2, outStream := field b 46 2, seed := BitVec.ofNat 64 (field b 48 8),
    temp := BitVec.ofNat 32 (field b 56 4), topP := BitVec.ofNat 32 (field b 60 4), minP := BitVec.ofNat 32 (field b 64 4),
    topK := field b 68 2, stopCount := byteAt b 70, stopDva := field b 72 8, ttl := field b 80 4 }

/-- TEMPERATURE in range (R385): +0.0, or from 0x3C23_D70A to 0x42C8_0000. -/
def tempOk (t : Word) : Bool := t = 0 || (decide (0x3C23D70A ≤ t.toNat) && decide (t.toNat ≤ 0x42C80000))
/-- TOP_P in range: above 0.0 and at most 1.0. -/
def topPOk (p : Word) : Bool := decide (0 < p.toNat) && decide (p.toNat ≤ 0x3F800000)
/-- MIN_P in range: 0.0 to 1.0, −0.0 included. -/
def minPOk (p : Word) : Bool := decide (p.toNat ≤ 0x3F800000) || p = 0x80000000

/-- Bytes of a descriptor as a check: whether one is nonzero, and the offset of the first. -/
def zeroCheck (b : List Byte) (off n : Nat) : Bool × Nat :=
  match firstNonzero b off n with
  | some i => (true, i)
  | none => (false, 0)

/-- The first offending byte of a SUBMIT (R137, R140, R385). -/
def submitErr (b : List Byte) : Option Nat :=
  let d := parseReq b
  firstBad [(decide (31 < byteAt b 2), 2), zeroCheck b 3 1, (decide (7 < d.priority), 4), (decide (63 < d.inRing), 5),
    (decide (63 < d.outRing), 6), zeroCheck b 7 1, zeroCheck b 28 4, (decide (d.maxNew = 0), 40), (!tempOk d.temp, 56),
    (!topPOk d.topP, 60), (!minPOk d.minP, 64), (decide (4096 < d.topK), 68), (decide (8 < d.stopCount), 70),
    zeroCheck b 71 1, (decide (d.stopCount = 0) && decide (d.stopDva ≠ 0), 72), (decide (86400 < d.ttl), 80),
    zeroCheck b 84 44]

/-- The first offending byte of a CANCEL, PAUSE, RESUME or CLOSE: every field but DESC_TYPE, CANCEL_DRAIN, USER_TAG and
LEDGER_INDEX is 0 (R140). -/
def controlErr (b : List Byte) : Option Nat :=
  firstBad [(byteAt b 2 ≠ 4 && byteAt b 2 ≠ 0, 2), zeroCheck b 3 1, zeroCheck b 4 4, zeroCheck b 16 12,
    (decide (31 < byteAt b 29), 29), zeroCheck b 30 2, zeroCheck b 32 96]

/-- A request descriptor checked. -/
def reqErr (b : List Byte) : Option Nat :=
  let t := field b 0 2
  if t = 1 then submitErr b else if 2 ≤ t ∧ t ≤ 5 then controlErr b else some 0

/-! ### Stream descriptors (R141, R421) -/

/-- A 32-bit field as a signed number. -/
def signed32 (v : Nat) : Int := if v < 2 ^ 31 then v else (v : Int) - 2 ^ 32

/-- The fields of a stream descriptor. -/
def parseStr (b : List Byte) : StrDesc :=
  let fl := byteAt b 1
  { typ := byteAt b 0, dims := bits fl 3 2 + 1, f64 := bit fl 1, endd := bit fl 0, stream := field b 2 2,
    length := field b 4 4, buffer := field b 8 8, table := field b 16 4,
    counts := (List.range 4).map (fun k => field b (24 + 8 * k) 4),
    strides := (List.range 4).map (fun k => signed32 (field b (28 + 8 * k) 4)) }

/-- The checks of one COUNT and STRIDE pair of a numeric descriptor. -/
def pairChecks (b : List Byte) (d : StrDesc) (k : Nat) : List (Bool × Nat) :=
  if k < d.dims then
    [(decide (d.counts.getD k 0 = 0), 24 + 8 * k), (decide (d.strides.getD k 0 % elemSize d ≠ 0), 28 + 8 * k)]
  else [zeroCheck b (24 + 8 * k) 8]

/-- A bin table that a function may use. -/
def tableUsable (s : State) (f h : Nat) : Bool :=
  match findObj s s.bins h with
  | some t => usableBy t.owner t.shared f
  | none => false

/-- A numeric descriptor's own checks: its walk and its table (R141, R188, R421, R430). -/
def numChecks (s : State) (f : Nat) (b : List Byte) (d : StrDesc) : List (Bool × Nat) :=
  [(decide (d.length ≠ 0), 4), (decide (d.buffer % elemSize d ≠ 0), 8), (!tableUsable s f d.table, 16),
    (decide (2 ^ 32 < elemCount d), 24)] ++ pairChecks b d 0 ++ pairChecks b d 1 ++ pairChecks b d 2 ++ pairChecks b d 3

/-- A text descriptor's own checks. -/
def textChecks (b : List Byte) (d : StrDesc) : List (Bool × Nat) :=
  [(decide (bits (byteAt b 1) 3 1 ≠ 0), 1), (decide (d.length = 0) || decide (16777216 < d.length), 4), zeroCheck b 16 4,
    zeroCheck b 24 32]

/-- A stream open on a ring for descriptors of a type. -/
def streamTakes (s : State) (f r : Nat) (d : StrDesc) : Bool :=
  match streamOf s f d.stream with
  | some x => x.kind = d.typ && x.ring = r
  | none => false

/-- The first offending byte of a stream descriptor fetched from a ring (R137, R195, R430). -/
def strErr (s : State) (f r : Nat) (b : List Byte) : Option Nat :=
  let d := parseStr b
  let own := if d.typ = 3 ∨ d.typ = 4 then numChecks s f b d else textChecks b d
  if d.typ + 1 ≠ ringTypeCode (ringOf s f r).typ then some 0
  else firstBad ([(decide (15 < byteAt b 1), 1), (!streamTakes s f r d, 2), zeroCheck b 20 4, zeroCheck b 56 8] ++ own)

/-! ### Consumption (R135 to R139, R147) -/

/-- The completion ring of a ring holds 256 records: its producers stop (R147). -/
def cplHeld (s : State) (f r : Nat) : Bool := (ringOf s f (cplOf s f r)).state == .held

/-- The front descriptor of a ring is consumed. -/
def popDesc (s : State) (f r : Nat) : State :=
  updRing s f r (fun g => { g with
    fetched := g.fetched.drop 1, cons := (g.cons + 1) % 2 ^ 32, wbDue := true, submitAt := none })

/-- The ring of an ID whose descriptors are next: one closed and opened again keeps what it had fetched apart (R139). -/
def frontRing (s : State) (f r : Nat) : Nat :=
  (((fnOf s f).rings.find? (fun kv => decide (kv.1 % 64 = r) && decide (r < kv.1) && !kv.2.fetched.isEmpty)).map (·.1)).getD r

/-- A DESC_ERROR record (R137). -/
def descError (s : State) (f r idx detail : Nat) (tag : DWord) : State :=
  record (cnt s f 0x318 1) f (cplOf s f r)
    { kind := 7, status := 0x17, srcRing := r % 64, srcIndex := idx, userTag := tag, detail := detail }

/-- Rejected descriptors at the front of a ring are reported while its completion ring takes records; `fuel` bounds
them. -/
def skipBad (s : State) (f r : Nat) : Nat → State
  | 0 => s
  | fuel + 1 =>
    match (ringOf s f r).fetched with
    | .bad idx detail tag _ :: _ => if cplHeld s f r then s else skipBad (descError (popDesc s f r) f r idx detail tag) f r fuel
    | _ => s

/-- A ring goes on: rejected descriptors are reported and more are fetched. -/
def runRing (s : State) (f r : Nat) : State := startFetch (skipBad s f r (ringOf s f r).fetched.length) f r

/-- Every host-produced ring of a function goes on. -/
def runRings (s : State) (f : Nat) : State := (fnOf s f).rings.foldl (fun s kv => runRing s f kv.1) s

/-- The front descriptor consumed, and the ring goes on. -/
def consumed (s : State) (f r : Nat) : State := runRing (popDesc s f r) f r

/-! ### DESCRIPTOR_FETCH (R137) -/

/-- One fetched descriptor, checked. -/
def fetchDesc (s : State) (f r idx : Nat) (b : List Byte) : Desc :=
  if (ringOf s f r).typ = .req then
    match reqErr b with
    | some d => .bad idx d (BitVec.ofNat 64 (field b 8 8)) 0
    | none => .req idx (parseReq b)
  else
    match strErr s f r b with
    | some d => .bad idx d 0 0
    | none => .str idx (parseStr b)

/-- Fetched descriptors of consecutive indexes. -/
def fetchDescs (s : State) (f r size : Nat) : Nat → Nat → List Byte → List Desc
  | 0, _, _ => []
  | n + 1, idx, b => fetchDesc s f r idx (padTo size (b.take size)) :: fetchDescs s f r size n ((idx + 1) % 2 ^ 32) (b.drop size)

/-- Descriptors that the bytes of a fetch hold. -/
def fetchedCount (g : Ring) (b : List Byte) : Nat := min (fetchCount g) (b.length / entrySize g.typ)

/-- A fetch completes: a further one may time out once again. -/
def descriptorFetch (s : State) (f r : Nat) (b : List Byte) : State :=
  let g := ringOf s f r
  let n := fetchedCount g b
  runRing (updRing s f r (fun x => { x with
    fetching := false, refetched := false, fetchIdx := (x.fetchIdx + n) % 2 ^ 32,
    fetched := x.fetched ++ fetchDescs s f r (entrySize g.typ) n g.fetchIdx b })) f r

def execDescriptorFetch (f : Fin 16) (ring : Fin 64) (data : List Byte) (s : State) : Host.Outcome State Fault Refusal :=
  let g := ringOf s f.val ring.val
  occurs s (g.fetching && g.state == .running && !fetchOut s f.val ring.val && decide (0 < fetchedCount g data)) "no fetch completes"
    (descriptorFetch s f.val ring.val data)

/-! ### SUBMIT (R473 to R477) -/

/-- A SUBMIT at the front of a ring. -/
def frontReq (s : State) (f r : Nat) : Option (Nat × ReqDesc) :=
  match (ringOf s f r).fetched with
  | .req idx d :: _ => some (idx, d)
  | _ => none

/-- The bytes of the stop-string table: the device's memory, and the host read's bytes where a page lies in tier X. -/
def stopBytes (s : State) (f dva : Nat) (host : List Byte) : Nat → Nat → List Byte
  | _, 0 => []
  | k, n + 1 => (match leafOf s (asidOf f) (dva + k) with
    | .mapped _ dpa _ => cellRead s.mem dpa
    | _ => host.getD k 0) :: stopBytes s f dva host (k + 1) n

/-- What the read of a range finds (R438): a byte that does not map, or that is poisoned; and whether the host holds
some of it. -/
def spanBad (s : State) (f dva n : Nat) : Bool :=
  (List.range n).any (fun k => match leafOf s (asidOf f) (dva + k) with
    | .mapped _ dpa _ => isPoisoned s dpa
    | .host _ _ _ => false
    | _ => true)
def spanHost (s : State) (f dva n : Nat) : Bool :=
  (List.range n).any (fun k => match leafOf s (asidOf f) (dva + k) with
    | .host _ _ _ => true
    | _ => false)

/-- One entry of the stop-string table (R437). -/
def stopEntry (b : List Byte) : Option (List Byte) :=
  let n := byteAt b 0
  if n = 0 ∨ 64 < n ∨ ¬ zeroAt b 1 7 ∨ ¬ zeroAt b (8 + n) (64 - n) then none else some ((b.drop 8).take n)

/-- The entries of the table, unless one breaks its layout. -/
def stopTable (b : List Byte) : Nat → Option (List (List Byte))
  | 0 => some []
  | n + 1 =>
    match stopEntry (b.take 72), stopTable (b.drop 72) n with
    | some x, some rest => some (x :: rest)
    | _, _ => none

/-- The stop strings of a SUBMIT, or none where R438 rejects it. -/
def readStops (s : State) (f : Nat) (d : ReqDesc) (read : HostRead) : Option (List (List Byte)) :=
  let n := 72 * d.stopCount
  if d.stopCount = 0 then some []
  else if d.stopDva % 8 ≠ 0 || spanBad s f d.stopDva n then none
  else match read with
    | .bytes host => stopTable (stopBytes s f d.stopDva host 0 n) d.stopCount
    | .failed _ => if spanHost s f d.stopDva n then none else stopTable (stopBytes s f d.stopDva [] 0 n) d.stopCount

/-- A SUBMIT's output stream fits (R429). -/
def outOk (s : State) (f : Nat) (d : ReqDesc) : Bool :=
  match streamOf s f d.outStream with
  | some x => x.kind = (if d.flags.getLsbD 4 then 4 else 2) && x.ring = d.outRing
  | none => false

/-- A die of a model's group is gone (R474). -/
def dieGone (s : State) (d : Nat) : Bool :=
  let st := (dieOf s d).state
  st == .lost || st == .excluded || st == .absent || st == .rejoining

/-- The model, vocabulary and grammar handles of a SUBMIT after its function's maps (R470, R594). -/
def submitVocab (s : State) (f : Nat) (d : ReqDesc) : Nat :=
  let h := mapHandle s s.conf.newest idVocabMap f d.vocab
  if h = 0 then (tget (default : Model) s.models d.model).vocab else h
def submitGrammar (s : State) (f : Nat) (d : ReqDesc) : Nat := mapHandle s s.conf.newest idGrammarMap f d.grammar

/-- The model of a SUBMIT may be used and can run. -/
def modelOk (s : State) (f : Nat) (d : ReqDesc) : Bool :=
  match findObj s s.models d.model with
  | some m => usableBy m.owner m.shared f && !m.unusable && !(groupDies m).any (dieGone s)
  | none => false

/-- A vocabulary image that a function may use: an embedded one goes with its model. -/
def vocabOk (s : State) (f : Nat) (d : ReqDesc) (h : Nat) : Bool :=
  match findObj s s.vocabs h with
  | some v => usableBy v.owner v.shared f || (tget (default : Model) s.models d.model).vocab = h
  | none => false

/-- The grammar of a SUBMIT, if it names one, may be used and is compiled against its vocabulary (R455). -/
def grammarOk (s : State) (f h vocab : Nat) : Bool :=
  h = 0 || match findObj s s.grammars h with
    | some g => usableBy g.owner g.shared f && gramMatches g.header (vocabBytes s vocab)
    | none => false

/-- The input stream of a SUBMIT is open on its ring, and a text stream's vocabulary agrees (R400, R474). -/
def inOk (s : State) (f : Nat) (d : ReqDesc) (vocab : Nat) : Bool :=
  match streamOf s f d.inStream with
  | some x => (x.kind = 1 || x.kind = 3) && x.ring = d.inRing && !(x.kind = 1 && x.vocab ≠ 0 && x.vocab ≠ vocab)
  | none => false

/-- A text output stream's vocabulary agrees (R429). -/
def outVocabOk (s : State) (f : Nat) (d : ReqDesc) (vocab : Nat) : Bool :=
  match streamOf s f d.outStream with
  | some x => !(x.kind = 2 && x.vocab ≠ 0 && x.vocab ≠ vocab)
  | none => false

/-- The handle and stream checks of R474. -/
def handlesOk (s : State) (f : Nat) (d : ReqDesc) : Bool :=
  let v := submitVocab s f d
  modelOk s f d && vocabOk s f d v && grammarOk s f (submitGrammar s f d) v && inOk s f d v && outVocabOk s f d v

/-- MAX_NEW_TOKENS under MAX_NEW_CAP (R593). -/
def submitMaxNew (s : State) (f : Nat) (d : ReqDesc) : Nat :=
  let cap := itemBound s s.conf.newest idMaxNew f
  if cap = 0 then d.maxNew else min d.maxNew cap

/-- Generated tokens that the estimate counts, and the estimate itself (R579). -/
def submitGen (s : State) (f : Nat) (d : ReqDesc) : Nat := min (submitMaxNew s f d) (itemNow s idAdmitGen 0)
def submitEst (s : State) (f : Nat) (d : ReqDesc) : Nat :=
  let m := (tget (default : Model) s.models d.model).image
  (m.prefillNj * heldTokens s f d.inStream (submitVocab s f d) + m.decodeNj * submitGen s f d) / 1000

/-- The energy backlog of the requests that meet a condition (R579). -/
def backlog (s : State) (p : Entry → Bool) : Nat :=
  ((s.ledger.filter (fun kv => live kv.2.state && p kv.2)).map (fun kv =>
    (entXOf s kv.1).energyEst - (entXOf s kv.1).energy)).sum

/-- Admission by energy holds a SUBMIT (R580). -/
def energyHold (s : State) (f est : Nat) : Bool :=
  let sec := itemNow s idAdmitEnergy 0
  let cap := itemNow s idEnergyCap f
  decide (0 < sec) && (decide (sec * 980000 * s.energy.effW < backlog s (fun _ => true) + est) ||
    (decide (cap ≠ 0) && decide (sec * 1000 * cap < backlog s (fun e => e.b.fn = f) + est)))

/-- The tenant's bucket paces it (R517). -/
def bucketEmpty (s : State) (f : Nat) : Bool :=
  tokenBudget s && decide (bucketRate s f ≠ 0) && decide ((fnOf s f).bucket ≤ 0)

/-- A policy holds a SUBMIT (R475). -/
def policyHold (s : State) (f : Nat) (d : ReqDesc) : Bool := bucketEmpty s f || energyHold s f (submitEst s f d)

/-- The lowest FREE ledger entry (R476). -/
def freeEntryIdx (s : State) : Option Nat :=
  (List.range (min 8192 (s.ledger.length + 1))).find? (fun i => (entOf s i).state == .free)

/-- A REFUSED record. -/
def refuse (s : State) (f r idx status : Nat) (d : ReqDesc) : State :=
  record (popDesc s f r) f (cplOf s f r)
    { kind := 2, status := status, srcRing := r % 64, srcIndex := idx, userTag := d.userTag }

/-- What an admitted request is bound to (R470, R476, R477, R593). -/
def bindOf (s : State) (f r idx : Nat) (d : ReqDesc) (stops : List (List Byte)) : ReqBind :=
  let g := s.conf.newest
  { fn := f, reqRing := r % 64, reqIndex := idx, cplRing := cplOf s f r, priority := d.priority,
    flags := if itemBound s g idFastAllow f = 0 then setBit d.flags 0 false else d.flags, gen := g, userTag := d.userTag,
    model := d.model, grammar := submitGrammar s f d, vocab := submitVocab s f d, inRing := d.inRing, outRing := d.outRing,
    ttft := d.ttft, tbt := d.tbt, maxNew := submitMaxNew s f d, inStream := d.inStream, outStream := d.outStream,
    ttl := if d.ttl = 0 then itemBound s g idTtl 0 else d.ttl, seed := d.seed, temp := d.temp, topP := d.topP,
    minP := d.minP, topK := d.topK, stops := stops }

/-- The smallest virtual time among tenants with live requests (R519). -/
def leastV (s : State) : Option Nat :=
  (s.ledger.filter (fun kv => live kv.2.state)).foldl (fun m kv =>
    let v := (fnOf s kv.2.b.fn).virtualTime
    some (match m with
      | some x => min x v
      | none => v)) none

/-- A tenant that gains a live request after having none takes up the virtual time of the others (R519). -/
def joinV (s : State) (f : Nat) : State :=
  if s.ledger.any (fun kv => live kv.2.state && kv.2.b.fn = f) then s
  else match leastV s with
    | some v => updFn s f (fun x => { x with virtualTime := max x.virtualTime v })
    | none => s

/-- A SUBMIT admitted into entry `i`: bound, recorded, charged what its run holds now, and given its run (R396, R476,
R516). -/
def admitRequest (s : State) (f r idx i : Nat) (d : ReqDesc) (stops : List (List Byte)) : State :=
  let b := bindOf s f r idx d stops
  let held := heldTokens s f d.inStream b.vocab
  let est := submitEst s f d
  let start := field (tget (default : Grammar) s.grammars b.grammar).header 32 4
  let s1 := popDesc (joinV s f) f r
  let s2 := { s1 with
    ledger := tput s1.ledger i { state := .admitted, b := b, admitTime := s.now, drainMode := flagDrain b },
    ledgerX := tput s1.ledgerX i { energyEst := est, estGen := submitGen s f d, runsOn := d.model, automaton := start } }
  let s3 := record s2 f b.cplRing
    { kind := 1, srcRing := r % 64, srcIndex := idx, ledger := i, userTag := d.userTag }
  let s4 := charge (growHistory s3 i) i (-(held : Int)) held 0
  takeRun (updStream s4 f d.outStream (fun x => { x with takers := x.takers ++ [i] })) i

/-- The reads of a SUBMIT's stop table. -/
def stopReads (s : State) (f : Nat) (d : ReqDesc) : List (Nat × Nat) := spanReads s f [(d.stopDva, 72 * d.stopCount)]

/-- A stop table's reads may go: BME is set, every page has its translation, and a tag is free for each (R92, R98). -/
def stopsMayGo (s : State) (f : Nat) (d : ReqDesc) : Bool :=
  (stopReads s f d).isEmpty || (busOn s f && readsTranslated s f (stopReads s f d) &&
    decide ((stopReads s f d).length ≤ freeTagCount s f))

/-- What a stop table's reads leave behind: where they fail, as any host read (R94, R96). -/
def noteStops (s : State) (f : Nat) (d : ReqDesc) : HostRead → State
  | .failed st => if (stopReads s f d).isEmpty then s else noteRead s f st
  | .bytes _ => s

/-- SUBMIT at the front of its ring: it waits while the ledger is full, its completion ring holds 256 records or its
stop table lies where no request may be issued; else it is rejected, refused, held or admitted, in that order (R98,
R147, R150, R473 to R476). -/
def submit (s : State) (f r idx : Nat) (d : ReqDesc) (read : HostRead) : State :=
  let wait := cplHeld s f r || !stopsMayGo s f d
  match freeEntryIdx s with
  | none => s
  | some i =>
    if wait then s
    else if !outOk s f d then runRing (descError (popDesc s f r) f r idx 46 d.userTag) f r
    else match readStops s f d read with
      | none => runRing (descError (popDesc (noteStops s f d read) f r) f r idx 72 d.userTag) f r
      | some stops =>
        if !handlesOk s f d then runRing (refuse s f r idx stHandleInvalid d) f r
        else if policyHold s f d then
          if itemNow s idAdmitHold 0 = 0 then runRing (refuse s f r idx 0x301 d) f r
          else updRing s f r (fun g => { g with submitAt := some (g.submitAt.getD s.now) })
        else runRing (admitRequest s f r idx i d stops) f r

def execSubmit (f : Fin 16) (ring : Fin 64) (stops : HostRead) (s : State) : Host.Outcome State Fault Refusal :=
  let r := frontRing s f.val ring.val
  match frontReq s f.val r with
  | some (idx, d) => occurs s (decide (d.typ = 1)) "no SUBMIT is next" (submit s f.val r idx d stops)
  | none => .refused (.cannotOccur "no SUBMIT is next")

/-- A SUBMIT held for ADMIT_HOLD_MS is consumed and refused with ADMIT_SHED (R517, R580). -/
def holdTimeout (s : State) (f r idx at_ : Nat) (d : ReqDesc) : State :=
  runRing (refuse (elapse s (at_ + 1000 * itemNow s idAdmitHold 0)) f r idx 0x301 d) f r

def execAdmitHoldTimeout (f : Fin 16) (ring : Fin 64) (s : State) : Host.Outcome State Fault Refusal :=
  let r := frontRing s f.val ring.val
  match frontReq s f.val r, (ringOf s f.val r).submitAt with
  | some (idx, d), some t => occurs s (policyHold s f.val d && !cplHeld s f.val r) "no policy holds the SUBMIT"
      (holdTimeout s f.val r idx t d)
  | _, _ => .refused (.cannotOccur "no SUBMIT is held")

/-! ### Control descriptors (R487 to R499) -/

/-- The request that a control descriptor names (R499). -/
def controlTarget (s : State) (f : Nat) (d : ReqDesc) : Option Nat :=
  let e := entOf s d.ledger
  if live e.state && e.b.fn = f && e.b.userTag = d.userTag then some d.ledger else none

/-- A control descriptor leaves its ring with a CONTROL_DONE record (R144). -/
def controlDone (s : State) (f r idx : Nat) (d : ReqDesc) (status : Nat) : State :=
  record (popDesc s f r) f (cplOf s f r)
    { kind := 3, status := status, srcRing := r % 64, srcIndex := idx, ledger := d.ledger, userTag := d.userTag }

/-- A control descriptor consumed: CONTROL_DONE, then its effect. -/
def control (s : State) (f r idx : Nat) (d : ReqDesc) (act : State → Nat → State) : State :=
  if cplHeld s f r then s
  else runRing (match controlTarget s f d with
    | some i => act (controlDone s f r idx d 0) i
    | none => controlDone s f r idx d stHandleInvalid) f r

/-- The answer of a control row: its descriptor is next on the ring. -/
def runControl (s : State) (f r typ : Nat) (act : State → ReqDesc → Nat → State) : Host.Outcome State Fault Refusal :=
  let k := frontRing s f r
  match frontReq s f k with
  | some (idx, d) => occurs s (decide (d.typ = typ)) "no such descriptor is next" (control s f k idx d (fun s i => act s d i))
  | none => .refused (.cannotOccur "no such descriptor is next")

/-- An IMMEDIATE end: forced to drain a prefill that others wait on, squashed at the next layer boundary, or over at
once (R494, R495). -/
def endNow (s : State) (i : Nat) : State :=
  let e := entOf s i
  let filling := e.state == .admitted || e.state == .prefill || (e.state == .draining && !kvComplete s i)
  if filling && !(entXOf s i).prefixWaiters.isEmpty then
    updEnt s i (fun x => { x with state := .cancelling, forced := true, pauseDue := false })
  else if (entXOf s i).inStep then updEnt s i (fun x => { x with state := .cancelling, squash := true, pauseDue := false })
  else cancelled (dropFaultsOf s i none) i

/-- A DRAIN cancel takes effect (R446, R494, R496). -/
def startDrain (s : State) (i : Nat) : State :=
  drainOutput (updEnt s i (fun x => { x with state := .draining, pauseDue := false })) i

/-- CANCEL, and CLOSE of a running request (R494, R498). -/
def cancelReq (s : State) (i : Nat) (drain close : Bool) : State :=
  match (entOf s i).state with
  | .pausedHot | .pausedPool | .expired => cancelled (dropFaultsOf s i none) i
  | .draining => if close && !drain then endNow s i else s
  | .admitted | .prefill | .ready | .decode => if drain then startDrain s i else endNow s i
  | _ => s

/-- CANCEL_DRAIN of a descriptor. -/
def descDrain (d : ReqDesc) : Bool := d.flags.getLsbD 2

def execCancel (f : Fin 16) (ring : Fin 64) (s : State) : Host.Outcome State Fault Refusal :=
  runControl s f.val ring.val 2 (fun s d i => cancelReq s i (descDrain d || (entOf s i).drainMode) false)

/-- PAUSE (R487 to R489): HOST_PAUSE is set; a running request pauses, and one that the scheduler has paused starts its
Tidepool move. -/
def hostPause (s : State) (i : Nat) : State :=
  let e := entOf s i
  let s1 := updEnt s i (fun x => { x with hostPause := true })
  if e.hostPause then s1
  else if paused e.state then
    let s2 := updEnt s1 i (fun x => { x with hostAt := s.now })
    if e.state == .pausedHot then startMove s2 i else s2
  else if e.state == .cancelling || e.state == .draining then s1
  else askPause s1 i

def execPause (f : Fin 16) (ring : Fin 64) (s : State) : Host.Outcome State Fault Refusal :=
  runControl s f.val ring.val 3 (fun s _ i => hostPause s i)

/-- RESUME (R491, R493). -/
def hostResume (s : State) (i : Nat) : State :=
  let e := entOf s i
  if !e.hostPause then s
  else
    let s1 := updEnt s i (fun x => { x with hostPause := false, pauseDue := x.pauseDue && x.schedPause })
    if !paused e.state then s1
    else
      let s2 := endHostTime s1 i
      if e.schedPause then s2 else wake s2 i

def execResume (f : Fin 16) (ring : Fin 64) (s : State) : Host.Outcome State Fault Refusal :=
  runControl s f.val ring.val 4 (fun s _ i => hostResume s i)

def execClose (f : Fin 16) (ring : Fin 64) (s : State) : Host.Outcome State Fault Refusal :=
  runControl s f.val ring.val 5 (fun s d i => cancelReq s i (descDrain d) true)

/-! ### Stream descriptors consumed (R399, R430) -/

/-- A stream descriptor at the front of a ring. -/
def frontStr (s : State) (f r : Nat) : Option (Nat × StrDesc) :=
  match (ringOf s f r).fetched with
  | .str idx d :: _ => some (idx, d)
  | _ => none

/-- Runs of a stream whose END descriptor has been consumed and that no request has taken. -/
def untakenRuns (x : Stream) : Nat := x.runs.length + ((x.queue.filter (·.2.endd)).length - x.takers.length)

/-- The next descriptor begins a run. -/
def beginsRun (x : Stream) : Bool :=
  match x.queue.getLast? with
  | some q => q.2.endd
  | none => !x.started

/-- Requests that wait for a run whose first descriptor has not been consumed. -/
def runWanted (x : Stream) : Bool := decide ((x.queue.filter (·.2.endd)).length < x.takers.length)

/-- The ring's consumption stops at an input descriptor (R399). -/
def inputHeld (x : Stream) : Bool :=
  beginsRun x && !runWanted x && ((x.kind = 1 && x.vocab = 0) || decide (5 ≤ untakenRuns x))

/-- An input descriptor joins its stream's queue, or waits (R399); one whose stream has gone is rejected. -/
def inputTake (s : State) (f r idx : Nat) (d : StrDesc) : State :=
  if cplHeld s f r then s
  else match streamOf s f d.stream with
    | none => runRing (descError (popDesc s f r) f r idx 2 0) f r
    | some x =>
      if inputHeld x then s
      else consumed (updStream s f d.stream (fun y => { y with queue := y.queue ++ [(idx, d)] })) f r

/-- An output buffer joins its stream's queue of at most 16, or waits (R430), and waiting output goes into it. -/
def outputTake (s : State) (f r idx : Nat) (d : StrDesc) : State :=
  if cplHeld s f r then s
  else match streamOf s f d.stream with
    | none => runRing (descError (popDesc s f r) f r idx 2 0) f r
    | some x =>
      if 16 ≤ x.queue.length then s
      else
        let s1 := updStream (popDesc s f r) f d.stream (fun y => { y with queue := y.queue ++ [(idx, d)] })
        runRing (serveOutput s1 f d.stream (x.takers.length + 1)) f r

/-- The answer of a stream row: a descriptor of its type is next on the ring. -/
def runStream (s : State) (f r typ : Nat) (act : Nat → Nat → StrDesc → State) : Host.Outcome State Fault Refusal :=
  let k := frontRing s f r
  match frontStr s f k with
  | some (idx, d) => occurs s (decide (d.typ = typ)) "no such descriptor is next" (act k idx d)
  | none => .refused (.cannotOccur "no such descriptor is next")

def execTextIn (f : Fin 16) (ring : Fin 64) (s : State) : Host.Outcome State Fault Refusal :=
  runStream s f.val ring.val 1 (inputTake s f.val)

def execNumIn (f : Fin 16) (ring : Fin 64) (s : State) : Host.Outcome State Fault Refusal :=
  runStream s f.val ring.val 3 (inputTake s f.val)

def execTextOut (f : Fin 16) (ring : Fin 64) (s : State) : Host.Outcome State Fault Refusal :=
  runStream s f.val ring.val 2 (outputTake s f.val)

def execNumOut (f : Fin 16) (ring : Fin 64) (s : State) : Host.Outcome State Fault Refusal :=
  runStream s f.val ring.val 4 (outputTake s f.val)

/-! ### Doorbells, write-backs and hold-offs -/

/-- A host-produced ring's new producer index is valid (R135). -/
def prodValid (g : Ring) (v : Nat) : Bool :=
  decide (sub32 v g.prod ≤ 2 ^ g.sizeLog2) && decide (sub32 v g.cons ≤ 2 ^ g.sizeLog2)
/-- A consumer index of entries that the VX3 produces is valid: it stays between CONS and PROD (R135, R151; DEDUCED, log
entry 31). -/
def consValid (size prod cons v : Nat) : Bool := decide (sub32 v cons ≤ size) && decide (sub32 prod v ≤ size)

/-- Room on a completion ring: held records are written and its producers resume (R147). -/
def returnEntries (s : State) (f r v : Nat) : State :=
  runRings (flushRing (updRing s f r (fun g => { g with cons := v })) f r) f

/-- A doorbell of a stopped ring: a valid index is taken and nothing follows, any other is counted; the ring keeps the
cause of its stop (R135, R138; log entry 77). -/
def stoppedDoorbell (s : State) (f r v : Nat) : State :=
  let g := ringOf s f r
  if g.typ = .cpl then
    if v = g.cons then s
    else if consValid (2 ^ g.sizeLog2) g.prod g.cons v then updRing s f r (fun x => { x with cons := v }) else cnt s f 0x300 1
  else if v = g.prod then s
  else if prodValid g v then updRing s f r (fun x => { x with prod := v }) else cnt s f 0x300 1

/-- DB_RING_WRITE (R135). DESIGN CHOICE (log entry 132): a write of the current value, which R135 says does nothing, is not
counted in CNT_DB_IGNORED; R163 counts doorbells that had no effect, and R135 says where it counts. -/
def ringDoorbell (s : State) (f r v : Nat) : State :=
  let g := ringOf s f r
  if !barOn s f then refuseAccess s f
  else if !(fnOf s f).opened || (fnOf s f).flrBusy || g.state == .closed then cnt s f 0x300 1
  else if g.state == .stopped then stoppedDoorbell s f r v
  else if g.typ = .cpl then
    if v = g.cons then s
    else if consValid (2 ^ g.sizeLog2) g.prod g.cons v then returnEntries s f r v
    else stopRing (cnt s f 0x300 1) f r causeIndex
  else if v = g.prod then s
  else if prodValid g v then runRing (updRing s f r (fun x => { x with prod := v })) f r
  else stopRing (cnt s f 0x300 1) f r causeIndex

def execDbRingWrite (f : Fin 16) (ring : Fin 64) (value : Word) (s : State) : Host.Outcome State Fault Refusal :=
  done s (ringDoorbell s f.val ring.val value.toNat)

/-- EVQ_CONS_WRITE (R151). -/
def evqCons (s : State) (f v : Nat) : State :=
  let q := (fnOf s f).evq
  if !barOn s f then refuseAccess s f
  else if q.opened && consValid (2 ^ q.sizeLog2) q.prod q.cons v then
    updFn s f (fun x => { x with evq := { x.evq with cons := v } })
  else cnt s f 0x300 1

def execEvqConsWrite (f : Fin 16) (value : Word) (s : State) : Host.Outcome State Fault Refusal :=
  done s (evqCons s f.val value.toNat)

/-- WRITEBACK_UPDATE: the index goes to the write-back word, or waits in its turn while the function may issue no
request or the word's page awaits its translation (R100, R134, R136); a page that allows no write stops the ring (R288). -/
def writebackUpdate (s : State) (f r : Nat) : State :=
  if busOn s f && (fnOf s f).waiting.isEmpty && itemHeld s f (.writeback r) then
    if ringWritable s f (ringOf s f r).wb then writeBack s f r
    else updRing (stopRing s f r 3) f r (fun g => { g with wbDue := false })
  else updFn (updRing s f r (fun g => { g with wbDue := false })) f (fun x => { x with waiting := x.waiting ++ [.writeback r] })

def execWritebackUpdate (f : Fin 16) (ring : Fin 64) (s : State) : Host.Outcome State Fault Refusal :=
  occurs s ((ringOf s f.val ring.val).wbDue && !((ringOf s f.val ring.val).state == .closed)) "no index has changed"
    (writebackUpdate s f.val ring.val)

/-- MSIX_HOLDOFF_EXPIRY: the hold-off of a completion ring's first unsignalled record has passed (R157). -/
def holdoffEnd (s : State) (f r : Nat) : State :=
  let g := ringOf s f r
  fireVector (updRing (elapse s (g.unsigAt + g.holdoff)) f r (fun g => { g with unsig := 0 })) f g.vector

def execMsixHoldoffExpiry (f : Fin 16) (ring : Fin 64) (s : State) : Host.Outcome State Fault Refusal :=
  let g := ringOf s f.val ring.val
  occurs s (g.typ == .cpl && !(g.state == .closed) && decide (0 < g.unsig)) "no record is unsignalled"
    (holdoffEnd s f.val ring.val)

end Sys2Proof.Machine
end

