-- ==== Sys2Proof/Machine/Banks.lean ====
section
/-! DEFINITION. Scratchpad banks: accesses and their check, handovers, seizures and marches (09 R297 to R318, 05
R204, 06 R230, R231). -/

namespace Sys2Proof.Machine

open Sys2Proof

/-! ### Accesses (R297, R301, R311, R312) -/

/-- The step in flight that a request is in. -/
def stepOf (s : State) (i : Nat) : Option Nat := (s.steps.find? (fun kv => kv.2.members.any (fun m => m.1 = i))).map (·.1)

/-- A permission fault of a bank access: counted for the function of its owner code, it fails every request of the
step, or ends the stream's descriptor (R288, R301). -/
def bankFault (s : State) (a : BankAcc) : State :=
  let s1 := cnt s (if a.code < 16 then a.code else 0) 0x418 1
  match a.by_ with
  | .step i =>
    (match stepOf s1 i with
    | none => s1
    | some id => (tget (default : Step) s1.steps id).members.foldl (fun s m =>
        failReq (leaveStep (dropFaultsOf s m.1 none) id m.1) m.1 stPermission) s1)
  | .dma f st =>
    (match streamOf s1 f st with
    | none => s1
    | some x =>
      if x.kind % 2 = 1 then finishIn s1 f st stPermission x.done none
      else outFail s1 f st (x.takers.headD noLedger) stPermission)
  | _ => s1

/-- A write's words handled one by one: each word that can be written is written, and the writer is told once of those
that refuse their part (R245, R246, R248, R312). -/
def bankWrite (s : State) (addr : Nat) (b : List Byte) (w : Writer) (seen : Seen) : State := refused w (storeAt s addr b seen)

/-- A read's words classified; the first poisoned one is consumed by its reader (R240, R262). -/
def bankRead (s : State) (addr len : Nat) (w : Writer) (seen : Seen) : State :=
  let r := readWords s seen (wordsAt addr len)
  match r.2 with
  | [] => r.1
  | word :: _ =>
    match w with
    | .step i => (match stepOf r.1 i with
      | some id => stepConsumes r.1 word id i
      | none => r.1)
    | .dma f st => consume r.1 word (.dma f (((streamOf r.1 f st).getD ({} : Stream)).takers.headD noLedger))
    | _ => r.1

/-- Port cycles of an aligned access of whole rows: one a row (R297). -/
def rowCycles (off n : Nat) : Option Nat := if off % 64 = 0 ∧ n % 64 = 0 then some (n / 64) else none
/-- The rows of a bank that an access of `n` bytes touches. -/
def rowsTouched (off n : Nat) : List Nat :=
  if n = 0 then [] else (List.range ((off + n - 1) / 64 - off / 64 + 1)).map (off / 64 + ·)
/-- A row holds a word that a write covers only in part. -/
def rowPartial (off n row : Nat) : Bool :=
  (off / 64 = row && off % 8 ≠ 0) || ((off + n - 1) / 64 = row && (off + n) % 8 ≠ 0)
/-- Port cycles of an access (R297, R311). -/
def portCycles (off n : Nat) (write : Bool) : Nat :=
  match rowCycles off n with
  | some c => c
  | none =>
    let rows := rowsTouched off n
    if write then
      1 + (rows.filter (fun r => !rowPartial off n r)).length + 2 * (rows.filter (rowPartial off n)).length
    else rows.length + 1

/-- An access to a bank: served for its owner, waiting for the handover that makes its code the owner, a permission
fault otherwise (R301). -/
def bankAccess (s : State) (d b : Nat) (a : BankAcc) : State :=
  let x := bankOf s d b
  if x.state == .owned && x.owner = a.code then
    match a.data with
    | some l => bankWrite s (bankBase d b + a.off) l a.by_ a.seen
    | none => bankRead s (bankBase d b + a.off) a.len a.by_ a.seen
  else if x.state == .inHandover && x.next = a.code then updBank s d b (fun y => { y with waits := y.waits ++ [a] })
  else bankFault s a

def execBankAccess (die : Fin 5) (bank off : Nat) (data : Option (List Byte)) (len code : Nat) (by_ : Writer) (s : State)
    (seen : Seen := []) : Host.Outcome State Fault Refusal :=
  occurs s (decide (bank < bankCount die.val) && decide (0 < len) && decide (off + len ≤ 0x20000) &&
      (data.map (fun l => decide (l.length = len))).getD true) "the access does not lie in one bank"
    (bankAccess s die.val bank { code := code, off := off, len := len, data := data, by_ := by_, seen := seen })

/-! ### Handovers (R231, R302, R304) -/

/-- A write of BANK_d_b with HANDOVER 1: the handover starts, or is refused and counted. Before READY the PF-only blocks
ignore writes (R69). -/
def bankHandover (s : State) (d b next : Nat) : State :=
  let x := bankOf s d b
  if !barOn s 0 then refuseAccess s 0
  else if !isReady s || decide (bankCount d ≤ b) then s
  else if (x.state == .owned || x.state == .unowned) && (decide (next ≤ 0x10) || next = 0x1F) && next ≠ x.owner then
    updBank s d b (fun y => { y with
      state := .inHandover, next := next, zeroDue := !(y.state == .unowned && !y.zeroDue) })
  else { s with bankRefused := sat64 s.bankRefused 1 }

def execBankHandover (die : Fin 5) (bank : Nat) (next : BitVec 5) (s : State) : Host.Outcome State Fault Refusal :=
  done s (bankHandover s die.val bank next.toNat)

/-- A handover ends: the bank is zeroed when that is due, the new owner is installed, and the accesses that waited for it
proceed. -/
def handoverDone (s : State) (d b : Nat) : State :=
  let x := bankOf s d b
  let s1 := if x.zeroDue then zeroBank s d b else s
  let s2 := updBank s1 d b (fun y => { y with
    owner := y.next, state := if y.next = 0x1F then .unowned else .owned, zeroDue := false, waits := [] })
  x.waits.foldl (fun s a => bankAccess s d b a) s2

def execHandoverDone (die : Fin 5) (bank : Nat) (s : State) : Host.Outcome State Fault Refusal :=
  occurs s ((bankOf s die.val bank).state == .inHandover) "no handover runs" (handoverDone s die.val bank)

/-- A seizure, with the accesses that waited for an abandoned handover (R307, R308). -/
def seizeFault (s : State) (d b onward : Nat) : State :=
  (bankOf s d b).waits.foldl bankFault (seizeBank s d b onward)

/-- A bank that firmware uses: the Harbour banks, and the banks of shared models. -/
def firmwareUses (s : State) (d b : Nat) : Bool :=
  d = 4 || s.models.any (fun kv => kv.2.shared && kv.2.banks.contains (64 * d + b))

/-- A bank in firmware's use has been handed away from 0x10. -/
def takenAway (s : State) (d b : Nat) : Bool :=
  let x := bankOf s d b
  firmwareUses s d b && !x.marchFail &&
    ((x.state == .inHandover && x.owner = 0x10) || (x.state == .owned && x.owner ≠ 0x10) || x.state == .unowned)

/-- Firmware seizes the bank back, to take it again as 0x10; the log names the owner code written (R304, R626). -/
def reclaim (s : State) (d b : Nat) : State :=
  let x := bankOf s d b
  let code := if x.state == .inHandover then x.next else x.owner
  seizeFault (logErr s { seq := 0, code := 0x23, cls := 4, die := d, fn := 0x10, addr := bankBase d b, detail := le 1 code }) d b 0x10

def execFirmwareBankReclaim (die : Fin 5) (bank : Nat) (s : State) : Host.Outcome State Fault Refusal :=
  occurs s (isReady s && !s.cp.recovery && decide (bank < bankCount die.val) && takenAway s die.val bank)
    "firmware has lost no bank" (reclaim s die.val bank)

/-! ### Cleaning (R307, R314) -/

/-- A seized bank is handed onward, or becomes UNOWNED. -/
def passOn (s : State) (d b : Nat) : State :=
  updBank (zeroBank s d b) d b (fun y => { y with
    owner := y.seizedFor, state := if y.seizedFor = 0x1F then .unowned else .owned, zeroDue := false, marching := none })

/-- A bank that fails a march stays SEIZED with MARCH_FAIL 1; the log holds its first failing row. -/
def failBank (s : State) (d b row : Nat) : State :=
  let s1 := updBank s d b (fun y => { y with
    state := .seized, owner := 0x10, next := 0x1F, seizedFor := 0x1F, zeroDue := false, marching := none, marchFail := true,
    waits := [] })
  logErr s1 { seq := 0, code := 0x21, cls := 2, die := d, addr := bankBase d b, detail := le 2 row }

/-- Cleaning ends without a failing row, or with one: a bank that failed a march before stays failed. -/
def cleaned (s : State) (d b : Nat) : Option Nat → State
  | some row => failBank s d b row
  | none =>
    if (bankOf s d b).marchFail then updBank (zeroBank s d b) d b (fun y => { y with zeroDue := false, marching := none })
    else passOn s d b

def execSeizureDone (die : Fin 5) (bank : Nat) (failRow : Option Nat) (s : State) : Host.Outcome State Fault Refusal :=
  let x := bankOf s die.val bank
  let marched := x.marching == some 2
  occurs s (x.state == .seized && (marched || (x.marching.isNone && x.zeroDue && failRow.isNone)) &&
      (die.val = 4 || dieUsable s die.val || (dieOf s die.val).state == .draining)) "no seized bank is being cleaned"
    (cleaned s die.val bank failRow)

/-! ### Marches (R204, R313 to R317) -/

/-- Banks named by a MARCH_RUN payload: the die and the bank numbers. -/
def marchNames (b : List Byte) : Nat × List Nat := (pay b 0 1, (List.range (pay b 8 4)).map (pay b 4 4 + ·))

/-- A march starts on a bank: March C− holds an UNOWNED bank SEIZED while it runs (R314). -/
def startMarch (s : State) (d mode b : Nat) : State :=
  updBank s d b (fun x =>
    if mode = 0 && x.state == .unowned then
      { x with state := .seized, owner := 0x10, next := 0x1F, seizedFor := 0x1F, zeroDue := true, marching := some 0 }
    else { x with marching := some mode })

/-- The banks that March C− may not run on: those neither UNOWNED nor SEIZED. -/
def banksInUse (s : State) (d : Nat) (bs : List Nat) : List Nat :=
  bs.filter (fun k => !((bankOf s d k).state == .unowned || (bankOf s d k).state == .seized))

/-- The request that uses a bank, as the group's step reads and writes it: the lowest ledger index, or 0xFFFFFFFF (R174). -/
def bankUser (s : State) (d : Nat) (bs : List Nat) : Nat :=
  (((s.ledger.filter (fun kv => live kv.2.state && bs.any (fun b =>
    (tget (default : Model) s.models (entXOf s kv.1).runsOn).banks.contains (64 * d + b)))).map (·.1)).min?).getD noLedger

/-- MARCH_RUN. -/
def marchRun (s : State) (b : List Byte) : Ran :=
  let d := pay b 0 1
  let mode := pay b 1 1
  let first := pay b 4 4
  let n := pay b 8 4
  fields s [(decide (4 < d), 16), (decide (1 < mode), 17), resv b 2 2, (decide (bankCount d ≤ first), 20),
      (n = 0 || decide (bankCount d < first + n), 24)]
    (if d ≠ 4 && !dieUsable s d then bad s stDieUnavailable (2 ^ d)
    else if mode = 0 && !(banksInUse s d (marchNames b).2).isEmpty then
      bad s stInUse (bankUser s d (banksInUse s d (marchNames b).2))
    else running ((marchNames b).2.foldl (fun s k => startMarch s d mode k) s))

/-- The march engine of a die works on one of the banks that a MARCH_RUN names: the command starts when it has ended
(DESIGN CHOICE, log entry 85: a die has one engine). -/
def marchBusy (s : State) (b : List Byte) : Bool :=
  (marchNames b).2.any (fun k => decide (k < 64) && (bankOf s (marchNames b).1 k).marching.isSome)

def execMarchRun (f : Fin 16) (slot : Fin 32) (s : State) : Host.Outcome State Fault Refusal :=
  if marchBusy s (slotBytes s f.val slot.val) then .refused (.cannotOccur "the march engine works on a bank it names")
  else runCmd s f.val slot.val 0x0B03 marchRun

/-- A MARCH_RUN in progress that names a bank. -/
def namesBank (s : State) (d b : Nat) (c : Cmd) : Bool :=
  let m := marchNames (slotBytes s 0 c.slot)
  c.opcode = 0x0B03 && c.started && c.outcome.isNone && m.1 = d && m.2.contains b

/-- A failed bank is counted in the MARCH_RUN commands that name it: `arg` holds the failed count and 2^16 × (first failed
bank + 1). -/
def countFailed (s : State) (d b : Nat) : State :=
  updFn s 0 (fun x => { x with cmds := x.cmds.map (fun c =>
    if namesBank s d b c then
      let first := c.arg / 65536
      { c with arg := c.arg % 65536 + 1 + 65536 * (if first = 0 then b + 1 else min first (b + 1)) }
    else c) })

/-- The outcome of a MARCH_RUN none of whose banks marches any more: a bank taken from it by a seizure counts as not
failed (R204). -/
def marchEnd (s : State) (c : Cmd) : Option CmdOutcome :=
  let m := marchNames (slotBytes s 0 c.slot)
  if m.2.any (fun k => (bankOf s m.1 k).marching == some 0 || (bankOf s m.1 k).marching == some 1) then none
  else
    let count := c.arg % 65536
    let first := if c.arg / 65536 = 0 then 0xFFFFFFFF else c.arg / 65536 - 1
    let resp := le 4 count ++ le 4 first
    if count = 0 then some { resp := resp } else some { status := stMarchFailed, detail := count, resp := resp }

/-- Another bank of the die for a cluster whose bank has failed: one that the group's code owns and no group uses, then
the lowest UNOWNED (R299). -/
def spareBank (s : State) (d code : Nat) : Option Nat :=
  let used := (s.models.map (fun kv => kv.2.banks)).flatten
  match (bankNums d).find? (fun b => (bankOf s d b).state == .owned && (bankOf s d b).owner = code && !used.contains (64 * d + b)) with
  | some b => some b
  | none => (bankNums d).find? (fun b => (bankOf s d b).state == .unowned && !(bankOf s d b).zeroDue)

/-- The group that used a failed bank takes another and replays its steps, or fails their requests when the die has none
(R317). -/
def replaceBank (s : State) (d b : Nat) : State :=
  match s.models.find? (fun kv => kv.2.banks.contains (64 * d + b)) with
  | none => s
  | some (h, m) =>
    let code := if m.shared then 0x10 else m.owner
    match spareBank s d code with
    | some q =>
      let s1 := handBank s d q code
      let s2 := { s1 with models := tput s1.models h { m with
        banks := m.banks.map (fun k => if k = 64 * d + b then 64 * d + q else k) } }
      (stepsOf s2 h).foldl (fun s id => updStep s id (fun y => { y with poisoned := true })) s2
    | none =>
      (stepsOf s h).foldl failStep { s with models := tput s.models h { m with bankless := true } }

/-- A word that a transparent march met at its reference read: a corrected one is written back, a damaged one is logged
and skipped (R316). -/
def marchFound (s : State) (d b : Nat) (w : Nat × EccSeen) : State :=
  let addr := bankBase d b + w.1 / 8 * 8
  match w.2 with
  | .clean => s
  | .corrected => correctWord s addr 1
  | .uncorrectable => logErr s { seq := 0, code := 0x22, cls := 2, die := d, addr := logAddr addr }

/-- A transparent march ends on a bank: it has kept the data, or it fails, and the bank is seized (R315 to R317). -/
def transparentDone (s : State) (d b : Nat) (failRow : Option Nat) (found : List (Nat × EccSeen)) : State :=
  let poisoned := s.poison.filter (fun a => bankBase d b ≤ a && decide (a < bankBase d b + 0x20000))
  let s1 := (found ++ poisoned.map (fun a => (a - bankBase d b, EccSeen.uncorrectable))).foldl (fun s w => marchFound s d b w) s
  match failRow with
  | none => updBank s1 d b (fun y => { y with marching := none })
  | some row =>
    let old := bankOf s1 d b
    let s2 := if old.state == .seized then s1
      else logErr s1 { seq := 0, code := 0x20, cls := 2, die := d, addr := bankBase d b, detail := le 1 old.owner ++ le 1 1 }
    replaceBank (old.waits.foldl bankFault (failBank s2 d b row)) d b

/-- MARCH_DONE on a bank of a MARCH_RUN. -/
def marchDone (s : State) (d b : Nat) (failRow : Option Nat) (found : List (Nat × EccSeen)) : State :=
  let s1 := if (bankOf s d b).marching = some 0 then cleaned s d b failRow else transparentDone s d b failRow found
  if failRow.isSome then countFailed s1 d b else s1

/-- A march works on up to 16 banks of a die at a time, in ascending order (R313). -/
def inMarch (s : State) (d b : Nat) : Bool :=
  decide (((List.range b).filter (fun k => (bankOf s d k).marching.isSome)).length < 16)

def execMarchDone (die : Fin 5) (bank : Nat) (failRow : Option Nat) (found : List (Nat × EccSeen)) (s : State) :
    Host.Outcome State Fault Refusal :=
  let m := (bankOf s die.val bank).marching
  occurs s ((m == some 0 || m == some 1) && decide (bank < bankCount die.val) && inMarch s die.val bank)
    "no march runs on the bank" (marchDone s die.val bank failRow found)

end Sys2Proof.Machine
end

