-- ==== Sys2Proof/Machine/Links.lean ====
section
/-! DEFINITION. Die links: rows LINK_TRAINED to PARTNER_CLOCK_STOP and the packets of the link layer (10 R320 to
R353, 21 R606). -/

namespace Sys2Proof.Machine

open Sys2Proof

/-- The version a link runs: the highest both ends support on an S-link, 3 and no other on a B-link (R36). -/
def linkVersion (s : State) (l : Nat) : Option Nat :=
  if isBLink l then
    let a := (dieOf s (linkEnds l).1).fuses
    let b := (dieOf s (linkEnds l).2).fuses
    if a.verLo ≤ 3 && 3 ≤ a.verHi && b.verLo ≤ 3 && 3 ≤ b.verHi then some 3 else none
  else
    let c := (dieOf s (l - 4)).fuses
    let v := min s.hbFuses.verHi c.verHi
    if max s.hbFuses.verLo c.verLo ≤ v then some v else none

/-- A link goes UP with its version, its working groups and its initial credits; one whose ends offer no common
version stays DOWN (R36, R322, R323, R333). Groups not working at training stay out of the mask. -/
def trained (s : State) (l groups : Nat) : State :=
  match linkVersion s l with
  | some v =>
    let fresh : LinkDir := { vcs := freshVcs l }
    let s1 := updLink s l (fun k => { k with
      state := .up, version := v, groupErr := [], repairDue := false, out := fresh, back := fresh,
      disabled := (List.range (groupCount l)).drop groups })
    if isBLink l then s1 else updDie s1 (l - 4) (fun x => { x with linkVer := v })
  | none => linkDead s l .down

def execLinkTrained (l : Fin 8) (groups : Nat) (s : State) : Host.Outcome State Fault Refusal :=
  occurs s ((linkOf s l.val).state == .training && decide (0 < groups) && decide (groups ≤ groupCount l.val))
    "the link is not training" (trained s l.val groups)

/-- A link not UP 200 ms after its training started stays DOWN (R324); a B-link of a rejoining die posts
BLINK_DOWN (R350). -/
def trainingTimeout (s : State) (l : Nat) : State :=
  let rejoining := isBLink l && ((dieOf s (linkEnds l).1).state == .rejoining || (dieOf s (linkEnds l).2).state == .rejoining)
  let s1 := linkDead s l .down
  if rejoining then postFw s1 0 { code := 0x0011, object := l } else s1

def execLinkTrainingTimeout (l : Fin 8) (s : State) : Host.Outcome State Fault Refusal :=
  occurs s ((linkOf s l.val).state == .training) "the link is not training" (trainingTimeout s l.val)

/-! ### Flits (R328 to R341) -/

/-- A group's CRC errors in the running 1 ms window reach 16: it is disabled and its repair asked for (R341). -/
def disableGroup (s : State) (l g trigger : Nat) : State :=
  let s1 := updLink s l (fun k => { k with
    state := .repair, disabled := insertNew k.disabled g, repairDue := true, groupErr := tdel k.groupErr g })
  let s2 := logErr s1 { seq := 0, code := 0x30, cls := 2, detail := le 1 l ++ le 1 g ++ le 1 trigger }
  if isBLink l then (if groupsUp s2 l < 8 then blinkDown s2 l else s2)
  else if groupsUp s2 l < 4 then loseDie s2 (l - 4) 0x08 else s2

/-- The ACK of a flit frees the replay buffer up to it (R338). -/
def ackUpTo (d : LinkDir) (seq : Nat) : LinkDir :=
  if d.unacked.any (fun x => x.seq = seq) then { d with unacked := (d.unacked.dropWhile (fun x => x.seq ≠ seq)).drop 1 } else d

/-- Credits that a flit returns to a sender (R328, R334, R606). -/
def takeCredits (d : LinkDir) (vc n : Nat) : LinkDir :=
  { d with vcs := d.vcs.mapIdx (fun i b =>
      if i = vc then { b with held := min b.initial (b.held + n), back := (b.back + n) % 2 ^ 32 } else b) }

/-- The virtual channel of a flit received: that of the replay buffer's flit of its SEQ, else of its first header. -/
def flitVc (d : LinkDir) (x : Flit) : Nat :=
  match d.unacked.find? (fun y => y.seq = flitSeq x) with
  | some y => y.vc
  | none => bits (byteAt x.data 1) 7 6

/-- The control processors take no MGMT packet while they restart: it stays in the Harbour receive buffer with its credit
(R351). -/
def mgmtHeld (s : State) (l : Nat) (atFirst : Bool) (vc : Nat) : Bool := !isBLink l && atFirst && vc = 3 && s.cp.recovery

/-- A data flit that comes next in SEQ order is delivered; its slot is drained and its credit returned, unless it is held
(R334, R339). -/
def deliver (s : State) (l : Nat) (atFirst : Bool) (x : Flit) : State :=
  let d := dirOf (linkOf s l) (!atFirst)
  let vc := flitVc d x
  let held := mgmtHeld s l atFirst vc
  let s1 := updDir s l (!atFirst) (fun d => { d with
    rxSeq := (d.rxSeq + 1) % 256, fails := 0,
    vcs := d.vcs.mapIdx (fun i b => if i ≠ vc then b
      else if held then { b with received := (b.received + 1) % 2 ^ 32, occupied := b.occupied + 1 }
      else { b with received := (b.received + 1) % 2 ^ 32, out := (b.out + 1) % 2 ^ 32 }) })
  if byteAt x.data 0 = opMgmt && byteAt x.data 16 = 0x23 then latchEnd s1 l atFirst else s1

/-- The sender resends its buffered flits from a SEQ on (R338). -/
def replayFrom (s : State) (l : Nat) (fromFirst : Bool) (seq : Nat) : State :=
  let n := ((dirOf (linkOf s l) fromFirst).unacked.dropWhile (fun x => x.seq ≠ seq)).length
  if firstReports s l = fromFirst then updLink s l (fun k => { k with replay := sat64 k.replay n, tx := sat64 k.tx n }) else s

/-- The end of a link at which a flit is received counts it, when it is the reporting one (R228). -/
def countRx (s : State) (l : Nat) (atFirst : Bool) (bad : Nat) : State :=
  if firstReports s l = atFirst then updLink s l (fun k => { k with rx := sat64 k.rx 1, crc := sat64 k.crc bad }) else s

/-- A flit with a clean CRC: its ACK and credits act, a data flit is delivered when it is the next in SEQ order and discarded
otherwise, a REPLAY_REQ is answered; then what waited goes on (R328, R334, R338, R339). INIT and RECENTRE flits and the
reserved KINDs do nothing here. -/
def flitGood (s : State) (l : Nat) (atFirst : Bool) (x : Flit) : State :=
  let s1 := countRx s l atFirst 0
  if 2 < flitKind x then s1
  else
    let s2 := updDir s1 l atFirst (fun d => takeCredits (ackUpTo d (flitAck x)) (flitCrVc x) (flitCrCount x))
    let s3 := if flitKind x = kindData && flitSeq x = (dirOf (linkOf s2 l) (!atFirst)).rxSeq then deliver s2 l atFirst x
      else if flitKind x = kindReplay then replayFrom s2 l atFirst (flitSeq x) else s2
    pump s3

/-- A flit with a CRC error: counted, discarded, and charged to its group; a group at 16 errors within the window is disabled
by GROUP_DISABLE (R339, R341). -/
def flitBad (s : State) (l : Nat) (atFirst : Bool) (x : Flit) : State :=
  updLink (countRx s l atFirst 1) l (fun k =>
    { setDir k (!atFirst) (fun d => { d with fails := d.fails + 1 }) with groupErr := tmod 0 k.groupErr x.group (· + 1) })

def execFlitReceived (l : Fin 8) (flit : Flit) (s : State) (atFirst : Bool := true) : Host.Outcome State Fault Refusal :=
  occurs s (linkUp s l.val) "the link carries no flits"
    (if flitClean flit then flitGood s l.val atFirst flit else flitBad s l.val atFirst flit)

def execReplayRequest (l : Fin 8) (seq : Nat) (s : State) (fromFirst : Bool := true) : Host.Outcome State Fault Refusal :=
  occurs s (linkUp s l.val && (dirOf (linkOf s l.val) fromFirst).unacked.any (fun x => x.seq = seq))
    "the flit is not in the replay buffer" (replayFrom s l.val fromFirst seq)

/-- The oldest flit of a direction's replay buffer. -/
def oldestSeq (s : State) (l : Nat) (fromFirst : Bool) : Nat := (((dirOf (linkOf s l) fromFirst).unacked.head?).map (·.seq)).getD 0

def execAckTimeout (l : Fin 8) (s : State) (fromFirst : Bool := true) : Host.Outcome State Fault Refusal :=
  occurs s (linkUp s l.val && !(dirOf (linkOf s l.val) fromFirst).unacked.isEmpty) "no flit is unacknowledged"
    (replayFrom s l.val fromFirst (oldestSeq s l.val fromFirst))

/-- A flit fails CRC on 8 successive sendings: a B-link goes DOWN, an S-link's die is lost (R340). -/
def linkFailure (s : State) (l : Nat) : State :=
  if isBLink l then blinkDown s l else loseDie s (l - 4) 0x08

def execFlitRetryLimit (l : Fin 8) (s : State) : Host.Outcome State Fault Refusal :=
  occurs s (linkUp s l.val && (decide (8 ≤ (linkOf s l.val).out.fails) || decide (8 ≤ (linkOf s l.val).back.fails)))
    "no flit has failed CRC on 8 successive sendings" (linkFailure s l.val)

/-! ### Audit markers (R606) -/

/-- Both ends of a link latch their counters. -/
def latchBooks (s : State) (l : Nat) : State := latchEnd (latchEnd s l true) l false

/-- The reporting end sends an audit marker on MGMT: it latches its counters when it sends it, the other end when it delivers
it. -/
def auditMarker (s : State) (l : Nat) : State :=
  let first := firstReports s l
  let me := if first then (linkEnds l).1 else (linkEnds l).2
  pump (putParcel s me {
    op := opMgmt, vc := 3, src := me, dst := otherEnd l me,
    data := le 1 0x23 ++ le 1 me ++ le 2 0 ++ le 4 s.energy.tides, route := [l] })

def execAuditMarker (l : Fin 8) (s : State) : Host.Outcome State Fault Refusal :=
  occurs s (linkUp s l.val) "the link carries no flits" (auditMarker s l.val)

/-! ### Re-centring and groups (R326, R327, R341, R346) -/

/-- A re-centring runs: counted, wires under 0.35 UI marked, and each group with a marked wire under 0.25 UI
disabled (R326, R327, R341). -/
def recentre (s : State) (l marked : Nat) (closed : List Nat) : State :=
  let s1 := updLink s l (fun k => { k with
    recentres := sat64 k.recentres 1, marked := marked, repairDue := k.repairDue || decide (0 < marked) })
  closed.foldl (fun s g => if linkUp s l then disableGroup s l g 2 else s) s1

def execRecentreDue (l : Fin 8) (marked : Nat) (closed : List Nat) (s : State) : Host.Outcome State Fault Refusal :=
  occurs s (linkUp s l.val && closed.all (fun g => decide (g < groupCount l.val) && !(linkOf s l.val).disabled.contains g))
    "the link carries no flits" (recentre s l.val marked closed)

/-- No idle gap arose: the sender holds data flits for 0.5 µs and the re-centring runs in that gap (R326). -/
def execRecentreGapForced (l : Fin 8) (s : State) : Host.Outcome State Fault Refusal :=
  occurs s (linkUp s l.val) "the link carries no flits"
    (updLink s l.val (fun k => { k with recentres := sat64 k.recentres 1 }))

def execGroupDisable (l : Fin 8) (group : Nat) (s : State) : Host.Outcome State Fault Refusal :=
  occurs s (linkUp s l.val && decide (16 ≤ tget 0 (linkOf s l.val).groupErr group) && decide (group < groupCount l.val) &&
      !(linkOf s l.val).disabled.contains group)
    "the group has not reached 16 CRC errors" (disableGroup s l.val group 0)

/-- A link end declares its partner's clock stopped (R346, R347). -/
def partnerStop (s : State) (l : Nat) (atFirst : Bool) : State :=
  if isBLink l then
    let partner := if atFirst then (linkEnds l).2 else (linkEnds l).1
    if (linkOf s (4 + partner)).state == .stranded || (dieOf s partner).state == .lost then
      let s1 := { linkDead s l .stranded with boot := { s.boot with blinkUp := setBit s.boot.blinkUp l false } }
      settleTxns s1 l
    else blinkDown s l
  else loseDie s (l - 4) 0x06

/-- Groups have seen no clock edge for 1 µs: the partner's clock has stopped when they are at least half of the link's, and
those groups are disabled otherwise (R341, R346). -/
def clockStop (s : State) (l : Nat) (atFirst : Bool) (groups : List Nat) : State :=
  if groupCount l ≤ 2 * (groups.foldl insertNew []).length then partnerStop s l atFirst
  else groups.foldl (fun s g => if linkUp s l && !(linkOf s l).disabled.contains g then disableGroup s l g 1 else s) s

def execPartnerClockStop (l : Fin 8) (atFirst : Bool) (s : State) (groups : List Nat := List.range 16) :
    Host.Outcome State Fault Refusal :=
  occurs s (linkUp s l.val && !groups.isEmpty && groups.all (fun g => decide (g < groupCount l.val)))
    "the link carries no flits" (clockStop s l.val atFirst groups)

end Sys2Proof.Machine
end

