-- ==== Sys2Proof/Machine/DieLoss.lean ====
section
/-! DEFINITION. Losing, resetting and rejoining a Crest die: rows DIE_RESET, DIE_REJOIN, DRAIN_STEP_TIMEOUT,
DIE_LOSS_PATH, DIE_RESET_APPLIED, DIE_REJOIN_DONE and GRAMMAR_COPY_BUILT (05 R206, R207, 06 R208, 10 R349, R350, 15 R469,
16 R502, 20 R600, 22 R637 to R643). -/

namespace Sys2Proof.Machine

open Sys2Proof

/-! ### Commands (R206, R207) -/

/-- The one Crest die that a DIE_MASK names. -/
def oneDie (m : Nat) : Option Nat := if m < 16 ∧ (maskDies m).length = 1 then (maskDies m).head? else none

/-- DIE_RESET: the die is drained. -/
def dieReset (s : State) (b : List Byte) : Ran :=
  match oneDie (slotMask b) with
  | none => bad s stInvalidField 10
  | some d =>
    if !dieUsable s d then bad s stDieUnavailable (slotMask b)
    else if (List.range 4).all (fun k => k = d || !dieUsable s k) then bad s stLastDie (slotMask b)
    else running (updDie s d (fun x => { x with state := .draining }))

def execDieReset (f : Fin 16) (slot : Fin 32) (s : State) : Host.Outcome State Fault Refusal :=
  runCmd s f.val slot.val 0x0C01 dieReset

/-- The die at the other end of a link can train: the Harbour die, or a Crest die that is not gone. -/
def partnerUp (s : State) (l d : Nat) : Bool :=
  let o := otherEnd l d
  o = 4 || (dieOf s o).state == .usable || (dieOf s o).state == .draining || (dieOf s o).state == .rejoining

/-- DIE_REJOIN: the die's links train again (R349, R350). -/
def dieRejoin (s : State) (b : List Byte) : Ran :=
  fields s [(decide (1 < pay b 0 1), 16), resv b 1 3] (
    match oneDie (slotMask b) with
    | none => bad s stInvalidField 10
    | some d =>
      let st := (dieOf s d).state
      if st == .usable || st == .draining || st == .rejoining || st == .starting then bad s stStateConflict 1
      else
        let s1 := updDie s d (fun x => { x with state := .rejoining })
        running ((linksOf d).foldl (fun s l => if partnerUp s l d then linkDead s l .training else s) s1))

def execDieRejoin (f : Fin 16) (slot : Fin 32) (s : State) : Host.Outcome State Fault Refusal :=
  runCmd s f.val slot.val 0x0C02 dieRejoin

/-- The commands of an opcode in progress that name a die reach their commit points. -/
def settleDie (s : State) (op d : Nat) (o : CmdOutcome) : State :=
  settleCmds s 0 op (fun c => if slotMask (slotBytes s 0 c.slot) = 2 ^ d then some o else none)

/-- A command of an opcode in progress names a die: the slot's bytes. -/
def dieCmd (s : State) (op d : Nat) : Option (List Byte) :=
  ((fnOf s 0).cmds.find? (fun c => c.opcode = op && c.started && c.outcome.isNone &&
    slotMask (slotBytes s 0 c.slot) = 2 ^ d)).map (fun c => slotBytes s 0 c.slot)

/-- The models whose group names a die, with their handles. -/
def modelsOn (s : State) (d : Nat) : List Nat := (s.models.filter (fun kv => d ∈ groupDies kv.2)).map (·.1)
/-- The steps in flight on a die. -/
def stepsOn (s : State) (d : Nat) : List Nat := ((modelsOn s d).map (stepsOf s)).flatten

/-- Steps that still run 100 ms into a DIE_RESET are squashed at their next layer boundary. -/
def execDrainStepTimeout (d : Fin 4) (s : State) : Host.Outcome State Fault Refusal :=
  occurs s ((dieOf s d.val).state == .draining && !(stepsOn s d.val).isEmpty) "no draining die runs a step"
    ((stepsOn s d.val).foldl (fun s id => updStep s id (fun x => { x with squashAll := true })) s)

/-! ### The die-loss path (R638) -/

/-- Whether a page frame lies in a die's HBM. -/
def onDie (d p : Nat) : Bool := decide (p ≠ 0) && decide (p < 0x1000000) && pageDie p = d
/-- The pages of a list, those on a die replaced by no page. -/
def offDie (d : Nat) (ps : List Nat) : List Nat := ps.map (fun p => if onDie d p then 0 else p)

/-- Every leaf that names a page of the die is unmapped; its page frame records, and what named them, are gone until the
rejoin rebuilds the pool (R638, R640, R642). -/
def unmapDie (s : State) (d : Nat) : State :=
  let mine := fun (r : Region) => r.tier = 0 && r.pages.any (onDie d)
  let s1 := (s.regions.filter (fun kv => mine kv.2)).foldl (fun s kv => dropRange s kv.2.asid kv.2) s
  { s1 with
    regions := tmap s1.regions (fun _ r => if mine r then { r with pages := [] } else r),
    pages := s1.pages.filter (fun kv => !onDie d kv.1),
    models := tmap s1.models (fun _ m => { m with weights := offDie d m.weights, movePages := offDie d m.movePages }),
    grammars := tmap s1.grammars (fun _ g =>
      let copies := setBit g.copies d false
      { g with copies := copies, slowPath := g.slowPath || copies = 0, pages := g.pages.filter (fun p => !onDie d p) }),
    ledger := tmap s1.ledger (fun _ e => { e with kv := e.kv.map (fun b => { b with pages := offDie d b.pages }) }),
    tlbs := s1.tlbs.filter (fun e => e.1 ≠ d) }

/-- The die's banks are SEIZED with zeroing due, a march on them ends (R306, R629). -/
def seizeDieBanks (s : State) (d : Nat) : State :=
  (bankNums d).foldl (fun s b => updBank (seizeBank s d b 0x1F) d b (fun x => { x with
    seizedFor := 0x1F, next := 0x1F, zeroDue := true, marching := none })) s

/-- The functions that a loss concerns: those with a request, a model, a region or a grammar copy on the die. -/
def lossFns (s : State) (d : Nat) : List Nat :=
  (List.range 16).filter (fun f =>
    s.ledger.any (fun kv => kv.2.b.fn = f && live kv.2.state && (modelsOn s d).contains (entXOf s kv.1).runsOn) ||
      s.models.any (fun kv => kv.2.owner = f && d ∈ groupDies kv.2) ||
      s.regions.any (fun kv => kv.2.asid = asidOf f && kv.2.tier = 0 && kv.2.pages.any (onDie d)) ||
      s.grammars.any (fun kv => kv.2.owner = f && kv.2.copies.getLsbD d))

/-- DIE_LOST to the PF and to the functions concerned (R643): the requests re-admitted and failed and the models made
unusable, of the function, or of all for the PF. -/
def postLost (old s : State) (d : Nat) (fns reqs models : List Nat) : State :=
  let cause := (dieOf s d).cause
  let moved := reqs.filter (fun i => (entXOf s i).runsOn ≠ (entXOf old i).runsOn)
  let failed := reqs.filter (fun i => (entOf s i).state == .failed && !((entOf old i).state == .failed) &&
    (entOf s i).endStatus = stDieLost)
  let of_ := fun (f : Nat) (l : List Nat) => if f = 0 then l.length else (l.filter (fun i => (entOf s i).b.fn = f)).length
  let lost := fun (f : Nat) => if f = 0 then models.length
    else (models.filter (fun h => (tget (default : Model) s.models h).owner = f)).length
  (insertNew (remove fns 0) 0).foldl (fun s f => postFw s f {
    code := 0x13, object := 2 ^ d,
    data := le 1 d ++ le 1 cause ++ le 2 0 ++ le 4 (of_ f moved) ++ le 4 (of_ f failed) ++ le 4 (lost f) }) s

/-- Fault records of the die's own queue are abandoned (R294). -/
def dropDieFaults (s : State) (d : Nat) : State :=
  let hit := s.faults.filter (fun r => r.die = d)
  hit.foldl (fun s r => logAbandoned s r 2) { s with faults := s.faults.filter (fun r => r.die ≠ d) }

/-- The die-loss path, in its order. -/
def lossPath (s : State) (d : Nat) : State :=
  let models := modelsOn s d
  let fns := lossFns s d
  let reqs := (models.map (groupReqs s)).flatten
  let s1 := (stepsOn s d).foldl abandonStep s
  let s2 := unmapDie (heldDieLost s1 d) d
  let s3 := dropDieFaults (seizeDieBanks s2 d) d
  let s4 := { s3 with models := tmap s3.models (fun h m => if h ∈ models then { m with unusable := true } else m) }
  let s5 := reqs.foldl settleReq s4
  let s6 := postLost s s5 d fns reqs models
  let s7 := logErr s6 { seq := 0, code := 0x40, cls := 7, die := d, detail := le 1 (dieOf s6 d).cause }
  let gone : CmdOutcome := { status := stDieUnavailable, detail := 2 ^ d }
  let s8 := settleCmds s7 0 0x0B03 (fun c => if pay (slotBytes s7 0 c.slot) 0 1 = d then some gone else none)
  updDie (settleDie (settleDie s8 0x0C01 d gone) 0x0C02 d gone) d (fun x => { x with lossDue := false })

def execDieLossPath (d : Fin 4) (s : State) : Host.Outcome State Fault Refusal :=
  occurs s (isReady s && !s.cp.recovery && (dieOf s d.val).state == .lost && (dieOf s d.val).lossDue)
    "no die-loss path is due" (lossPath s d.val)

/-- The drained die is reset: its mirror reads reset values where R208 says, its links go to STRANDED, the die-loss path
runs, and DIE_RESET completes. -/
def resetDie (s : State) (d : Nat) : State :=
  let s1 := settleDie s 0x0C01 d { dieMask := 2 ^ d }
  let s2 := loseDie s1 d 0x07
  let s3 := updDie s2 d (fun x => { x with
    answered := false, neighH := 0, neighV := 0, linkVer := 0, rootLock := false, hbmLock := false, keepPlan := 16,
    tripTemp := false, tripPower := false, tripEpr := false, gated := false, mgrDown := false,
    reqMv := 750, avsTarget := 750, avsBusy := false, avsAcked := false, avsNoAck := false })
  lossPath (updTherm s3 d (fun _ => ({} : Thermal))) d

def execDieResetApplied (d : Fin 4) (s : State) : Host.Outcome State Fault Refusal :=
  occurs s ((dieOf s d.val).state == .draining && (stepsOn s d.val).isEmpty && !s.cp.recovery && (dieCmd s 0x0C01 d.val).isSome)
    "the die is not drained" (resetDie s d.val)

/-! ### Rejoin (R207, R642) -/

/-- The ranges of a model's weight list by rank: the die, the first index and the number of pages. -/
def rankRanges (m : Model) : List (Nat × Nat × Nat) :=
  (((groupDies m).zip m.image.weightBytes).foldl (fun (a : List (Nat × Nat × Nat) × Nat) p =>
    (a.1 ++ [(p.1, a.2, pagesFor p.2)], a.2 + pagesFor p.2)) ([], 0)).1

/-- A model's weights on a die loaded again from its replica: pages, banks for its clusters; none without a replica or
without the space. -/
def reloadModel (s : State) (d h : Nat) (m : Model) : Option State :=
  let code := if m.shared then 0x10 else m.owner
  match (rankRanges m).find? (fun r => r.1 = d) with
  | none => none
  | some (_, at_, n) =>
    if !m.replica then none
    else match findFree s d n, groupBanks { s with models := tdel s.models h } d code (tget 0 m.denseMask d) (tget 0 m.streamMask d) with
      | some ps, some banks =>
        let s1 := takePages s ps (asidOf m.owner) .weights h
        let s2 := banks.foldl (fun s k => handBank s (k / 64) (k % 64) code) s1
        let m' := { m with
          weights := m.weights.mapIdx (fun k p => if at_ ≤ k ∧ k < at_ + n then ps.getD (k - at_) 0 else p),
          banks := m.banks.filter (fun k => k / 64 ≠ d) ++ banks }
        some { s2 with models := tput s2.models h m' }
      | _, _ => none

/-- A model's weights for a die are all in their pages: a reload of that die has not failed. -/
def weightsOn (s : State) (h d : Nat) : Bool :=
  let m := tget (default : Model) s.models h
  ((rankRanges m).filter (fun r => r.1 = d)).all (fun r =>
    ((m.weights.drop r.2.1).take r.2.2).all (fun p => decide (p ≠ 0)))

/-- The models of a rejoined die reloaded; one whose dies are all usable runs again. Answers those reloaded. -/
def reloadAll (s : State) (d : Nat) : State × List Nat :=
  (modelsOn s d).foldl (fun (a : State × List Nat) h =>
    let m := tget (default : Model) a.1.models h
    match reloadModel a.1 d h m with
    | some s1 =>
      let all := (groupDies m).all (fun q => dieUsable s1 q && (q = d || weightsOn s1 h q))
      ({ s1 with models := tmap s1.models (fun k x => if k = h then { x with unusable := x.unusable && !all } else x) }, a.2 ++ [h])
    | none =>
      ({ a.1 with models := tmap a.1.models (fun k x => if k = h then { x with banks := x.banks.filter (fun b => b / 64 ≠ d) } else x) }, a.2))
    (s, [])

/-- The usable dies without a copy of a grammar whose engine serves a request of it: firmware builds one on each when no copy
is left (R469). -/
def wantsCopy (s : State) (h : Nat) : List Nat :=
  (List.range 4).filter (fun d => dieUsable s d && !(tget (default : Grammar) s.grammars h).copies.getLsbD d &&
    s.ledger.any (fun kv => live kv.2.state && kv.2.b.grammar = h && d ∈ groupDies (modelOf s kv.1)))

/-- A grammar copy built on a die when it has the pages. -/
def buildCopy (s : State) (d h : Nat) : State :=
  let g := tget (default : Grammar) s.grammars h
  match takeCopies s (asidOf g.owner) h (gramPages g.header) [d] with
  | none => s
  | some (ps, s1) =>
    { s1 with grammars := tmap s1.grammars (fun k x =>
        if k = h then { x with copies := setBit x.copies d true, slowPath := x.slowPath && (wantsCopy s h).any (· ≠ d), pages := x.pages ++ ps } else x) }

/-- The B-links of a rejoining die that are UP to a die that works: those that exchange positions again (R30, R350). -/
def rejoinBLinks (s : State) (d : Nat) : List Nat :=
  ((linksOf d).filter isBLink).filter (fun l =>
    linkUp s l && (dieUsable s (otherEnd l d) || (dieOf s (otherEnd l d)).state == .draining))

/-- A position received at one end of a B-link, recorded there. -/
def noteNeighbour (s : State) (l at_ : Nat) (pos : BitVec 2) : State :=
  updDie s at_ (fun x => if l % 2 = 0 then { x with neighH := pos } else { x with neighV := pos })

/-- The die's B-links take part again: the positions received are recorded, and a link whose exchange is complete works
(R30, R31, R34, R350). -/
def rejoinLinks (s : State) (d : Nat) (ns : List (Nat × Bool × BitVec 2)) : State :=
  (rejoinBLinks s d).foldl (fun s l => { s with boot := { s.boot with blinkUp := setBit s.boot.blinkUp l true } })
    (ns.foldl (fun s n => noteNeighbour s n.1 (if n.2.1 then d else otherEnd n.1 d) n.2.2) s)

/-- The mismatches of a rejoining die: those of its answer and of the neighbour exchange, under the mode in force at
start-up (R24, R25, R30). -/
def rejoinCauses (s : State) (d : Nat) (ns : List (Nat × Bool × BitVec 2)) : List Nat :=
  answerCauses s d ++
    (if ns.any (fun n => n.2.2.toNat ≠ (if n.2.1 then otherEnd n.1 d else d)) then [4] else [])

/-- The die's HBM and banks after the rejoin's initialisation: the pool free but for the pages that failed, every bank that
passed UNOWNED (R306, R642). -/
def rejoinMemory (s : State) (d : Nat) (lines banks : List Nat) : State :=
  let base := 0x000900000000 * d
  let s1 := { putMem s (cellsZero s.mem base 0x000900000000) with
    pages := s.pages.filter (fun kv => !onDie d kv.1),
    poison := s.poison.filter (fun a => a < base || base + 0x000900000000 ≤ a) }
  let s2 := lines.foldl (fun s a => retirePage s (a / 65536) 0 a) s1
  (bankNums d).foldl (fun s b =>
    if b ∈ banks then failBank s d b 0
    else if (bankOf s d b).marchFail then updBank (zeroBank s d b) d b (fun x => { x with zeroDue := false })
    else passOn s d b) s2

/-- The die's HBM3E controller verified from the training cache, or trained in full, which the cache then holds (R61, R239). -/
def rejoinTraining (s : State) (d : Nat) (full : Bool) : State :=
  let temp := (thermOf s d).temp
  if cachedAt s d temp && !full then s else { s with training := tput s.training d { temp := temp } }

/-- A rejoin that succeeds. DESIGN CHOICE (log entry 121): HBM_PLL_LOCK is set here, since R44 gives no instant. -/
def rejoined (s : State) (d march : Nat) (ns : List (Nat × Bool × BitVec 2)) (lines banks : List Nat) : State :=
  let s1 := updDie s d (fun x => { x with
    state := .usable, answered := true, assigned := BitVec.ofNat 2 d, rootLock := true, hbmLock := true, keepPlan := 16,
    tripTemp := false, tripPower := false, tripEpr := !s.pins.eprN, gated := false, mgrDown := false, lossDue := false,
    avsNoAck := false })
  let s2 := rejoinLinks { s1 with boot := { s1.boot with
    dieUsable := setBit s1.boot.dieUsable d true, diePresent := setBit s1.boot.diePresent d true } } d ns
  let s3 := updDom (ownClusters (rejoinMemory s2 d lines banks) d) d (fun x => { x with
    reservoir := 0, nextGrant := none, plan := none, report := false, lastReport := [],
    allowance := floorUj d, draw := 0, fastMw := fastLimit (floorUj d), onFloor := false })
  let named := (modelsOn s3 d).length
  let r := reloadAll s3 d
  let s4 := (r.1.grammars.filter (fun kv => kv.2.cacheDies.getLsbD d && !kv.2.copies.getLsbD d)).foldl
    (fun s kv => buildCopy s d kv.1) r.1
  let mine := s4.conf.atRejoin.filter (fun kv => scrubDie (kv.1 % 65536) = d)
  let s5 := mine.foldl (fun s kv => applyScrub s kv.1 kv.2)
    { s4 with conf := { s4.conf with atRejoin := s4.conf.atRejoin.filter (fun kv => scrubDie (kv.1 % 65536) ≠ d) } }
  let s6 := avsTowards s5 d (dieOf s5 d).fuses.fusedMv
  let s7 := postFw s6 0 {
    code := 0x14, object := 2 ^ d,
    data := le 1 d ++ le 1 march ++ le 2 0 ++ le 4 r.2.length ++ le 4 (named - r.2.length) ++ le 4 lines.length }
  let s8 := logErr s7 { seq := 0, code := 0x41, cls := 7, die := d, detail := le 1 march }
  noteHealth (settleDie s8 0x0C02 d { dieMask := 2 ^ d })

/-- A rejoin that fails at a stage or on identity: the die stays lost, its links go to STRANDED again. -/
def rejoinFailed (s : State) (d : Nat) (o : CmdOutcome) : State :=
  let s1 := updDie s d (fun x => { x with state := .lost })
  settleDie ((linksOf d).foldl (fun s l => linkDead s l .stranded) s1) 0x0C02 d o

/-- DIE_REJOIN_DONE: a mismatch fails the rejoin with IDENTITY_MISMATCH and its lowest cause (R30, R32). -/
def rejoinDone (s : State) (d march : Nat) : RejoinEnd → State
  | .ended ns lines banks full =>
    match (rejoinCauses s d ns).min? with
    | some cause => rejoinFailed s d { status := stIdentityMismatch, detail := cause }
    | none => rejoined (rejoinTraining s d full) d march ns lines banks
  | .failed stage => rejoinFailed s d { status := stRejoinFailed, detail := stage }

/-- A rejoin ends as it may: its answer and its exchange over each working B-link, both ends of it, have arrived; success
needs the die's S-link, no link still in training, defects only from a march (R642), all on the die and at most 256 pages
(R64). -/
def mayRejoin (s : State) (d march : Nat) : RejoinEnd → Bool
  | .ended ns lines banks _ =>
    linkUp s (4 + d) && ns.all (fun n => n.1 ∈ rejoinBLinks s d) &&
      (rejoinBLinks s d).all (fun l => [true, false].all (fun e => (ns.filter (fun n => n.1 = l && n.2.1 = e)).length = 1)) &&
      (!(rejoinCauses s d ns).isEmpty ||
        ((linksOf d).all (fun l => !((linkOf s l).state == .training)) &&
          (march = 1 || (lines.isEmpty && banks.isEmpty)) && lines.all (fun a => poolOf (a / 65536) = some d) &&
          ((lines.map (· / 65536)).foldl insertNew []).length = lines.length && decide (lines.length ≤ 256) &&
          banks.all (· < 64)))
  | .failed stage => decide (3 ≤ stage) && decide (stage ≤ 0x0A)

def execDieRejoinDone (d : Fin 4) (result : RejoinEnd) (s : State) : Host.Outcome State Fault Refusal :=
  match dieCmd s 0x0C02 d.val with
  | none => .refused (.cannotOccur "no rejoin runs")
  | some b =>
    occurs s ((dieOf s d.val).state == .rejoining && !s.cp.recovery && mayRejoin s d.val (pay b 0 1) result)
      "the rejoin cannot end so" (rejoinDone s d.val (pay b 0 1) result)

/-- Firmware builds a new copy of a grammar on a usable die that serves a request of it, after every copy was lost (R469). -/
def execGrammarCopyBuilt (handle : Nat) (d : Fin 4) (s : State) : Host.Outcome State Fault Refusal :=
  let g := tget (default : Grammar) s.grammars handle
  occurs s (thas s.grammars handle && g.slowPath && (wantsCopy s handle).contains d.val && !s.cp.recovery &&
      decide (gramPages g.header ≤ freeLess s d.val)) "no copy of the grammar is being built" (buildCopy s d.val handle)

end Sys2Proof.Machine
end

