-- ==== Sys2Proof/Machine/Constraint.lean ====
section
/-! DEFINITION. The constraint engine: which tokens a grammar allows at a position, masks, pruning of candidate trees and
dead ends: row MASK_READY (15 R447 to R468). -/

namespace Sys2Proof.Machine

open Sys2Proof

/-! ### The automaton (R448, R456, R458)

The sections of an image come decoded (log entry 12): the lexer and the pushdown grammar as one deterministic automaton
over symbols, a symbol being a byte, or a special token that the grammar names. A transition that pushes or pops looks at
the symbol without taking it: a push calls a rule, whose first state is `next`, with the state to return to; a pop returns. -/

/-- A configuration: the state, and the stack with its top first (R460). -/
structure GConf where
  state : Nat
  stack : List Nat := []
  deriving DecidableEq, Repr

/-- The symbol of a special token, and of the end of the output. -/
def specialSym (t : Nat) : Nat := 256 + t
def endSym : Nat := 2 ^ 40

/-- The transition of a configuration on a symbol. -/
def gramTrans (g : GrammarImage) (c : GConf) (sym : Nat) : Option GTrans :=
  g.trans.find? (fun t => t.state = c.state && t.first ≤ sym && sym ≤ t.last)

/-- A symbol consumed, within STACK_DEPTH; `fuel` bounds the moves. -/
def gramMove (g : GrammarImage) (depth sym : Nat) : Nat → GConf → Option GConf
  | 0, _ => none
  | fuel + 1, c =>
    match gramTrans g c sym with
    | none => none
    | some t =>
      if t.pop then
        match c.stack with
        | [] => none
        | r :: rest => gramMove g depth sym fuel { state := r, stack := rest }
      else
        match t.push with
        | some p =>
          if c.stack.length < depth then gramMove g depth sym fuel { state := t.next, stack := p :: c.stack } else none
        | none => some { c with state := t.next }

/-- A bound on the moves that one symbol takes. -/
def gramFuel (g : GrammarImage) (depth : Nat) : Nat := (g.trans.length + 1) * (depth + 1)

/-- The output may end in a configuration. -/
def gramAccepts (g : GrammarImage) (depth : Nat) : Nat → GConf → Bool
  | 0, _ => false
  | fuel + 1, c =>
    match gramTrans g c endSym with
    | none => c.stack.isEmpty && g.accepting.contains c.state
    | some t =>
      if t.pop then
        match c.stack with
        | [] => false
        | r :: rest => gramAccepts g depth fuel { state := r, stack := rest }
      else
        match t.push with
        | some p => if c.stack.length < depth then gramAccepts g depth fuel { state := t.next, stack := p :: c.stack } else false
        | none => false

/-- Symbols consumed in turn. -/
def gramRun (g : GrammarImage) (depth : Nat) : List Nat → GConf → Option GConf
  | [], c => some c
  | x :: rest, c =>
    match gramMove g depth x (gramFuel g depth) c with
    | some c1 => gramRun g depth rest c1
    | none => none

/-! ### Requests with a grammar -/

/-- The grammar of a request. -/
def gramOf (s : State) (i : Nat) : Grammar := tget (default : Grammar) s.grammars (entOf s i).b.grammar
/-- A range-only image accepts every token (R452). -/
def rangeOnly (g : Grammar) : Bool := byteAt g.header 6 = 4
/-- VOCAB_SIZE of a grammar image. -/
def gramVocab (g : Grammar) : Nat := field g.header 8 4

/-- Some tokens have contributed a byte (R434, R448). -/
def contributes (img : List Byte) (toks : List Nat) : Bool := toks.any (fun t => !(tokBytes img false true t).isEmpty)

/-- The symbols of a token (R448). -/
def tokSyms (img : List Byte) (first : Bool) (t : Nat) : List Nat :=
  if bit (pieceKind img t) 1 then [specialSym t] else (tokBytes img false first t).map (·.toNat)

/-- A configuration advanced by a token; EOS leaves it. -/
def gramToken (g : Grammar) (img : List Byte) (first : Bool) (t : Nat) (c : GConf) : Option GConf :=
  if rangeOnly g || t = vocEos img then some c
  else gramRun g.image (gramDepth g.header) (tokSyms img first t) c

/-- A configuration advanced by tokens, of which `before` came first. -/
def gramPath (g : Grammar) (img : List Byte) : List Nat → List Nat → GConf → Option GConf
  | _, [], c => some c
  | before, t :: rest, c =>
    match gramToken g img (!contributes img before) t c with
    | some c1 => gramPath g img (before ++ [t]) rest c1
    | none => none

/-- The configuration of a request after its committed tokens and a path of candidates: a checkpoint (R464). -/
def confAt (s : State) (i : Nat) (path : List Nat) : Option GConf :=
  let e := entOf s i
  let x := entXOf s i
  gramPath (gramOf s i) (vocabBytes s e.b.vocab) (generatedTokens e) path { state := x.automaton, stack := x.gstack }

/-- Range constraints at a generated position (R459). -/
def rangesAllow (g : GrammarImage) (pos t : Nat) : Bool :=
  g.ranges.all (fun r =>
    !(decide (r.first ≤ pos) && decide (pos ≤ r.last) && (pos - r.first) % r.period = 0) ||
      (decide (r.lo ≤ t) && decide (t ≤ r.hi)))

/-- The mask: whether a token is allowed behind a path of candidates (R456, R458). -/
def maskAllows (s : State) (i : Nat) (path : List Nat) (t : Nat) : Bool :=
  let g := gramOf s i
  let e := entOf s i
  let img := vocabBytes s e.b.vocab
  match confAt s i path with
  | none => false
  | some c =>
    decide (t < gramVocab g) && rangesAllow g.image (e.generated + path.length) t &&
      (if rangeOnly g then true
      else if t = vocEos img then bit (gramFlags g.header) 0 || gramAccepts g.image (gramDepth g.header) (gramFuel g.image (gramDepth g.header)) c
      else (gramToken g img (!contributes img (generatedTokens e ++ path)) t c).isSome)

/-- The mask allows no token. -/
def maskEmpty (s : State) (i : Nat) (path : List Nat) : Bool :=
  !(List.range (gramVocab (gramOf s i))).any (maskAllows s i path)

/-! ### Candidate trees (R464 to R466) -/

/-- Node `n` of a tree; nodes count from 1. -/
def nodeAt (tree : List TreeNode) (n : Nat) : TreeNode := tree.getD (n - 1) (default : TreeNode)

/-- The tokens from the root to a node; `fuel` bounds the depth. -/
def nodePath (tree : List TreeNode) : Nat → Nat → List Nat
  | 0, _ => []
  | fuel + 1, n =>
    if n = 0 ∨ tree.length < n then []
    else nodePath tree fuel (nodeAt tree n).parent ++ [(nodeAt tree n).token]

/-- The path of a node of a request's tree. -/
def pathOf (s : State) (i n : Nat) : List Nat := nodePath (entXOf s i).tree ((entXOf s i).tree.length + 1) n

/-- The nodes left when some go with their subtrees, by number. -/
def keptNodes (tree : List TreeNode) (bad : Nat → Bool) : List Nat :=
  (List.range tree.length).foldl (fun kept k =>
    let p := (nodeAt tree (k + 1)).parent
    if !bad (k + 1) && (p = 0 || kept.contains p) then kept ++ [k + 1] else kept) []

/-- The tree without some nodes and their subtrees, numbered again. -/
def dropNodes (tree : List TreeNode) (bad : Nat → Bool) : List TreeNode :=
  let kept := keptNodes tree bad
  kept.map (fun n => { nodeAt tree n with
    parent := if (nodeAt tree n).parent = 0 then 0 else kept.idxOf (nodeAt tree n).parent + 1 })

/-- The mask of a node, the root being 0, is ready. -/
def nodeReady (s : State) (i n : Nat) : Bool :=
  (entXOf s i).maskFor = some (entOf s i).generated && (n = 0 || (nodeAt (entXOf s i).tree n).ready)

/-- The tree without the children of a node that its mask does not allow (R465). -/
def pruneUnder (s : State) (i n : Nat) : State :=
  let tree := (entXOf s i).tree
  let path := pathOf s i n
  updEntX s i (fun x => { x with tree := dropNodes tree (fun k =>
    (nodeAt tree k).parent = n && !maskAllows s i path (nodeAt tree k).token) })

/-! ### MASK_READY -/

/-- The status of a natural end: a drained request ends CANCELLED (R482, R496). -/
def naturalStatus (s : State) (i status : Nat) : Nat := if (entOf s i).state == .draining then 0x104 else status

/-- A request taken out of whatever step it is in. -/
def dropStep (s : State) (i : Nat) : State :=
  s.steps.foldl (fun s kv => if kv.2.members.any (fun m => m.1 = i) then leaveStep s kv.1 i else s) s

/-- A dead end at the committed state (R468). -/
def deadEnd (s : State) (i : Nat) : State :=
  let st := naturalStatus s i 0x103
  endReq (dropFaultsOf (dropStep s i) i none) i .done st

/-- The node whose mask is computed next: the root, then the nodes whose parent's mask is ready, in their order. -/
def nextMask (s : State) (i : Nat) : Option Nat :=
  if !nodeReady s i 0 then some 0
  else ((List.range (entXOf s i).tree.length).map (· + 1)).find? (fun n =>
    !nodeReady s i n && nodeReady s i (nodeAt (entXOf s i).tree n).parent)

/-- A mask reaches the selection unit: counted, its node's children pruned; an empty mask at the committed state ends
the request. -/
def maskDone (s : State) (i n : Nat) : State :=
  let s1 := cnt s (entOf s i).b.fn 0x120 1
  if n = 0 then
    if maskEmpty s1 i [] then deadEnd s1 i
    else pruneUnder (updEntX s1 i (fun x => { x with maskFor := some (entOf s i).generated })) i 0
  else
    pruneUnder (updEntX s1 i (fun x => { x with tree := x.tree.modify (n - 1) (fun k => { k with ready := true }) })) i n

/-- A constraint engine works on a request: its grammar, its function's engine and a die whose CCLK runs (R178, R461). -/
def maskable (s : State) (i : Nat) : Bool :=
  let e := entOf s i
  (e.state == .admitted || e.state == .prefill || e.state == .ready || e.state == .decode || e.state == .draining) &&
    e.b.grammar ≠ 0 && engineOn s e.b.fn 3 && (groupDies (modelOf s i)).any (fun d => dieUsable s d && !(dieOf s d).gated)

def execMaskReady (ledger : Nat) (s : State) : Host.Outcome State Fault Refusal :=
  match nextMask s ledger with
  | some n => occurs s (maskable s ledger) "no mask of the request is in work" (maskDone s ledger n)
  | none => .refused (.cannotOccur "no mask of the request is in work")

end Sys2Proof.Machine
end

