-- ==== Sys2Proof/Machine/Energy.lean ====
section
/-! DEFINITION. Energy and heat: attribution, the tide exchange, planning, reservoirs, keep, trips and throttling: rows
TIDE_REPORT to TEMP_UPDATE, EPR_N_FALL, EPR_N_RISE and PRE_READY_MS_MARK, and the energy part of a tide boundary (19 R559
to R585, 02 R40 to R42, R47, 25 R653). -/

namespace Sys2Proof.Machine

open Sys2Proof

/-- The domains that planning counts: the Harbour die and the dies that run (R564). -/
def domUsable (s : State) (d : Nat) : Bool := d = 4 || dieUsable s d || (dieOf s d).state == .draining
/-- The usable domains. -/
def domains (s : State) : List Nat := (List.range 5).filter (domUsable s)
/-- The ceiling of a domain in µJ per tide (R562). -/
def ceilUj (d : Nat) : Nat := if d = 4 then 70000 else 90000

/-! ### The messages of the exchange (R565) -/

/-- The data of a domain's tide report for the tide that has ended. -/
def reportBytes (s : State) (d : Nat) (m : TideReportMsg) : List Byte :=
  let x := domOf s d
  le 1 0x20 ++ le 1 d ++ le 2 0 ++ le 4 s.energy.tides ++ le 4 x.usedUj ++ le 4 m.reqDec ++ le 4 (max m.reqDec m.reqTotal) ++
    le 4 x.reservoir ++ le 2 (thermOf s d).temp.toNat ++ le 1 (b2n (thermOf s d).throttle + 2 * b2n x.tripped) ++ le 1 x.keepWas

/-- The data of the tide grant of a domain for the tide after this one: the grant, the reservoir draw permitted and the fast
limit. -/
def grantBytes (s : State) (d grant draw fast : Nat) : List Byte :=
  le 1 0x21 ++ le 1 d ++ le 2 0 ++ le 4 (s.energy.tides + 2) ++ le 4 grant ++ le 4 draw ++ le 4 fast

/-! ### Planning (R566) -/

/-- A domain in the planner's computation: its reported needs and reservoir, its allowance so far and its draw. -/
structure PlanRow where
  d     : Nat
  total : Nat
  dec   : Nat
  res   : Nat
  a     : Nat
  draw  : Nat := 0
  short : Bool := false          -- given less than its decode-class need (R582)
  deriving DecidableEq, Repr

/-- The need of a domain in a class: 0 Harbour, 1 decode, 2 draw, 3 other. -/
def planNeed (cls : Nat) (x : PlanRow) : Nat :=
  let want := if cls = 0 then (if x.d = 4 then x.total - x.a else 0)
    else if cls = 1 then (if x.d < 4 then x.dec - x.a else 0)
    else if cls = 2 then min x.res (x.total - x.a)
    else x.total - x.a
  min want (ceilUj x.d - x.a)

/-- One class filled: in full when the budget allows it, else in proportion to need. -/
def planClass (p : Nat × List PlanRow) (cls : Nat) : Nat × List PlanRow :=
  let sum := (p.2.map (planNeed cls)).sum
  let give := fun (x : PlanRow) => if sum ≤ p.1 then planNeed cls x else p.1 * planNeed cls x / sum
  (p.1 - (p.2.map give).sum, p.2.map (fun x => { x with
    a := x.a + give x, draw := if cls = 2 then give x else x.draw,
    short := if cls = 1 then decide (give x < planNeed 1 x) else x.short }))

/-- The allowances of the usable domains for the tide after next. -/
def planRows (s : State) : List PlanRow :=
  let rows : List PlanRow := (domains s).map (fun d =>
    let b := (domOf s d).lastReport
    { d := d, total := field b 16 4, dec := field b 12 4, res := field b 20 4, a := floorUj d })
  ([0, 1, 2, 3].foldl planClass (980 * s.energy.effW - (rows.map (·.a)).sum, rows)).2

/-- The computed grants: on their way to the Crest dies, in force at once for the Harbour die, whose planner it is. A die
that has not reported since its rejoin gets none yet (R585). -/
def planTide (s : State) : State :=
  (planRows s).foldl (fun s x =>
    let fast := fastLimit x.a
    updDom s x.d (fun y =>
      let y1 := { y with short := x.short, shortTides := if x.short then y.shortTides + 1 else 0 }
      if x.d = 4 then { y1 with nextGrant := some (x.a - x.draw), nextDraw := x.draw, nextFast := fast }
      else if y.lastReport.isEmpty then y1
      else { y1 with plan := some (grantBytes s x.d (x.a - x.draw) x.draw fast) }))
    { s with energy := { s.energy with planned := true } }

/-- The planner computes when every usable domain has reported or is assumed to have. -/
def planWhenIn (s : State) : State :=
  if (domains s).all (fun d => (domOf s d).report) then planTide s else s

def execTideReport (dom : Fin 5) (msg : TideReportMsg) (s : State) : Host.Outcome State Fault Refusal :=
  occurs s (isReady s && !s.energy.planned && domUsable s dom.val && !(domOf s dom.val).report && !(dieOf s dom.val).mgrDown)
    "no report is due"
    (planWhenIn (updDom s dom.val (fun x => { x with report := true, lastReport := reportBytes s dom.val msg })))

/-- A report missing at 250 µs: the last one stands (R563). -/
def execTideReportTimeout (dom : Fin 5) (s : State) : Host.Outcome State Fault Refusal :=
  occurs s (isReady s && !s.energy.planned && domUsable s dom.val && !(domOf s dom.val).report) "no report is missing"
    (planWhenIn (updDom s dom.val (fun x => { x with report := true })))

/-- A Crest die receives its grant. -/
def grantTide (s : State) (d : Nat) : State :=
  match (domOf s d).plan with
  | some b => updDom s d (fun x => { x with
      nextGrant := some (field b 8 4), nextDraw := field b 12 4, nextFast := field b 16 4, plan := none })
  | none => s

def execTideGrant (d : Fin 4) (s : State) : Host.Outcome State Fault Refusal :=
  occurs s (isReady s && domUsable s d.val && (domOf s d.val).plan.isSome && !(dieOf s d.val).mgrDown) "no grant is on its way" (grantTide s d.val)

/-! ### The allowance within a tide (R567, R568) -/

/-- At 97 % a die manager sets keep 4 and starts no new prefill step; the Harbour die paces its lanes, which only takes
time. -/
def reach97 (s : State) (d : Nat) : State :=
  if d < 4 then updDom (updDie s d (fun x => { x with keepPlan := 4 })) d (fun x => { x with noPrefill := true }) else s

def execAllowance97Reached (dom : Fin 5) (s : State) : Host.Outcome State Fault Refusal :=
  occurs s (isReady s && domUsable s dom.val && !(dieOf s dom.val).gated) "the domain has no allowance" (reach97 s dom.val)

/-- At 100 % the die's CCLK is gated to the tide boundary. -/
def exhausted (s : State) (d : Nat) : State :=
  updDom (updDie s d (fun x => { x with gated := true })) d (fun x => { x with noPrefill := true })

def execAllowanceExhausted (d : Fin 4) (s : State) : Host.Outcome State Fault Refusal :=
  occurs s (isReady s && domUsable s d.val && !(dieOf s d.val).gated) "the die has no allowance" (exhausted s d.val)

/-! ### Fast trips (R41, R42, R573 to R575) -/

/-- The die's CCLK is halved. -/
def halved (x : Die) : Bool := x.tripEpr || x.tripPower || x.tripTemp

/-- Halvings start on some dies: FAST_TRIP names those that were not halved before and have had none in this tide; its
keep and limit are the lowest die's (DEDUCED). -/
def startHalving (s : State) (dies : List Nat) (cause : Nat) (g : Die → Die) : State :=
  let fresh := dies.filter (fun d => !halved (dieOf s d) && !(domOf s d).fastPosted)
  let s1 := dies.foldl (fun s d => updDie s d g) s
  match fresh with
  | [] => s1
  | d :: _ =>
    let s2 := fresh.foldl (fun s d => updDom s d (fun x => { x with fastPosted := true })) s1
    post s2 0 {
      code := 0x42, object := fresh.foldl (fun a d => a + 2 ^ d) 0,
      data := le 1 cause ++ le 1 (dieOf s d).keepPlan ++ le 2 0 ++ le 4 (if cause = 0 then 0 else (domOf s d).fastMw) }

/-- The Crest dies whose halving by EPR_N the FAST_TRIP event names. -/
def eprDies (s : State) : List Nat := (List.range 4).filter (fun d => domUsable s d || (dieOf s d).state == .starting)

/-- A die's EPR_N halving before roll call has found the die (R63). -/
def eprAbsent (s : State) : State :=
  ((List.range 4).filter (fun d => (dieOf s d).state == .absent)).foldl (fun s d =>
    updDie s d (fun x => { x with tripEpr := true })) s

/-- EPR_N goes low. -/
def fallEpr (s : State) : State :=
  let s1 := { s with pins := { s.pins with eprN := false } }
  if s.pins.thermtrip then s1 else startHalving (eprAbsent s1) (eprDies s1) 0 (fun x => { x with tripEpr := true })

def execEprNFall (s : State) : Host.Outcome State Fault Refusal :=
  occursAlways (s.pins.pwrGood && s.pins.eprN) "EPR_N is low or power is not good" (fallEpr s)

/-- EPR_N returns high: the halving ends at the next tide boundary, or 1 ms mark before READY. -/
def execEprNRise (s : State) : Host.Outcome State Fault Refusal :=
  occursAlways (s.pins.pwrGood && !s.pins.eprN) "EPR_N is high or power is not good"
    { s with pins := { s.pins with eprN := true } }

def execFastTripPower (d : Fin 4) (s : State) : Host.Outcome State Fault Refusal :=
  occurs s (isReady s && domUsable s d.val && !(dieOf s d.val).tripPower) "the die has no fast limit or is tripped"
    (startHalving s [d.val] 1 (fun x => { x with tripPower := true }))

def execFastTripEnd (d : Fin 4) (s : State) : Host.Outcome State Fault Refusal :=
  occurs s (dieOf s d.val).tripPower "no power trip is active" (updDie s d.val (fun x => { x with tripPower := false }))

/-- Temperatures of R47, R573 and R577 in 1/16 °C. -/
def deg (c : Nat) : Int := 16 * c

/-- Halvings whose condition has ended stop: EPR_N high again, a temperature trip below 100 °C. The mirror of a lost die
keeps its last value (R225). -/
def endHalvings (s : State) : State :=
  (List.range 4).foldl (fun s d =>
    let cool := decide ((thermOf s d).temp.toInt < deg 100)
    let x := dieOf s d
    if !(x.state == .lost) && ((x.tripEpr && s.pins.eprN) || (x.tripTemp && cool)) then
      updDie s d (fun y => { y with tripEpr := y.tripEpr && !s.pins.eprN, tripTemp := y.tripTemp && !cool })
    else s) s

/-- What a mark of the 1 ms timer clears: the count of CRC errors per group and of FAST_TRIP per die. -/
def msClear (s : State) : State :=
  let s1 := (List.range 4).foldl (fun s d =>
    if (domOf s d).fastPosted || (domOf s d).tripped then updDom s d (fun x => { x with tripped := x.fastPosted, fastPosted := false })
    else s) s
  { s1 with links := tmap s1.links (fun _ k => { k with groupErr := [] }) }
/-- The next mark of the 1 ms timer. -/
def nextMark (s : State) : Nat := (s.now / 1000 + 1) * 1000
/-- Time passes to the next mark. -/
def msMark (s : State) : State := msClear (elapse s (nextMark s))

/-- A 1 ms mark before READY (R42). -/
def execPreReadyMsMark (s : State) : Host.Outcome State Fault Refusal :=
  occurs s (s.pins.pwrGood && s.pins.perstN && decide (1 ≤ s.boot.stage) && decide (s.boot.stage < 0x0B))
    "no start-up is running" (endHalvings (msMark s))

/-! ### Heat (R224, R576 to R578, R47, R653) -/

/-- Thresholds of R655 that a temperature has reached. -/
def heatClass (t : Int) : Nat := ([95, 105, 115].filter (fun c => decide (deg c ≤ t))).length

/-- THERMAL_THROTTLE. -/
def throttleEvent (d : Nat) (enter : Bool) (t : BitVec 12) : Event :=
  { code := 0x41, object := 2 ^ d, data := le 1 d ++ le 1 (b2n enter) ++ le 2 t.toNat }

/-- The thermal trip latches: every clock of a die stops (R47) and READY returns to 0 (R75). -/
def thermalTrip (s : State) : State :=
  noteHealth { s with pins := { s.pins with thermtrip := true, readyOut := false } }

/-- A die enters or leaves throttling (R577). -/
def throttleChange (s : State) (d : Nat) (t : BitVec 12) : State :=
  let x := thermOf s d
  if !x.throttle && decide (deg 95 ≤ t.toInt) then
    post (updTherm s d (fun y => { y with throttle := true, keepMax := (dieOf s d).keepPlan })) 0 (throttleEvent d true t)
  else if x.throttle && decide (t.toInt < deg 92) then
    post (updTherm s d (fun y => { y with throttle := false })) 0 (throttleEvent d false t)
  else s

/-- A sensor update of a die. -/
def tempUpdate (s : State) (d : Nat) (t : BitVec 12) : State :=
  let old := (thermOf s d).temp
  let s1 := updTherm s d (fun x => { x with temp := t, maxT := if x.maxT.toInt < t.toInt then t else x.maxT })
  let s2 := if heatClass old.toInt = heatClass t.toInt then s1 else { s1 with pins := { s1.pins with smbAlert := true } }
  let s3 := throttleChange s2 d t
  let s4 := if d < 4 && decide (deg 105 ≤ t.toInt) && !(dieOf s3 d).tripTemp then
    startHalving s3 [d] 2 (fun x => { x with tripTemp := true }) else s3
  if deg 115 ≤ t.toInt then thermalTrip s4 else s4

/-- A die's sensors report: the die is there and not lost (R225, R656). -/
def sensed (s : State) (d : Nat) : Bool :=
  d = 4 || !((dieOf s d).state == .absent || (dieOf s d).state == .lost)

def execTempUpdate (dom : Fin 5) (temp : BitVec 12) (s : State) : Host.Outcome State Fault Refusal :=
  occurs s (s.pins.pwrGood && sensed s dom.val) "the die reports no temperature" (tempUpdate s dom.val temp)

/-! ### The end of a tide (R559, R560, R569) -/

/-- Energy of a tenant. -/
def tenantUses (s : State) (f uj : Nat) : State := updFn s f (fun x => { x with enTide := x.enTide + uj, enTotal := sat64 x.enTotal uj })

/-- A request is charged until it fails by FLR (R585). -/
def chargeable (s : State) (i : Nat) : Bool := thas s.ledger i && (entOf s i).endStatus ≠ stFlr

/-- Energy charged to a request, or to firmware when the request is gone. -/
def chargeReq (s : State) (d i uj : Nat) : State :=
  if chargeable s i then
    updDom (tenantUses (chargeRun s i uj) (entOf s i).b.fn uj) d (fun x => { x with charged := x.charged + uj })
  else updDom s d (fun x => { x with overhead := x.overhead + uj })

/-- Energy charged for a stream's run: to the request that has taken it, or kept with the run for the one that will. -/
def chargeStream (s : State) (d f st uj : Nat) : State :=
  match streamOf s f st with
  | none => updDom (tenantUses s f uj) d (fun x => { x with charged := x.charged + uj })
  | some x =>
    let t := x.takers.headD goneTaker
    if t ≠ goneTaker && chargeable s t then chargeReq s d t uj
    else
      updDom (tenantUses (updStream s f st (fun y => { y with energy := y.energy + uj })) f uj) d
        (fun y => { y with charged := y.charged + uj })

/-- A die's energy reconciled with its attributions: shares rounded down, the remainder to the request with the lowest
ledger index, or to the first stream when no request ran; all of it to firmware without an attribution. -/
def reconcile (s : State) (d : Nat) (m : DomainMeter) : State :=
  let a := (m.requests.map (·.2)).sum + (m.streams.map (·.2.2)).sum
  if a = 0 then updDom s d (fun x => { x with overhead := m.usedUj })
  else
    let share := fun n => n * m.usedUj / a
    let rest := m.usedUj - ((m.requests.map (fun r => share r.2)).sum + (m.streams.map (fun r => share r.2.2)).sum)
    let s1 := m.requests.foldl (fun s r => chargeReq s d r.1 (share r.2)) s
    let s2 := m.streams.foldl (fun s r => chargeStream s d r.1 r.2.1 (share r.2.2)) s1
    match m.requests.map (·.1), m.streams with
    | i :: is, _ => chargeReq s2 d (is.foldl min i) rest
    | [], (f, st, _) :: _ => chargeStream s2 d f st rest
    | [], [] => s2

/-- A reservoir at a tide end: it falls by the draw and banks unused allowance up to 20,000 µJ (R569). -/
def reservoirAfter (x : Domain) (used : Nat) : Nat :=
  let r := x.reservoir - x.draw
  r + min (x.allowance - used) (20000 - r)

/-- One domain's tide closes: its charges, its reservoir and the terms of book 6, and the registers of the tide. -/
def closeDom (s : State) (d : Nat) (m : DomainMeter) : State :=
  let s0 := updDom s d (fun x => { x with overhead := 0, charged := 0 })
  let s1 := reconcile s0 d m
  updDom s1 d (fun x =>
    let grant := x.allowance - x.draw
    let res := if domUsable s d then reservoirAfter x m.usedUj else 0
    let banked : Int := (res : Int) - x.reservoir
    { x with
      usedUj := m.usedUj, reservoir := res, banked := banked, returned := (grant : Int) - m.usedUj - banked,
      grant := if domUsable s d then grant else 0, floors := if x.onFloor then sat64 x.floors 1 else x.floors })

/-- A domain took part in the tide that ends. -/
def tookPart (s : State) (d : Nat) : Bool := (domOf s d).allowance ≠ 0

/-- A meter reads no more than the allowance on a Crest die (R567). -/
def meterOk (s : State) (meters : List DomainMeter) : Bool :=
  meters.length = 5 && (List.range 4).all (fun d => decide ((meters.getD d ({} : DomainMeter)).usedUj ≤ (domOf s d).allowance))

/-- The energy of the tide that ends: charges, reservoirs, tenants and caps (R528, R581). -/
def closeTide (s : State) (meters : List DomainMeter) : State :=
  let s1 := { s with fns := tmap s.fns (fun _ x => { x with enTide := 0 }) }
  let s2 := (List.range 5).foldl (fun s d =>
    if tookPart s d then closeDom s d (meters.getD d ({} : DomainMeter))
    else updDom s d (fun x => { x with usedUj := 0, grant := 0, overhead := 0, charged := 0, banked := 0, returned := 0 })) s1
  let pkg := ((List.range 5).map (fun d => (domOf s2 d).usedUj)).sum
  { s2 with
    fns := tmap s2.fns (fun _ x => { x with
      enCapTides := if x.capHeld then sat64 x.enCapTides 1 else x.enCapTides, capLast := x.capHeld, capHeld := false }),
    energy := { s2.energy with
      tides := sat64 s2.energy.tides 1, pkgUj := pkg,
      pkgHist := (s2.energy.pkgHist ++ [pkg]).drop (s2.energy.pkgHist.length + 1 - 10) } }

/-! ### The start of a tide (R200, R563, R564, R567, R577) -/

/-- The effective package limit takes its new value, and EN_LIMIT shows the limits (R200, R217). -/
def applyLimit (s : State) : State :=
  let old := s.energy.effW
  let s1 := { s with energy := { s.energy with effW := effLimit s, bmcShown := s.energy.bmcW } }
  if effLimit s = old then s1 else post s1 0 (limitEvent s1 old)

/-- A domain's allowance for the tide that starts: its grant and the draw that its reservoir bears, or its floor. -/
def openDom (s : State) (d : Nat) : State :=
  let x := domOf s d
  let s1 :=
    if !domUsable s d then updDom s d (fun y => { y with allowance := 0, draw := 0, onFloor := false })
    else match x.nextGrant with
      | some g =>
        let w := min x.nextDraw x.reservoir
        updDom s d (fun y => { y with allowance := g + w, draw := w, fastMw := x.nextFast, onFloor := false })
      | none => onFloor s d
  updDom s1 d (fun y => { y with
    nextGrant := none, nextDraw := 0, plan := none, report := false, noPrefill := false, keepWas := (dieOf s d).keepPlan })

/-- The throttle keep at a boundary; it ends where it no longer limits the forecast's keep (R577). -/
def throttleKeep (x : Thermal) (raw : Nat) : Nat :=
  if x.throttle then (if deg 95 ≤ x.temp.toInt then max 4 (x.keepMax - 2) else x.keepMax)
  else if raw ≤ x.keepMax + 1 then 16 else x.keepMax + 1

/-- The planned keep and prefill clusters of a die for the tide that starts (R567, R577, R683), and the end of its gate. -/
def openDie (s : State) (d : Nat) (m : DomainMeter) : State :=
  if !domUsable s d then s
  else
    let raw := max 4 (min 16 m.keep)
    let tk := throttleKeep (thermOf s d) raw
    let x := dieOf s d
    let avs := if x.avsNoAck && decide (x.reqMv < x.fuses.fusedMv) then 12 else 16
    updDom (updTherm (updDie s d (fun y => { y with keepPlan := min raw (min tk avs), gated := false })) d
      (fun y => { y with keepMax := tk })) d (fun y => { y with clusters := min 16 m.clusters })

/-- The energy of the tide that starts. -/
def openTide (s : State) (meters : List DomainMeter) : State :=
  let s1 := (List.range 5).foldl openDom (applyLimit s)
  let s2 := (List.range 4).foldl (fun s d => openDie s d (meters.getD d ({} : DomainMeter))) s1
  endHalvings { s2 with energy := { s2.energy with planned := false } }

end Sys2Proof.Machine
end

