-- ==== Sys2Proof/Machine/Sched.lean ====
section
/-! DEFINITION. The scheduler: step time, slots, urgency, pauses and the formation of steps: rows PREFILL_STEP_FORM and
DECODE_STEP_FORM (17 R503 to R528, 11 R357, 23 R645 to R647). -/

namespace Sys2Proof.Machine

open Sys2Proof

/-! ### Groups -/

/-- A loaded model by its handle. -/
def modelAt (s : State) (h : Nat) : Model := tget (default : Model) s.models h

/-- A group may form steps: every die usable, none held, the model usable (R206, R360, R597). -/
def groupRuns (s : State) (h : Nat) : Bool :=
  thas s.models h && !(modelAt s h).unusable && (groupDies (modelAt s h)).all (dieUsable s) && !groupHeld s h

/-- The live requests of a group that meet a condition. -/
def mine (s : State) (h : Nat) (p : Nat → Entry → Bool) : List Nat :=
  liveWhere s (fun i e => (entXOf s i).runsOn = h && p i e)

/-- The steps of one kind in flight of a group. -/
def flying (s : State) (h : Nat) (decode : Bool) : List Step :=
  (s.steps.filter (fun kv => kv.2.model = h && kv.2.decode = decode)).map (·.2)

/-- Dense clusters per die that the group's steps of a kind run on. -/
def busyClusters (s : State) (h : Nat) (decode : Bool) : Nat := ((flying s h decode).map (·.clusters)).sum

/-- Dense clusters lent to decode that have joined it: one still running a prefill step joins at its commit (R523). -/
def lentNow (s : State) (h : Nat) : Nat :=
  if proportional s then min (modelAt s h).lent ((modelAt s h).dense - busyClusters s h false) else 0

/-- Requests of a group that hold decode slots. -/
def holders (s : State) (h : Nat) : List Nat :=
  mine s h (fun i e => (entXOf s i).slot && (e.state == .decode || e.state == .draining))

/-! ### Step time (R507, R508) -/

/-- The lowest planned keep of a group's dies. -/
def groupKeep (s : State) (h : Nat) : Nat := (groupDies (modelAt s h)).foldl (fun k d => min k (dieOf s d).keepPlan) 16

/-- FP8 operations per second of a stream cluster and of a dense cluster (R355). -/
def streamRate : Nat := 6140000000000
def denseRate : Nat := 49150000000000

/-- The correction factor C. -/
def corrFactor (m : Model) : Rat :=
  if m.ratios.length < 16 then 1 else max (1 / 2) (min 4 (m.ratios.sum / 16))

/-- The compute term of R507 in µs, for n rows and d lent clusters per die. -/
def computeUs (s : State) (h n d : Nat) : Rat :=
  let m := modelAt s h
  (n * m.image.wRow * 16 * 1000000 : Nat) / ((m.stream * streamRate + d * denseRate) * groupKeep s h : Nat)

/-- T_PRED in µs. -/
def predUs (s : State) (h n d : Nat) : Rat :=
  let m := modelAt s h
  corrFactor m * ((m.image.tFixUs : Rat) + max (m.image.tReadUs : Rat) (computeUs s h n d))

/-- RISK_PCT. -/
def riskPct (s : State) : Nat := itemNow s idRiskPct 0

/-- The step bound of some requests in µs. -/
def stepBound (s : State) (l : List Nat) : Rat :=
  match (l.map (fun i => (entOf s i).b.tbt)).filter (· ≠ 0) with
  | [] => (itemNow s idStepBound 0 : Rat)
  | t :: rest => ((riskPct s * rest.foldl min t : Nat) : Rat) / 100

/-! ### Who may join steps (R503, R505, R517, R528) -/

/-- The tenant has used up its per-tide energy cap: `uj` gives the running energy of each tenant (R528, R561). -/
def overCap (s : State) (uj : List (Nat × Nat)) (f : Nat) : Bool :=
  let cap := itemNow s idEnergyCap f
  cap ≠ 0 && uj.any (fun p => p.1 = f && decide (cap ≤ p.2))

/-- The engines that a request needs run (R178). -/
def enginesUp (s : State) (i : Nat) : Bool :=
  let b := (entOf s i).b
  engineOn s b.fn 4 && (b.grammar = 0 || engineOn s b.fn 3)

/-- Felting of what the request has committed is done, or its output is held for want of a buffer (R148, R433, R446). -/
def feltDone (s : State) (i : Nat) : Bool :=
  (entXOf s i).drained || (unfelted s i).isEmpty || (flagNumeric (entOf s i).b && (numBuffer s i).isNone)

/-- A request's pages come back from the Tidepool by bulk copy before its first step: its home dies have room for them
and a reserve above HBM_LOW_PCT (R554). -/
def bulkReturn (s : State) (i : Nat) : Bool :=
  let m := modelOf s i
  let need := fun d => (((entOf s i).kv.filter (·.pooled)).map (fun b =>
    ((List.range b.pages.length).filter (fun k => b.pages.getD k 0 ≠ 0 && pageTier (b.pages.getD k 0) = 1 && homeDie m k = d)).length)).sum
  hasPooled s i && (groupDies m).all (fun d =>
    decide (need d + pagesPerBlock m ≤ freeLess s d) && atLeastPct d (freeLess s d - need d - pagesPerBlock m) (lowPct s d))

/-- The completion ring that a request reports to is HELD: it joins no further step (R147). -/
def ringFull (s : State) (i : Nat) : Bool := (ringOf s (entOf s i).b.fn (entOf s i).b.cplRing).state == .held

/-- A holder of a slot may join the next decode step but for its tenant's cap. -/
def mayDecode (s : State) (i : Nat) : Bool :=
  !(entXOf s i).inStep && !outHeld s i && !(entXOf s i).faultOut && !bucketEmpty s (entOf s i).b.fn && enginesUp s i &&
    feltDone s i && !bulkReturn s i && !ringFull s i

/-- A forced drain after a cancel, a CLOSE or an FLR (R104, R495). -/
def forcedFill (e : Entry) : Bool := e.forced && (e.state == .cancelling || e.state == .failed)

/-- Prefill tokens that a request has still to compute; a forced drain after an FLR ends with the last block that a
waiter matched (R104). -/
def fillLeft (s : State) (i : Nat) : Nat :=
  let e := entOf s i
  if e.state = .failed then
    ((entXOf s i).prefixWaiters.map (fun w => 32 * (entXOf s w).prefixLen)).foldl max 0 - e.kvDone
  else prefillLeft e

/-- A request waits for prefill: its prompt run complete, no prefix awaited, its prefill not complete (R505, R497). -/
def waitsFill (s : State) (i : Nat) : Bool :=
  let e := entOf s i
  e.promptLen ≠ 0 && (entXOf s i).prefixParent.isNone && !kvComplete s i && decide (0 < fillLeft s i) &&
    (e.state == .admitted || e.state == .prefill || e.state == .draining || forcedFill e)

/-- The tokens that a request's prefill runs over, from where it starts (R357). -/
def fillSize (s : State) (i : Nat) : Nat := prefillTarget (entOf s i) - (entXOf s i).fillFrom

/-- The requests of a group that wait for prefill, in prefill order: one that others wait on ranks as priority 0 (R505). -/
def fillOrder (s : State) (h : Nat) : List Nat :=
  sortBy (rankBy s (fun i => if (entXOf s i).prefixWaiters.isEmpty then effPrio (entOf s i) else 0))
    ((groupReqs s h).filter (waitsFill s))

/-- A waiting request may take a prefill chunk but for its tenant's cap: pacing holds ADMITTED and DRAINING ones, and a
forced drain runs as a reference inside the device (R104, R517). -/
def mayFill (s : State) (i : Nat) : Bool :=
  let e := entOf s i
  !(entXOf s i).inStep && !(entXOf s i).faultOut && (forcedFill e || (enginesUp s i && !bulkReturn s i && !ringFull s i &&
    (e.state == .prefill || !bucketEmpty s e.b.fn)))

/-! ### Risk and urgency (R511 to R513) -/

/-- TTFT risk of a request that has `ahead` prefill tokens to wait for, its own included, with d clusters lent. -/
def ttftRisk (s : State) (h d ahead i : Nat) : Bool :=
  let e := entOf s i
  let m := modelAt s h
  let rate : Nat := (m.dense - d) * denseRate * groupKeep s h      -- over 16 × W_ROW: tokens per second
  let spent : Int := (s.now : Int) - e.admitTime - e.hostPaused
  (e.state == .admitted || e.state == .prefill) && e.b.ttft ≠ 0 &&
    decide ((riskPct s * e.b.ttft * rate : Int) < 100 * (spent * rate + (ahead * 16 * m.image.wRow * 1000000 : Nat)))

/-- The waiting requests of a group at TTFT risk with d clusters lent. -/
def ttftRisks (s : State) (h d : Nat) : List Nat :=
  ((fillOrder s h).foldl (fun (a : Nat × List Nat) i =>
    let n := a.1 + fillLeft s i
    (n, if ttftRisk s h d n i then a.2 ++ [i] else a.2)) (0, [])).2

/-- TBT risk of a request whose next decode step takes `t` µs. -/
def tbtRisk (s : State) (t : Rat) (i : Nat) : Bool :=
  let e := entOf s i
  (e.state == .decode || e.state == .draining) && e.b.tbt ≠ 0 &&
    decide (((riskPct s * e.b.tbt : Nat) : Rat) < 100 * (((s.now - e.lastToken : Nat) : Rat) + t))

/-- A risk check of a group whose next decode step takes `t` µs: URGENT set on the requests at risk, cleared on the
others. -/
def riskCheck (s : State) (h : Nat) (t : Rat) : State :=
  let risky := ttftRisks s h (modelAt s h).lent
  (mine s h (fun _ _ => true)).foldl (fun s' i =>
    let u := risky.contains i || tbtRisk s t i
    if (entOf s' i).urgent = u then s' else updEnt s' i (fun e => { e with urgent := u })) s

/-- Requests of effective priority 0 to 5 among some. -/
def highPrio (s : State) (l : List Nat) : List Nat := l.filter (fun i => effPrio (entOf s i) ≤ 5)

/-! ### Decode slots (R485, R497, R509, R647) -/

/-- Why a slot is refused. -/
inductive SlotWhy where
  | batch | bound | pages | output
  deriving DecidableEq, Repr

/-- OUT_STREAM can take a request's output: no earlier request of it has still to end (R428, R485). -/
def outReady (s : State) (i : Nat) : Bool := (outStreamOf s i).takers.head? = some i

/-- A request needs pages for its speculation reserve (R509, R535). -/
def needsPages (s : State) (i : Nat) : Bool := !(entOf s i).kv.any (·.reserve)

/-- The answer to a request for a slot when `n` requests hold one and `granted` were granted at this formation; none
grants it. The pages it needs are those of its speculation reserve. -/
def slotWhy (s : State) (h i n granted : Nat) (replaces : Bool) : Option SlotWhy :=
  let m := modelAt s h
  let d := lentNow s h
  let bound := stepBound s (holders s h ++ [i])
  let byRead := decide (computeUs s h (n + 1) d ≤ (m.image.tReadUs : Rat))
  let mayGrow := match m.lastUs with
    | none => true
    | some t => decide (100 * (t : Rat) ≤ 98 * bound)
  if itemNow s idMaxBatch 0 ≤ n then some .batch
  else if bound < predUs s h (n + 1) d then some .bound
  else if needsPages s i && !canClaim s i false then some .pages
  else if !outReady s i then some .output
  else if byRead && !(mayGrow && decide (granted < 8)) && !replaces then some .bound
  else none

/-- Whether R647 lets a slot in only as a replacement. -/
def needsReplace (s : State) (h i n granted : Nat) : Bool := (slotWhy s h i n granted false).isSome

/-- A slot given: READY goes to DECODE (R472), a drained request stays DRAINING. -/
def giveSlot (s : State) (i : Nat) : State :=
  updEntX (updEnt s i (fun e => { e with state := if e.state = .ready then .decode else e.state })) i
    (fun x => { x with slot := true, slotRefusedAt := none })

/-- Requests that wait for a slot, by rank. -/
def slotWaits (s : State) (h : Nat) : List Nat :=
  ranked s (mine s h (fun i e => !(entXOf s i).slot && !(entXOf s i).inStep &&
    (e.state == .ready || (e.state == .draining && e.promptLen ≠ 0 && kvComplete s i))))

/-- The time since which batch or bound refuse a slot to a READY request of effective priority 0 to 5 (R525). -/
def noteRefused (s : State) (i : Nat) (why : SlotWhy) : State :=
  if (why = .batch ∨ why = .bound) ∧ (entOf s i).state = .ready ∧ effPrio (entOf s i) ≤ 5 then
    updEntX s i (fun x => { x with slotRefusedAt := some (x.slotRefusedAt.getD s.now) })
  else updEntX s i (fun x => { x with slotRefusedAt := none })

/-- Grants in rank order: a refusal stops the grants of the requests below that need the same. Batch and step bound stop
all of them, pages those that need pages (`short` says that a request has found none), and output none (R509). -/
def grantList (s : State) (h : Nat) : Nat → Bool → List Nat → State
  | _, _, [] => s
  | granted, short, i :: rest =>
    let n := (holders s h).length
    match if short && needsPages s i then some .pages else slotWhy s h i n granted (decide (0 < (modelAt s h).replaced)) with
    | none =>
      let s1 := if needsReplace s h i n granted then
          { s with models := tput s.models h { modelAt s h with replaced := (modelAt s h).replaced - 1 } }
        else s
      grantList (giveSlot s1 i) h (granted + 1) short rest
    | some .output => grantList (noteRefused s i .output) h granted short rest
    | some .pages => grantList (noteRefused s i .pages) h granted true rest
    | some why => (i :: rest).foldl (fun s j => noteRefused s j why) s

/-- SLOT_GRANT. -/
def grantSlots (s : State) (h : Nat) : State := grantList s h 0 false (slotWaits s h)

/-! ### Pauses of the scheduler (R525) -/

/-- First trigger: one DECODE request of the group pauses for each request that a full tide of refusals has met. -/
def pauseForSlots (s : State) (h : Nat) : State :=
  (mine s h (fun i e => e.state == .ready && effPrio e ≤ 5 && (match (entXOf s i).slotRefusedAt with
    | some t => decide (t + 1000 ≤ s.now)
    | none => false))).foldl (fun s i =>
      let s1 := updEntX s i (fun x => { x with slotRefusedAt := some s.now })
      match victims s (mine s h (fun _ e => mayPause e && e.state == .decode)) with
      | v :: _ => schedPause s1 v false
      | [] => s1) s

/-- Second trigger: DECODE requests of the group pause until the next step of `rows` and of the short prefills `short`, of
`extra` rows, fits its bound. -/
def pauseForBound (s : State) (h extra : Nat) (short rows : List Nat) : State :=
  ((victims s (rows.filter (fun i => mayPause (entOf s i) && (entOf s i).state == .decode))).foldl
    (fun (a : State × List Nat) v =>
      if predUs a.1 h (a.2.length + extra) (lentNow a.1 h) ≤ stepBound a.1 (a.2 ++ short) then a
      else (schedPause a.1 v false, remove a.2 v)) (s, rows)).1

/-! ### Forming a decode step (R503 to R510, R466, R535, R545) -/

/-- Work of tenants over their caps is held back, which the tide counts and the tenant is told once (R528, R581). -/
def noteCaps (s : State) (uj : List (Nat × Nat)) (held : List Nat) : State :=
  held.foldl (fun s i =>
    let f := (entOf s i).b.fn
    let x := fnOf s f
    if x.capHeld then s
    else
      let s1 := updFn s f (fun y => { y with capHeld := true })
      if x.capLast then s1
      else postFw s1 f {
        code := 0x43, object := f,
        data := le 4 (itemNow s idEnergyCap f) ++ le 4 ((uj.find? (fun p => p.1 = f)).getD (0, 0)).2 ++ le 8 s.energy.tides })
    s

/-- The rows of the next decode step: the holders that may join it. -/
def decodeRows (s : State) (h : Nat) (uj : List (Nat × Nat)) : List Nat :=
  (holders s h).filter (fun i => mayDecode s i && !overCap s uj (entOf s i).b.fn)

/-- Every dense cluster of the group runs prefill (R357). -/
def denseBusy (s : State) (h : Nat) : Bool :=
  decide (0 < (modelAt s h).dense) && decide ((modelAt s h).dense ≤ busyClusters s h false)

/-- Short prefills that join the decode step while every dense cluster runs prefill (R357, R506). -/
def shortFills (s : State) (h : Nat) (uj : List (Nat × Nat)) : List Nat :=
  if denseBusy s h then
    (fillOrder s h).filter (fun i => mayFill s i && fillSize s i ≤ 256 && !overCap s uj (entOf s i).b.fn)
  else []

/-- The depth of a node; `fuel` bounds it. -/
def nodeDepth (tree : List TreeNode) (n : Nat) : Nat := (nodePath tree (tree.length + 1) n).length

/-- The deepest node of a tree, the last of them. -/
def deepest (tree : List TreeNode) : Nat :=
  ((List.range tree.length).map (· + 1)).foldl (fun best n => if nodeDepth tree best ≤ nodeDepth tree n then n else best) 0

/-- The request with the largest tree among some, the first of them. -/
def largestTree (s : State) (l : List Nat) : Nat :=
  l.foldl (fun best i => if (entXOf s best).tree.length < (entXOf s i).tree.length then i else best) (l.headD 0)

/-- TREE_TRIM: nodes go until the step of `n` request rows fits its bound; `fuel` bounds the nodes. -/
def trimTrees (s : State) (h n : Nat) (bound : Rat) (l : List Nat) : Nat → State
  | 0 => s
  | fuel + 1 =>
    let nodes := (l.map (fun i => (entXOf s i).tree.length)).sum
    if nodes = 0 ∨ predUs s h (n + nodes) (lentNow s h) ≤ bound then s
    else
      let i := largestTree s l
      let bad := deepest (entXOf s i).tree
      trimTrees (updEntX s i (fun x => { x with tree := dropNodes x.tree (· = bad) })) h n bound l fuel

/-- A tree as the step takes it: without nodes whose parent's mask is not ready (R466), and without those whose slot no
page covers (R287, R545). -/
def readyTree (s : State) (i : Nat) : State :=
  let e := entOf s i
  let s1 := if e.b.grammar = 0 then s
    else updEntX s i (fun x => { x with tree := dropNodes x.tree (fun n => !nodeReady s i (nodeAt x.tree n).parent) })
  updEntX s1 i (fun x => { x with tree := x.tree.take (32 * e.kv.length - committedLen e) })

/-- A request begins a prefill step: ADMITTED goes to PREFILL; a re-prefill that begins counts and clears CACHE_LOST
(R472, R491). -/
def beginFill (s : State) (i : Nat) : State :=
  let s1 := updEnt s i (fun e => { e with state := if e.state = .admitted then .prefill else e.state })
  if (entXOf s1 i).reprefill = 1 then
    updEntX (updEnt s1 i (fun e => { e with cacheLost := false })) i
      (fun x => { x with reprefill := 2, reprefills := x.reprefills + 1, damaged := none })
  else s1

/-- The cover extended over a prefill chunk from the tier H pools alone (R505); `fuel` bounds the blocks. -/
def coverHot (s : State) (i n : Nat) : Nat → Option State
  | 0 => if n ≤ coverBlocks (entOf s i) then some s else none
  | fuel + 1 =>
    if n ≤ coverBlocks (entOf s i) then some s
    else if (entOf s i).kv.any (·.reserve) then
      coverHot (updEnt s i (fun e => { e with kv := e.kv.map (fun b => { b with reserve := false }) })) i n fuel
    else if canClaim s i false then coverHot (addBlock s i (newBlock (modelOf s i) false)) i n fuel
    else none

/-- A request takes `n` prefill tokens into a step, when its pages can be reserved. -/
def takeChunk (s : State) (i n : Nat) : Option State :=
  let need := blocksFor ((entOf s i).kvDone + n)
  (coverHot s i need need).map (fun s1 => updEntX (beginFill s1 i) i (fun x => { x with inStep := true }))

/-- A step put in flight. -/
def launch (s : State) (st : Step) : State :=
  { s with steps := tput s.steps s.nextStep st, nextStep := s.nextStep + 1 }

/-- A group without a bank fails the requests of a step that would form (R317). -/
def failRows (s : State) (rows : List Nat) : State :=
  rows.foldl (fun s i => failReq (dropFaultsOf s i none) i stStepFault) s

/-- Short prefills taken into a decode step, with their members. -/
def takeShort (s : State) (l : List Nat) : State × List (Nat × Nat) :=
  l.foldl (fun (a : State × List (Nat × Nat)) i =>
    let n := fillLeft a.1 i
    match takeChunk a.1 i n with
    | some s1 => (s1, a.2 ++ [(i, n)])
    | none => a) (s, [])

/-- The cover of a row's own slot, claimed again where a Tidepool move has dropped it. -/
def coverRow (s : State) (i : Nat) : State :=
  let n := blocksFor (committedLen (entOf s i))
  (coverTo s i n n).1

/-- The rows joined: a damaged range is re-prefilled first (R492), and the trees are what the step verifies. -/
def joinRow (s : State) (i : Nat) : State :=
  let mend := (entOf s i).cacheLost && (entXOf s i).reprefill = 0
  readyTree (coverRow (updEntX s i (fun x => { x with inStep := true, mend := mend })) i) i

/-- Every request of a step is in fast mode: the step runs in fast order (R373, R504). -/
def allFast (s : State) (members : List (Nat × Nat)) : Bool := members.all (fun m => flagFast (entOf s m.1).b)

/-- The order in which a step forms its sums: fast order from its batch, its clusters and its dies, or the reproducible
order for every row of it (R371, R373, R504). -/
def stepOrder (s : State) (st : Step) : SumOrder :=
  let dies := (groupDies (modelAt s st.model)).length
  if st.fast then .fast st.members.length st.clusters dies else .canonical dies

/-- The step of some rows and short prefills forms. -/
def formRows (s : State) (h : Nat) (rows short : List Nat) : State :=
  let a := takeShort s short
  let s1 := rows.foldl joinRow a.1
  let n := rows.length + (a.2.map (·.2)).sum
  let s2 := trimTrees s1 h n (stepBound s1 (rows ++ a.2.map (·.1))) rows ((rows.map (fun i => (entXOf s1 i).tree.length)).sum + 1)
  let nodes := (rows.map (fun i => (entXOf s2 i).tree.length)).sum
  let members := rows.map (fun i => (i, 0)) ++ a.2
  if members.isEmpty then s2
  else launch s2 {
    model := h, decode := true, members := members, formedAt := s.now, clusters := lentNow s h, fast := allFast s members,
    pred := predUs s h (n + nodes) (lentNow s h) }

/-- A decode step of a group forms: slots are granted, risk is checked and pauses are taken, and the rows join (R503 to
R513, R525, R646). -/
def formDecode (s : State) (h : Nat) (uj : List (Nat × Nat)) : State :=
  let s0 := noteCaps s uj ((holders s h ++ fillOrder s h).filter (fun i =>
    (mayDecode s i || mayFill s i) && overCap s uj (entOf s i).b.fn))
  let s1 := pauseForSlots (grantSlots s0 h) h
  let short := shortFills s1 h uj
  let extra := (short.map (fillLeft s1)).sum
  let next := fun (s : State) => predUs s h ((decodeRows s h uj).length + extra) (lentNow s h)
  let s2 := riskCheck s1 h (next s1)
  let risky := (highPrio s2 ((decodeRows s2 h uj).filter (fun i => (entOf s2 i).state == .decode && tbtRisk s2 (next s2) i)))
  let again := decide (1 ≤ (modelAt s2 h).riskForms) && !risky.isEmpty
  let s3 := if again then
      let t := pauseForBound s2 h extra short (decodeRows s2 h uj)
      riskCheck t h (next t)
    else s2
  let s4 := { s3 with models := tput s3.models h { modelAt s3 h with
    riskForms := if risky.isEmpty then 0 else (modelAt s3 h).riskForms + 1, replaced := 0 } }
  let s5 := (groupDies (modelAt s4 h)).foldl pauseForPages s4
  let rows := decodeRows s5 h uj
  if (modelAt s5 h).bankless then failRows s5 rows else formRows s5 h rows (shortFills s5 h uj)

/-- A decode step of a group can form: none is in flight (R503). -/
def mayFormDecode (s : State) (h : Nat) : Bool := isReady s && groupRuns s h && (flying s h true).isEmpty

def execDecodeStepForm (model : Nat) (tenantUj : List (Nat × Nat)) (s : State) : Host.Outcome State Fault Refusal :=
  occurs s (mayFormDecode s model) "the group forms no decode step now" (formDecode s model tenantUj)

/-! ### Forming a prefill step (R505, R357, R527) -/

/-- The dense clusters per die that a prefill step may use: those that are not lent, as far as every die's grant
supports them. -/
def fillClusters (s : State) (h : Nat) : Nat :=
  let m := modelAt s h
  let lent := max (if proportional s then m.lent else 0) (busyClusters s h true)
  (groupDies m).foldl (fun n d => min n (if (domOf s d).noPrefill then 0 else (domOf s d).clusters - lent)) (m.dense - lent)

/-- Chunks taken in prefill order until their tokens reach `limit` (R505). -/
def takeChunks (s : State) (chunk limit : Nat) : List (Nat × Nat) → List Nat → State × List (Nat × Nat)
  | got, [] => (s, got)
  | got, i :: rest =>
    if limit ≤ (got.map (·.2)).sum then (s, got)
    else
      let n := min (fillLeft s i) chunk
      match takeChunk s i n with
      | some s1 => takeChunks s1 chunk limit (got ++ [(i, n)]) rest
      | none => takeChunks s chunk limit got rest

/-- A prefill step of a group forms. -/
def formPrefill (s : State) (h : Nat) (uj : List (Nat × Nat)) : State :=
  let s0 := noteCaps s uj ((fillOrder s h).filter (fun i => mayFill s i && overCap s uj (entOf s i).b.fn))
  let s1 := riskCheck s0 h (predUs s0 h (holders s0 h).length (lentNow s0 h))
  let order := (fillOrder s1 h).filter (fun i => mayFill s1 i && (forcedFill (entOf s1 i) || !overCap s1 uj (entOf s1 i).b.fn))
  if (modelAt s1 h).bankless then failRows s1 (order.filter (fun i => live (entOf s1 i).state))
  else
    let r := takeChunks s1 (itemNow s1 idPrefillChunk 0) (itemNow s1 idPrefillStep 0 * (groupDies (modelAt s1 h)).length) [] order
    if r.2.isEmpty then r.1
    else launch r.1 {
      model := h, decode := false, members := r.2, formedAt := s.now, clusters := fillClusters s1 h, fast := allFast s1 r.2 }

/-- A prefill step of a group can form: none is in flight and a dense cluster is free for it. -/
def mayFormPrefill (s : State) (h : Nat) : Bool :=
  isReady s && groupRuns s h && (flying s h false).isEmpty && decide (0 < fillClusters s h)

def execPrefillStepForm (model : Nat) (tenantUj : List (Nat × Nat)) (s : State) : Host.Outcome State Fault Refusal :=
  occurs s (mayFormPrefill s model) "the group forms no prefill step now" (formPrefill s model tenantUj)

/-! ### At a tide boundary (R515, R519, R522 to R526, R529, R582) -/

/-- BUCKET_REFILL. -/
def refillBuckets (s : State) : State :=
  { s with fns := tmap s.fns (fun f x =>
      let rate := bucketRate s f
      if rate = 0 then x
      else
        let sum := x.bucketFrac + rate
        let add : Int := max 0 (min ((sum / 1000 : Nat) : Int) ((itemNow s idBucketDepth f : Int) - x.bucket))
        { x with bucketFrac := sum % 1000, bucket := x.bucket + add, refilled := x.refilled + add }) }

/-- A quotient rounded to nearest, ties away from zero. -/
def roundDiv (a b : Nat) : Nat := (2 * a + b) / (2 * b)

/-- LENT_COUNT_UPDATE of one group (R522). -/
def lendGroup (s : State) (h : Nat) : State :=
  let m := modelAt s h
  let hi := (groupDies m).foldl (fun n d => min n (itemNow s idLendMax d)) (m.dense - 1)
  let rows := holders s h ++ highPrio s (mine s h (fun _ e => e.state == .ready))
  let bound := stepBound s rows
  let dn := ((List.range (hi + 1)).find? (fun d => decide (predUs s h rows.length d ≤ bound))).getD hi
  let pn := if (fillOrder s h).isEmpty then 0
    else (((List.range m.dense).map (· + 1)).find? (fun p => (ttftRisks s h (m.dense - p)).isEmpty)).getD m.dense
  let target := min hi (if dn + pn ≤ m.dense then dn else roundDiv (m.dense * dn) (dn + pn))
  let lent := if m.lent < target then min target (m.lent + 2) else max target (m.lent - 2)
  { s with models := tput s.models h { m with lent := lent } }

/-- The groups that run. -/
def runningGroups (s : State) : List Nat := (s.models.map (·.1)).filter (groupRuns s)

/-- The lent counts move under PROPORTIONAL and are 0 under GEN_FIRST (R522, R524). -/
def lendAll (s : State) : State :=
  if proportional s then (runningGroups s).foldl lendGroup s
  else { s with models := tmap s.models (fun _ m => { m with lent := 0 }) }

/-- TIDE_DENSE_SPLIT (R523): groups that cannot run drop out of it (R360). -/
def noteSplit (s : State) : State :=
  (List.range 4).foldl (fun s d =>
    let n := ((s.models.filter (fun kv => d ∈ groupDies kv.2 && !kv.2.unusable && (groupDies kv.2).all (fun k => dieUsable s k))).map (·.2.lent)).sum
    updDom s d (fun x => { x with split := n })) s

/-- Risk checks of every group. -/
def riskAll (s : State) : State :=
  (runningGroups s).foldl (fun s h => riskCheck s h (predUs s h (holders s h).length (lentNow s h))) s

/-- Tier H pages of a die that requests which run have still to take back from the Tidepool. -/
def owedPages (s : State) (d : Nat) : Nat :=
  ((liveWhere s (fun i e => !paused e.state && hasPooled s i)).map (fun i =>
    let m := modelOf s i
    (((entOf s i).kv.filter (·.pooled)).map (fun b => ((List.range b.pages.length).filter (fun k =>
      b.pages.getD k 0 ≠ 0 && pageTier (b.pages.getD k 0) = 1 && homeDie m k = d)).length)).sum)).sum

/-- The pages of a die that a resume needs: those in tier C, and a block of claims. -/
def resumeNeed (s : State) (i d : Nat) : Nat :=
  let m := modelOf s i
  ((entOf s i).kv.map (fun b => ((List.range b.pages.length).filter (fun k =>
    b.pages.getD k 0 ≠ 0 && pageTier (b.pages.getD k 0) = 1 && homeDie m k = d)).length)).sum + pagesPerBlock m

/-- The conditions of R526 for a request; `extra` counts the resumes of this boundary that will take slots. -/
def mayResume (s : State) (i extra : Nat) : Bool :=
  let e := entOf s i
  let h := (entXOf s i).runsOn
  let slot := kvComplete s i && !e.cacheLost && !(e.state == .expired)
  groupRuns s h && decide (e.pausedAt + 100000 ≤ s.now) &&
    (!slot || (slotWhy s h i ((holders s h).length + extra) extra false).isNone) &&
    (groupDies (modelOf s i)).all (fun d =>
      let free := freeLess s d - owedPages s d
      decide (resumeNeed s i d ≤ free) && atLeastPct d (free - resumeNeed s i d) (highPct s d))

/-- SCHEDULER_RESUME: the scheduler's pause ends; a request that the host has paused too stays paused (R493). -/
def resumeAll (s : State) : State :=
  ((ranked s (liveWhere s (fun _ e => e.schedPause && paused e.state))).foldl (fun (a : State × Nat) i =>
    if mayResume a.1 i a.2 then
      let s1 := updEnt a.1 i (fun e => { e with schedPause := false })
      (if (entOf s1 i).hostPause then s1 else wake s1 i, a.2 + 1)
    else a) (s, 0)).1

/-- A die short of its decode energy for 1,000 tides, with a request at risk and nothing left to pause, sheds one
request of its groups (R529, R582). -/
def shedDie (s : State) (d : Nat) : State :=
  let hs := (runningGroups s).filter (fun h => d ∈ groupDies (modelAt s h))
  let reqs := liveWhere s (fun i _ => hs.contains (entXOf s i).runsOn)
  let risk := (highPrio s reqs).any (fun i =>
    let h := (entXOf s i).runsOn
    tbtRisk s (predUs s h (holders s h).length (lentNow s h)) i)
  if (domOf s d).shortTides < 1000 || !risk || reqs.any (fun i => mayPause (entOf s i)) then s
  else
    let order := (ranked s (reqs.filter (fun i => (entOf s i).state ≠ .cancelling))).reverse
    let first := order.filter (fun i => (entOf s i).state = .admitted) ++ order
    match first with
    | i :: _ => failReq (dropFaultsOf (dropStep s i) i none) i stEnergyShed
    | [] => s

/-- The scheduler's work at a tide boundary, in the order of R646. -/
def schedTide (s : State) : State :=
  let s1 := noteSplit (lendAll (refillBuckets s))
  let s2 := riskAll s1
  let s3 := (runningGroups s2).foldl pauseForSlots s2
  let s4 := (List.range 4).foldl pauseForPages s3
  (List.range 4).foldl shedDie (resumeAll s4)

end Sys2Proof.Machine
end

