-- ==== Sys2Proof/Machine/Selection.lean ====
section
/-! DEFINITION. The selection unit: ranking, TOPK in passes, sampling and the random-value function (12 R380 to R393). -/

namespace Sys2Proof.Machine

open Sys2Proof

/-! ### Ranking and TOPK (R380 to R384)

An element of a row is its FP32 value and its index; a row in BF16 or FP16 is widened exactly. -/

/-- Element `a` ranks above element `b`. -/
def ranksAbove (a b : Nat × Nat) : Bool :=
  decide (rankKey b.1 < rankKey a.1) || (decide (rankKey a.1 = rankKey b.1) && decide (a.2 < b.2))

/-- An element put into a list in descending rank order. -/
def rankInto (x : Nat × Nat) : List (Nat × Nat) → List (Nat × Nat)
  | [] => [x]
  | y :: rest => if ranksAbove x y then x :: y :: rest else y :: rankInto x rest

/-- The best `n` elements, best first: the vector register of one pass. -/
def passBest (n : Nat) (l : List (Nat × Nat)) : List (Nat × Nat) :=
  l.foldl (fun best x => (rankInto x best).take n) []

/-- The passes of a TOPK: each returns the best 128 of the elements below the last one returned, the last pass the
remainder of `k`; `fuel` bounds the passes. -/
def topkPasses : Nat → Nat → List (Nat × Nat) → List (Nat × Nat)
  | 0, _, _ => []
  | fuel + 1, k, l =>
    let got := passBest (min k 128) l
    match got.getLast? with
    | none => []
    | some t => if k ≤ 128 then got else got ++ topkPasses fuel (k - 128) (l.filter (ranksAbove t))

/-- TOPK over the allowed elements of a row. -/
def topk (k : Nat) (l : List (Nat × Nat)) : List (Nat × Nat) := topkPasses 32 k l

/-- Result slots of a TOPK as the unit returns them (R381, R382): each element's index and its value in the row's format,
unused slots with index 0xFFFF_FFFF and the format's canonical NaN, and the count. `code` is the format of R361, `row` the
row in it, `mask` the allowed elements. -/
def topkSlots (code k : Nat) (row : List Nat) (mask : Nat → Bool) : Nat × List (Nat × Nat) :=
  let l := ((row.mapIdx (fun i v => (pack fp32 (valueOf code v), i))).filter (fun x => mask x.2))
  let got := (topk k l).map (fun x => (x.2, row.getD x.2 0))
  (got.length, got ++ List.replicate (k - got.length) (0xFFFFFFFF, convertTo code true .nan))

/-- Passes of a TOPK over its row (R383). -/
def passesOf (k : Nat) : Nat := (k + 127) / 128

/-- The clock cycles of a selection (R394): the start of a row, one pass over `v` elements of a format of R361, and the
sampling tail over `n` members. -/
def rowStartCycles : Nat := 150
def passCycles (code v : Nat) : Nat := (if code = 6 then (v + 127) / 128 else (v + 255) / 256) + 64
def tailCycles (n : Nat) : Nat := 96 + 3 * n
/-- The cycles of a TOPK call. -/
def topkCycles (code v k : Nat) : Nat := rowStartCycles + passesOf k * passCycles code v

/-! ### The random-value function (R392, R393) -/

/-- The four words of the generator. -/
structure RandState where
  x0 : Word
  x1 : Word
  x2 : Word
  x3 : Word
  deriving DecidableEq, Repr

/-- One round. -/
def randRound (key : Word) (x : RandState) (r : Nat) : RandState :=
  let x0 := x.x0 + key + BitVec.ofNat 32 r * 0x9E3779B9
  let x1 := x.x1 ^^^ x0.rotateLeft 7
  let x2 := x.x2 + x1 * 0x2C1B3C6D
  let x3 := x.x3 ^^^ x2.rotateLeft 13
  let x0 := x0 + x3 * 0x297A2D39
  { x0 := x1, x1 := x2, x2 := x3, x3 := x0 }

/-- The first word after the rounds. -/
def randWord (seed : DWord) (p : Nat) : Word :=
  let lo := seed.setWidth 32
  let hi := (seed >>> 32).setWidth 32
  ((List.range 4).foldl (randRound (lo ^^^ hi)) { x0 := BitVec.ofNat 32 p, x1 := lo, x2 := hi, x3 := 0x4E560C13 }).x0

/-- The uniform value of a seed and a position, in FP32. -/
def randValue (seed : DWord) (p : Nat) : Nat := pack fp32 (.fin false ((randWord seed p).toNat / 256) (-24))

/-! ### Sampling (R386 to R389) -/

/-- Members with their exponentials kept up to the first whose running sum reaches the share of top-p. -/
def topPKeep (target : Nat) : Nat → List (Nat × Nat) → List (Nat × Nat)
  | _, [] => []
  | s, (e, i) :: rest =>
    let c := fadd s e
    if rankKey target ≤ rankKey c then [(e, i)] else (e, i) :: topPKeep target c rest

/-- The scan of the draw: the first member whose running sum exceeds `t`, else the last. -/
def scanDraw (t : Nat) : Nat → List (Nat × Nat) → Option Nat
  | _, [] => none
  | s, (e, i) :: rest =>
    let c := fadd s e
    if rankKey t < rankKey c || rest.isEmpty then some i else scanDraw t c rest

/-- The left-to-right sum of the members' exponentials. -/
def expSum (l : List (Nat × Nat)) : Nat := l.foldl (fun s p => fadd s p.1) 0

/-- The highest-ranked member of a candidate set. -/
def bestMember : List (Nat × Nat) → Option (Nat × Nat)
  | [] => none
  | x :: rest => some (rest.foldl (fun b y => if ranksAbove y b then y else b) x)

/-- The tail of R388 over a candidate set, `desc` when it is in descending rank order: scaling, min-p, top-p and the
draw. Scaling keeps the order of the elements, so the highest-ranked member has the highest scaled value. -/
def sampleTail (b : ReqBind) (p : Nat) (desc : Bool) (c : List (Nat × Nat)) : Option Nat :=
  match bestMember c with
  | none => none
  | some best =>
    let r := frecip b.temp.toNat
    let m := fmul best.1 r
    match unpack fp32 m with
    | .nan => some best.2
    | .inf _ => some best.2
    | .fin _ _ _ =>
      let es := c.map (fun x =>
        let y := fmul x.1 r
        match unpack fp32 y with
        | .nan => (0, x.2)
        | .inf true => (0, x.2)
        | _ => (fexp (fsub y m), x.2))
      let kept := es.filter (fun e => decide (rankKey b.minP.toNat ≤ rankKey e.1))
      let kept2 := if desc && decide (b.topP.toNat < 0x3F800000) then topPKeep (fmul b.topP.toNat (expSum kept)) 0 kept
        else kept
      scanDraw (fmul (randValue b.seed p) (expSum kept2)) 0 kept2

/-- The token chosen from the allowed elements of a row, in ascending index order, for position `p`; none when no
element is allowed. -/
def chooseToken (b : ReqBind) (p : Nat) (l : List (Nat × Nat)) : Option Nat :=
  if b.temp = 0 || b.topK = 1 then (topk 1 l).head?.map (·.2)
  else if 1 ≤ b.topK then sampleTail b p true (topk b.topK l)
  else if b.topP.toNat < 0x3F800000 then sampleTail b p true (topk 4096 l)
  else sampleTail b p false l

/-- The elements of a logits row that a mask allows (R382). -/
def allowedElems (mask : Nat → Bool) (row : LogitsRow) : List (Nat × Nat) :=
  (row.mapIdx (fun i v => (v.toNat, i))).filter (fun x => mask x.2)

/-- The token sampled for a request from the row at a node, behind a path of candidates: with its own mask and the draw
of its position (R390, R391). -/
def sampleRow (s : State) (i : Nat) (path : List Nat) (row : LogitsRow) : Option Nat :=
  let e := entOf s i
  let mask := fun t => if e.b.grammar = 0 then true else maskAllows s i path t
  chooseToken e.b (committedLen e + path.length) (allowedElems mask row)

end Sys2Proof.Machine
end

