-- ==== Sys2Proof/Machine/Steps.lean ====
section
/-! DEFINITION. What steps do at their layer boundaries and commit points: rows STEP_LAYER_BOUNDARY and STEP_COMMIT
(08 R283, 16 R478 to R486, 18 R534 to R549, 15 R460 to R468, 07 R262). -/

namespace Sys2Proof.Machine

open Sys2Proof

/-- A step in flight by its number. -/
def stepAt (s : State) (id : Nat) : Step := tget (default : Step) s.steps id

/-! ### Layer boundaries (R104, R178, R262, R283, R494) -/

/-- What a layer boundary does to one member: a squashed request ends, one whose function's compute engine stops, or whose
completion ring is HELD (R147), leaves the step, and so does a forced drain after an FLR on which nobody waits any more. -/
def boundaryMember (id : Nat) (s : State) (m : Nat × Nat) : State :=
  let e := entOf s m.1
  if e.squash then takeOff (dropFaultsOf s m.1 none) id m.1
  else if e.state = .failed then
    if (entXOf s m.1).prefixWaiters.isEmpty then leaveStep (updEnt s m.1 (fun x => { x with forced := false })) id m.1 else s
  else if !forcedFill e && (!engineOn s e.b.fn 4 || ringFull s m.1) then takeOff s id m.1
  else s

/-- A layer boundary: a squashed or pre-empted step is abandoned, one that has read poison starts again, and `last` says
that no boundary is left before the commit point. -/
def layerBoundary (s : State) (id : Nat) (last : Bool) : State :=
  let x := stepAt s id
  if x.squashAll || x.preempt then abandonStep s id
  else updStep (x.members.foldl (boundaryMember id) s) id (fun y => { y with
    poisoned := false, lastLayer := last && !y.poisoned })

/-- A step can reach a layer boundary: it waits for no fault, and one is left. -/
def mayBoundary (s : State) (id : Nat) : Bool :=
  thas s.steps id && (stepAt s id).waiting.isEmpty && !(stepAt s id).lastLayer

def execStepLayerBoundary (step : Nat) (last : Bool) (s : State) : Host.Outcome State Fault Refusal :=
  occurs s (mayBoundary s step) "no such step is at a layer boundary" (layerBoundary s step last)

/-! ### What a member does at the commit point -/

/-- The prefill of a member ends with this step. -/
def fillEnds (s : State) (m : Nat × Nat) : Bool := decide (0 < m.2) && decide (fillLeft s m.1 ≤ m.2)

/-- A member samples: a decode row, or the end of a prefill that is no forced drain (R104, R481, R495). -/
def samples (s : State) (m : Nat × Nat) : Bool := (m.2 = 0 || fillEnds s m) && !forcedFill (entOf s m.1)

/-- The results that a step brings for a request. -/
def rowOf (rows : List StepRow) (i : Nat) : StepRow := (rows.find? (fun r => r.ledger = i)).getD { ledger := i }

/-- The nodes that a member verifies: its tree at a decode row, none behind a prefill. -/
def treeOf (s : State) (m : Nat × Nat) : List TreeNode := if m.2 = 0 then (entXOf s m.1).tree else []

/-- Every mask that a member ranks with is ready (R391, R463). -/
def masksReady (s : State) (m : Nat × Nat) : Bool :=
  (entOf s m.1).b.grammar = 0 || (nodeReady s m.1 0 && (treeOf s m).all (·.ready))

/-- A request whose steps propose candidates (R477, R544). -/
def speculates (s : State) (i : Nat) : Bool := flagSpeculate (entOf s i).b && decide (0 < (modelOf s i).image.heads)

/-- The results fit their request: a logits row of the model's vocabulary for the base position and for each node, and a
candidate for every node of the image's template, in template order (R544). -/
def rowsFit (s : State) (m : Nat × Nat) (r : StepRow) : Bool :=
  let v := (modelOf s m.1).image.vocabSize
  r.fault.isSome ||
    (decide (r.rows.length = 1 + (treeOf s m).length) && r.rows.all (fun row => decide (row.length = v)) &&
      (!speculates s m.1 || r.proposed.map (·.2) == (modelOf s m.1).image.template) && r.proposed.all (fun p => decide (p.1 < v)))

/-! ### KV of the committed positions (R534 to R548) -/

/-- A free page for a copy of a page: of the same die, or of tier C when it has none (R536, R541). -/
def copyTarget (s : State) (p : Nat) : Option Nat :=
  match findFree s (if pageTier p = 0 then pageDie p else 4) 1 with
  | some (q :: _) => some q
  | _ =>
    match findFree s 4 1 with
    | some (q :: _) => some q
    | _ => none

/-- A shared page copied for one writer, which alone is mapped to the copy (R541). Without a free page the writer fails
under R536. -/
def privatePage (i : Nat) (s : State) (p : Nat) : State :=
  if (pageOf s p).sharers.length ≤ 1 then s
  else
    match copyTarget s p with
    | none => s
    | some q =>
      let s1 := copyPage (takePages s [q] (asidOf (entOf s i).b.fn) .liveKv i) p q
      let s2 := updEnt s1 i (fun e => { e with kv := e.kv.map (fun b => { b with
        pages := b.pages.map (fun x => if x = p then q else x) }) })
      leavePage s2 i p

/-- The allocated pages of blocks `a` to `b` of a request. -/
def pagesOf (s : State) (i a b : Nat) : List Nat :=
  ((((entOf s i).kv.drop a).take (b + 1 - a)).map (fun x => x.pages.filter (· ≠ 0))).flatten

/-- Blocks whose pages nobody else uses count as unshared. -/
def noteShared (s : State) (i : Nat) : State :=
  updEnt s i (fun e => { e with kv := e.kv.map (fun b => { b with
    shared := b.shared && b.pages.any (fun p => decide (1 < (pageOf s p).sharers.length)) }) })

/-- The pages of slots `lo` to `hi` of a request made ready for its writes: shared ones are copied first (R541), absent ones
allocated (R535). -/
def readyKv (s : State) (i lo hi : Nat) : State :=
  let s1 := noteShared ((pagesOf s i (lo / 32) (hi / 32)).foldl (privatePage i) s) i
  fillBlocks s1 i (hi / 32 + 1)

/-- Positions `lo` to `hi` of a request written; the full writes clear the poison of their lines (R244, R550). -/
def writeKv (s : State) (i lo hi : Nat) (fast : Bool) : State := putKvEntries (readyKv s i lo hi) i lo hi fast

/-- The rows of a decode or verification step write their entries: the root row slot L − 1, and node `n` of the tree, counted
from 1, slot L − 1 + n (R534, R545). -/
def writeRows (s : State) (i lo : Nat) (tree : List TreeNode) (fast : Bool) : State :=
  let s1 := readyKv s i lo (lo + tree.length)
  let base := (entOf s1 i).tokens.take (lo + 1)
  let s2 := (List.range tree.length).foldl (fun s k =>
    putKvEntry s i (lo + k + 1) (drawOf s1 fast) (base ++ nodePath tree (tree.length + 1) (k + 1))) s1
  putKvEntries s2 i lo lo fast

/-- The accepted path compacted (R547): the node of depth `k`, numbered `n` from 1, leaves slot L − 1 + n for slot
L − 1 + k, in increasing depth, unless it stands there. -/
def compact (s : State) (i lo : Nat) (nodes : List Nat) : State :=
  ((nodes.mapIdx (fun k n => (n, k + 1))).filter (fun x => x.1 ≠ x.2)).foldl (fun s x => copyEntry s i (lo + x.1) (lo + x.2)) s

/-- A damaged page rebuilt (R492, R541, R543): a page of the request alone in place; a shared page by its sharer with the
lowest index into a new page that replaces it for all of them, and by another sharer into a copy of its own. -/
def rebuildPage (i : Nat) (s : State) (p : Nat) : State :=
  let l := (pageOf s p).sharers
  if l.length ≤ 1 then s
  else if l.foldl min i = i then
    match copyTarget s p with
    | none => s
    | some q =>
      (remove l i).foldl (fun s j => updEntX (updEnt s j (fun e => { e with cacheLost := false })) j
        (fun x => { x with damaged := none, mend := false })) (moveKvPage s i p q)
  else privatePage i s p

/-- The damaged range of a request re-prefilled (R491, R492). -/
def mendRange (s : State) (i : Nat) (fast : Bool) : State :=
  match (entXOf s i).damaged with
  | some (lo, hi) =>
    let bad := (pagesOf s i (lo / 32) (hi / 32)).filter (fun p => s.poison.any (fun a => isDram a && pageAt a = p))
    let s1 := putKvEntries (noteShared (bad.foldl (rebuildPage i) s) i) i lo hi fast
    updEntX (updEnt s1 i (fun e => { e with cacheLost := false })) i
      (fun x => { x with reprefills := x.reprefills + 1, damaged := none, mend := false })
  | none => s

/-- Tokens of a tenant in a commit: its virtual time rises (R519). -/
def spendV (s : State) (f c : Nat) : State :=
  updFn s f (fun x => { x with virtualTime := x.virtualTime + c * vtUnit / weightOf s f })

/-- KV_EXHAUSTED: the cover of `n` blocks finds no page (R536). -/
def kvExhausted (s : State) (i n : Nat) : State :=
  failReq (logErr s {
    seq := 0, code := 0x11, cls := 3, fn := (entOf s i).b.fn, ledger := i, status := stStepFault, detail := le 4 n }) i stStepFault

/-! ### The acceptance walk (R546) -/

/-- The child of a node that carries a token. -/
def childWith (tree : List TreeNode) (n t : Nat) : Option Nat :=
  ((List.range tree.length).map (· + 1)).find? (fun k => (nodeAt tree k).parent = n && (nodeAt tree k).token = t)

/-- Where a walk ends: the tokens sampled, the nodes accepted by number, and whether the last node's mask allowed no token. -/
structure WalkEnd where
  toks     : List Nat
  nodes    : List Nat
  dead     : Bool
  deriving DecidableEq, Repr

/-- The walk from a node behind the tokens and the nodes of its path; `fuel` bounds the depth. -/
def acceptWalk (s : State) (i : Nat) (tree : List TreeNode) (rows : List LogitsRow) : Nat → Nat → List Nat → List Nat → WalkEnd
  | 0, _, path, nodes => { toks := path, nodes := nodes, dead := false }
  | fuel + 1, n, path, nodes =>
    match sampleRow s i path (rows.getD n []) with
    | none => { toks := path, nodes := nodes, dead := true }
    | some t =>
      match childWith tree n t with
      | some k => acceptWalk s i tree rows fuel k (path ++ [t]) (nodes ++ [k])
      | none => { toks := path ++ [t], nodes := nodes, dead := false }

/-- How many of a walk's tokens commit, and the status when the commit ends the request: the first token that ends it is
the last committed, and the statuses stand in the order of R482. -/
def commitCut (s : State) (i : Nat) (w : WalkEnd) : Nat × Option Nat :=
  let e := entOf s i
  let stop := stopCut s i w.toks
  let eos := (w.toks.findIdx? (fun t => t = vocEos (vocabBytes s e.b.vocab))).map (· + 1)
  let most := min (e.b.maxNew - e.generated) (16777217 - committedLen e)
  let k := min stop.1 (min (eos.getD w.toks.length) (min most w.toks.length))
  (k, if stop.2 && k = stop.1 then some 0x102
    else if w.dead && k = w.toks.length then some 0x103
    else if eos = some k then some 0x100
    else if most = k then some 0x101
    else none)

/-! ### The commit of generated tokens -/

/-- Times and latency misses of a commit (R216, R486). -/
def commitTimes (s : State) (i : Nat) : State :=
  let e := entOf s i
  if e.generated = 0 then
    let t := s.now - e.admitTime - e.hostPaused
    let s1 := if e.b.ttft ≠ 0 && decide (e.b.ttft < t) then cnt s e.b.fn 0x30 1 else s
    updEnt s1 i (fun x => { x with ttftUs := t, lastToken := s.now, urgent := false })
  else
    let s1 := if e.b.tbt ≠ 0 && decide (e.b.tbt < s.now - e.lastToken) then cnt s e.b.fn 0x38 1 else s
    updEnt s1 i (fun x => { x with lastToken := s.now })

/-- Tokens committed (R460, R467, R478, R479, R484, R519, R534): automaton, history, budget and counts. -/
def commitTokens (s : State) (i : Nat) (toks : List Nat) : State :=
  let e := entOf s i
  let k := toks.length
  let s1 := match if e.b.grammar = 0 then none else confAt s i toks with
    | some c => updEntX s i (fun x => { x with automaton := c.state, gstack := c.stack })
    | none => s
  let s2 := commitTimes (charge s1 i (-(k : Int)) 0 k) i
  let s3 := spendV (cnt s2 e.b.fn 0x28 k) e.b.fn k
  let s4 := updEntX s3 i (fun x => { x with maskFor := none, tree := [], replays := 0 })
  noteHistory (updEnt s4 i (fun x => { x with
    tokens := x.tokens ++ toks, generated := x.generated + k, kvDone := committedLen x + k - 1 })) i e.tokens.length

/-- The next candidate tree (R544). -/
def proposeTree (s : State) (i : Nat) (l : List (Nat × Nat)) : State :=
  if speculates s i then
    updEntX s i (fun x => { x with
      tree := (l.take (itemNow s idSpecNodes 0)).map (fun p => { token := p.1, parent := p.2 }) })
  else s

/-- The cover and the reserve after a commit that does not end the request (R535, R536, R548). -/
def commitCover (s : State) (i : Nat) : State :=
  let e := entOf s i
  let n := blocksFor (committedLen e)
  let r := coverTo s i n n
  if r.2 then
    if e.state == .ready || e.state == .decode || e.state == .draining then claimReserve r.1 i else r.1
  else kvExhausted r.1 i n

/-- A request that samples commits the tokens of its walk, its accepted path compacted (R481, R482, R546, R547). -/
def commitSample (s : State) (m : Nat × Nat) (r : StepRow) : State :=
  let i := m.1
  let tree := treeOf s m
  let w := acceptWalk s i tree r.rows (tree.length + 1) 0 [] []
  let cut := commitCut s i w
  let acc := min w.nodes.length cut.1
  let f := (entOf s i).b.fn
  let s1 := if tree.isEmpty then s
    else updEntX (cnt (cnt s f 0x130 tree.length) f 0x138 acc) i (fun x => { x with specNodes := tree.length, specAcc := acc })
  let s2 := commitTokens (compact s1 i (committedLen (entOf s i) - 1) (w.nodes.take acc)) i (w.toks.take cut.1)
  let s3 := updEnt s2 i (fun e => { e with state := if e.state == .prefill then .ready else e.state })
  match cut.2 with
  | some st => endReq s3 i .done (naturalStatus s3 i st)
  | none => commitCover (proposeTree s3 i r.proposed) i

/-- A step fault of a member fails its request; a forced prefill stops there with what its waiters can share (R376). -/
def memberFault (s : State) (i : Nat) : State :=
  let s1 := updEnt s i (fun e => { e with forced := false })
  if live (entOf s1 i).state then failReq s1 i stStepFault else waitersStop s1 i

/-- A prefill chunk commits (R420, R484, R491, R505, R540, R541): a token beyond the model's vocabulary faults in EMBED. -/
def commitFill (s : State) (m : Nat × Nat) (r : StepRow) (fast : Bool) : State :=
  let i := m.1
  let e := entOf s i
  let last := fillEnds s m
  if ((e.tokens.drop e.kvDone).take m.2).any (fun t => decide ((modelOf s i).image.vocabSize ≤ t)) then memberFault s i
  else
    let s1 := updEnt (writeKv s i e.kvDone (e.kvDone + m.2 - 1) fast) i (fun x => { x with kvDone := x.kvDone + m.2 })
    let s2 := waitersReady (if e.state = .failed then s1 else spendV s1 e.b.fn m.2) i
    if !last then s2
    else if e.state = .failed then updEnt s2 i (fun x => { x with forced := false })
    else
      let s3 := updEntX (settleBudget s2 i e.promptLen) i (fun x => { x with reprefill := 0 })
      if forcedFill e then cancelled s3 i else commitSample s3 m r

/-- A decode row commits: its damaged range and its slots are written first (R492, R545). -/
def commitRow (s : State) (m : Nat × Nat) (r : StepRow) (fast : Bool) : State :=
  let e := entOf s m.1
  let s1 := if (entXOf s m.1).mend then mendRange s m.1 fast else s
  let lo := committedLen e - 1
  if coverBlocks e * 32 ≤ lo then kvExhausted s1 m.1 (blocksFor (committedLen e))
  else commitSample (writeRows s1 m.1 lo (treeOf s m) fast) m r

/-- A member of a step commits: a fault of its row fails it; then a squash that came too late, or a pause, takes effect
(R376, R488, R494). -/
def commitMember (rows : List StepRow) (fast : Bool) (s : State) (m : Nat × Nat) : State :=
  let i := m.1
  let r := rowOf rows i
  let s0 := updEntX s i (fun x => { x with steps := x.steps + 1 })
  let s1 := if r.fault.isSome then memberFault s0 i else if m.2 = 0 then commitRow s0 m r fast else commitFill s0 m r fast
  let s2 := updEntX s1 i (fun x => { x with inStep := false })
  let e := entOf s2 i
  if e.squash && live e.state then cancelled (updEnt s2 i (fun x => { x with squash := false })) i
  else if e.pauseDue && live e.state then pauseNow s2 i
  else s2

/-! ### The commit point of a step -/

/-- The group's step-time record after a decode step, and how many of its DECODE requests paused at the commit point
(R507, R647). -/
def noteStep (s : State) (x : Step) (us replaced : Nat) : State :=
  if !x.decode then s
  else
    let m := modelAt s x.model
    { s with models := tput s.models x.model { m with
        ratios := if x.pred = 0 then m.ratios else (m.ratios ++ [(us : Rat) / x.pred]).drop (m.ratios.length - 15)
        lastUs := some us
        replaced := replaced } }

/-- A step commits at the moment its time has run. -/
def stepCommits (s : State) (id us : Nat) (rows : List StepRow) : State :=
  let x := stepAt s id
  let s1 := elapse s (x.formedAt + us)
  let s2 := x.members.foldl (commitMember rows x.fast) s1
  let out := (x.members.filter (fun m => (entOf s m.1).state == .decode && (entOf s2 m.1).state == .pausedHot)).length
  noteStep { s2 with steps := tdel s2.steps id } x us out

/-- A member waits for nothing: its masks are ready and its results there. -/
def memberReady (s : State) (rows : List StepRow) (m : Nat × Nat) : Bool :=
  !samples s m || (masksReady s m && rows.any (fun r => r.ledger = m.1) && rowsFit s m (rowOf rows m.1))

/-- Host reads of a step that are outstanding. -/
def stepReads (s : State) (id : Nat) : Bool :=
  s.fns.any (fun kv => kv.2.pci.tags.any (fun t => match t.2 with
    | .outstanding (.step n _) _ _ _ => n = id
    | _ => false))

/-- A fault record names the step. -/
def stepFaulted (s : State) (id : Nat) : Bool :=
  s.faults.any (fun r => r.works.any (fun w => match w with
    | .step n _ => n = id
    | _ => false))

/-- A step can reach its commit point: no replay, wait, read or fault is due, its group's dies run, and every request has
what it needs. -/
def mayCommitStep (s : State) (id : Nat) (rows : List StepRow) : Bool :=
  let x := stepAt s id
  thas s.steps id && !x.poisoned && x.waiting.isEmpty && !stepReads s id && !stepFaulted s id &&
    (groupDies (modelAt s x.model)).all (fun d => ((dieOf s d).state == .usable || (dieOf s d).state == .draining) && !(dieOf s d).gated) &&
    x.members.all (memberReady s rows)

def execStepCommit (step elapsedUs : Nat) (rows : List StepRow) (s : State) : Host.Outcome State Fault Refusal :=
  occurs s (mayCommitStep s step rows) "the step is not at its commit point" (stepCommits s step elapsedUs rows)

end Sys2Proof.Machine
end

