-- ==== Sys2Proof/Machine/Tidepool.lean ====
section
/-! DEFINITION. The Tidepool and the release of entries: rows TIDEPOOL_MOVE_DONE, TIDEPOOL_EXPIRY, TIDEPOOL_RETURN_DONE and
LEDGER_ENTRY_FREED (16 R489, R490, R501, 18 R551 to R556, R537). -/

namespace Sys2Proof.Machine

open Sys2Proof

/-! ### The move (R489, R551) -/

/-- A KV page copied into the Tidepool: a tier C page takes its place for every sharer, and it goes to quarantine. -/
def poolPage (s : State) (i p q : Nat) : State :=
  let s1 := moveKvPage s i p q
  updPage s1 q (fun x => { x with cls := .tidepoolKv })

/-- The translations of a request's page names leave the TLBs (R276). -/
def dropNames (s : State) (i : Nat) : State :=
  { s with tlbs := s.tlbs.filter (fun e => !((kvName e.2.2).map (·.1) == some i)) }

/-- The leaves of moved pages switched to POOLED in every block that names them. -/
def poolLeaves (s : State) (moved : List Nat) : State :=
  { s with ledger := tmap s.ledger (fun _ e => { e with kv := e.kv.map (fun b =>
      if b.pages.any (fun p => moved.contains p) then { b with pooled := true, spilled := false } else b) }) }

/-- The pages of a move that are copied: those in tier H. The others are switched without a copy. -/
def moveHot (s : State) (i : Nat) : List Nat := (movePageList s i).filter (fun p => pageTier p = 0)

/-- The move of a request ends with its last page on the tier C pages `qs`. -/
def moveEnds (s : State) (i : Nat) (qs : List Nat) : State :=
  let hot := moveHot s i
  let spilled := (movePageList s i).filter (fun p => pageTier p = 1)
  let s1 := (hot.zip qs).foldl (fun s pq => poolPage s i pq.1 pq.2) s
  let s2 := spilled.foldl (fun s p => updPage s p (fun x => { x with cls := .tidepoolKv })) s1
  let s3 := dropNames (poolLeaves s2 (qs ++ spilled)) i
  let s4 := updEntX s3 i (fun x => { x with moving := false, moveDue := false, poolRefused := false })
  let s5 := updEnt s4 i (fun e => { e with state := .pausedPool, expiry := s.now + 1000000 * e.b.ttl })
  stateRecord (cnt s5 (entOf s i).b.fn 0x428 1) i 6

/-- A move can end: it runs, its source dies copy, and tier C has its pages. -/
def mayEndMove (s : State) (i : Nat) : Bool :=
  (entXOf s i).moving && (entOf s i).state == .pausedHot && (groupDies (modelOf s i)).all (domUsable s) &&
    (findFree s 4 (moveHot s i).length).isSome

def execTidepoolMoveDone (ledger : Nat) (s : State) : Host.Outcome State Fault Refusal :=
  occurs s (mayEndMove s ledger) "no move of the request runs"
    (moveEnds s ledger ((findFree s 4 (moveHot s ledger).length).getD []))

/-! ### Expiry (R490, R553) -/

/-- The last tide boundary has come at or after TIDEPOOL_EXPIRY. -/
def mayExpire (s : State) (i : Nat) : Bool :=
  (entOf s i).state == .pausedPool && decide ((entOf s i).expiry ≤ s.now / 1000 * 1000)

def execTidepoolExpiry (ledger : Nat) (s : State) : Host.Outcome State Fault Refusal :=
  occurs s (mayExpire s ledger) "the request does not expire now" (toExpired s ledger)

/-! ### The return (R537, R554) -/

/-- The pages of a request in tier C with the home die of each. -/
def coldPages (s : State) (i : Nat) (pooled : Bool) : List (Nat × Nat) :=
  (((entOf s i).kv.filter (fun b => b.pooled = pooled)).map (fun b =>
    ((List.range b.pages.length).filter (fun k => b.pages.getD k 0 ≠ 0 && pageTier (b.pages.getD k 0) = 1)).map
      (fun k => (b.pages.getD k 0, homeDie (modelOf s i) k)))).flatten

/-- A page brought back to its home die, when a page is free there. -/
def bringBack (i : Nat) (s : State) (pd : Nat × Nat) : State :=
  match findFree s pd.2 1 with
  | some (q :: _) => moveKvPage s i pd.1 q
  | _ => s

/-- A bulk return ends. -/
def returnEnds (s : State) (i : Nat) : State :=
  let s1 := trimPooled ((coldPages s i true).foldl (bringBack i) s)
  dropNames (updEntX s1 i (fun x => { x with poolPages := 0 })) i

/-- A request that has resumed is brought back by bulk copy. -/
def mayReturn (s : State) (i : Nat) : Bool :=
  let st := (entOf s i).state
  (st == .admitted || st == .prefill || st == .ready || st == .decode) && !(entXOf s i).inStep && bulkReturn s i

def execTidepoolReturnDone (ledger : Nat) (s : State) : Host.Outcome State Fault Refusal :=
  occurs s (mayReturn s ledger) "no bulk return of the request runs" (returnEnds s ledger)

/-- SPILLED is cleared where a block holds no tier C page. -/
def trimSpilled (s : State) : State :=
  { s with ledger := tmap s.ledger (fun _ e => { e with
      kv := e.kv.map (fun b => { b with spilled := b.spilled && b.pages.any (fun p => decide (pageTier p = 1)) }) }) }

/-- Spilled pages of a die return to tier H at a tide boundary while its free pages exceed HBM_HIGH_PCT, 64 at most, of
requests between their steps (R537). -/
def spillReturn (s : State) (d : Nat) : State :=
  let l := ((liveWhere s (fun i e => !(entXOf s i).inStep && e.kv.any (fun b => b.spilled && !b.pooled))).map (fun i =>
    ((coldPages s i false).filter (fun pd => pd.2 = d)).map (fun pd => (i, pd)))).flatten
  trimSpilled ((l.take 64).foldl (fun s x =>
    if 100 * freeLess s d ≤ highPct s d * poolSize d then s else dropNames (bringBack x.1 s x.2) x.1) s)

/-! ### Release (R501) -/

/-- An ended entry can return to FREE. -/
def mayFree (s : State) (i : Nat) : Bool := ended (entOf s i).state && unreferenced s i

def execLedgerEntryFreed (ledger : Nat) (s : State) : Host.Outcome State Fault Refusal :=
  occurs s (mayFree s ledger) "the entry cannot return to FREE" (freeEntry s ledger)

end Sys2Proof.Machine
end

