-- ==== Sys2Proof/Machine/Books.lean ====
section
/-! DEFINITION. The books and their audit, and the tide boundary: row TIDE_BOUNDARY (21 R604 to R618, 05 R203, 19 R563,
17 R646). -/

namespace Sys2Proof.Machine

open Sys2Proof

/-! ### The books (R604 to R612, R614, R618) -/

/-- A failing instance of a book: INSTANCE, the sum of the terms, and what they should come to. -/
structure Mismatch where
  inst : Nat
  lhs  : Int
  rhs  : Int
  deriving DecidableEq, Repr

/-- An equation checked. -/
def balance (inst : Nat) (lhs rhs : Int) : List Mismatch := if lhs = rhs then [] else [{ inst := inst, lhs := lhs, rhs := rhs }]
/-- A bound checked. -/
def within (inst : Nat) (lhs rhs : Int) : List Mismatch := if lhs ≤ rhs then [] else [{ inst := inst, lhs := lhs, rhs := rhs }]

/-- A page pool: its terms, and its claims against its free pages. -/
def poolBook (s : State) (p inst : Nat) : List Mismatch :=
  let sum := freePages s p + poolCount s p .allocated + poolCount s p .migrating + poolCount s p .quarantined +
    poolCount s p .retired
  balance inst sum (poolSize p) ++ within inst (claimsOn s p) (freePages s p)

/-- The credits of one direction of a link at its audit marker, for each virtual channel (R606): the sender's, the receiver's
slots, and the credit part of the on-wire term. -/
def dirBook (inst : Nat) (d : LinkDir) : List Mismatch :=
  (d.latched.mapIdx (fun vc b =>
    balance (inst + vc) ((b.held + sub32 b.sent b.back : Nat) : Int) b.initial ++
      balance (inst + vc) b.occupied (sub32 b.received b.out) ++
      within (inst + vc) (sub32 b.out b.back) b.initial)).flatten

/-- The credits of a link: direction 0 from the reporting end, 1 towards it (R618). -/
def creditBook (s : State) (l : Nat) : List Mismatch :=
  let first := firstReports s l
  dirBook (16 * l) (dirOf (linkOf s l) first) ++ dirBook (16 * l + 4) (dirOf (linkOf s l) (!first))

/-- The tags of a function. -/
def tagSum (s : State) (f : Nat) : Nat :=
  (1024 - (fnOf s f).pci.tags.length) + outstandingTags s f + quarantinedTags s f

/-- The ledger's entries. -/
def ledgerBook (s : State) : List Mismatch :=
  balance 0 ((8192 - ledgerUseAll s) + ledgerUseAll s : Nat) 8192 ++
    balance 0 (((List.range 16).map (fun f => (s.ledger.filter (fun kv => !(kv.2.state == .free) && kv.2.b.fn = f)).length)).sum : Nat)
      (ledgerUseAll s)

/-- A tenant's bucket. -/
def bucketBook (s : State) (f : Nat) : List Mismatch :=
  let x := fnOf s f
  balance f (x.bucket + x.reserved + x.spent) x.refilled

/-- An open stream ring's descriptors. -/
def ringBook (s : State) (f r : Nat) : List Mismatch :=
  let g := ringOf s f r
  if 64 ≤ r || g.state = .closed || g.typ = .none || g.typ = .req || g.typ = .cpl then []
  else
    balance (64 * f + r) ((g.finished + ringOwed s f r) % 2 ^ 32 : Nat) g.cons

/-- The banks of a die. -/
def bankBook (s : State) (d : Nat) : List Mismatch :=
  balance (256 * d + 255) ((bankTally s d .owned + bankTally s d .inHandover + bankTally s d .unowned + bankTally s d .seized : Nat) : Int)
    (bankCount d)

/-- The failing instances of book `e`, lowest first; `old` is the state before the tide closed. Books 0 and 1 are left
out where a restart ran at some time of that tide (R614). -/
def bookFails (old s : State) (e : Nat) : List Mismatch :=
  let dies := (List.range 4).filter (dieUsable s)
  let fns := List.range 16
  let calm := fns.filter (fun f => !(fnOf s f).flrBusy)
  match e with
  | 0 => if s.cp.inTide then [] else (dies.map (fun d => poolBook s d d)).flatten
  | 1 => if s.cp.inTide then [] else poolBook s 4 0
  | 2 => ((List.range 8).map (creditBook s)).flatten
  | 3 => (fns.map (fun f => balance f (tagSum s f) 1024)).flatten ++
      balance 0xFFFF ((fns.map (tagSum s)).sum : Nat) 16384
  | 4 => ledgerBook s
  | 5 => (fns.map (bucketBook s)).flatten
  | 6 => (((List.range 5).filter (tookPart old)).map (fun d =>
      balance d ((domOf s d).usedUj + (domOf s d).banked + (domOf s d).returned)
        (((domOf old d).allowance : Int) - (domOf old d).draw))).flatten
  | 7 => (((List.range 5).filter (fun d => tookPart old d && (d = 4 || dieUsable s d))).map (fun d =>
      balance d ((domOf s d).charged + (domOf s d).overhead : Nat) (domOf s d).usedUj)).flatten
  | 8 => (calm.map (fun f => balance f (popcount 32 (fnOf s f).owner.toNat : Nat) (fnOf s f).cmds.length)).flatten
  | 9 => (calm.map (fun f => ((List.range 64).map (ringBook s f)).flatten)).flatten
  | 10 => ((List.range 5).map (bankBook s)).flatten
  | _ => []

/-! ### The audit (R203, R613 to R617) -/

/-- A signed 64-bit value as a word. -/
def word64 (v : Int) : Nat := (v % 2 ^ 64).toNat

/-- BOOKS_MISMATCH of a book (R617). -/
def mismatchEvent (s : State) (e source : Nat) (m : Mismatch) : Event :=
  { code := 0x24, object := e,
    data := le 1 e ++ le 1 source ++ le 2 m.inst ++ le 4 0 ++ le 8 (word64 m.lhs) ++ le 8 (word64 m.rhs) ++ le 8 s.energy.tides }

/-- A failing instance logged (R615, R626). -/
def logMismatch (e : Nat) (s : State) (m : Mismatch) : State :=
  logErr s { seq := 0, code := 0x60, cls := 5, addr := word64 m.lhs,
             detail := le 1 e ++ le 1 0 ++ le 2 m.inst ++ le 4 0 ++ le 8 (word64 m.rhs) }

/-- A failing book of the per-tide audit: its HB_BOOKS bit, its log entries, and its event unless it failed in the tide
before (R615, R616). -/
def auditBook (old s : State) (e : Nat) : State :=
  match bookFails old s e with
  | [] => s
  | m :: rest =>
    let s1 := (m :: rest).foldl (logMismatch e) { s with books := { s.books with failed := setBit s.books.failed e true } }
    if bit s.books.lastMask e then s1 else post s1 0 (mismatchEvent s e 0 m)

/-- The mask of the failing books. -/
def failMask (old s : State) : Nat := ((List.range 11).map (fun e => if (bookFails old s e).isEmpty then 0 else 2 ^ e)).sum

/-- The BOOKS_AUDIT commands of a function that wait for the audit reach their commit points: with failures they end
AUDIT_MISMATCH, whose DETAIL is the lowest failing book. -/
def answerAudits (mask : Nat) (s : State) (f : Nat) : State :=
  settleCmds s f 0x0B02 (fun c =>
    let bad := Nat.land mask c.arg
    some { status := if bad = 0 then 0 else stAuditMismatch, detail := ((bitList 11 bad).headD 0), resp := le 4 bad ++ le 4 s.energy.tides })

/-- The books that waiting BOOKS_AUDIT commands name, one list of numbers for each command; a restart leaves them waiting
(R128). -/
def auditsDue (s : State) : List (List Nat) :=
  if s.cp.recovery then [] else ((List.range 16).map (fun f => ((fnOf s f).cmds.filter (fun c => c.opcode = 0x0B02 && c.started && c.outcome.isNone)).map
    (fun c => bitList 11 c.arg))).flatten

/-- The events of the audits on demand (R203, R616). -/
def demandEvents (old s : State) (l : List Nat) : State :=
  l.foldl (fun t e => match bookFails old s e with
    | [] => t
    | m :: _ => post t 0 (mismatchEvent s e 1 m)) s

/-- The audit of the tide that has closed (R613); the tide that opens counts a restart still running as its own (R614). -/
def audit (old s : State) : State :=
  let s0 := (List.range 8).foldl (fun s l => if linkUp s l then latchBooks s l
    else updLink s l (fun k => { k with out := { k.out with latched := [] }, back := { k.back with latched := [] } })) s
  let mask := failMask old s0
  let s1 := (List.range 11).foldl (auditBook old) s0
  let s2 := (List.range 16).foldl (answerAudits mask) ((auditsDue s0).foldl (demandEvents old) s1)
  { s2 with books := { s2.books with lastTide := s2.energy.tides, lastMask := mask }
            cp := { s2.cp with inTide := s2.cp.recovery } }

/-! ### TIDE_BOUNDARY -/

/-- Refused Tidepool moves tried again under KEEP_HOT (R552). -/
def retryMoves (s : State) : State :=
  (liveWhere s (fun i e => e.state == .pausedHot && (entXOf s i).poolRefused)).foldl startMove s

/-- A tide boundary: the tide that ends is charged, what was committed for a boundary applies, the new tide's allowances
take effect, holds start, the scheduler does its work of the boundary, pages return, and the books are audited. -/
def tideTurns (s : State) (meters : List DomainMeter) : State :=
  let s1 := closeTide (msMark s) meters
  let s2 := openTide (applyTide s1 s1.energy.tides) meters
  let s3 := retryMoves (schedTide (startHold s2))
  audit s ((List.range 4).foldl (fun s d => if dieUsable s d then spillReturn s d else s) s3)

def execTideBoundary (meters : List DomainMeter) (s : State) : Host.Outcome State Fault Refusal :=
  occurs s (isReady s && meterOk s meters) "no tide ends, or its meters read beyond the allowance" (tideTurns s meters)

end Sys2Proof.Machine
end

