-- ==== Sys2Proof/Machine/Commit.lean ====
section
/-! DEFINITION. COMMAND_COMMIT: the point at which a command takes effect, with its response (04 R124, R128, R130, 05 R172,
R178, R181, R198; 95). -/

namespace Sys2Proof.Machine

open Sys2Proof

/-- The effect and the outcome of a command whose effects all come at its commit point, by its opcode. -/
def commitBody (s : State) (f slot : Nat) (b : List Byte) : Ran :=
  match slotOp b with
  | 0x0201 => functionOpen s f b
  | 0x0202 => functionClose s f
  | 0x0203 => engineEnable s f b
  | 0x0302 => regionDestroy s f slot b
  | 0x0303 => bar2WindowSet s f b
  | 0x0402 => modelUnload s f b
  | 0x0403 => modelInfoCmd s f b
  | 0x0502 => vocabUnload s f b
  | 0x0504 => bintableUnload s f b
  | 0x0602 => grammarUnload s f b
  | 0x0701 => requestQuery s f b
  | 0x0801 => ringOpen s f slot b
  | 0x0802 => ringClose s f b
  | 0x0803 => streamOpen s f slot b
  | 0x0804 => streamClose s f b
  | 0x0901 => configStage s f slot b
  | 0x0902 => configRead s f b
  | 0x0903 => commitConfig s
  | 0x0904 => configDiscard s
  | 0x0A01 => energyLimitSet s b
  | 0x0A02 => good s (energyReport s f)
  | 0x0B04 => errlogRead s b
  | _ => running s

/-- The opcodes whose outcome is that of an end that the command itself has set off. -/
def waitsFor (op : Nat) : Bool := op = 0x0B02 || op = 0x0B03 || op = 0x0C01 || op = 0x0C02

/-- Whether what a command still has to wait for before its commit point is over: the engines it stops (R178), the function's
traffic to the host that its own effect needs (R98). -/
def bodyMayRun (s : State) (f slot : Nat) : Bool :=
  let b := slotBytes s f slot
  let refused := turnedAway s f slot (fun s b => commitBody s f slot b)
  match slotOp b with
  | 0x0203 => refused || !stopsWait s f (pay b 1 1)
  | 0x0701 => refused || queryMayRun s f slot
  | 0x0801 => refused || busOn s f
  | _ => true

/-- A fault of one of a slot's reads is in service. -/
def slotFaulted (s : State) (f slot : Nat) : Bool :=
  s.faults.any (fun r => r.works.any (fun w => match w with
    | .indirect g k => g.val = f && k.val = slot
    | .bulk g k => g.val = f && k.val = slot
    | _ => false))

/-- A command reaches its commit point: it has started, it does not wait, and no control-processor restart holds it (R124,
R128). -/
def mayCommit (s : State) (f slot : Nat) : Bool :=
  match (fnOf s f).cmds.find? (fun c => c.slot = slot) with
  | none => false
  | some c =>
    c.started && !c.marked && !s.cp.recovery && isReady s &&
      (c.outcome.isSome || (c.opcode = 0x0B03 && (marchEnd s c).isSome) || (!waitsFor c.opcode && readsOver s f slot && !slotFaulted s f slot &&
        (c.ready.isSome || bodyMayRun s f slot)))

/-- MODEL_LOAD at its commit point: a die of the group that has stopped serving since it started takes its place back
(R182). -/
def groupLost (s : State) (f slot : Nat) : Nat := unavailable s (placeMask (pay (slotBytes s f slot) 16 2))

/-- The commit of a command that has built what it reserved (R124, R172, R182). -/
def commitBuilt (s : State) (f slot op : Nat) (o : CmdOutcome) : State :=
  if op = 0x0401 && groupLost s f slot ≠ 0 then
    completeSlot (dropBuilt s f slot) f slot { status := stDieUnavailable, detail := groupLost s f slot }
  else completeSlot (showBuilt s f slot) f slot o

/-- What follows a command's completion: rings and event queues just opened ask for their translations (R134), and streams
that a ring serves go on. -/
def afterCommit (s : State) (f : Nat) : State := resumeReads (askLost s f) f

/-- The commit of a command by its body. COMMIT_CONFIG answers before what its commit sets off (R198). -/
def commitRun (s : State) (f slot op : Nat) : State :=
  let r := checked s f slot (fun s b => commitBody s f slot b)
  match r.2 with
  | none => s
  | some o =>
    if op = 0x0903 then (if o.status = 0 then (commitConfig (completeSlot s f slot o)).1 else completeSlot s f slot o)
    else afterCommit (completeSlot r.1 f slot o) f

/-- COMMAND_COMMIT. -/
def commitCmd (s : State) (f slot : Nat) : State :=
  match (fnOf s f).cmds.find? (fun c => c.slot = slot) with
  | none => s
  | some c =>
    match c.outcome.orElse (fun _ => if c.opcode = 0x0B03 then marchEnd s c else none), c.ready with
    | some o, _ => completeSlot s f slot o
    | none, some o => commitBuilt s f slot c.opcode o
    | none, none => commitRun s f slot c.opcode

def execCommandCommit (f : Fin 16) (slot : Fin 32) (s : State) : Host.Outcome State Fault Refusal :=
  occurs s (mayCommit s f.val slot.val) "the command has not reached its commit point" (commitCmd s f.val slot.val)

end Sys2Proof.Machine
end

