-- ==== Sys2Proof/Machine/ConfigSpace.lean ====
section
/-! DEFINITION. Configuration space and the accesses of a register by its width: rows REGISTER_WRITE and LOW_HALF_READ (00 R7
to R10, 02 R69, 03 R76 to R96, R106, R110). -/

namespace Sys2Proof.Machine

open Sys2Proof

/-! ### The fields of configuration space

The specification names fields of PCI Express capabilities and leaves their layout to that specification. The model numbers
them (log entry 11): 0 Memory Space Enable, 1 Max Payload Size, 2 Max Read Request Size, 3 Enable Relaxed Ordering, 4
Completion Timeout Value, 5 10-Bit and 6 14-Bit Tag Requester Enable, 7 ATS Enable, 8 Page Request Enable, 9 Outstanding Page
Request Allocation, 10 MSI-X Enable, 11 MSI-X Function Mask, 12 ARI Capable Hierarchy, 13 VF MSE, 14 NumVFs, 15 AER status, 16
Uncorrectable Error Severity, 17 Received Master and Target Abort, 18 IDO Request Enable, 19 ECRC Generation and Check Enable,
20 Bus Master Enable, 21 power state, 22 VF Enable; read-only 23 TotalVFs, 24 First VF Offset, 25 VF Stride, 26 Max Payload
Size Supported, 27 Completion Timeout Ranges Supported, 28 PME_Support, 29 No_Soft_Reset, 30 Invalidate Queue Depth, 31 Page
Aligned Request, 32 Global Invalidate Supported, 33 Max PASID Width, 34 Execute Permission Supported, 35 Privileged Mode
Supported, 36 the ACS capability's peer-to-peer forwarding, 37 to 39 the sizes of BAR0, BAR2 and BAR4, 40 which BARs are
prefetchable, 41 MSI-X table size, 42 to 45 the AER header log and 46 to 49 its TLP prefix log by words. -/

/-- Max Payload Size and Max Read Request Size codes (R76). -/
def sizeCode (n : Nat) : Nat := 128 * 2 ^ n
/-- The code of a size. -/
def codeOf (v : Nat) : Nat := ((List.range 6).find? (fun n => sizeCode n = v)).getD 0

/-- The AER errors in the model's bit order. -/
def aerOrder : List AerErr :=
  [.receiverError, .badTlp, .badDllp, .replayTimer, .replayRollover, .correctableInternal, .completionTimeout,
   .unexpectedCompletion, .unsupportedRequest, .completerAbort, .poisonedTlp, .malformedTlp, .ecrc, .acsViolation,
   .uncorrectableInternal]
/-- A set of AER errors as bits. -/
def aerBits (l : List AerErr) : Nat := ((List.range 15).map (fun k => if (aerOrder[k]?).any l.contains then 2 ^ k else 0)).sum
/-- The AER errors that bits name. -/
def aerSet (v : Nat) : List AerErr := (List.range 15).filterMap (fun k => if bit v k then aerOrder[k]? else none)

/-- What a field of the PF's SR-IOV capability reads: 0 in a VF. -/
def pfOnly (f v : Nat) : Nat := if f = 0 then v else 0

/-- What a Configuration Read of a field returns (R76 to R96, R110). A VF's Memory Space Enable reads 0 (R79). -/
def configField (s : State) (f field_ : Nat) : Nat :=
  let p := (fnOf s f).pci
  match field_ with
  | 0 => pfOnly f (b2n p.mse)
  | 1 => codeOf p.mps
  | 2 => codeOf p.mrrs
  | 3 => b2n p.roEnable
  | 4 => p.cto.toNat
  | 5 => b2n p.tag10
  | 6 => b2n p.tag14
  | 7 => b2n p.atsEn
  | 8 => b2n p.priEn
  | 9 => p.priAlloc
  | 10 => b2n p.msixEn
  | 11 => b2n p.funcMask
  | 12 => pfOnly f (b2n s.ari)
  | 13 => pfOnly f (b2n s.vfMse)
  | 14 => pfOnly f s.numVfs
  | 15 => aerBits p.aer
  | 16 => aerBits p.severity
  | 17 => b2n p.rcvMAbort + 2 * b2n p.rcvTAbort
  | 18 => b2n p.idoReq
  | 19 => b2n p.ecrcGen + 2 * b2n p.ecrcCheck
  | 20 => b2n p.bme
  | 21 => if p.d3hot then 3 else 0
  | 22 => pfOnly f (b2n (s.sriov ≠ 0))
  | 23 => pfOnly f 15
  | 24 => pfOnly f 1
  | 25 => pfOnly f 1
  | 26 => 2
  | 27 => 7
  | 30 => 32
  | 31 => 1
  | 33 => 20
  | 37 => 262144
  | 38 => bar2Size
  | 39 => if f = 0 then 16777216 else 16384
  | 40 => 2
  | 41 => 64
  | n =>
    if 42 ≤ n && n < 46 then p.aerHeader.toNat / 2 ^ (32 * (n - 42)) % 2 ^ 32
    else if 46 ≤ n && n < 50 then p.aerPrefix.toNat / 2 ^ (32 * (n - 46)) % 2 ^ 32
    else 0

/-- ATS Enable written: set, the event queue and the rings translate their pages; cleared, no access waits for one. -/
def setAts (s : State) (f : Nat) (on : Bool) : State :=
  let s1 := updPci s f (fun p => { p with atsEn := on })
  if on = (fnOf s f).pci.atsEn then s
  else if on then
    askLost (updFn s1 f (fun x => { x with
      evq := if x.evq.opened then { x.evq with lost := pageDvas x.evq.base (64 * 2 ^ x.evq.sizeLog2) } else x.evq
      rings := tmap x.rings (fun _ g => if ringWorks g then { g with lost := ringPages g } else g) })) f
  else resumeBus (updFn s1 f (fun x => { x with
      evq := { x.evq with lost := [] }, rings := tmap x.rings (fun _ g => { g with lost := [] }) })) f

/-- A Configuration Write of a field: what the specification lets it set; any other field ignores it. Bus Master Enable, the
power state and VF Enable act as the commands of those events do. -/
def writeField (s : State) (f field_ v : Nat) : State :=
  match field_ with
  | 0 => if f = 0 then updPci s f (fun p => { p with mse := bit v 0 }) else s
  | 1 => updPci s f (fun p => { p with mps := if v ≤ 2 then sizeCode v else p.mps })
  | 2 => updPci s f (fun p => { p with mrrs := if v ≤ 5 then sizeCode v else p.mrrs })
  | 3 => updPci s f (fun p => { p with roEnable := bit v 0 })
  | 4 => updPci s f (fun p => { p with cto := BitVec.ofNat 4 v })
  | 5 => resumeReads (updPci s f (fun p => { p with tag10 := bit v 0 })) f
  | 6 => resumeReads (updPci s f (fun p => { p with tag14 := bit v 0 })) f
  | 7 => setAts s f (bit v 0)
  | 8 => updPci s f (fun p => { p with priEn := bit v 0 })
  | 9 => sendPages (updPci s f (fun p => { p with priAlloc := v })) f
  | 10 => updPci s f (fun p => { p with msixEn := bit v 0 })
  | 11 => firePending (updPci s f (fun p => { p with funcMask := bit v 0 })) f
  | 12 => if f = 0 then { s with ari := bit v 0 } else s
  | 13 => if f = 0 then { s with vfMse := bit v 0 } else s
  | 14 => if f = 0 && s.sriov = 0 then { s with numVfs := min v 15 } else s
  | 15 => updPci s f (fun p => { p with aer := p.aer.filter (fun e => !(aerSet v).contains e) })
  | 16 => updPci s f (fun p => { p with severity := (aerSet v).filter (fun e => !aerCorrectable e) })
  | 17 => updPci s f (fun p => { p with rcvMAbort := p.rcvMAbort && !bit v 0, rcvTAbort := p.rcvTAbort && !bit v 1 })
  | 18 => updPci s f (fun p => { p with idoReq := bit v 0 })
  | 19 => updPci s f (fun p => { p with ecrcGen := bit v 0, ecrcCheck := bit v 1 })
  | 20 => if bit v 0 then bmeSet s f else bmeClear s f
  | 21 => if v = 3 then d3hotEntry s f else if v = 0 then d0Return s f else s
  | 22 => if f ≠ 0 then s else if bit v 0 then vfSet s s.numVfs else vfClear s
  | _ => s

/-- A function takes part in configuration traffic: PERST_N is deasserted and it is enabled (R69, R80, R694). -/
def onLink (s : State) (f : Nat) : Bool := s.pins.perstN && (fnOf s f).pci.enabled

/-- A Configuration Write: before configuration space answers it completes with Request Retry Status (R69), and a function that
is not there answers nothing (R80, R694). -/
def writeConfig (s : State) (f field_ v : Nat) : State :=
  if configOn s f then writeField s f field_ v
  else if onLink s f then emit s (.requestRetry f) else s

/-- A Configuration Read. -/
def readConfig (s : State) (f field_ : Nat) : State :=
  if configOn s f then emit s (.readData f (le 4 (configField s f field_)) false)
  else if onLink s f then emit s (.requestRetry f) else s

/-! ### Register accesses (R7, R9) -/

/-- REGISTER_WRITE: aligned 32-bit and 64-bit accesses act, any other width or alignment does nothing (R7, R9). -/
def registerWrite (s : State) (f : Nat) (bar : Bar) (off width : Nat) (v : DWord) : State :=
  match bar with
  | .config => writeConfig s f off v.toNat
  | _ =>
    if !barOn s f then refuseAccess s f
    else if width = 4 && off % 4 = 0 then write32 s f bar off (v.toNat % 2 ^ 32)
    else if width = 8 && off % 8 = 0 then
      match regAt s f bar off with
      | some r =>
        if r.width = 64 then write32 (write32 s f bar off (v.toNat % 2 ^ 32)) f bar (off + 4) (v.toNat / 2 ^ 32) else s
      | none => s
    else s

def execRegisterWrite (f : Fin 16) (bar : Bar) (off width : Nat) (value : DWord) (s : State) :
    Host.Outcome State Fault Refusal := done s (registerWrite s f.val bar off width value)

/-- All ones in every byte of a read. -/
def allOnes (n : Nat) : List Byte := List.replicate n 0xFF

/-- The bytes of a register read of a width, with the state after it: an aligned 32-bit read as `read32` says, an aligned
64-bit read of a 64-bit register or of slot bytes both halves and no latch, an offset without a register 0, any other access
all ones (R9). -/
def readReg (s : State) (f : Nat) (bar : Bar) (off width : Nat) : List Byte × State :=
  if width = 4 && off % 4 = 0 then (le 4 (read32 s f bar off).1, (read32 s f bar off).2)
  else if width = 8 && off % 8 = 0 then
    match regAt s f bar off, regAt s f bar (off + 4) with
    | some v, _ => (if v.width = 64 then le 8 v.value else allOnes 8, s)
    | none, some _ => (allOnes 8, s)
    | none, none => (le 8 0, s)
  else (allOnes width, s)

/-- LOW_HALF_READ: the read data goes back, and a 32-bit read of a low half loads its latch (R9). A function in D3hot or with
memory space off answers Unsupported Request (R110). -/
def lowHalfRead (s : State) (f : Nat) (bar : Bar) (off width : Nat) : State :=
  match bar with
  | .config => readConfig s f off
  | _ =>
    if barOn s f then emit (readReg s f bar off width).2 (.readData f (readReg s f bar off width).1 false)
    else refuseAccess (emit s (.unsupported f)) f

def execLowHalfRead (f : Fin 16) (bar : Bar) (off : Nat) (s : State) (width : Nat := 4) : Host.Outcome State Fault Refusal :=
  done s (lowHalfRead s f.val bar off width)

end Sys2Proof.Machine
end

