-- ==== Sys2Proof/Machine/Pldm.lean ====
section
/-! DEFINITION. The management endpoint on SMBus: MCTP control, the alert, and PLDM monitoring with the BMC's package limit:
rows SET_ENDPOINT_ID to GET_NUMERIC_EFFECTER_VALUE (25 R649 to R657, 22 R622). A response's bytes are its command code, its
completion code and its data; codes that the specification leaves to DMTF's standards are theirs (log entry 33). -/

namespace Sys2Proof.Machine

open Sys2Proof

/-- The management controller runs (R649). -/
def mgmtUp (s : State) : Bool := s.mgmt.alive && s.pins.pwrGood

/-- A command of a management bus: the controller answers in every device state (R47, R649). -/
def managed (s t : State) : Host.Outcome State Fault Refusal :=
  occursAlways (mgmtUp s) "the management controller is not running" t

/-- Completion codes. -/
def ccInvalidData : Nat := 0x02
def ccUnsupportedCmd : Nat := 0x05
def ccUnsupportedType : Nat := 0x80
def ccInvalidId : Nat := 0x80
def ccInvalidRecord : Nat := 0x82
def ccInvalidPldmType : Nat := 0x83

/-! ### MCTP control (R652, R653) -/

/-- A response to an MCTP control command. -/
def mctp (s : State) (cmd cc : Nat) (data : List Byte) : State := emit s (.mgmt 1 (le 1 cmd ++ le 1 cc ++ data))

/-- An endpoint ID that a bus owner may set. -/
def eidOk (eid : Nat) : Bool := eid ≠ 0 && eid ≠ 0xFF

/-- Set Endpoint ID: 0 sets and 1 forces; the endpoint has no static ID to reset to and no discovered flag. -/
def setEid (s : State) (op : BitVec 2) (eid : Byte) : State :=
  if op.toNat ≤ 1 && eidOk eid.toNat then
    mctp { s with mgmt := { s.mgmt with eid := eid.toNat } } 1 0 (le 1 0 ++ [eid] ++ le 1 0)
  else mctp s 1 ccInvalidData []

def execSetEndpointId (op : BitVec 2) (eid : Byte) (s : State) : Host.Outcome State Fault Refusal :=
  managed s (setEid s op eid)

def execGetEndpointId (s : State) : Host.Outcome State Fault Refusal :=
  managed s (mctp s 2 0 (le 1 s.mgmt.eid ++ le 2 0))

/-- The message types of the endpoint. -/
def messageTypes : List Nat := [0, 1, 5]

/-- Get MCTP Version Support, for a message type or the base specification (0xFF). -/
def mctpVersions (s : State) (t : Byte) : State :=
  if t.toNat = 0xFF ∨ t.toNat ∈ messageTypes then mctp s 4 0 (le 1 1 ++ Config.protocolVersion t.toNat)
  else mctp s 4 ccUnsupportedType []

def execGetMctpVersionSupport (msgType : Byte) (s : State) : Host.Outcome State Fault Refusal :=
  managed s (mctpVersions s msgType)

def execGetMessageTypeSupport (s : State) : Host.Outcome State Fault Refusal :=
  managed s (mctp s 5 0 (le 1 messageTypes.length ++ (messageTypes.map (le 1)).flatten))

/-- A control command outside the four. -/
def execMctpUnsupportedCmd (cmd : Byte) (s : State) : Host.Outcome State Fault Refusal :=
  occursAlways (mgmtUp s && !([1, 2, 4, 5].contains cmd.toNat)) "the command is supported" (mctp s cmd.toNat ccUnsupportedCmd [])

/-- The 7-bit SMBus address (R651). -/
def smbusAddr (s : State) : Nat := 0x60 + s.boot.smbAddr.toNat

/-- A read of the Alert Response Address while SMB_ALERT_N is asserted. -/
def execSmbusAlertResponse (s : State) : Host.Outcome State Fault Refusal :=
  occursAlways (mgmtUp s && s.pins.smbAlert) "SMB_ALERT_N is not asserted"
    (emit { s with pins := { s.pins with smbAlert := false } } (.mgmt 4 (le 1 (2 * smbusAddr s))))

/-! ### PLDM base commands (R654) -/

/-- A response to a PLDM command of a type. -/
def pldm (s : State) (typ cmd cc : Nat) (data : List Byte) : State := emit s (.mgmt 2 (le 1 typ ++ le 1 cmd ++ le 1 cc ++ data))

def execGetTid (s : State) : Host.Outcome State Fault Refusal := managed s (pldm s 0 2 0 (le 1 s.mgmt.tid))

/-- SetTID: 0 and 0xFF are reserved. -/
def setTid (s : State) (tid : Byte) : State :=
  if eidOk tid.toNat then pldm { s with mgmt := { s.mgmt with tid := tid.toNat } } 0 1 0 [] else pldm s 0 1 ccInvalidData []

def execSetTid (tid : Byte) (s : State) : Host.Outcome State Fault Refusal := managed s (setTid s tid)

/-- The command codes of each PLDM type. -/
def pldmCommands (typ : Nat) : List Nat :=
  if typ = 0 then [1, 2, 3, 4, 5]
  else if typ = 2 then [0x11, 0x21, 0x31, 0x32, 0x50, 0x51]
  else if typ = 5 then [0x10, 0x13, 0x14, 0x15, 0x16, 0x17, 0x18, 0x1A, 0x1D]
  else []

/-- A list of numbers as a bit field of `n` bytes. -/
def bitField (n : Nat) (l : List Nat) : List Byte := le n (l.foldl (fun a k => a + 2 ^ k) 0)

/-- GetPLDMVersion. -/
def pldmVersion (s : State) (typ : Byte) : State :=
  if (pldmCommands typ.toNat).isEmpty then pldm s 0 3 ccInvalidPldmType []
  else pldm s 0 3 0 (le 4 0 ++ le 1 5 ++ Config.protocolVersion (256 + typ.toNat))

def execGetPldmVersion (typ : Byte) (s : State) : Host.Outcome State Fault Refusal := managed s (pldmVersion s typ)

def execGetPldmTypes (s : State) : Host.Outcome State Fault Refusal := managed s (pldm s 0 4 0 (bitField 8 [0, 2, 5]))

/-- GetPLDMCommands. -/
def pldmCmds (s : State) (typ : Byte) : State :=
  if (pldmCommands typ.toNat).isEmpty then pldm s 0 5 ccInvalidPldmType []
  else pldm s 0 5 0 (bitField 32 (pldmCommands typ.toNat))

def execGetPldmCommands (typ : Byte) (s : State) : Host.Outcome State Fault Refusal := managed s (pldmCmds s typ)

/-! ### The PDR repository (R655) -/

/-- A record: its kind (1 state sensor, 2 numeric sensor, 3 numeric effecter), its ID, and its thresholds in °C. -/
structure Pdr where
  kind  : Nat
  id    : Nat
  warn  : Nat := 0
  crit  : Nat := 0
  fatal : Nat := 0
  deriving DecidableEq, Repr

/-- The records, by handle from 1. -/
def pdrs : List Pdr :=
  [{ kind := 1, id := 1 }, { kind := 2, id := 2 }, { kind := 2, id := 3 }] ++
    (List.range 5).map (fun k => { kind := 2, id := 4 + k, warn := 95, crit := 105, fatal := 115 }) ++ [{ kind := 3, id := 1 }]

/-- Steps of a record's reading per unit: 10 for package power, 16 for a temperature. -/
def pdrScale (p : Pdr) : Nat := if p.kind = 2 && p.id = 2 then 10 else if p.kind = 2 && 4 ≤ p.id then 16 else 1

def execGetPdrRepositoryInfo (s : State) : Host.Outcome State Fault Refusal :=
  managed s (pldm s 2 0x50 0 (le 1 0 ++ le 4 pdrs.length))

/-- GetPDR of one record. -/
def getPdr (s : State) (record : Nat) : State :=
  match if record = 0 then none else pdrs[record - 1]? with
  | some p => pldm s 2 0x51 0 (le 4 record ++ le 1 p.kind ++ le 2 p.id ++ le 1 (pdrScale p) ++ le 1 p.warn ++ le 1 p.crit ++ le 1 p.fatal)
  | none => pldm s 2 0x51 ccInvalidRecord []

def execGetPdr (record : Nat) (s : State) : Host.Outcome State Fault Refusal := managed s (getPdr s record)

/-! ### Sensors (R622, R655, R656) -/

/-- READY has been reached since the last reset. -/
def wasReady (s : State) : Bool := isReady s || (isFatal s && s.boot.failStage == 0x0B)

/-- The die code of a temperature sensor. -/
def sensorDie (n : Nat) : Nat := if n = 4 then 4 else n - 5

/-- A Crest die that has no reading: absent, excluded or lost. -/
def noSensor (s : State) (d : Nat) : Bool :=
  let x := (dieOf s d).state
  d < 4 && (x == .excluded || x == .lost || (x == .absent && s.boot.silent.getLsbD d))

/-- The reading of a numeric sensor in steps of its resolution; none when it is unavailable. -/
def reading (s : State) (n : Nat) : Option Int :=
  if n = 2 then
    if wasReady s && !s.pins.thermtrip && s.energy.pkgHist.length = 10 then some ((s.energy.pkgHist.sum / 1000 : Nat) : Int) else none
  else if n = 3 then if wasReady s && !s.pins.thermtrip then some s.energy.effW else none
  else if noSensor s (sensorDie n) then none
  else some (thermOf s (sensorDie n)).temp.toInt

/-- GetSensorReading: operational state 0 enabled, 2 unavailable. -/
def sensorReading (s : State) (n : Nat) : State :=
  if n < 2 ∨ 8 < n then pldm s 2 0x11 ccInvalidId []
  else match reading s n with
    | some v => pldm s 2 0x11 0 (le 1 0 ++ le 4 (v % 2 ^ 32).toNat)
    | none => pldm s 2 0x11 0 (le 1 2 ++ le 4 0)

def execGetSensorReading (sensor : Nat) (s : State) : Host.Outcome State Fault Refusal := managed s (sensorReading s sensor)

/-- GetStateSensorReadings. -/
def stateSensor (s : State) (n : Nat) : State :=
  if n = 1 then pldm s 2 0x21 0 (le 1 1 ++ le 1 0 ++ le 1 (health s)) else pldm s 2 0x21 ccInvalidId []

def execGetStateSensorReadings (sensor : Nat) (s : State) : Host.Outcome State Fault Refusal := managed s (stateSensor s sensor)

/-! ### The BMC's package limit (R657) -/

/-- A value that the BMC limit takes. -/
def bmcLimitOk (v : Nat) : Bool := v = 0 || (decide (120 ≤ v) && decide (v ≤ 300))

/-- SetNumericEffecterValue. -/
def setEffecter (s : State) (n v : Nat) : State :=
  if n ≠ 1 then pldm s 2 0x31 ccInvalidId []
  else if !bmcLimitOk v then pldm s 2 0x31 ccInvalidData []
  else pldm { s with energy := { s.energy with bmcW := v, limitBmc := true } } 2 0x31 0 []

def execSetNumericEffecterValue (effecter value : Nat) (s : State) : Host.Outcome State Fault Refusal :=
  managed s (setEffecter s effecter value)

/-- GetNumericEffecterValue: enabled with or without an update pending (log entry 33), the limit set and the limit that has
taken effect (R657). -/
def getEffecter (s : State) (n : Nat) : State :=
  if n = 1 then pldm s 2 0x32 0 (le 1 (b2n (s.energy.bmcW = s.energy.bmcShown)) ++ le 2 s.energy.bmcW ++ le 2 s.energy.bmcShown) else pldm s 2 0x32 ccInvalidId []

def execGetNumericEffecterValue (effecter : Nat) (s : State) : Host.Outcome State Fault Refusal := managed s (getEffecter s effecter)

end Sys2Proof.Machine
end

