-- ==== Sys2Proof/Machine/Jtag.lean ====
section
/-! DEFINITION. The test port: rows TAP_RESET to BYPASS (25 R669 to R673, 10 R352). -/

namespace Sys2Proof.Machine

open Sys2Proof

/-- A state after an instruction of the TAP: it stands in the instruction register, and one of the two that DIE_SELECT
routes is used up (R672). -/
def tapped (s : State) (opcode : Nat) (t : State) : State :=
  { t with mgmt := { t.mgmt with
      ir := opcode, dieSel := if s.mgmt.dieLeft ≤ 1 then none else t.mgmt.dieSel, dieLeft := s.mgmt.dieLeft - 1 } }

/-- An instruction of the TAP, which is there from PWR_GOOD_IN (R671). -/
def tap (s : State) (opcode : Nat) (t : State) : Host.Outcome State Fault Refusal :=
  occursAlways s.pins.pwrGood "the package has no power" (tapped s opcode t)

/-- The one bit of BYPASS. -/
def bypassed (s : State) : State := emit s (.tdo [0])

/-- The die that an instruction acts on: the one that DIE_SELECT chose, or none for the package. -/
def routed (s : State) : Option Nat := s.mgmt.dieSel

/-- Test-Logic-Reset selects IDCODE; routing ends. -/
def execTapReset (s : State) : Host.Outcome State Fault Refusal :=
  occursAlways s.pins.pwrGood "the package has no power"
    { s with mgmt := { s.mgmt with ir := 0x02, dieSel := none, dieLeft := 0 } }

/-- The cells of the boundary register: Helonavel's BSDL file orders them, so their bits are an open value (log entry 34). -/
def boundaryOut (s : State) : State := emit (drawn s) (.tdo (Config.freeBytes s.freeCtr 64))

/-- EXTEST acts as BYPASS while PERST_N is deasserted. -/
def execExtest (s : State) : Host.Outcome State Fault Refusal := tap s 0x00 (if s.pins.perstN then bypassed s else boundaryOut s)

def execSamplePreload (s : State) : Host.Outcome State Fault Refusal := tap s 0x01 (boundaryOut s)

/-- IDCODE of the package TAP; that of a routed die is an open value. -/
def execIdcode (s : State) : Host.Outcome State Fault Refusal :=
  tap s 0x02 (if (routed s).isSome then emit (drawn s) (.tdo (Config.freeBytes s.freeCtr 4)) else emit s (.tdo (le 4 0x10B03947)))

/-! ### Debug unlock (R669, R670) -/

/-- DBG_CHALLENGE shifts out a new nonce. -/
def execDbgChallenge (s : State) : Host.Outcome State Fault Refusal :=
  tap s 0x10 (emit { drawn s with mgmt := { s.mgmt with nonce := some s.freeCtr } } (.tdo (Config.freeBytes s.freeCtr 16)))

/-- Level 2 takes effect behind a package reset with start-up test 0b00. LAST keeps its value, since R51 has none for this
reset (log entry 35). A device-fatal condition stays, since this is neither a power-on reset nor a PERST_N assertion
(R26, R54). -/
def unlockReset (s : State) : State :=
  let s1 := packageReset s s.boot.lastReset true
  let s2 := { s1 with boot := { s1.boot with straps := { s1.boot.straps with
    cfgBoot := s1.boot.straps.cfgBoot &&& 0b100 } } }
  if isFatal s then keepFatal s s2
  else if s2.pins.perstN then startUp { s2 with now := 0 } else s2

/-- A response that verifies raises the level; every nonce serves one response, and the third failed one locks the
instruction out. -/
def dbgResponse (s : State) (level : Nat) (sigOk : Bool) : State :=
  if s.mgmt.lockout then bypassed s
  else if sigOk && s.mgmt.nonce.isSome && decide (1 ≤ level) && decide (level ≤ 2) then
    let up := max s.mgmt.debug level
    let s1 := if up = 2 && s.mgmt.debug < 2 then unlockReset s else s
    { s1 with mgmt := { s1.mgmt with nonce := none, debug := up } }
  else { s with mgmt := { s.mgmt with nonce := none, dbgFails := s.mgmt.dbgFails + 1, lockout := decide (2 ≤ s.mgmt.dbgFails) } }

def execDbgResponse (level : Nat) (sigOk : Bool) (s : State) : Host.Outcome State Fault Refusal := tap s 0x11 (dbgResponse s level sigOk)

/-! ### Test and fuses (R352, R672, R673) -/

/-- The TEST_MODE that runs: 0b11 runs as 0b10. -/
def testMode (s : State) : Nat := if s.boot.testMode then min 2 s.boot.straps.testMode.toNat else 0

/-- DIE_SELECT. -/
def execDieSelect (d : Fin 5) (s : State) : Host.Outcome State Fault Refusal :=
  if 1 ≤ s.mgmt.debug ∨ testMode s ≠ 0 then
    occursAlways s.pins.pwrGood "the package has no power"
      { s with mgmt := { s.mgmt with ir := 0x20, dieSel := some d.val, dieLeft := 2 } }
  else tap s 0x20 (bypassed s)

/-- What a test run on a link finds is the silicon's: errors and replays are open values (log entry 34). -/
def testLink (s : State) (l : Nat) (flits : Bool) : State :=
  updLink (drawn s) l (fun k => { k with
    crc := sat64 k.crc (Config.freeNat s.freeCtr), state := .loopback,
    replay := if flits then sat64 k.replay (Config.freeNat (s.freeCtr + 1)) else k.replay })

/-- TEST_ACCESS, by the model's numbers of its operations: 0 PRBS31 and 1 DATA flits with forced replays on link `arg`, 2 a
march of bank `arg`, 3 training of controller `arg`, 4 the sequencer of link `arg`, 5 the results of link `arg`. Marches,
training and sequencers belong to the package test. -/
def testAccess (s : State) (op arg : Nat) : State :=
  let pkg := testMode s = 2
  if testMode s = 0 then bypassed s
  else if op = 0 && arg < 8 then testLink s arg false
  else if op = 1 && arg < 8 then testLink (drawn s) arg true
  else if pkg && op = 2 && arg < 272 then
    updBank (drawn s) (arg / 64) (arg % 64) (fun x => { x with marchFail := decide (Config.freeNat s.freeCtr % 2 = 1) })
  else if pkg && op = 3 && arg < 20 then { s with boot := { s.boot with trained := insertNew s.boot.trained arg } }
  else if pkg && op = 4 && arg < 8 then updLink s arg (fun k => { k with state := .training })
  else if op = 5 && arg < 8 then
    let k := linkOf s arg
    emit s (.tdo (le 8 k.crc ++ le 8 k.replay ++ le 8 k.recentres ++ le 8 k.tx ++ le 8 k.rx))
  else bypassed s

def execTestAccess (op arg : Nat) (s : State) : Host.Outcome State Fault Refusal := tap s 0x21 (testAccess s op arg)

/-- A blank fuse field programmed (R33, R35). -/
def burn (x : Fuses) : FuseField → Fuses
  | .pkgFused => { x with fused := true }
  | .pkgPos p => if x.pos = 0 then { x with pos := p } else x
  | .pkgSerial v => if x.serial = 0 then { x with serial := v } else x
  | .keyHash _ _ => x

/-- FUSE_PROG in package test mode: a field of a die that is not fused yet; the key hashes are the Harbour die's. -/
def fuseProg (s : State) (d : Nat) (field : FuseField) : State :=
  if testMode s ≠ 2 then bypassed s
  else match field with
    | .keyHash k h =>
      if d = 4 && !thas s.mgmt.keyHashes k then { s with mgmt := { s.mgmt with keyHashes := tput s.mgmt.keyHashes k h } } else s
    | _ =>
      if d = 4 then (if s.hbFuses.fused then s else { s with hbFuses := burn s.hbFuses field })
      else if (dieOf s d).fuses.fused then s
      else updDie s d (fun x => { x with fuses := burn x.fuses field })

def execFuseProg (die : Fin 5) (field : FuseField) (s : State) : Host.Outcome State Fault Refusal :=
  tap s 0x22 (fuseProg s die.val field)

/-! ### REG_READ and BYPASS -/

/-- Where the model's numbers of REG_READ place the error log: its held entries behind the BARs, 64 bytes each. -/
def errlogWindow : Nat := 0x400000

/-- REG_READ of a PF-only register, or of an error-log entry (R669). -/
def regRead (s : State) (off : Nat) : State :=
  if s.mgmt.debug = 0 then bypassed s
  else if errlogWindow ≤ off then
    match s.errlog[(off - errlogWindow) / 64]? with
    | some e => emit s (.tdo (logBytes e))
    | none => emit s (.tdo (List.replicate 64 0))
  else if off < 0x100000 then bypassed s
  else match bar4Reg s 0 off with
    | some v => emit s (.tdo (le (v.width / 8) v.value))
    | none => emit s (.tdo (le 4 0))

def execRegRead (off : Nat) (s : State) : Host.Outcome State Fault Refusal := tap s 0x23 (regRead s off)

def execBypass (s : State) : Host.Outcome State Fault Refusal := tap s 0xFF (bypassed s)

end Sys2Proof.Machine
end

