-- ==== Sys2Proof/Machine/Packets.lean ====
section
/-! DEFINITION. Memory requests over the die links: rows RD_REQ to ERR_RSP (01 R14, R15, R22, R23, 07 R237, 10 R325, R331, R332,
R348). -/

namespace Sys2Proof.Machine

open Sys2Proof

/-- A die accepts memory requests: the Harbour die always, a Crest die that serves once roll call has assigned it its position
(R23, R325). -/
def accepts (s : State) (d : Nat) : Bool :=
  d = 4 || ((dieOf s d).answered && (dieUsable s d || (dieOf s d).state == .draining || (dieOf s d).state == .starting))

/-- The error of a request that a die does not accept: STRANDED where it is lost, excluded or absent, NOT_ASSIGNED before its
position (R237, R325, R331). -/
def refusalOf (s : State) (d : Nat) : Nat :=
  let st := (dieOf s d).state
  if st == .lost || st == .excluded || st == .absent then 1 else 2

/-- The outstanding transaction of a tag and source. -/
def txnOf (s : State) (tag : Nat) (src : Fin 5) : Option OutTxn :=
  s.txns.find? (fun t => t.txn.tag = tag && t.txn.src = src)

/-- A transaction is answered at its destination. -/
def answerTxn (s : State) (t : OutTxn) (a : Answer) : State :=
  { s with txns := s.txns.map (fun u => if sameTxn t u then { u with phase := .answered a } else u) }

/-- The 64-byte lines of words, by their addresses. -/
def linesOf (ws : List Nat) : List Nat := (ws.map (fun w => w / 64 * 64)).foldl insertNew []

/-- A read served at its destination: its words are classified, and the lines of those that are poisoned marked (R240,
R332). -/
def serveRead (s : State) (t : OutTxn) (seen : Seen) : State :=
  let x := t.txn
  let r := readWords s seen (wordsAt x.addr x.len)
  answerTxn r.1 t { data := (List.range x.len).map (fun k => cellRead r.1.mem (x.addr + k)), poison := linesOf r.2 }

/-- A write served at its destination: stored word by word, its marked lines poisoned, its writer told of the words that refuse
their part (R244 to R246, R332). -/
def serveWrite (s : State) (t : OutTxn) (seen : Seen) : State :=
  let x := t.txn
  let s1 := refused x.by_ (storeAt s x.addr x.data seen)
  let s2 := ((List.range x.data.length).filter (fun k => x.poison.contains ((x.addr + k) / 64 * 64))).foldl
    (fun s k => setPoison s (x.addr + k)) s1
  answerTxn s2 t {}

/-- A request at its destination die is served, or answered with an error (R23, R237, R325). -/
def serve (s : State) (t : OutTxn) (seen : Seen) : State :=
  if !accepts s t.txn.dst.val then answerTxn s t { err := refusalOf s t.txn.dst.val }
  else if t.write then serveWrite s t seen
  else serveRead s t seen

/-- A request that has arrived is served. -/
def serveArrived (s : State) (tag : Nat) (src : Fin 5) (seen : Seen) : State :=
  match txnOf s tag src with
  | some t => if t.phase = .arrived then serve s t seen else s
  | none => s

/-- A request is sent over its route, hop by hop, and served when it has arrived; without a route the surviving end answers it
STRANDED (R14, R15, R237, R331, R347). -/
def request (s : State) (x : Txn) (write : Bool) (seen : Seen) : State :=
  match route s x.src.val x.dst.val with
  | some links =>
    let t : OutTxn := { txn := x, write := write, links := links }
    serveArrived (pump (sendRequest { s with txns := s.txns ++ [t] } t)) x.tag x.src seen
  | none => { s with txns := s.txns ++ [{ txn := x, write := write, links := [], phase := .answered { err := 1 } }] }

/-- A transaction can be made: between two dies, its tag free at its source, its bytes at populated addresses of its
destination (R234). -/
def canAsk (s : State) (x : Txn) (write : Bool) : Bool :=
  let n := if write then x.data.length else x.len
  x.src ≠ x.dst && (txnOf s x.tag x.src).isNone && decide (0 < n) && decide (addrDie x.addr = x.dst.val) &&
    populated x.addr && populated (x.addr + n - 1) && decide (addrDie (x.addr + n - 1) = x.dst.val) &&
    (x.src.val = 4 || dieUsable s x.src.val || (dieOf s x.src.val).state == .draining || (dieOf s x.src.val).state == .starting)

/-- The transaction is outstanding, and its request has arrived since. -/
def hasArrived (s : State) (x : Txn) (write : Bool) : Bool :=
  (txnOf s x.tag x.src).any (fun t => t.txn = x && t.write = write && decide (t.phase = .arrived))

/-- A read or write request reaches its destination: a new one is sent, one that waited for a credit and has arrived is
served. -/
def reach (s : State) (x : Txn) (write : Bool) (seen : Seen) : State :=
  if hasArrived s x write then serveArrived s x.tag x.src seen else request s x write seen

def execRdReq (txn : Txn) (s : State) (seen : Seen := []) : Host.Outcome State Fault Refusal :=
  occurs s (hasArrived s txn false || canAsk s txn false) "the request cannot be made" (reach s txn false seen)

def execWrReq (txn : Txn) (s : State) (seen : Seen := []) : Host.Outcome State Fault Refusal :=
  occurs s (hasArrived s txn true || canAsk s txn true) "the request cannot be made" (reach s txn true seen)

/-- The answer of a transaction, while it stands at the destination. -/
def txnAnswer (s : State) (tag : Nat) (src : Fin 5) : Option (OutTxn × Answer) :=
  match txnOf s tag src with
  | some t => (match t.phase with
    | .answered a => some (t, a)
    | _ => none)
  | none => none

/-- An answer returns to the requester over the way back, where it ends the transaction; one of the surviving end's crosses no
link. -/
def giveAnswer (s : State) (t : OutTxn) (a : Answer) : State :=
  if t.links = [] then finishTxn s t a
  else pump (sendAnswer { s with txns := s.txns.map (fun u => if sameTxn t u then { u with phase := .returning a } else u) } t a)

/-- A transaction's answer of one kind goes back. -/
def returnAnswer (s : State) (tag : Nat) (src : Fin 5) (kind : OutTxn → Answer → Bool) : Host.Outcome State Fault Refusal :=
  match txnAnswer s tag src with
  | some (t, a) => occurs s (kind t a) "no transaction waits for this answer" (giveAnswer s t a)
  | none => .refused (.cannotOccur "no transaction waits for this answer")

def execRdRsp (tag : Nat) (src : Fin 5) (s : State) : Host.Outcome State Fault Refusal :=
  returnAnswer s tag src (fun t a => !t.write && decide (a.err = 0))

def execWrAck (tag : Nat) (src : Fin 5) (s : State) : Host.Outcome State Fault Refusal :=
  returnAnswer s tag src (fun t a => t.write && decide (a.err = 0))

/-- STRANDED (1) or NOT_ASSIGNED (2) ends the requester's transaction (R325, R331, R347). -/
def execErrRsp (tag : Nat) (src : Fin 5) (code : Nat) (s : State) : Host.Outcome State Fault Refusal :=
  returnAnswer s tag src (fun _ a => decide (a.err ≠ 0) && decide (a.err = code))

end Sys2Proof.Machine
end

