-- ==== Sys2Proof/Machine/Spdm.lean ====
section
/-! DEFINITION. SPDM attestation: rows GET_VERSION to SIGNING_DONE (25 R663 to R666). A connection is a function's DOE
instance, 0 to 15, or the MCTP endpoint's, 16. -/

namespace Sys2Proof.Machine

open Sys2Proof

/-- A connection's state. -/
def spdmOf (s : State) (conn : Nat) : Spdm := tget ({} : Spdm) s.mgmt.spdm conn
/-- The state with a connection changed. -/
def updSpdm (s : State) (conn : Nat) (g : Spdm → Spdm) : State :=
  { s with mgmt := { s.mgmt with spdm := tmod ({} : Spdm) s.mgmt.spdm conn g } }

/-- A connection can carry a request: the controller runs, and a DOE instance belongs to an enabled function. -/
def connUp (s : State) (conn : Nat) : Bool :=
  mgmtUp s && (conn = 16 || (decide (conn < 16) && s.boot.cfgReady && (fnOf s conn).pci.enabled))

/-- A request on a connection. -/
def asked (s : State) (conn : Nat) (t : State) : Host.Outcome State Fault Refusal :=
  occursAlways (connUp s conn) "the connection does not exist" t

/-- Response codes. -/
def rspError : Nat := 0x7F
/-- Error codes: InvalidRequest, UnexpectedRequest, ResponseNotReady. -/
def errInvalid : Nat := 0x01
def errUnexpected : Nat := 0x04
def errNotReady : Nat := 0x42

/-- An ERROR response. -/
def spdmError (s : State) (conn code : Nat) (data : List Byte) : State := emit s (.spdm conn rspError (le 1 code ++ data))

/-- A request that needs a phase of its connection. -/
def atPhase (s : State) (conn phase : Nat) (t : State) : State :=
  if (spdmOf s conn).phase = phase then t else spdmError s conn errUnexpected []

/-- GET_VERSION starts the connection again; a deferred response is dropped. -/
def getVersion (s : State) (conn : Nat) : State :=
  let s1 := { s with mgmt := { s.mgmt with signing := s.mgmt.signing.filter (fun x => x.1 ≠ conn) } }
  emit (updSpdm s1 conn (fun _ => { phase := 1 })) (.spdm conn 0x04 (le 1 1 ++ le 2 0x1200))

def execGetVersion (conn : Nat) (s : State) : Host.Outcome State Fault Refusal := asked s conn (getVersion s conn)

/-- GET_CAPABILITIES: CTExponent 16; CERT_CAP, CHAL_CAP, and MEAS_CAP with signatures. -/
def getCapabilities (s : State) (conn : Nat) : State :=
  atPhase s conn 1 (emit (updSpdm s conn (fun x => { x with phase := 2 })) (.spdm conn 0x61 (le 1 16 ++ le 4 0x16)))

def execGetCapabilities (conn : Nat) (s : State) : Host.Outcome State Fault Refusal := asked s conn (getCapabilities s conn)

/-- NEGOTIATE_ALGORITHMS: ECDSA P-384 with SHA-384, or nothing in common. -/
def negotiate (s : State) (conn : Nat) (ok : Bool) : State :=
  atPhase s conn 2 (
    if ok then emit (updSpdm s conn (fun x => { x with phase := 3 })) (.spdm conn 0x63 (le 4 0x80 ++ le 4 0x02))
    else spdmError s conn errInvalid [])

def execNegotiateAlgorithms (conn : Nat) (p384sha384 : Bool) (s : State) : Host.Outcome State Fault Refusal :=
  asked s conn (negotiate s conn p384sha384)

/-- The slot-0 chain of this package. -/
def chain (s : State) : List Byte := Config.certChain s.hbFuses.serial.toNat

/-- GET_DIGESTS: slot 0 alone holds a chain (index 0 of `measure` is its digest). -/
def execGetDigests (conn : Nat) (s : State) : Host.Outcome State Fault Refusal :=
  asked s conn (atPhase s conn 3 (emit s (.spdm conn 0x01 (le 1 1 ++ Config.measure 0 [s.hbFuses.serial.toNat]))))

/-- GET_CERTIFICATE: a portion of the chain and what remains behind it. -/
def getCertificate (s : State) (conn slot off len : Nat) : State :=
  if slot ≠ 0 ∨ (chain s).length ≤ off then spdmError s conn errInvalid []
  else
    let part := ((chain s).drop off).take len
    emit s (.spdm conn 0x02 (le 2 part.length ++ le 2 ((chain s).length - off - part.length) ++ part))

def execGetCertificate (conn slot off len : Nat) (s : State) : Host.Outcome State Fault Refusal :=
  asked s conn (atPhase s conn 3 (getCertificate s conn slot off len))

/-! ### Measurements (R666) -/

/-- The facts of the running state that a block measures. -/
def measured (s : State) (index : Nat) : List Nat :=
  match index with
  | 2 => [(runningVersion s 1).toNat]
  | 3 => [(runningVersion s 2).toNat]
  | 4 => [(runningVersion s 3).toNat]
  | 5 => [0xB0, b2n (discovery s), s.boot.straps.cfgBoot.toNat, s.boot.straps.testMode.toNat, b2n s.boot.straps.clkMode,
          s.boot.diePresent.toNat, s.boot.dieUsable.toNat, s.mgmt.debug]
  | 7 => s.hbFuses.serial.toNat :: (List.range 4).map (fun d => (dieOf s d).fuses.serial.toNat)
  | _ => []

/-- A measurement block: the counters raw, every other block a digest. -/
def block (s : State) (index : Nat) : List Byte :=
  if index = 6 then [1, 2, 3].map (fun c => BitVec.ofNat 8 (fwOf s c).counter)
  else Config.measure index (measured s index)

/-- The blocks that an index names: 0 asks for their number, 0xFF for all. -/
def blocks (s : State) (index : Nat) : List Byte :=
  if index = 0 then le 1 7
  else if index = 0xFF then ((List.range 7).map (fun k => le 1 (k + 1) ++ block s (k + 1))).flatten
  else le 1 index ++ block s index

/-- An index that exists. -/
def indexOk (index : Nat) : Bool := decide (index ≤ 7) || index = 0xFF

/-! ### Signing (R665) -/

/-- A request that needs a signature: CHALLENGE, or GET_MEASUREMENTS of an index. -/
def reqChallenge : Nat := 0x83 * 256
def reqMeasure (index : Nat) : Nat := 0xE0 * 256 + index

/-- The signed response of a request: its content, a nonce and a signature, both open values. -/
def signedResponse (s : State) (conn req : Nat) : State :=
  let fresh := Config.freeBytes s.freeCtr 128
  if req = reqChallenge then
    emit (drawn s) (.spdm conn 0x03 (le 1 1 ++ Config.measure 0 [s.hbFuses.serial.toNat] ++ fresh))
  else emit (drawn s) (.spdm conn 0x60 (blocks s (req % 256) ++ fresh))

/-- A request that needs signing: signed at once, or deferred with ResponseNotReady and RDTExponent 16 behind another. -/
def askSign (s : State) (conn req : Nat) : State :=
  let s1 := { s with mgmt := { s.mgmt with signing := s.mgmt.signing ++ [(conn, req)] } }
  if s.mgmt.signing.isEmpty then updSpdm s1 conn (fun x => { x with waiting := none, ready := false })
  else
    let t := s.mgmt.token
    let s2 := updSpdm { s1 with mgmt := { s1.mgmt with token := (t + 1) % 256 } } conn
      (fun x => { x with waiting := some (req, t), ready := false })
    spdmError s2 conn errNotReady (le 1 16 ++ le 1 (req / 256) ++ le 1 t)

/-- A connection has a signature still to come: its next request is unexpected. -/
def signPending (s : State) (conn : Nat) : Bool := s.mgmt.signing.any (fun x => x.1 = conn)

/-- CHALLENGE. -/
def challengeReq (s : State) (conn slot : Nat) : State :=
  if slot ≠ 0 then spdmError s conn errInvalid []
  else if signPending s conn then spdmError s conn errUnexpected []
  else askSign s conn reqChallenge

def execChallenge (conn slot : Nat) (s : State) : Host.Outcome State Fault Refusal :=
  asked s conn (atPhase s conn 3 (challengeReq s conn slot))

/-- GET_MEASUREMENTS. -/
def getMeasurements (s : State) (conn : Nat) (signed : Bool) (index : Nat) : State :=
  if !indexOk index then spdmError s conn errInvalid []
  else if !signed then emit s (.spdm conn 0x60 (blocks s index))
  else if signPending s conn then spdmError s conn errUnexpected []
  else askSign s conn (reqMeasure index)

def execGetMeasurements (conn : Nat) (signed : Bool) (index : Nat) (s : State) : Host.Outcome State Fault Refusal :=
  asked s conn (atPhase s conn 3 (getMeasurements s conn signed index))

/-- RESPOND_IF_READY collects a deferred response. -/
def respondIfReady (s : State) (conn token : Nat) : State :=
  match (spdmOf s conn).waiting with
  | some (req, t) =>
    if t ≠ token then spdmError s conn errInvalid []
    else if (spdmOf s conn).ready then
      signedResponse (updSpdm s conn (fun x => { x with waiting := none, ready := false })) conn req
    else spdmError s conn errNotReady (le 1 16 ++ le 1 (req / 256) ++ le 1 t)
  | none => spdmError s conn errUnexpected []

def execRespondIfReady (conn token : Nat) (s : State) : Host.Outcome State Fault Refusal := asked s conn (respondIfReady s conn token)

/-- A signing ends: its response goes out, or waits to be collected; the next in arrival order begins. -/
def signingDone (s : State) : State :=
  match s.mgmt.signing with
  | [] => s
  | (conn, req) :: rest =>
    let s1 := { s with mgmt := { s.mgmt with signing := rest } }
    if (spdmOf s1 conn).waiting.isSome then updSpdm s1 conn (fun x => { x with ready := true }) else signedResponse s1 conn req

def execSigningDone (s : State) : Host.Outcome State Fault Refusal :=
  occursAlways (mgmtUp s && !s.mgmt.signing.isEmpty) "nothing is being signed" (signingDone s)

end Sys2Proof.Machine
end

