-- ==== Sys2Proof/Machine/Update.lean ====
section
/-! DEFINITION. PLDM firmware update: rows REQUEST_UPDATE to UPDATE_IDLE_TIMEOUT (25 R658 to R662). -/

namespace Sys2Proof.Machine

open Sys2Proof

/-- Completion codes of PLDM Type 5. -/
def ccNotInUpdate : Nat := 0x80
def ccAlreadyInUpdate : Nat := 0x81
def ccInvalidState : Nat := 0x84

/-- The state with the update's record changed. -/
def updMgmt (s : State) (g : Mgmt → Mgmt) : State := { s with mgmt := g s.mgmt }

/-- A component of R658. -/
def componentOk (c : Nat) : Bool := decide (1 ≤ c) && decide (c ≤ 3)

/-- The copy that the current start-up did not take, changed: an update never writes the other. -/
def updTarget (s : State) (c : Nat) (g : FwCopy → FwCopy) : State :=
  updFw s c (fun x => if x.runB then { x with a := g x.a } else { x with bb := g x.bb })

/-- RequestUpdate. -/
def requestUpdate (s : State) : State :=
  if s.mgmt.upd = .idle then pldm (updMgmt s (fun m => { m with upd := .learn, updComp := 0, updDone := [] })) 5 0x10 0 []
  else pldm s 5 0x10 ccAlreadyInUpdate []

def execRequestUpdate (s : State) : Host.Outcome State Fault Refusal := managed s (requestUpdate s)

/-- PassComponentTable: each component is answered 0 when it may be updated, 1 otherwise. -/
def passTable (s : State) (comps : List Nat) : State :=
  if s.mgmt.upd = .learn then
    pldm (updMgmt s (fun m => { m with upd := .readyXfer })) 5 0x13 0 (comps.map (fun c => BitVec.ofNat 8 (b2n (!componentOk c))))
  else pldm s 5 0x13 ccInvalidState []

def execPassComponentTable (comps : List Nat) (s : State) : Host.Outcome State Fault Refusal := managed s (passTable s comps)

/-- RequestFirmwareData for the next chunk of at most 1,024 B. -/
def updChunk (m : Mgmt) : Nat := min 1024 (m.updSize - m.updGot)
def askUpdate (s : State) : State := emit s (.mgmt 3 (le 1 0x15 ++ le 4 s.mgmt.updGot ++ le 4 (updChunk s.mgmt)))

/-- UpdateComponent: the transfer of a component starts. -/
def updateComponent (s : State) (c size : Nat) : State :=
  if s.mgmt.upd ≠ .readyXfer then pldm s 5 0x14 ccInvalidState []
  else if !componentOk c || size = 0 then pldm s 5 0x14 0 (le 1 1)
  else askUpdate (pldm (updMgmt s (fun m => { m with upd := .download, updComp := c, updSize := size, updGot := 0 })) 5 0x14 0 (le 1 0))

def execUpdateComponent (comp size : Nat) (s : State) : Host.Outcome State Fault Refusal := managed s (updateComponent s comp size)

/-- A chunk arrives; behind the last one TransferComplete goes out and verification starts. -/
def takeData (s : State) (n : Nat) : State :=
  let s1 := updMgmt s (fun m => { m with updGot := m.updGot + n })
  if s1.mgmt.updSize ≤ s1.mgmt.updGot then emit (updMgmt s1 (fun m => { m with upd := .verify })) (.mgmt 3 (le 1 0x16 ++ le 1 0))
  else askUpdate s1

def execFirmwareDataReceived (data : List Byte) (s : State) : Host.Outcome State Fault Refusal :=
  occursAlways (mgmtUp s && s.mgmt.upd == .download && decide (data.length = updChunk s.mgmt)) "no such chunk is awaited"
    (takeData s data.length)

/-- Verification ends: an image that would be bootable is written next, which leaves the target invalid until it ends; any
other is reported, and the target is marked invalid (R659, R661). -/
def verified (s : State) (x : FwCopy) : State :=
  let c := s.mgmt.updComp
  let ok := bootable (fwOf s c) { x with valid := true }
  let s1 := updTarget s c (fun y => { y with valid := false, pending := false })
  emit (updMgmt s1 (fun m => { m with updImage := x, upd := if ok then .apply else .readyXfer }))
    (.mgmt 3 (le 1 0x17 ++ le 1 (b2n (!ok))))

def execVerifyComplete (version : Word) (svn : Nat) (stepping : Byte) (sigOk : Bool) (s : State) :
    Host.Outcome State Fault Refusal :=
  occursAlways (mgmtUp s && s.mgmt.upd == .verify) "no image is being verified"
    (verified s { version := some version, svn := svn, stepping := stepping, signed := sigOk, valid := false })

/-- The verified image is written to the other copy. -/
def applied (s : State) : State :=
  let c := s.mgmt.updComp
  let s1 := updTarget s c (fun _ => { s.mgmt.updImage with valid := true, pending := false })
  emit (updMgmt s1 (fun m => { m with upd := .readyXfer, updDone := insertNew m.updDone c })) (.mgmt 3 (le 1 0x18 ++ le 1 0))

def execApplyComplete (s : State) : Host.Outcome State Fault Refusal :=
  occursAlways (mgmtUp s && s.mgmt.upd == .apply) "no image is being written" (applied s)

/-- The update ends. -/
def updateOver (s : State) : State := updMgmt s (fun m => { m with upd := .idle, updComp := 0, updDone := [] })

/-- ActivateFirmware: the written copies are marked pending; self-contained activation is not supported. -/
def activate (s : State) : State :=
  if s.mgmt.upd = .readyXfer ∧ s.mgmt.updDone ≠ [] then
    pldm (updateOver (s.mgmt.updDone.foldl (fun s c => updTarget s c (fun y => { y with pending := true })) s)) 5 0x1A 0 []
  else pldm s 5 0x1A ccInvalidState []

def execActivateFirmware (s : State) : Host.Outcome State Fault Refusal := managed s (activate s)

/-- An update abandoned: its target copies are marked invalid. -/
def abandonUpdate (s : State) : State :=
  let comps := if s.mgmt.updComp = 0 then s.mgmt.updDone else insertNew s.mgmt.updDone s.mgmt.updComp
  updateOver (comps.foldl (fun s c => updTarget s c (fun y => { y with valid := false, pending := false })) s)

/-- CancelUpdate. -/
def cancelUpdate (s : State) : State :=
  if s.mgmt.upd = .idle then pldm s 5 0x1D ccNotInUpdate [] else pldm (abandonUpdate s) 5 0x1D 0 []

def execCancelUpdate (s : State) : Host.Outcome State Fault Refusal := managed s (cancelUpdate s)

def execUpdateIdleTimeout (s : State) : Host.Outcome State Fault Refusal :=
  occursAlways (mgmtUp s && s.mgmt.upd != .idle) "no update is under way" (abandonUpdate s)

end Sys2Proof.Machine
end

