-- ==== Sys2Proof/Machine/Dispatch.lean ====
section
/-! DEFINITION. One arm per command: its meaning, or its rejection by name. -/

namespace Sys2Proof.Machine

open Sys2Proof

def exec (i : Instr) (s : State) : Host.Outcome State Fault Refusal :=
  match i with
  | .pwrGoodInRise smbAddr => Sys2Proof.Machine.execPwrGoodInRise smbAddr s
  | .pwrGoodInFall => Sys2Proof.Machine.execPwrGoodInFall s
  | .perstNAssert => Sys2Proof.Machine.execPerstNAssert s
  | .perstNDeassert straps early => Sys2Proof.Machine.execPerstNDeassert straps early s
  | .hotReset dlDown => Sys2Proof.Machine.execHotReset dlDown s
  | .railFault rail => Sys2Proof.Machine.execRailFault rail s
  | .refclkLoss => Sys2Proof.Machine.execRefclkLoss s
  | .crestPllLoss d => Sys2Proof.Machine.execCrestPllLoss d s
  | .eprNFall => Sys2Proof.Machine.execEprNFall s
  | .eprNRise => Sys2Proof.Machine.execEprNRise s
  | .preReadyMsMark => Sys2Proof.Machine.execPreReadyMsMark s
  | .harbourPllLock => Sys2Proof.Machine.execHarbourPllLock s
  | .harbourPllTimeout => Sys2Proof.Machine.execHarbourPllTimeout s
  | .fwVerifyDone => Sys2Proof.Machine.execFwVerifyDone s
  | .configSpaceReady => Sys2Proof.Machine.execConfigSpaceReady s
  | .rollCallStart => Sys2Proof.Machine.execRollCallStart s
  | .rollCallAnswer port => Sys2Proof.Machine.execRollCallAnswer port s
  | .rollCallSilent port => Sys2Proof.Machine.execRollCallSilent port s
  | .neighbourExchange l atFirst pos => Sys2Proof.Machine.execNeighbourExchange l atFirst pos s
  | .neighbourExchangeTimeout l => Sys2Proof.Machine.execNeighbourExchangeTimeout l s
  | .dieFwLoaded d ok => Sys2Proof.Machine.execDieFwLoaded d ok s
  | .selfCalDone => Sys2Proof.Machine.execSelfCalDone s
  | .memTrainingDone c ok => Sys2Proof.Machine.execMemTrainingDone c ok s
  | .memoryInitDone report => Sys2Proof.Machine.execMemoryInitDone report s
  | .readySet => Sys2Proof.Machine.execReadySet s
  | .bootTimeout => Sys2Proof.Machine.execBootTimeout s
  | .bmeClear f => Sys2Proof.Machine.execBmeClear f s
  | .bmeSet f => Sys2Proof.Machine.execBmeSet f s
  | .initiateFlr f => Sys2Proof.Machine.execInitiateFlr f s
  | .flrComplete f => Sys2Proof.Machine.execFlrComplete f s
  | .vfEnableClear => Sys2Proof.Machine.execVfEnableClear s
  | .vfEnableSet numVfs => Sys2Proof.Machine.execVfEnableSet numVfs s
  | .d3hotEntry f => Sys2Proof.Machine.execD3hotEntry f s
  | .d0Return f => Sys2Proof.Machine.execD0Return f s
  | .completionReceived f tag st => Sys2Proof.Machine.execCompletionReceived f tag st s
  | .completionTimeoutExpiry f tag => Sys2Proof.Machine.execCompletionTimeoutExpiry f tag s
  | .tagQuarantineExpiry f tag => Sys2Proof.Machine.execTagQuarantineExpiry f tag s
  | .atomicopReceived f => Sys2Proof.Machine.execAtomicopReceived f s
  | .bar2Read f off len seen => Sys2Proof.Machine.execBar2Read f off len s seen
  | .bar2Write f off data poisonedTlp seen => Sys2Proof.Machine.execBar2Write f off data poisonedTlp s seen
  | .invalidationRequest f itag pasid page => Sys2Proof.Machine.execInvalidationRequest f itag pasid page s
  | .translationCompletion f pasid page present => Sys2Proof.Machine.execTranslationCompletion f pasid page present s
  | .prgResponse f pasid page code => Sys2Proof.Machine.execPrgResponse f pasid page code s
  | .prgResponseTimeout f pasid page => Sys2Proof.Machine.execPrgResponseTimeout f pasid page s
  | .msixUnmask f v => Sys2Proof.Machine.execMsixUnmask f v s
  | .registerWrite f bar off width value => Sys2Proof.Machine.execRegisterWrite f bar off width value s
  | .lowHalfRead f bar off width => Sys2Proof.Machine.execLowHalfRead f bar off s width
  | .slotWrite f off width value => Sys2Proof.Machine.execSlotWrite f off width value s
  | .dbMboxWrite f value => Sys2Proof.Machine.execDbMboxWrite f value s
  | .commandCommit f slot => Sys2Proof.Machine.execCommandCommit f slot s
  | .deviceInfo f slot => Sys2Proof.Machine.execDeviceInfo f slot s
  | .functionOpen f slot => Sys2Proof.Machine.execFunctionOpen f slot s
  | .functionClose f slot => Sys2Proof.Machine.execFunctionClose f slot s
  | .engineEnable f slot => Sys2Proof.Machine.execEngineEnable f slot s
  | .regionCreate f slot => Sys2Proof.Machine.execRegionCreate f slot s
  | .regionDestroy f slot => Sys2Proof.Machine.execRegionDestroy f slot s
  | .bar2WindowSet f slot => Sys2Proof.Machine.execBar2WindowSet f slot s
  | .modelLoad f slot read image => Sys2Proof.Machine.execModelLoad f slot read image s
  | .modelUnload f slot => Sys2Proof.Machine.execModelUnload f slot s
  | .modelInfo f slot => Sys2Proof.Machine.execModelInfo f slot s
  | .vocabLoad f slot read => Sys2Proof.Machine.execVocabLoad f slot read s
  | .vocabUnload f slot => Sys2Proof.Machine.execVocabUnload f slot s
  | .bintableLoad f slot read => Sys2Proof.Machine.execBintableLoad f slot read s
  | .bintableUnload f slot => Sys2Proof.Machine.execBintableUnload f slot s
  | .grammarLoad f slot read image => Sys2Proof.Machine.execGrammarLoad f slot read image s
  | .grammarUnload f slot => Sys2Proof.Machine.execGrammarUnload f slot s
  | .requestQuery f slot => Sys2Proof.Machine.execRequestQuery f slot s
  | .ringOpen f slot => Sys2Proof.Machine.execRingOpen f slot s
  | .ringClose f slot => Sys2Proof.Machine.execRingClose f slot s
  | .streamOpen f slot => Sys2Proof.Machine.execStreamOpen f slot s
  | .streamClose f slot => Sys2Proof.Machine.execStreamClose f slot s
  | .configStage f slot read => Sys2Proof.Machine.execConfigStage f slot read s
  | .configRead f slot => Sys2Proof.Machine.execConfigRead f slot s
  | .commitConfig f slot => Sys2Proof.Machine.execCommitConfig f slot s
  | .configDiscard f slot => Sys2Proof.Machine.execConfigDiscard f slot s
  | .energyLimitSet f slot => Sys2Proof.Machine.execEnergyLimitSet f slot s
  | .energyReport f slot => Sys2Proof.Machine.execEnergyReport f slot s
  | .diagBootlog f slot => Sys2Proof.Machine.execDiagBootlog f slot s
  | .booksAudit f slot => Sys2Proof.Machine.execBooksAudit f slot s
  | .marchRun f slot => Sys2Proof.Machine.execMarchRun f slot s
  | .errlogRead f slot => Sys2Proof.Machine.execErrlogRead f slot s
  | .dieReset f slot => Sys2Proof.Machine.execDieReset f slot s
  | .dieRejoin f slot => Sys2Proof.Machine.execDieRejoin f slot s
  | .descriptorFetch f ring data => Sys2Proof.Machine.execDescriptorFetch f ring data s
  | .submit f ring stops => Sys2Proof.Machine.execSubmit f ring stops s
  | .cancel f ring => Sys2Proof.Machine.execCancel f ring s
  | .pause f ring => Sys2Proof.Machine.execPause f ring s
  | .resume f ring => Sys2Proof.Machine.execResume f ring s
  | .close f ring => Sys2Proof.Machine.execClose f ring s
  | .textIn f ring => Sys2Proof.Machine.execTextIn f ring s
  | .numIn f ring => Sys2Proof.Machine.execNumIn f ring s
  | .textOut f ring => Sys2Proof.Machine.execTextOut f ring s
  | .numOut f ring => Sys2Proof.Machine.execNumOut f ring s
  | .dbRingWrite f ring value => Sys2Proof.Machine.execDbRingWrite f ring value s
  | .evqConsWrite f value => Sys2Proof.Machine.execEvqConsWrite f value s
  | .writebackUpdate f ring => Sys2Proof.Machine.execWritebackUpdate f ring s
  | .msixHoldoffExpiry f ring => Sys2Proof.Machine.execMsixHoldoffExpiry f ring s
  | .cpWatchdogExpiry => Sys2Proof.Machine.execCpWatchdogExpiry s
  | .controlCoreFault => Sys2Proof.Machine.execControlCoreFault s
  | .cpRestartEnd => Sys2Proof.Machine.execCpRestartEnd s
  | .cpRestartTimeout badFw => Sys2Proof.Machine.execCpRestartTimeout badFw s
  | .dieManagerWatchdog d => Sys2Proof.Machine.execDieManagerWatchdog d s
  | .dieManagerRestartDone d ok => Sys2Proof.Machine.execDieManagerRestartDone d ok s
  | .tideBoundary meters => Sys2Proof.Machine.execTideBoundary meters s
  | .tideReport dom msg => Sys2Proof.Machine.execTideReport dom msg s
  | .tideReportTimeout dom => Sys2Proof.Machine.execTideReportTimeout dom s
  | .tideGrant d => Sys2Proof.Machine.execTideGrant d s
  | .allowance97Reached dom => Sys2Proof.Machine.execAllowance97Reached dom s
  | .allowanceExhausted d => Sys2Proof.Machine.execAllowanceExhausted d s
  | .fastTripPower d => Sys2Proof.Machine.execFastTripPower d s
  | .fastTripEnd d => Sys2Proof.Machine.execFastTripEnd d s
  | .tempUpdate dom temp => Sys2Proof.Machine.execTempUpdate dom temp s
  | .admitHoldTimeout f ring => Sys2Proof.Machine.execAdmitHoldTimeout f ring s
  | .prefillStepForm model tenantUj => Sys2Proof.Machine.execPrefillStepForm model tenantUj s
  | .decodeStepForm model tenantUj => Sys2Proof.Machine.execDecodeStepForm model tenantUj s
  | .stepLayerBoundary step last => Sys2Proof.Machine.execStepLayerBoundary step last s
  | .stepCommit step elapsedUs rows => Sys2Proof.Machine.execStepCommit step elapsedUs rows s
  | .drainStepTimeout d => Sys2Proof.Machine.execDrainStepTimeout d s
  | .holdStepTimeout => Sys2Proof.Machine.execHoldStepTimeout s
  | .maskReady ledger => Sys2Proof.Machine.execMaskReady ledger s
  | .cardingLaneTake lane f stream => Sys2Proof.Machine.execCardingLaneTake lane f stream s
  | .cardingChunk lane read => Sys2Proof.Machine.execCardingChunk lane read s
  | .carryStateSpill lane => Sys2Proof.Machine.execCarryStateSpill lane s
  | .bintableStaged handle => Sys2Proof.Machine.execBintableStaged handle s
  | .feltingLaneTake lane ledger => Sys2Proof.Machine.execFeltingLaneTake lane ledger s
  | .tidepoolMoveDone ledger => Sys2Proof.Machine.execTidepoolMoveDone ledger s
  | .tidepoolExpiry ledger => Sys2Proof.Machine.execTidepoolExpiry ledger s
  | .tidepoolReturnDone ledger => Sys2Proof.Machine.execTidepoolReturnDone ledger s
  | .ledgerEntryFreed ledger => Sys2Proof.Machine.execLedgerEntryFreed ledger s
  | .demandRead addr ecc by_ => Sys2Proof.Machine.execDemandRead addr ecc by_ s
  | .fullWrite addr data => Sys2Proof.Machine.execFullWrite addr data s
  | .partialWrite addr data ecc by_ => Sys2Proof.Machine.execPartialWrite addr data ecc by_ s
  | .patrolRead c ecc => Sys2Proof.Machine.execPatrolRead c ecc s
  | .poisonDisposition addr source => Sys2Proof.Machine.execPoisonDisposition addr source s
  | .ceCountRetire page => Sys2Proof.Machine.execCeCountRetire page s
  | .migrationDone page => Sys2Proof.Machine.execMigrationDone page s
  | .pageZeroed page => Sys2Proof.Machine.execPageZeroed page s
  | .pageWalkDone die asid dva write work => Sys2Proof.Machine.execPageWalkDone die asid dva write work s
  | .absentFaultServiced asid dva => Sys2Proof.Machine.execAbsentFaultServiced asid dva s
  | .tidepoolFaultServiced asid dva => Sys2Proof.Machine.execTidepoolFaultServiced asid dva s
  | .tidepoolFaultPageFreed asid dva => Sys2Proof.Machine.execTidepoolFaultPageFreed asid dva s
  | .stepFaultWaitTimeout step ledger => Sys2Proof.Machine.execStepFaultWaitTimeout step ledger s
  | .preemptFaultWaitTimeout asid dva => Sys2Proof.Machine.execPreemptFaultWaitTimeout asid dva s
  | .tablePageRebuilt asid dva => Sys2Proof.Machine.execTablePageRebuilt asid dva s
  | .shootdown asid dva => Sys2Proof.Machine.execShootdown asid dva s
  | .shootdownComplete asid dva => Sys2Proof.Machine.execShootdownComplete asid dva s
  | .bankAccess die bank off data len code by_ seen => Sys2Proof.Machine.execBankAccess die bank off data len code by_ s seen
  | .bankHandover die bank next => Sys2Proof.Machine.execBankHandover die bank next s
  | .handoverDone die bank => Sys2Proof.Machine.execHandoverDone die bank s
  | .seizureDone die bank failRow => Sys2Proof.Machine.execSeizureDone die bank failRow s
  | .firmwareBankReclaim die bank => Sys2Proof.Machine.execFirmwareBankReclaim die bank s
  | .marchDone die bank failRow found => Sys2Proof.Machine.execMarchDone die bank failRow found s
  | .linkTrained l groups => Sys2Proof.Machine.execLinkTrained l groups s
  | .linkTrainingTimeout l => Sys2Proof.Machine.execLinkTrainingTimeout l s
  | .flitReceived l flit atFirst => Sys2Proof.Machine.execFlitReceived l flit s atFirst
  | .replayRequest l seq fromFirst => Sys2Proof.Machine.execReplayRequest l seq s fromFirst
  | .ackTimeout l fromFirst => Sys2Proof.Machine.execAckTimeout l s fromFirst
  | .flitRetryLimit l => Sys2Proof.Machine.execFlitRetryLimit l s
  | .rdReq txn seen => Sys2Proof.Machine.execRdReq txn s seen
  | .wrReq txn seen => Sys2Proof.Machine.execWrReq txn s seen
  | .rdRsp tag src => Sys2Proof.Machine.execRdRsp tag src s
  | .wrAck tag src => Sys2Proof.Machine.execWrAck tag src s
  | .errRsp tag src code => Sys2Proof.Machine.execErrRsp tag src code s
  | .auditMarker l => Sys2Proof.Machine.execAuditMarker l s
  | .recentreDue l marked closed => Sys2Proof.Machine.execRecentreDue l marked closed s
  | .recentreGapForced l => Sys2Proof.Machine.execRecentreGapForced l s
  | .groupDisable l group => Sys2Proof.Machine.execGroupDisable l group s
  | .partnerClockStop l atFirst groups => Sys2Proof.Machine.execPartnerClockStop l atFirst s groups
  | .dieLossPath d => Sys2Proof.Machine.execDieLossPath d s
  | .dieResetApplied d => Sys2Proof.Machine.execDieResetApplied d s
  | .dieRejoinDone d result => Sys2Proof.Machine.execDieRejoinDone d result s
  | .slackTideStart found => Sys2Proof.Machine.execSlackTideStart found s
  | .slackTideEnd durationUs => Sys2Proof.Machine.execSlackTideEnd durationUs s
  | .groupMovePrepared model ok => Sys2Proof.Machine.execGroupMovePrepared model ok s
  | .avsFrameAck d => Sys2Proof.Machine.execAvsFrameAck d s
  | .avsNoAck d => Sys2Proof.Machine.execAvsNoAck d s
  | .avsStepSettled d => Sys2Proof.Machine.execAvsStepSettled d s
  | .setEndpointId op eid => Sys2Proof.Machine.execSetEndpointId op eid s
  | .getEndpointId => Sys2Proof.Machine.execGetEndpointId s
  | .getMctpVersionSupport msgType => Sys2Proof.Machine.execGetMctpVersionSupport msgType s
  | .getMessageTypeSupport => Sys2Proof.Machine.execGetMessageTypeSupport s
  | .mctpUnsupportedCmd cmd => Sys2Proof.Machine.execMctpUnsupportedCmd cmd s
  | .smbusAlertResponse => Sys2Proof.Machine.execSmbusAlertResponse s
  | .getTid => Sys2Proof.Machine.execGetTid s
  | .setTid tid => Sys2Proof.Machine.execSetTid tid s
  | .getPldmVersion typ => Sys2Proof.Machine.execGetPldmVersion typ s
  | .getPldmTypes => Sys2Proof.Machine.execGetPldmTypes s
  | .getPldmCommands typ => Sys2Proof.Machine.execGetPldmCommands typ s
  | .getPdrRepositoryInfo => Sys2Proof.Machine.execGetPdrRepositoryInfo s
  | .getPdr record => Sys2Proof.Machine.execGetPdr record s
  | .getSensorReading sensor => Sys2Proof.Machine.execGetSensorReading sensor s
  | .getStateSensorReadings sensor => Sys2Proof.Machine.execGetStateSensorReadings sensor s
  | .setNumericEffecterValue effecter value => Sys2Proof.Machine.execSetNumericEffecterValue effecter value s
  | .getNumericEffecterValue effecter => Sys2Proof.Machine.execGetNumericEffecterValue effecter s
  | .requestUpdate => Sys2Proof.Machine.execRequestUpdate s
  | .passComponentTable comps => Sys2Proof.Machine.execPassComponentTable comps s
  | .updateComponent comp size => Sys2Proof.Machine.execUpdateComponent comp size s
  | .firmwareDataReceived data => Sys2Proof.Machine.execFirmwareDataReceived data s
  | .verifyComplete version svn stepping sigOk => Sys2Proof.Machine.execVerifyComplete version svn stepping sigOk s
  | .applyComplete => Sys2Proof.Machine.execApplyComplete s
  | .activateFirmware => Sys2Proof.Machine.execActivateFirmware s
  | .cancelUpdate => Sys2Proof.Machine.execCancelUpdate s
  | .updateIdleTimeout => Sys2Proof.Machine.execUpdateIdleTimeout s
  | .getVersion conn => Sys2Proof.Machine.execGetVersion conn s
  | .getCapabilities conn => Sys2Proof.Machine.execGetCapabilities conn s
  | .negotiateAlgorithms conn p384sha384 => Sys2Proof.Machine.execNegotiateAlgorithms conn p384sha384 s
  | .getDigests conn => Sys2Proof.Machine.execGetDigests conn s
  | .getCertificate conn slot off len => Sys2Proof.Machine.execGetCertificate conn slot off len s
  | .challenge conn slot => Sys2Proof.Machine.execChallenge conn slot s
  | .getMeasurements conn signed index => Sys2Proof.Machine.execGetMeasurements conn signed index s
  | .respondIfReady conn token => Sys2Proof.Machine.execRespondIfReady conn token s
  | .signingDone => Sys2Proof.Machine.execSigningDone s
  | .tapReset => Sys2Proof.Machine.execTapReset s
  | .extest => Sys2Proof.Machine.execExtest s
  | .samplePreload => Sys2Proof.Machine.execSamplePreload s
  | .idcode => Sys2Proof.Machine.execIdcode s
  | .dbgChallenge => Sys2Proof.Machine.execDbgChallenge s
  | .dbgResponse level sigOk => Sys2Proof.Machine.execDbgResponse level sigOk s
  | .dieSelect d => Sys2Proof.Machine.execDieSelect d s
  | .testAccess op arg => Sys2Proof.Machine.execTestAccess op arg s
  | .fuseProg die field => Sys2Proof.Machine.execFuseProg die field s
  | .regRead off => Sys2Proof.Machine.execRegRead off s
  | .bypass => Sys2Proof.Machine.execBypass s
  | .crestRootPllLock d => Sys2Proof.Machine.execCrestRootPllLock d s
  | .pcieLinkUp speed width flit => Sys2Proof.Machine.execPcieLinkUp speed width flit s
  | .receiverError f err => Sys2Proof.Machine.execReceiverError f err s
  | .railReturn => Sys2Proof.Machine.execRailReturn s
  | .perstNDeassertionTaken straps => Sys2Proof.Machine.execPerstNDeassertionTaken straps s
  | .vocabImageReloaded handle => Sys2Proof.Machine.execVocabImageReloaded handle s
  | .grammarCopyBuilt handle d => Sys2Proof.Machine.execGrammarCopyBuilt handle d s

end Sys2Proof.Machine
end

