-- ==== Sys2Proof/Machine/Idle.lean ====
section
/-! DEFINITION. What the block does while no command waits: time passes (log entry 1). -/

namespace Sys2Proof.Machine

open Sys2Proof

/-- One microsecond passes while the clocks run: power is good, PERST_N is deasserted and no thermal trip is latched. -/
def idle (s : State) : State :=
  if s.pins.pwrGood && s.pins.perstN && !s.pins.thermtrip then elapse s (s.now + 1) else s

end Sys2Proof.Machine
end

