-- ==== Sys2Proof/Safety.lean ====
section
/-! DEFINITION. What the statements speak of: what a safe step is, when a mailbox command starts, commits and answers, which commands a
thermal trip does not stop, and the invariants. -/

namespace Sys2Proof.Machine

open Sys2Proof

/-- A step is safe when it answers a next state. -/
def SafeStep (s : State) : Prop := ∃ t, step s = .next t

/-- The clocks of the dies run: no thermal trip is latched (R47). -/
def Clocked (s : State) : Prop := s.pins.thermtrip = false

/-- What a mailbox command's own body answers to the bytes of its slot. -/
def answerOf (s : State) (f slot : Nat) (body : State → List Byte → Ran) : Ran := body s (slotBytes s f slot)

/-- A mailbox command may start (R123) and passes the shared checks (R167). -/
def starts (s : State) (f slot op : Nat) : Bool := mayStart s f slot op && (sharedChecks s f (slotBytes s f slot)).isNone

/-- The state in which a command has started that has its effect at its commit point: `pre` is what its start sets off
(R124). -/
def begun (s : State) (f slot : Nat) (pre : State → List Byte → State) : State :=
  updCmd (pre s (slotBytes s f slot)) f slot (fun c => { c with started := true, startedAt := s.now })

/-- The state in which a command has started that runs to an end of its own: its answer is in the journal where it has one
(R124). -/
def afterAccepted (s : State) (f slot : Nat) (body : State → List Byte → Ran) : State :=
  updCmd (answerOf s f slot body).1 f slot (fun c =>
    { c with started := true, outcome := (answerOf s f slot body).2, startedAt := s.now })

/-- The command of a slot. -/
def cmdOf (s : State) (f slot : Nat) : Option Cmd := (fnOf s f).cmds.find? (fun c => c.slot = slot)

/-- A command with an opcode reaches its commit point (R124) with its effect still to come: it passes the shared checks
(R167). -/
def committing (s : State) (f slot op : Nat) : Bool :=
  mayCommit s f slot && decide (slotOp (slotBytes s f slot) = op) && (sharedChecks s f (slotBytes s f slot)).isNone &&
    (cmdOf s f slot).any (fun c => decide (c.opcode = op) && c.outcome.isNone && c.ready.isNone)

/-- A command's row starts it, and COMMAND_COMMIT gives it the effect and the answer of its body (R123, R124). -/
def StartsThenCommits (row : Fin 16 → Fin 32 → Instr) (op : Nat) (pre : State → Nat → List Byte → State)
    (body : State → Nat → Nat → List Byte → Ran) : Prop :=
  ∀ (f : Fin 16) (slot : Fin 32) (s : State), Clocked s →
    (starts s f slot op = true → exec (row f slot) s = .next (begun s f slot (fun u b => pre u f b))) ∧
    (∀ t o, committing s f slot op = true → body s f slot (slotBytes s f slot) = (t, some o) →
      exec (.commandCommit f slot) s = .next (afterCommit (completeSlot t f slot o) f))

/-- A command's row reserves and builds what the command makes, and COMMAND_COMMIT answers and shows it (R124, R172). -/
def ReservesThenShows (row : Fin 16 → Fin 32 → Instr) (op : Nat) (body : State → Nat → Nat → List Byte → Ran) : Prop :=
  ∀ (f : Fin 16) (slot : Fin 32) (s : State), Clocked s →
    (∀ t o, starts s f slot op = true → body s f slot (slotBytes s f slot) = (t, some o) → o.status = 0 →
      exec (row f slot) s = .next (updCmd { t with uncommitted := t.uncommitted ++
          ((allHandles t).filter (fun h => !(allHandles s).contains h)).map (fun h => (h, f.val, slot.val)) } f slot (fun c =>
        { c with started := true, startedAt := s.now, outcome := none, ready := some o }))) ∧
    (∀ c o, mayCommit s f slot = true → cmdOf s f slot = some c → c.opcode = op → c.outcome = none → c.ready = some o →
      (op = 0x0401 → groupLost s f slot = 0) →
      exec (.commandCommit f slot) s = .next (completeSlot (showBuilt s f slot) f slot o))

/-- A command's row sets off what the command does, and COMMAND_COMMIT completes its slot with the answer that the journal
holds (R124). -/
def RunsThenAnswers (row : Fin 16 → Fin 32 → Instr) (op : Nat) (body : State → Nat → Nat → List Byte → Ran) : Prop :=
  ∀ (f : Fin 16) (slot : Fin 32) (s : State), Clocked s →
    (starts s f slot op = true → (op = 0x0B03 → marchBusy s (slotBytes s f slot) = false) →
      exec (row f slot) s = .next (afterAccepted s f slot (fun u b => body u f slot b))) ∧
    (∀ c o, mayCommit s f slot = true → cmdOf s f slot = some c → c.opcode = op → c.outcome = some o →
      exec (.commandCommit f slot) s = .next (completeSlot s f slot o))

/-- The commands of the board's power: PWR_GOOD_IN, and the rails whose loss acts as its fall (R687). -/
def powerEvent : Instr → Bool
  | .pwrGoodInRise _ | .pwrGoodInFall | .railFault .other | .railReturn => true
  | _ => false

/-- The commands of the management controller's endpoints (25 R649 to R666). -/
def mgmtCommand : Instr → Bool
  | .setEndpointId _ _ | .getEndpointId | .getMctpVersionSupport _ | .getMessageTypeSupport | .mctpUnsupportedCmd _
  | .smbusAlertResponse | .getTid | .setTid _ | .getPldmVersion _ | .getPldmTypes | .getPldmCommands _
  | .getPdrRepositoryInfo | .getPdr _ | .getSensorReading _ | .getStateSensorReadings _ | .setNumericEffecterValue _ _
  | .getNumericEffecterValue _ | .requestUpdate | .passComponentTable _ | .updateComponent _ _ | .firmwareDataReceived _
  | .verifyComplete _ _ _ _ | .applyComplete | .activateFirmware | .cancelUpdate | .updateIdleTimeout
  | .getVersion _ | .getCapabilities _ | .negotiateAlgorithms _ _ | .getDigests _ | .getCertificate _ _ _ _
  | .challenge _ _ | .getMeasurements _ _ _ | .respondIfReady _ _ | .signingDone => true
  | _ => false

/-- The commands of the test port (25 R671, R672). -/
def testPortCommand : Instr → Bool
  | .tapReset | .extest | .samplePreload | .idcode | .dbgChallenge | .dbgResponse _ _ | .dieSelect _ | .testAccess _ _
  | .fuseProg _ _ | .regRead _ | .bypass => true
  | _ => false

/-- The commands of a pin that a thermal trip does not stop. -/
def pinCommand : Instr → Bool
  | .perstNAssert | .perstNDeassert _ _ | .perstNDeassertionTaken _ | .railFault _ | .eprNFall | .eprNRise => true
  | _ => false

/-- The commands that need a clock of a die: all but those of the pins, the management controller and the test port. -/
def clockedCommand (c : Instr) : Bool := !(powerEvent c || mgmtCommand c || testPortCommand c || pinCommand c)

/-- Memory is in its canonical form: addresses strictly rising, no byte listed that an unlisted address reads as. -/
def MemoryCanonical (s : State) : Prop := Memory.wf s.mem = true

/-- PKG_FUSED is programmed in the Harbour die and its identity fuses hold `v`. -/
def HarbourFusesAre (v : Fuses) (s : State) : Prop := s.hbFuses = v ∧ v.fused = true

/-- A thermal trip is latched and no command of the board's power waits. -/
def TripHeld (s : State) : Prop := s.pins.thermtrip = true ∧ ∀ c ∈ s.pending, powerEvent c = false

end Sys2Proof.Machine
end

