-- ==== Sys2Proof/Certificates/Slice0/Obligations.lean ====
section
/-! DEFINITION. The statements for the provers. -/

open Sys2Proof Sys2Proof.Machine

/-- A step runs the command at the front of the queue (spec/00_scope.md). -/
def Obligations.StepRunsFrontCommand : Prop :=
  ∀ (c : Instr) (rest : List Instr) (s : State), step { s with pending := c :: rest } = exec c { s with pending := rest }

/-- With no command waiting, one microsecond passes while the clocks run, and nothing happens otherwise (the model's choice, log entry 1)
(spec/02_bringup.md). -/
def Obligations.EmptyQueueLetsTimePass : Prop :=
  ∀ s : State, s.pending = [] →
    (s.pins.pwrGood = true → s.pins.perstN = true → Clocked s → ∃ t, step s = .next t ∧ t.now = s.now + 1 ∧ t.mem = s.mem ∧
      t.ledger = s.ledger ∧ t.pins = s.pins ∧ t.out = s.out ∧ t.pending = []) ∧
    ((s.pins.pwrGood = false ∨ s.pins.perstN = false ∨ ¬Clocked s) → step s = .next s)

/-- What reset leaves; that unwritten memory reads 0 is the model's choice (log entry 37) (R45, R53, R159). -/
def Obligations.ResetLeaves : Prop :=
  MemoryCanonical State.reset ∧ State.reset.pending = [] ∧ State.reset.out = [] ∧ State.reset.boot.stage = 0 ∧ isReady State.reset = false ∧
    Clocked State.reset ∧ State.reset.errlog = [] ∧ State.reset.mgmt.debug = 0 ∧ State.reset.conf.shadow = [] ∧
    (∀ a, cellRead State.reset.mem a = 0) ∧
    ∀ f, (fnOf State.reset f).opened = false ∧ (fnOf State.reset f).owner = 0 ∧ (fnOf State.reset f).done = 0 ∧
      (fnOf State.reset f).engines = 0 ∧ (fnOf State.reset f).rings = []

/-- Every step keeps memory in its canonical form (spec/07_memory.md). -/
def Obligations.MemoryFormKept : Prop :=
  ∀ s t : State, MemoryCanonical s → step s = .next t → MemoryCanonical t

/-- Every step keeps the Harbour die's identity fuses once PKG_FUSED is programmed (R33, R672). -/
def Obligations.HarbourFusesKept : Prop :=
  ∀ (v : Fuses) (s t : State), HarbourFusesAre v s → step s = .next t → HarbourFusesAre v t

/-- A thermal trip stays latched over every step while no command of the board's power waits (R47, R687). -/
def Obligations.TripKept : Prop :=
  ∀ s t : State, TripHeld s → step s = .next t → TripHeld t

/-- Under a latched thermal trip no command that needs a die's clock changes anything, and the fall of PWR_GOOD_IN releases the
trip (log entry 94) (R47). -/
def Obligations.TripStopsClocksUntilPowerFalls : Prop :=
  (∀ (c : Instr) (s t : State), clockedCommand c = true → s.pins.thermtrip = true → exec c s = .next t → t = s) ∧
  (∀ s : State, s.pins.pwrGood = true → s.pins.thermtrip = true →
    ∃ t, exec .pwrGoodInFall s = .next t ∧ Clocked t ∧ t.pins.pwrGood = false)

/-- No command touches the queue of the commands that wait (spec/00_scope.md). -/
def Obligations.ExecKeepsQueue : Prop :=
  ∀ (c : Instr) (s t : State), exec c s = .next t → t.pending = s.pending

/-- Power, reset, pin, clock, regulator and start-up rows complete (premises of events: log entry 2)
(spec/01_package.md, spec/02_bringup.md, spec/19_energy.md, spec/25_management_security_test.md, spec/26_balls_electrical.md). -/
def Obligations.PowerAndStartUpRowsComplete : Prop :=
  (∀ (smbAddr : BitVec 2) (s : State),
    (!s.pins.pwrGood) = true → exec (.pwrGoodInRise smbAddr) s = .next (risePwr s smbAddr)) ∧
  (∀ (s : State),
    s.pins.pwrGood = true → exec .pwrGoodInFall s = .next (fallPwr s)) ∧
  (∀ (s : State),
    (s.pins.pwrGood && s.pins.perstN) = true → exec .perstNAssert s = .next (assertPerst s)) ∧
  (∀ (straps : Straps) (early : Bool) (s : State),
    (s.pins.pwrGood && !s.pins.perstN) = true →
    exec (.perstNDeassert straps early) s = .next (deassertPerst s straps early)) ∧
  (∀ (straps : Straps) (s : State),
    (s.pins.pwrGood && s.boot.earlyPerst) = true →
    exec (.perstNDeassertionTaken straps) s = .next (takeDeassertion s straps)) ∧
  (∀ (dlDown : Bool) (s : State),
    Clocked s → (s.pins.pwrGood && s.pins.perstN) = true → exec (.hotReset dlDown) s = .next (hotReset s dlDown)) ∧
  (∀ (rail : Rail) (s : State),
    (s.pins.pwrGood && !s.pins.railHeld) = true → exec (.railFault rail) s = .next (railFault s rail)) ∧
  (∀ (s : State),
    (s.pins.pwrGood && s.pins.railHeld) = true → exec .railReturn s = .next (risePwr s s.boot.smbAddr)) ∧
  (∀ (s : State),
    (s.pins.pwrGood && s.pins.eprN) = true → exec .eprNFall s = .next (fallEpr s)) ∧
  (∀ (s : State),
    (s.pins.pwrGood && !s.pins.eprN) = true → exec .eprNRise s = .next { s with pins := { s.pins with eprN := true } }) ∧
  (∀ (s : State),
    Clocked s → (s.pins.pwrGood && s.pins.perstN && decide (1 ≤ s.boot.stage) && decide (s.boot.stage < 0x0B)) = true →
    exec .preReadyMsMark s = .next (endHalvings (msMark s))) ∧
  (∀ (s : State),
    Clocked s → isReady s = true →
    exec .refclkLoss s = .next (deviceFatal { s with boot := { s.boot with pllLocked := false } } 0x09)) ∧
  (∀ (d : Fin 4) (s : State),
    Clocked s → ((dieOf s d.val).rootLock && !((dieOf s d.val).state == .lost)) = true → exec (.crestPllLoss d) s = .next (dieClockLost s d.val)) ∧
  (∀ (d : Fin 4) (s : State),
    Clocked s → (s.pins.perstN && !s.pins.railHeld && !s.pins.thermtrip && !(dieOf s d.val).rootLock &&
      !((dieOf s d.val).state == .lost)) = true →
    exec (.crestRootPllLock d) s = .next (lockCrest s d.val)) ∧
  (∀ (s : State),
    Clocked s → (s.boot.stage == 1 && !s.boot.pllLocked) = true →
    exec .harbourPllLock s = .next (setStage { s with boot := { s.boot with pllLocked := true } } 2)) ∧
  (∀ (s : State),
    Clocked s → (s.boot.stage == 1 && !s.boot.pllLocked) = true →
    exec .harbourPllTimeout s = .next (deviceFatal s 0x01)) ∧
  (∀ (d : Fin 4) (s : State),
    Clocked s → ((dieOf s d.val).avsBusy && !(dieOf s d.val).avsAcked) = true →
    exec (.avsFrameAck d) s = .next (avsAck s d.val)) ∧
  (∀ (d : Fin 4) (s : State),
    Clocked s → ((dieOf s d.val).avsBusy && !(dieOf s d.val).avsAcked) = true →
    exec (.avsNoAck d) s = .next (avsFails s d.val)) ∧
  (∀ (d : Fin 4) (s : State),
    Clocked s → ((dieOf s d.val).avsBusy && (dieOf s d.val).avsAcked) = true →
    exec (.avsStepSettled d) s = .next (avsSettled s d.val)) ∧
  (∀ (s : State),
    Clocked s → (s.boot.stage == 2) = true → exec .fwVerifyDone s = .next (verifyFw s)) ∧
  (∀ (s : State),
    Clocked s → (s.pins.perstN && !s.boot.cfgReady) = true →
    exec .configSpaceReady s = .next { s with boot := { s.boot with cfgReady := true } }) ∧
  (∀ (s : State),
    Clocked s → (s.boot.stage == 3 && s.boot.straps.testMode != 1) = true →
    exec .rollCallStart s = .next (setStage { s with boot := { s.boot with rollCall := true } } 4)) ∧
  (∀ (port : Fin 4) (s : State),
    Clocked s → (s.boot.rollCall && !settledPort s port.val && (linkOf s (4 + port.val)).state == .up &&
      (dieOf s port.val).rootLock) = true →
    exec (.rollCallAnswer port) s = .next (answer s port.val)) ∧
  (∀ (port : Fin 4) (s : State),
    Clocked s → (s.boot.rollCall && !settledPort s port.val) = true →
    exec (.rollCallSilent port) s = .next (silentPort s port.val)) ∧
  (∀ (l : Fin 4) (atFirst : Bool) (pos : BitVec 2) (s : State),
    Clocked s → (s.boot.rollCall && !s.boot.exchOver.getLsbD l.val && (linkOf s l.val).state == .up &&
      (dieOf s (linkEnds l.val).1).answered && (dieOf s (linkEnds l.val).2).answered) = true →
    exec (.neighbourExchange l atFirst pos) s = .next (exchange s l.val atFirst pos)) ∧
  (∀ (l : Fin 4) (s : State),
    Clocked s → (s.boot.rollCall && !s.boot.exchOver.getLsbD l.val) = true →
    exec (.neighbourExchangeTimeout l) s = .next (exchangeTimeout s l.val)) ∧
  (∀ (d : Fin 4) (ok : Bool) (s : State),
    Clocked s → (s.boot.stage == 5 && s.boot.dieUsable.getLsbD d.val && !s.boot.dieFw.getLsbD d.val) = true →
    exec (.dieFwLoaded d ok) s = .next (dieFwLoaded s d.val ok)) ∧
  (∀ (s : State),
    Clocked s → (s.boot.stage == 6) = true → exec .selfCalDone s = .next (selfCalDone s)) ∧
  (∀ (c : Fin 20) (ok : Bool) (s : State),
    Clocked s → (s.boot.stage == 7 && c.val ∈ neededCtrls s && !s.boot.trained.contains c.val) = true →
    exec (.memTrainingDone c ok) s = .next (trainingDone s c.val ok)) ∧
  (∀ (report : InitReport) (s : State),
    Clocked s → (s.boot.stage == 8 || s.boot.stage == 9) = true →
    exec (.memoryInitDone report) s = .next (memInit s report)) ∧
  (∀ (s : State),
    Clocked s → (s.boot.stage == 0x0A && !s.boot.testMode) = true → exec .readySet s = .next (setReady s)) ∧
  (∀ (s : State),
    Clocked s → (decide (1 ≤ s.boot.stage) && decide (s.boot.stage < 0x0B)) = true →
    exec .bootTimeout s = .next (deviceFatal s 0x08))

/-- Bus-master, FLR, VF, D-state, PCIe link, host-read, ATS and PRI rows complete (premises of events: log entry 2)
(spec/03_host_link.md, spec/08_translation_dma.md). -/
def Obligations.HostLinkRowsComplete : Prop :=
  (∀ (f : Fin 16) (s : State),
    Clocked s → exec (.bmeClear f) s = .next (bmeClear s f.val)) ∧
  (∀ (f : Fin 16) (s : State),
    Clocked s → exec (.bmeSet f) s = .next (bmeSet s f.val)) ∧
  (∀ (f : Fin 16) (s : State),
    Clocked s → exec (.initiateFlr f) s = .next (initiateFlr s f.val)) ∧
  (∀ (f : Fin 16) (s : State),
    Clocked s → (fnOf s f.val).flrBusy = true → exec (.flrComplete f) s = .next (flrEnd s f.val)) ∧
  (∀ (s : State),
    Clocked s → exec .vfEnableClear s = .next (vfClear s)) ∧
  (∀ (numVfs : Nat) (s : State),
    Clocked s → exec (.vfEnableSet numVfs) s = .next (vfSet s numVfs)) ∧
  (∀ (f : Fin 16) (s : State),
    Clocked s → exec (.d3hotEntry f) s = .next (d3hotEntry s f.val)) ∧
  (∀ (f : Fin 16) (s : State),
    Clocked s → exec (.d0Return f) s = .next (d0Return s f.val)) ∧
  (∀ (speed width : Nat) (flit : Bool) (s : State),
    Clocked s → (s.pins.perstN && linkMode speed width flit) = true →
    exec (.pcieLinkUp speed width flit) s = .next { s with pcie := (speed, width, flit) }) ∧
  (∀ (f : Fin 16) (err : RcvError) (s : State),
    Clocked s → exec (.receiverError f err) s = .next (aer s (if (rcvClass err).2 then 0 else f.val) (rcvClass err).1)) ∧
  (∀ (f : Fin 16) (s : State),
    Clocked s → exec (.atomicopReceived f) s = .next (aer (emit s (.unsupported f.val)) f.val .unsupportedRequest)) ∧
  (∀ (f : Fin 16) (tag : Nat) (st : CplStatus) (s : State),
    Clocked s → (!(isTranslation s f.val tag && st == .ok)) = true →
    exec (.completionReceived f tag st) s = .next (completion s f.val tag st)) ∧
  (∀ (f : Fin 16) (tag : Nat) (s : State) (w : ReadFor) (cto : Nat) (stale : Bool)
      (page : Option (Nat × Nat)),
    Clocked s → tfind (fnOf s f.val).pci.tags tag = some (.outstanding w cto stale page) →
    exec (.completionTimeoutExpiry f tag) s = .next (timeout s f.val tag w cto)) ∧
  (∀ (f : Fin 16) (tag : Nat) (s : State) (t : Nat),
    Clocked s → tfind (fnOf s f.val).pci.tags tag = some (.quarantined t) →
    exec (.tagQuarantineExpiry f tag) s = .next (quarantineEnd s f.val tag t)) ∧
  (∀ (f : Fin 16) (itag pasid page : Nat) (s : State),
    Clocked s → exec (.invalidationRequest f itag pasid page) s = .next (invalidate s f.val itag pasid page)) ∧
  (∀ (f : Fin 16) (pasid page : Nat) (present : Bool) (s : State) (tag : Nat) (stale : Bool),
    Clocked s → translationTag s f.val pasid page = some (tag, stale) →
    exec (.translationCompletion f pasid page present) s = .next (translation s f.val pasid page tag stale present)) ∧
  (∀ (f : Fin 16) (pasid page : Nat) (code : PrgCode) (s : State),
    Clocked s → pageAsked s f.val pasid page = true →
    exec (.prgResponse f pasid page code) s = .next (prgResponse s f.val pasid page code)) ∧
  (∀ (f : Fin 16) (pasid page : Nat) (s : State),
    Clocked s → pageAsked s f.val pasid page = true →
    exec (.prgResponseTimeout f pasid page) s =
      .next (sendPages ((onPage s f.val pasid page).foldl (fun s r => fatalFault s r 0x15) s) f.val))

/-- BAR, register, slot, doorbell and write-back rows complete (premises of events: log entry 2)
(spec/00_scope.md, spec/03_host_link.md, spec/04_mailboxes_rings.md). -/
def Obligations.RegisterAndDoorbellRowsComplete : Prop :=
  (∀ (f : Fin 16) (off len : Nat) (seen : Seen) (s : State),
    Clocked s → exec (.bar2Read f off len seen) s = .next (bar2Read s f.val off len seen)) ∧
  (∀ (f : Fin 16) (off : Nat) (data : List Byte) (poisonedTlp : Bool) (seen : Seen) (s : State),
    Clocked s → exec (.bar2Write f off data poisonedTlp seen) s = .next (bar2Write s f off data poisonedTlp seen)) ∧
  (∀ (f : Fin 16) (bar : Bar) (off width : Nat) (value : DWord) (s : State),
    Clocked s → exec (.registerWrite f bar off width value) s = .next (registerWrite s f.val bar off width value)) ∧
  (∀ (f : Fin 16) (bar : Bar) (off width : Nat) (s : State),
    Clocked s → exec (.lowHalfRead f bar off width) s = .next (lowHalfRead s f.val bar off width)) ∧
  (∀ (f : Fin 16) (v : Fin 64) (s : State),
    Clocked s → exec (.msixUnmask f v) s = .next (unmask s f.val v.val)) ∧
  (∀ (f : Fin 16) (off width : Nat) (value : DWord) (s : State),
    Clocked s → exec (.slotWrite f off width value) s = .next (slotWrite s f off width value)) ∧
  (∀ (f : Fin 16) (value : Word) (s : State),
    Clocked s → exec (.dbMboxWrite f value) s = .next (mailboxDoorbell s f value)) ∧
  (∀ (f : Fin 16) (slot : Fin 32) (s : State),
    Clocked s → mayCommit s f slot = true → exec (.commandCommit f slot) s = .next (commitCmd s f slot)) ∧
  (∀ (f : Fin 16) (ring : Fin 64) (value : Word) (s : State),
    Clocked s → exec (.dbRingWrite f ring value) s = .next (ringDoorbell s f.val ring.val value.toNat)) ∧
  (∀ (f : Fin 16) (value : Word) (s : State),
    Clocked s → exec (.evqConsWrite f value) s = .next (evqCons s f.val value.toNat)) ∧
  (∀ (f : Fin 16) (ring : Fin 64) (s : State),
    Clocked s → ((ringOf s f.val ring.val).wbDue && !((ringOf s f.val ring.val).state == .closed)) = true →
    exec (.writebackUpdate f ring) s = .next (writebackUpdate s f.val ring.val)) ∧
  (∀ (f : Fin 16) (ring : Fin 64) (s : State),
    let g := ringOf s f.val ring.val
    Clocked s → (g.typ == .cpl && !(g.state == .closed) && decide (0 < g.unsig)) = true →
    exec (.msixHoldoffExpiry f ring) s = .next (holdoffEnd s f.val ring.val))

/-- Function, configuration, energy, region and object mailbox commands start, and have their effect and answer at their commit
point (instants: log entry 10) (spec/04_mailboxes_rings.md, spec/05_commands.md). -/
def Obligations.ConfigAndObjectCommandsComplete : Prop :=
  (∀ (f : Fin 16) (slot : Fin 32) (s : State),
    Clocked s → mayStart s f slot 0x0101 = true → slotOp (slotBytes s f slot) = 0x0101 →
    headerBad (slotBytes s f slot) = none → sharedChecks s f (slotBytes s f slot) = none →
    exec (.deviceInfo f slot) s = .next (hwComplete s f slot { resp := deviceInfo s f })) ∧
  StartsThenCommits .functionOpen 0x0201 (fun s _ _ => s) (fun s f _ b => functionOpen s f b) ∧
  StartsThenCommits .functionClose 0x0202 (fun s _ _ => s) (fun s f _ _ => functionClose s f) ∧
  StartsThenCommits .engineEnable 0x0203 (fun s f b => engineStops s f b) (fun s f _ b => engineEnable s f b) ∧
  ReservesThenShows .regionCreate 0x0301 (fun s f _ b => regionCreate s f b) ∧
  StartsThenCommits .regionDestroy 0x0302 (fun s _ _ => s) (fun s f slot b => regionDestroy s f slot b) ∧
  StartsThenCommits .bar2WindowSet 0x0303 (fun s _ _ => s) (fun s f _ b => bar2WindowSet s f b) ∧
  (∀ (read : HostRead) (image : ModelImage),
    ReservesThenShows (fun f slot => .modelLoad f slot read image) 0x0401 (fun s f slot b => modelLoad s f slot b read image)) ∧
  StartsThenCommits .modelUnload 0x0402 (fun s _ _ => s) (fun s f _ b => modelUnload s f b) ∧
  StartsThenCommits .modelInfo 0x0403 (fun s _ _ => s) (fun s f _ b => withObject s f b false (modelOwner s (pay b 0 4))
    (fun h => good s (modelInfo (tget (default : Model) s.models h)))) ∧
  (∀ read : HostRead,
    ReservesThenShows (fun f slot => .vocabLoad f slot read) 0x0501 (fun s f slot b => vocabLoad s f slot b read)) ∧
  StartsThenCommits .vocabUnload 0x0502 (fun s _ _ => s) (fun s f _ b => vocabUnload s f b) ∧
  (∀ read : HostRead,
    ReservesThenShows (fun f slot => .bintableLoad f slot read) 0x0503 (fun s f slot b => bintableLoad s f slot b read)) ∧
  StartsThenCommits .bintableUnload 0x0504 (fun s _ _ => s) (fun s f _ b => bintableUnload s f b) ∧
  (∀ (read : HostRead) (image : GrammarImage),
    ReservesThenShows (fun f slot => .grammarLoad f slot read image) 0x0601
      (fun s f slot b => grammarLoad s f slot b read image)) ∧
  StartsThenCommits .grammarUnload 0x0602 (fun s _ _ => s) (fun s f _ b => grammarUnload s f b) ∧
  (∀ (f : Fin 16) (slot : Fin 32) (read : HostRead) (s : State),
    let s1 := updCmd s f slot (fun c => { c with read := some read })
    Clocked s →
    (starts s1 f slot 0x0901 = true →
      exec (.configStage f slot read) s = .next (begun s1 f slot (fun u b => stageBegin u f slot b read))) ∧
    (∀ t o, committing s f slot 0x0901 = true → configStage s f slot (slotBytes s f slot) = (t, some o) →
      exec (.commandCommit f slot) s = .next (afterCommit (completeSlot t f slot o) f))) ∧
  StartsThenCommits .configRead 0x0902 (fun s _ _ => s) (fun s f _ b => configRead s f b) ∧
  (∀ (f : Fin 16) (slot : Fin 32) (s : State), Clocked s →
    (starts s f slot 0x0903 = true → exec (.commitConfig f slot) s = .next (begun s f slot (fun u _ => u))) ∧
    (∀ t o, committing s f slot 0x0903 = true → commitConfig s = (t, some o) → o.status = 0 →
      exec (.commandCommit f slot) s = .next (commitConfig (completeSlot s f slot o)).1) ∧
    (∀ t o, committing s f slot 0x0903 = true → commitConfig s = (t, some o) → o.status ≠ 0 →
      exec (.commandCommit f slot) s = .next (completeSlot s f slot o))) ∧
  StartsThenCommits .configDiscard 0x0904 (fun s _ _ => s) (fun s _ _ _ => good { s with conf := { s.conf with shadow := [] } } []) ∧
  StartsThenCommits .energyLimitSet 0x0A01 (fun s _ _ => s) (fun s _ _ b => energyLimitSet s b) ∧
  StartsThenCommits .energyReport 0x0A02 (fun s _ _ => s) (fun s f _ _ => good s (energyReport s f))

/-- Request, ring, stream, diagnostic and die mailbox commands and ring-descriptor rows complete (instants and premises: log entries 2, 10)
(spec/04_mailboxes_rings.md, spec/05_commands.md, spec/13_carding.md, spec/14_felting.md, spec/16_ledger.md, spec/17_scheduling.md). -/
def Obligations.RingAndDescriptorRowsComplete : Prop :=
  StartsThenCommits .requestQuery 0x0701 (fun s _ _ => s) (fun s f _ b => requestQuery s f b) ∧
  StartsThenCommits .ringOpen 0x0801 (fun s _ _ => s) (fun s f slot b => ringOpen s f slot b) ∧
  StartsThenCommits .ringClose 0x0802 (fun s _ _ => s) (fun s f _ b => ringClose s f b) ∧
  StartsThenCommits .streamOpen 0x0803 (fun s _ _ => s) (fun s f slot b => streamOpen s f slot b) ∧
  StartsThenCommits .streamClose 0x0804 (fun s _ _ => s) (fun s f _ b => streamClose s f b) ∧
  (∀ (f : Fin 16) (slot : Fin 32) (s : State),
    Clocked s → mayStart s f slot 0x0B01 = true → headerBad (slotBytes s f slot) = none →
    sharedChecks s f (slotBytes s f slot) = none → (resv (slotBytes s f slot) 4 4).1 = false →
    exec (.diagBootlog f slot) s = .next (hwComplete s f slot { resp := bootLogAnswer s (pay (slotBytes s f slot) 0 4) })) ∧
  RunsThenAnswers .booksAudit 0x0B02 (fun s f slot b => booksAudit s f slot b) ∧
  RunsThenAnswers .marchRun 0x0B03 (fun s _ _ b => marchRun s b) ∧
  (∀ (f : Fin 16) (slot : Fin 32) (s : State) (c : Cmd) (o : CmdOutcome),
    Clocked s → mayCommit s f slot = true → cmdOf s f slot = some c → c.opcode = 0x0B03 → c.outcome = none →
    marchEnd s c = some o → exec (.commandCommit f slot) s = .next (completeSlot s f slot o)) ∧
  StartsThenCommits .errlogRead 0x0B04 (fun s _ _ => s) (fun s _ _ b => errlogRead s b) ∧
  RunsThenAnswers .dieReset 0x0C01 (fun s _ _ b => dieReset s b) ∧
  RunsThenAnswers .dieRejoin 0x0C02 (fun s _ _ b => dieRejoin s b) ∧
  (∀ (f : Fin 16) (ring : Fin 64) (data : List Byte) (s : State),
    let g := ringOf s f.val ring.val
    Clocked s →
    (g.fetching && g.state == .running && !fetchOut s f.val ring.val && decide (0 < fetchedCount g data)) = true →
    exec (.descriptorFetch f ring data) s = .next (descriptorFetch s f.val ring.val data)) ∧
  (∀ (f : Fin 16) (ring : Fin 64) (stops : HostRead) (s : State) (idx : Nat) (d : ReqDesc),
    let r := frontRing s f.val ring.val
    Clocked s → frontReq s f.val r = some (idx, d) → d.typ = 1 →
    exec (.submit f ring stops) s = .next (submit s f.val r idx d stops)) ∧
  (∀ (f : Fin 16) (ring : Fin 64) (read : HostRead) (s : State) (idx i : Nat) (d : ReqDesc) (stops : List (List Byte)),
    let r := frontRing s f.val ring.val
    Clocked s → frontReq s f.val r = some (idx, d) → d.typ = 1 → freeEntryIdx s = some i →
    cplHeld s f.val r = false → stopsMayGo s f.val d = true → outOk s f.val d = true →
    readStops s f.val d read = some stops → handlesOk s f.val d = true → policyHold s f.val d = false →
    exec (.submit f ring read) s = .next (runRing (admitRequest s f.val r idx i d stops) f.val r)) ∧
  (∀ (f : Fin 16) (ring : Fin 64) (s : State) (idx : Nat) (d : ReqDesc) (i : Nat),
    let r := frontRing s f.val ring.val
    Clocked s → frontReq s f.val r = some (idx, d) → d.typ = 2 → cplHeld s f.val r = false →
    controlTarget s f.val d = some i →
    exec (.cancel f ring) s = .next (let t := controlDone s f.val r idx d 0; runRing (cancelReq t i (descDrain d ||
      (entOf t i).drainMode) false) f.val r)) ∧
  (∀ (f : Fin 16) (ring : Fin 64) (s : State) (idx : Nat) (d : ReqDesc) (i : Nat),
    let r := frontRing s f.val ring.val
    Clocked s → frontReq s f.val r = some (idx, d) → d.typ = 3 → cplHeld s f.val r = false →
    controlTarget s f.val d = some i →
    exec (.pause f ring) s = .next (let t := controlDone s f.val r idx d 0; runRing (hostPause t i) f.val r)) ∧
  (∀ (f : Fin 16) (ring : Fin 64) (s : State) (idx : Nat) (d : ReqDesc) (i : Nat),
    let r := frontRing s f.val ring.val
    Clocked s → frontReq s f.val r = some (idx, d) → d.typ = 4 → cplHeld s f.val r = false →
    controlTarget s f.val d = some i →
    exec (.resume f ring) s = .next (let t := controlDone s f.val r idx d 0;
      runRing (hostResume t i) f.val r)) ∧
  (∀ (f : Fin 16) (ring : Fin 64) (s : State) (idx : Nat) (d : ReqDesc) (i : Nat),
    let r := frontRing s f.val ring.val
    Clocked s → frontReq s f.val r = some (idx, d) → d.typ = 5 → cplHeld s f.val r = false →
    controlTarget s f.val d = some i →
    exec (.close f ring) s = .next (let t := controlDone s f.val r idx d 0;
      runRing (cancelReq t i (descDrain d) true) f.val r)) ∧
  (∀ (f : Fin 16) (ring : Fin 64) (s : State) (idx : Nat) (d : StrDesc) (x : Stream),
    let r := frontRing s f.val ring.val
    Clocked s → frontStr s f.val r = some (idx, d) → d.typ = 1 →
    cplHeld s f.val r = false → streamOf s f.val d.stream = some x → inputHeld x = false →
    exec (.textIn f ring) s = .next (consumed (updStream s f.val d.stream (fun y =>
      { y with queue := y.queue ++ [(idx, d)] })) f.val r)) ∧
  (∀ (f : Fin 16) (ring : Fin 64) (s : State) (idx : Nat) (d : StrDesc) (x : Stream),
    let r := frontRing s f.val ring.val
    Clocked s → frontStr s f.val r = some (idx, d) → d.typ = 3 →
    cplHeld s f.val r = false → streamOf s f.val d.stream = some x → inputHeld x = false →
    exec (.numIn f ring) s = .next (consumed (updStream s f.val d.stream (fun y =>
      { y with queue := y.queue ++ [(idx, d)] })) f.val r)) ∧
  (∀ (f : Fin 16) (ring : Fin 64) (s : State) (idx : Nat) (d : StrDesc) (x : Stream),
    let r := frontRing s f.val ring.val
    Clocked s → frontStr s f.val r = some (idx, d) → d.typ = 2 →
    cplHeld s f.val r = false → streamOf s f.val d.stream = some x → x.queue.length < 16 →
    exec (.textOut f ring) s = .next (runRing (serveOutput (updStream (popDesc s f.val r) f.val d.stream (fun y =>
      { y with queue := y.queue ++ [(idx, d)] })) f.val d.stream (x.takers.length + 1)) f.val r)) ∧
  (∀ (f : Fin 16) (ring : Fin 64) (s : State) (idx : Nat) (d : StrDesc) (x : Stream),
    let r := frontRing s f.val ring.val
    Clocked s → frontStr s f.val r = some (idx, d) → d.typ = 4 →
    cplHeld s f.val r = false → streamOf s f.val d.stream = some x → x.queue.length < 16 →
    exec (.numOut f ring) s = .next (runRing (serveOutput (updStream (popDesc s f.val r) f.val d.stream (fun y =>
      { y with queue := y.queue ++ [(idx, d)] })) f.val d.stream (x.takers.length + 1)) f.val r)) ∧
  (∀ (f : Fin 16) (ring : Fin 64) (s : State) (idx : Nat) (d : ReqDesc) (t : Nat),
    let r := frontRing s f.val ring.val
    Clocked s → frontReq s f.val r = some (idx, d) → (ringOf s f.val r).submitAt = some t →
    policyHold s f.val d = true → cplHeld s f.val r = false →
    exec (.admitHoldTimeout f ring) s = .next (holdTimeout s f.val r idx t d))

/-- Restart, die-loss, tide, allowance, fast-trip and temperature rows complete (premises of events: log entry 2)
(spec/05_commands.md, spec/06_registers.md, spec/19_energy.md, spec/22_faults.md). -/
def Obligations.RecoveryAndEnergyRowsComplete : Prop :=
  (∀ (s : State),
    Clocked s → (isReady s || (decide (1 ≤ s.boot.stage) && decide (s.boot.stage < 0x0B))) = true →
    exec .cpWatchdogExpiry s = .next (watchdog s)) ∧
  (∀ (s : State),
    Clocked s → isReady s = true → exec .controlCoreFault s = .next (startRestart s 2)) ∧
  (∀ (s : State),
    Clocked s → (s.cp.recovery && isReady s) = true → exec .cpRestartEnd s = .next (endRestart s)) ∧
  (∀ (badFw : Bool) (s : State),
    Clocked s → (s.cp.recovery && isReady s) = true →
    exec (.cpRestartTimeout badFw) s = .next (deviceFatal s (if badFw then 0x02 else 0x08))) ∧
  (∀ (d : Fin 4) (s : State),
    Clocked s → ((dieUsable s d || (dieOf s d).state == .draining) && !(dieOf s d).mgrDown) = true →
    exec (.dieManagerWatchdog d) s = .next (updDie s d (fun x => { x with mgrDown := true }))) ∧
  (∀ (d : Fin 4) (ok : Bool) (s : State),
    Clocked s → (dieOf s d).mgrDown = true → exec (.dieManagerRestartDone d ok) s = .next (managerDone s d ok)) ∧
  (∀ (d : Fin 4) (s : State),
    Clocked s → (isReady s && !s.cp.recovery && (dieOf s d.val).state == .lost && (dieOf s d.val).lossDue) = true →
    exec (.dieLossPath d) s = .next (lossPath s d.val)) ∧
  (∀ (d : Fin 4) (s : State),
    Clocked s →
    ((dieOf s d.val).state == .draining && (stepsOn s d.val).isEmpty && !s.cp.recovery &&
      (dieCmd s 0x0C01 d.val).isSome) = true →
    exec (.dieResetApplied d) s = .next (resetDie s d.val)) ∧
  (∀ (d : Fin 4) (result : RejoinEnd) (s : State) (b : List Byte),
    Clocked s → dieCmd s 0x0C02 d.val = some b → (dieOf s d.val).state = .rejoining → s.cp.recovery = false →
    mayRejoin s d.val (pay b 0 1) result = true →
    exec (.dieRejoinDone d result) s = .next (rejoinDone s d.val (pay b 0 1) result)) ∧
  (∀ (meters : List DomainMeter) (s : State),
    Clocked s → (isReady s && meterOk s meters) = true → exec (.tideBoundary meters) s = .next (tideTurns s meters)) ∧
  (∀ (dom : Fin 5) (msg : TideReportMsg) (s : State),
    Clocked s → (isReady s && !s.energy.planned && domUsable s dom.val && !(domOf s dom.val).report &&
      !(dieOf s dom.val).mgrDown) = true →
    exec (.tideReport dom msg) s = .next (planWhenIn (updDom s dom.val
      (fun x => { x with report := true, lastReport := reportBytes s dom.val msg })))) ∧
  (∀ (dom : Fin 5) (s : State),
    Clocked s → (isReady s && !s.energy.planned && domUsable s dom.val && !(domOf s dom.val).report) = true →
    exec (.tideReportTimeout dom) s = .next (planWhenIn (updDom s dom.val (fun x => { x with report := true })))) ∧
  (∀ (d : Fin 4) (s : State),
    Clocked s → (isReady s && domUsable s d.val && (domOf s d.val).plan.isSome && !(dieOf s d.val).mgrDown) = true →
    exec (.tideGrant d) s = .next (grantTide s d.val)) ∧
  (∀ (dom : Fin 5) (s : State),
    Clocked s → (isReady s && domUsable s dom.val && !(dieOf s dom.val).gated) = true →
    exec (.allowance97Reached dom) s = .next (reach97 s dom.val)) ∧
  (∀ (d : Fin 4) (s : State),
    Clocked s → (isReady s && domUsable s d.val && !(dieOf s d.val).gated) = true →
    exec (.allowanceExhausted d) s = .next (exhausted s d.val)) ∧
  (∀ (d : Fin 4) (s : State),
    Clocked s → (isReady s && domUsable s d.val && !(dieOf s d.val).tripPower) = true →
    exec (.fastTripPower d) s = .next (startHalving s [d.val] 1 (fun x => { x with tripPower := true }))) ∧
  (∀ (d : Fin 4) (s : State),
    Clocked s → (dieOf s d.val).tripPower = true →
    exec (.fastTripEnd d) s = .next (updDie s d.val (fun x => { x with tripPower := false }))) ∧
  (∀ (dom : Fin 5) (temp : BitVec 12) (s : State),
    Clocked s → (s.pins.pwrGood && sensed s dom.val) = true →
    exec (.tempUpdate dom temp) s = .next (tempUpdate s dom.val temp))

/-- Step, mask, slack-tide, carding, felting, Tidepool and ledger rows complete (premises of events: log entry 2)
(spec/08_translation_dma.md, spec/13_carding.md, spec/14_felting.md, spec/15_constraint.md, spec/16_ledger.md, spec/17_scheduling.md, spec/18_kv_speculation_tidepool.md, spec/20_live_config.md). -/
def Obligations.StepAndTextRowsComplete : Prop :=
  (∀ (model : Nat) (tenantUj : List (Nat × Nat)) (s : State),
    Clocked s → mayFormPrefill s model = true →
    exec (.prefillStepForm model tenantUj) s = .next (formPrefill s model tenantUj)) ∧
  (∀ (model : Nat) (tenantUj : List (Nat × Nat)) (s : State),
    Clocked s → mayFormDecode s model = true →
    exec (.decodeStepForm model tenantUj) s = .next (formDecode s model tenantUj)) ∧
  (∀ (step : Nat) (last : Bool) (s : State),
    Clocked s → mayBoundary s step = true → exec (.stepLayerBoundary step last) s = .next (layerBoundary s step last)) ∧
  (∀ (step elapsedUs : Nat) (rows : List StepRow) (s : State),
    Clocked s → mayCommitStep s step rows = true →
    exec (.stepCommit step elapsedUs rows) s = .next (stepCommits s step elapsedUs rows)) ∧
  (∀ (d : Fin 4) (s : State),
    Clocked s → ((dieOf s d.val).state == .draining && !(stepsOn s d.val).isEmpty) = true →
    exec (.drainStepTimeout d) s = .next ((stepsOn s d.val).foldl (fun s id => updStep s id
      (fun x => { x with squashAll := true })) s)) ∧
  (∀ (s : State),
    Clocked s → (s.conf.holding ≠ 0 && !(heldSteps s).isEmpty) = true →
    exec .holdStepTimeout s = .next ((heldSteps s).foldl (fun s id => updStep s id (fun x => { x with preempt := true }))
      (elapse s (s.conf.holdSince + 100000)))) ∧
  (∀ (ledger : Nat) (s : State) (n : Nat),
    Clocked s → nextMask s ledger = some n → maskable s ledger = true →
    exec (.maskReady ledger) s = .next (maskDone s ledger n)) ∧
  (∀ (found : List LaneTest) (s : State),
    Clocked s → (holdRuns s && !s.conf.slack && (heldSteps s).isEmpty) = true →
    exec (.slackTideStart found) s = .next (slackStart s found)) ∧
  (∀ (durationUs : Nat) (s : State),
    Clocked s → s.conf.slack = true → exec (.slackTideEnd durationUs) s = .next (slackEnd s durationUs)) ∧
  (∀ (model : Nat) (ok : Bool) (s : State),
    Clocked s →
    ((tget (default : Model) s.models model).moving.isSome && !(tget (default : Model) s.models model).moveReady &&
      !s.cp.recovery) = true →
    exec (.groupMovePrepared model ok) s = .next (movePrepared s model ok)) ∧
  (∀ (handle : Nat) (d : Fin 4) (s : State),
    let g := tget (default : Grammar) s.grammars handle
    Clocked s →
    (thas s.grammars handle && g.slowPath && (wantsCopy s handle).contains d.val && !s.cp.recovery &&
      decide (gramPages g.header ≤ freeLess s d.val)) = true →
    exec (.grammarCopyBuilt handle d) s = .next (buildCopy s d.val handle)) ∧
  (∀ (handle : Nat) (s : State),
    Clocked s → (tget (default : Vocab) s.vocabs handle).reloading = true →
    exec (.vocabImageReloaded handle) s = .next { s with vocabs := tmap s.vocabs (fun h v => if h = handle then { v with reloading := false } else v) }) ∧
  (∀ (lane f : Fin 16) (stream : Nat) (s : State),
    Clocked s → mayTakeIn s lane f stream = true →
    exec (.cardingLaneTake lane f stream) s = .next (takeIn s lane f stream)) ∧
  (∀ (lane : Fin 16) (read : HostRead) (s : State),
    Clocked s → mayChunk s lane = true → exec (.cardingChunk lane read) s = .next (cardChunk s lane read)) ∧
  (∀ (lane : Fin 16) (s : State),
    let l := tget ({} : Lane) s.lanesIn lane
    let held := match streamOf s l.fn l.stream with | some x => x.waiting || !engineOn s l.fn 1 | none => false
    Clocked s → (l.busy && held) = true → exec (.carryStateSpill lane) s = .next (freeLane s l.fn l.stream)) ∧
  (∀ (handle : Nat) (s : State),
    Clocked s → (thas s.bins handle && !tableReady s handle) = true →
    exec (.bintableStaged handle) s = .next (stageTable s handle)) ∧
  (∀ (lane : Fin 16) (ledger : Nat) (s : State),
    Clocked s → mayFelt s ledger = true → exec (.feltingLaneTake lane ledger) s = .next (feltTake s lane ledger)) ∧
  (∀ (ledger : Nat) (s : State),
    Clocked s → mayEndMove s ledger = true →
    exec (.tidepoolMoveDone ledger) s = .next (moveEnds s ledger ((findFree s 4 (moveHot s ledger).length).getD []))) ∧
  (∀ (ledger : Nat) (s : State),
    Clocked s → mayExpire s ledger = true → exec (.tidepoolExpiry ledger) s = .next (toExpired s ledger)) ∧
  (∀ (ledger : Nat) (s : State),
    Clocked s → mayReturn s ledger = true → exec (.tidepoolReturnDone ledger) s = .next (returnEnds s ledger)) ∧
  (∀ (ledger : Nat) (s : State),
    Clocked s → mayFree s ledger = true → exec (.ledgerEntryFreed ledger) s = .next (freeEntry s ledger))

/-- Memory, ECC, page, walk, fault-service and shootdown rows complete (premises of events: log entry 2)
(spec/07_memory.md, spec/08_translation_dma.md). -/
def Obligations.MemoryAndTranslationRowsComplete : Prop :=
  (∀ (addr : Nat) (ecc : EccSeen) (by_ : Consumer) (s : State),
    Clocked s → known addr = true → exec (.demandRead addr ecc by_) s = .next (demandRead s addr ecc by_)) ∧
  (∀ (addr : Nat) (data : List Byte) (s : State),
    Clocked s → known addr = true → addr % eccUnit addr = 0 → data.length = eccUnit addr →
    exec (.fullWrite addr data) s = .next (fullWrite s addr data)) ∧
  (∀ (addr : Nat) (data : List Byte) (ecc : EccSeen) (by_ : Writer) (s : State),
    Clocked s → known addr = true → data ≠ [] → addr % eccUnit addr + data.length ≤ eccUnit addr →
    data.length < eccUnit addr → exec (.partialWrite addr data ecc by_) s = .next (partialWrite s addr data ecc by_)) ∧
  (∀ (c : Fin 25) (ecc : EccSeen) (s : State),
    Clocked s → ((scrubOf s c.val).enable && isReady s && (scrubDie c.val = 4 || dieUsable s (scrubDie c.val))) = true →
    exec (.patrolRead c ecc) s = .next (patrolRead s c.val ecc)) ∧
  (∀ (addr source : Nat) (s : State),
    let p := pageOf s (pageAt addr)
    Clocked s →
    (isPoisoned s addr && known addr && decide (source ≤ 1) && !s.cp.recovery && !(isDram addr &&
      (p.state == .retired || p.state == .migrating))) = true →
    exec (.poisonDisposition addr source) s = .next (dispose s (eccWord addr) source)) ∧
  (∀ (page : Nat) (s : State),
    let x := pageOf s page
    Clocked s → (decide (16 ≤ x.ce) && !(x.state == .retired) && !(x.state == .migrating) && !s.cp.recovery) = true →
    exec (.ceCountRetire page) s = .next (ceRetire s page)) ∧
  (∀ (page : Nat) (s : State) (q : Nat),
    Clocked s → (pageOf s page).dest = some q → (pageOf s page).state = .migrating → s.cp.recovery = false →
    exec (.migrationDone page) s = .next (migrationDone s page q)) ∧
  (∀ (page : Nat) (s : State),
    Clocked s → ((pageOf s page).state == .quarantined) = true → exec (.pageZeroed page) s = .next (pageZeroed s page)) ∧
  (∀ (die : Fin 5) (asid dva : Nat) (write : Bool) (work : WalkWork) (s : State),
    Clocked s →
    (workThere s work && decide (asid = asidOf (workFn s work)) && !s.stale.contains (asid, pageBase dva) &&
      walksFor s die.val work) = true →
    exec (.pageWalkDone die asid dva write work) s = .next (walkDone s die asid dva write work)) ∧
  (∀ (asid dva : Nat) (s : State) (r : FaultRec),
    Clocked s → findFault s asid (pageBase dva) = some r → r.cls ≤ 1 → servicerUp s r = true →
    exec (.absentFaultServiced asid dva) s = .next (serveAbsent s r)) ∧
  (∀ (asid dva : Nat) (s : State) (r : FaultRec),
    Clocked s → findFault s asid (pageBase dva) = some r → r.cls = 2 → r.noPage = false → servicerUp s r = true →
    exec (.tidepoolFaultServiced asid dva) s = .next (servePooled s r)) ∧
  (∀ (asid dva : Nat) (s : State) (r : FaultRec),
    Clocked s → findFault s asid (pageBase dva) = some r → r.cls = 2 → r.noPage = true → pageFreed s r = true →
    exec (.tidepoolFaultPageFreed asid dva) s = .next (updFault s r.asid r.dva (fun x => { x with noPage := false }))) ∧
  (∀ (step ledger : Nat) (s : State),
    Clocked s → ((tget (default : Step) s.steps step).waiting.contains ledger) = true →
    exec (.stepFaultWaitTimeout step ledger) s =
      .next (updEntX (leaveStep s step ledger) ledger (fun x => { x with faultOut := true }))) ∧
  (∀ (asid dva : Nat) (s : State) (r : FaultRec),
    Clocked s →
    s.faults.find? (fun r => decide (r.asid = asid) && (decide (r.dva = dva) || decide (r.dva = pageBase dva))) = some r →
    r.works.any (preempted s) = true → exec (.preemptFaultWaitTimeout asid dva) s = .next (abandon s r)) ∧
  (∀ (asid dva : Nat) (s : State),
    Clocked s → (s.stale.contains (asid, pageBase dva) && !s.cp.recovery) = true →
    exec (.tablePageRebuilt asid dva) s =
      .next (rebuildTables { s with stale := remove s.stale (asid, pageBase dva) } asid dva)) ∧
  (∀ (asid dva : Nat) (s : State),
    Clocked s → exec (.shootdown asid dva) s = .next (shoot s asid dva)) ∧
  (∀ (asid dva : Nat) (s : State),
    Clocked s → (s.shooting.contains (asid, pageBase dva)) = true →
    exec (.shootdownComplete asid dva) s = .next { s with shooting := s.shooting.erase (asid, pageBase dva) })

/-- Scratchpad-bank, die-link and fabric-transaction rows complete (premises of events: log entry 2)
(spec/06_registers.md, spec/09_banks.md, spec/10_die_links.md, spec/21_books.md). -/
def Obligations.BankAndLinkRowsComplete : Prop :=
  (∀ (die : Fin 5) (bank off : Nat) (data : Option (List Byte)) (len code : Nat) (by_ : Writer) (seen : Seen)
      (s : State),
    Clocked s →
    (decide (bank < bankCount die.val) && decide (0 < len) && decide (off + len ≤ 0x20000) &&
      (data.map (fun l => decide (l.length = len))).getD true) = true →
    exec (.bankAccess die bank off data len code by_ seen) s =
      .next (bankAccess s die.val bank { code := code, off := off, len := len, data := data, by_ := by_, seen := seen })) ∧
  (∀ (die : Fin 5) (bank : Nat) (next : BitVec 5) (s : State),
    Clocked s → exec (.bankHandover die bank next) s = .next (bankHandover s die.val bank next.toNat)) ∧
  (∀ (die : Fin 5) (bank : Nat) (s : State),
    Clocked s → ((bankOf s die.val bank).state == .inHandover) = true →
    exec (.handoverDone die bank) s = .next (handoverDone s die.val bank)) ∧
  (∀ (die : Fin 5) (bank : Nat) (failRow : Option Nat) (s : State),
    let x := bankOf s die.val bank
    let marched := x.marching == some 2
    Clocked s →
    (x.state == .seized && (marched || (x.marching.isNone && x.zeroDue && failRow.isNone)) &&
      (die.val = 4 || dieUsable s die.val || (dieOf s die.val).state == .draining)) = true →
    exec (.seizureDone die bank failRow) s = .next (cleaned s die.val bank failRow)) ∧
  (∀ (die : Fin 5) (bank : Nat) (s : State),
    Clocked s → (isReady s && !s.cp.recovery && decide (bank < bankCount die.val) && takenAway s die.val bank) = true →
    exec (.firmwareBankReclaim die bank) s = .next (reclaim s die.val bank)) ∧
  (∀ (die : Fin 5) (bank : Nat) (failRow : Option Nat) (found : List (Nat × EccSeen)) (s : State),
    let m := (bankOf s die.val bank).marching
    Clocked s → ((m == some 0 || m == some 1) && decide (bank < bankCount die.val) && inMarch s die.val bank) = true →
    exec (.marchDone die bank failRow found) s = .next (marchDone s die.val bank failRow found)) ∧
  (∀ (l : Fin 8) (groups : Nat) (s : State),
    Clocked s →
    ((linkOf s l.val).state == .training && decide (0 < groups) && decide (groups ≤ groupCount l.val)) = true →
    exec (.linkTrained l groups) s = .next (trained s l.val groups)) ∧
  (∀ (l : Fin 8) (s : State),
    Clocked s → ((linkOf s l.val).state == .training) = true →
    exec (.linkTrainingTimeout l) s = .next (trainingTimeout s l.val)) ∧
  (∀ (l : Fin 8) (atFirst : Bool) (flit : Flit) (s : State),
    Clocked s → linkUp s l.val = true →
    exec (.flitReceived l flit atFirst) s =
      .next (if flitClean flit then flitGood s l.val atFirst flit else flitBad s l.val atFirst flit)) ∧
  (∀ (l : Fin 8) (fromFirst : Bool) (seq : Nat) (s : State),
    Clocked s → (linkUp s l.val && (dirOf (linkOf s l.val) fromFirst).unacked.any (fun x => x.seq = seq)) = true →
    exec (.replayRequest l seq fromFirst) s = .next (replayFrom s l.val fromFirst seq)) ∧
  (∀ (l : Fin 8) (fromFirst : Bool) (s : State),
    Clocked s → (linkUp s l.val && !(dirOf (linkOf s l.val) fromFirst).unacked.isEmpty) = true →
    exec (.ackTimeout l fromFirst) s = .next (replayFrom s l.val fromFirst (oldestSeq s l.val fromFirst))) ∧
  (∀ (l : Fin 8) (s : State),
    Clocked s → linkUp s l.val = true → (8 ≤ (linkOf s l.val).out.fails ∨ 8 ≤ (linkOf s l.val).back.fails) →
    exec (.flitRetryLimit l) s = .next (linkFailure s l.val)) ∧
  (∀ (txn : Txn) (seen : Seen) (s : State),
    Clocked s → (hasArrived s txn false || canAsk s txn false) = true →
    exec (.rdReq txn seen) s = .next (reach s txn false seen)) ∧
  (∀ (txn : Txn) (seen : Seen) (s : State),
    Clocked s → (hasArrived s txn true || canAsk s txn true) = true →
    exec (.wrReq txn seen) s = .next (reach s txn true seen)) ∧
  (∀ (tag : Nat) (src : Fin 5) (s : State) (t : OutTxn) (a : Answer),
    Clocked s → txnAnswer s tag src = some (t, a) → t.write = false → a.err = 0 →
    exec (.rdRsp tag src) s = .next (giveAnswer s t a)) ∧
  (∀ (tag : Nat) (src : Fin 5) (s : State) (t : OutTxn) (a : Answer),
    Clocked s → txnAnswer s tag src = some (t, a) → t.write = true → a.err = 0 →
    exec (.wrAck tag src) s = .next (giveAnswer s t a)) ∧
  (∀ (tag : Nat) (src : Fin 5) (code : Nat) (s : State) (t : OutTxn) (a : Answer),
    Clocked s → txnAnswer s tag src = some (t, a) → a.err ≠ 0 → a.err = code →
    exec (.errRsp tag src code) s = .next (giveAnswer s t a)) ∧
  (∀ (l : Fin 8) (s : State),
    Clocked s → linkUp s l.val = true → exec (.auditMarker l) s = .next (auditMarker s l.val)) ∧
  (∀ (l : Fin 8) (marked : Nat) (closed : List Nat) (s : State),
    Clocked s →
    (linkUp s l.val && closed.all (fun g => decide (g < groupCount l.val) &&
      !(linkOf s l.val).disabled.contains g)) = true →
    exec (.recentreDue l marked closed) s = .next (recentre s l.val marked closed)) ∧
  (∀ (l : Fin 8) (s : State),
    Clocked s → linkUp s l.val = true →
    exec (.recentreGapForced l) s = .next (updLink s l.val (fun k => { k with recentres := sat64 k.recentres 1 }))) ∧
  (∀ (l : Fin 8) (group : Nat) (s : State),
    Clocked s →
    (linkUp s l.val && decide (16 ≤ tget 0 (linkOf s l.val).groupErr group) && decide (group < groupCount l.val) &&
      !(linkOf s l.val).disabled.contains group) = true →
    exec (.groupDisable l group) s = .next (disableGroup s l.val group 0)) ∧
  (∀ (l : Fin 8) (atFirst : Bool) (groups : List Nat) (s : State),
    Clocked s → (linkUp s l.val && !groups.isEmpty && groups.all (fun g => decide (g < groupCount l.val))) = true →
    exec (.partnerClockStop l atFirst groups) s = .next (clockStop s l.val atFirst groups))

/-- MCTP, PLDM monitoring, firmware-update, SPDM and test-port rows complete (premises of events: log entry 2)
(spec/25_management_security_test.md). -/
def Obligations.ManagementAndTestRowsComplete : Prop :=
  (∀ (op : BitVec 2) (eid : Byte) (s : State),
    mgmtUp s = true → exec (.setEndpointId op eid) s = .next (setEid s op eid)) ∧
  (∀ (s : State),
    mgmtUp s = true → exec .getEndpointId s = .next (mctp s 2 0 (le 1 s.mgmt.eid ++ le 2 0))) ∧
  (∀ (msgType : Byte) (s : State),
    mgmtUp s = true → exec (.getMctpVersionSupport msgType) s = .next (mctpVersions s msgType)) ∧
  (∀ (s : State),
    mgmtUp s = true →
    exec .getMessageTypeSupport s = .next (mctp s 5 0 (le 1 messageTypes.length ++ (messageTypes.map (le 1)).flatten))) ∧
  (∀ (cmd : Byte) (s : State),
    (mgmtUp s && !([1, 2, 4, 5].contains cmd.toNat)) = true →
    exec (.mctpUnsupportedCmd cmd) s = .next (mctp s cmd.toNat ccUnsupportedCmd [])) ∧
  (∀ (s : State),
    (mgmtUp s && s.pins.smbAlert) = true →
    exec .smbusAlertResponse s = .next (emit { s with pins := { s.pins with smbAlert := false } } (.mgmt 4 (le 1
      (2 * smbusAddr s))))) ∧
  (∀ (s : State),
    mgmtUp s = true → exec .getTid s = .next (pldm s 0 2 0 (le 1 s.mgmt.tid))) ∧
  (∀ (tid : Byte) (s : State),
    mgmtUp s = true → exec (.setTid tid) s = .next (setTid s tid)) ∧
  (∀ (typ : Byte) (s : State),
    mgmtUp s = true → exec (.getPldmVersion typ) s = .next (pldmVersion s typ)) ∧
  (∀ (s : State),
    mgmtUp s = true → exec .getPldmTypes s = .next (pldm s 0 4 0 (bitField 8 [0, 2, 5]))) ∧
  (∀ (typ : Byte) (s : State),
    mgmtUp s = true → exec (.getPldmCommands typ) s = .next (pldmCmds s typ)) ∧
  (∀ (s : State),
    mgmtUp s = true → exec .getPdrRepositoryInfo s = .next (pldm s 2 0x50 0 (le 1 0 ++ le 4 pdrs.length))) ∧
  (∀ (record : Nat) (s : State),
    mgmtUp s = true → exec (.getPdr record) s = .next (getPdr s record)) ∧
  (∀ (sensor : Nat) (s : State),
    mgmtUp s = true → exec (.getSensorReading sensor) s = .next (sensorReading s sensor)) ∧
  (∀ (sensor : Nat) (s : State),
    mgmtUp s = true → exec (.getStateSensorReadings sensor) s = .next (stateSensor s sensor)) ∧
  (∀ (effecter value : Nat) (s : State),
    mgmtUp s = true → exec (.setNumericEffecterValue effecter value) s = .next (setEffecter s effecter value)) ∧
  (∀ (effecter : Nat) (s : State),
    mgmtUp s = true → exec (.getNumericEffecterValue effecter) s = .next (getEffecter s effecter)) ∧
  (∀ (s : State),
    mgmtUp s = true → exec .requestUpdate s = .next (requestUpdate s)) ∧
  (∀ (comps : List Nat) (s : State),
    mgmtUp s = true → exec (.passComponentTable comps) s = .next (passTable s comps)) ∧
  (∀ (comp size : Nat) (s : State),
    mgmtUp s = true → exec (.updateComponent comp size) s = .next (updateComponent s comp size)) ∧
  (∀ (data : List Byte) (s : State),
    (mgmtUp s && s.mgmt.upd == .download && decide (data.length = updChunk s.mgmt)) = true →
    exec (.firmwareDataReceived data) s = .next (takeData s data.length)) ∧
  (∀ (version : Word) (svn : Nat) (stepping : Byte) (sigOk : Bool) (s : State),
    (mgmtUp s && s.mgmt.upd == .verify) = true →
    exec (.verifyComplete version svn stepping sigOk) s =
      .next (verified s { version := some version, svn := svn, stepping := stepping, signed := sigOk, valid := false })) ∧
  (∀ (s : State),
    (mgmtUp s && s.mgmt.upd == .apply) = true → exec .applyComplete s = .next (applied s)) ∧
  (∀ (s : State),
    mgmtUp s = true → exec .activateFirmware s = .next (activate s)) ∧
  (∀ (s : State),
    mgmtUp s = true → exec .cancelUpdate s = .next (cancelUpdate s)) ∧
  (∀ (s : State),
    (mgmtUp s && s.mgmt.upd != .idle) = true → exec .updateIdleTimeout s = .next (abandonUpdate s)) ∧
  (∀ (conn : Nat) (s : State),
    connUp s conn = true → exec (.getVersion conn) s = .next (getVersion s conn)) ∧
  (∀ (conn : Nat) (s : State),
    connUp s conn = true → exec (.getCapabilities conn) s = .next (getCapabilities s conn)) ∧
  (∀ (conn : Nat) (p384sha384 : Bool) (s : State),
    connUp s conn = true → exec (.negotiateAlgorithms conn p384sha384) s = .next (negotiate s conn p384sha384)) ∧
  (∀ (conn : Nat) (s : State),
    connUp s conn = true →
    exec (.getDigests conn) s = .next (atPhase s conn 3 (emit s (.spdm conn 0x01
      (le 1 1 ++ Config.measure 0 [s.hbFuses.serial.toNat]))))) ∧
  (∀ (conn slot off len : Nat) (s : State),
    connUp s conn = true →
    exec (.getCertificate conn slot off len) s = .next (atPhase s conn 3 (getCertificate s conn slot off len))) ∧
  (∀ (conn slot : Nat) (s : State),
    connUp s conn = true → exec (.challenge conn slot) s = .next (atPhase s conn 3 (challengeReq s conn slot))) ∧
  (∀ (conn : Nat) (signed : Bool) (index : Nat) (s : State),
    connUp s conn = true →
    exec (.getMeasurements conn signed index) s = .next (atPhase s conn 3 (getMeasurements s conn signed index))) ∧
  (∀ (conn token : Nat) (s : State),
    connUp s conn = true → exec (.respondIfReady conn token) s = .next (respondIfReady s conn token)) ∧
  (∀ (s : State),
    (mgmtUp s && !s.mgmt.signing.isEmpty) = true → exec .signingDone s = .next (signingDone s)) ∧
  (∀ (s : State),
    s.pins.pwrGood = true →
    exec .tapReset s = .next { s with mgmt := { s.mgmt with ir := 0x02, dieSel := none, dieLeft := 0 } }) ∧
  (∀ (s : State),
    s.pins.pwrGood = true →
    exec .extest s = .next (tapped s 0x00 (if s.pins.perstN then bypassed s else boundaryOut s))) ∧
  (∀ (s : State),
    s.pins.pwrGood = true → exec .samplePreload s = .next (tapped s 0x01 (boundaryOut s))) ∧
  (∀ (s : State),
    s.pins.pwrGood = true →
    exec .idcode s = .next (tapped s 0x02 (if (routed s).isSome then emit (drawn s) (.tdo
      (Config.freeBytes s.freeCtr 4)) else emit s (.tdo (le 4 0x10B03947))))) ∧
  (∀ (s : State),
    s.pins.pwrGood = true →
    exec .dbgChallenge s = .next (tapped s 0x10 (emit { drawn s with mgmt := { s.mgmt with nonce := some s.freeCtr } }
      (.tdo (Config.freeBytes s.freeCtr 16))))) ∧
  (∀ (level : Nat) (sigOk : Bool) (s : State),
    s.pins.pwrGood = true → exec (.dbgResponse level sigOk) s = .next (tapped s 0x11 (dbgResponse s level sigOk))) ∧
  (∀ (d : Fin 5) (s : State),
    s.pins.pwrGood = true → (1 ≤ s.mgmt.debug ∨ testMode s ≠ 0) →
    exec (.dieSelect d) s = .next { s with mgmt := { s.mgmt with ir := 0x20, dieSel := some d.val, dieLeft := 2 } }) ∧
  (∀ (op arg : Nat) (s : State),
    s.pins.pwrGood = true → exec (.testAccess op arg) s = .next (tapped s 0x21 (testAccess s op arg))) ∧
  (∀ (die : Fin 5) (field : FuseField) (s : State),
    s.pins.pwrGood = true → exec (.fuseProg die field) s = .next (tapped s 0x22 (fuseProg s die.val field))) ∧
  (∀ (off : Nat) (s : State),
    s.pins.pwrGood = true → exec (.regRead off) s = .next (tapped s 0x23 (regRead s off))) ∧
  (∀ (s : State),
    s.pins.pwrGood = true → exec .bypass s = .next (tapped s 0xFF (bypassed s)))

/-- READY_SET takes start-up to stage 0x0B: READY, READY_OUT, the boot time, and every die that came through is usable
(R59, R74). -/
def Obligations.ReadySetRaisesReady : Prop :=
  ∀ s : State, Clocked s → s.boot.stage = 0x0A → s.boot.testMode = false → (fnOf s 0).evq.opened = false →
    ∃ t, exec .readySet s = .next t ∧ isReady t = true ∧ t.boot.stage = 0x0B ∧ t.pins.readyOut = true ∧
      t.boot.bootMs = s.now / 1000 ∧
      (∀ d : Fin 4, s.boot.dieUsable.getLsbD d.val = true → (dieOf t d.val).state = .usable) ∧
      t.mem = s.mem ∧ t.ledger = s.ledger ∧ t.pending = s.pending ∧ (∀ f, (fnOf t f).slots = (fnOf s f).slots)

/-- A write to EVQ_CONS sets the index when it is valid, and is otherwise counted in CNT_DB_IGNORED (validity: log entry 31)
(R135, R151). -/
def Obligations.EventQueueConsumerIndex : Prop :=
  ∀ (f : Fin 16) (value : Word) (s : State), Clocked s → barOn s f.val = true →
    let q := (fnOf s f.val).evq
    let v := value.toNat
    let valid := q.opened = true ∧ sub32 v q.cons ≤ 2 ^ q.sizeLog2 ∧ sub32 q.prod v ≤ 2 ^ q.sizeLog2
    (valid → exec (.evqConsWrite f value) s = .next (updFn s f.val (fun x => { x with evq := { x.evq with cons := v } }))) ∧
    (¬valid → exec (.evqConsWrite f value) s = .next (cnt s f.val 0x300 1))

/-- A write to HB_BOOKS clears each bit written 1 and leaves the others; a VF cannot reach it (R7, R223). -/
def Obligations.BooksBitsClearedByWriting : Prop :=
  ∀ (value : DWord) (s : State), Clocked s → isReady s = true →
    (barOn s 0 = true → ∃ t, exec (.registerWrite 0 .bar4 0x100700 4 value) s = .next t ∧
      t = { s with books := { s.books with failed := t.books.failed } } ∧
      ∀ e, e < 32 → t.books.failed.getLsbD e = (s.books.failed.getLsbD e && !value.getLsbD e)) ∧
    (∀ f : Fin 16, f.val ≠ 0 → barOn s f.val = true → exec (.registerWrite f .bar4 0x100700 4 value) s = .next s)

/-- A shoot-down removes the page's entry from every TLB, and the matching ATC entries of a tier X page (R277). -/
def Obligations.ShootdownRemovesTranslations : Prop :=
  ∀ (asid dva : Nat) (s : State), Clocked s →
    ∃ t, exec (.shootdown asid dva) s = .next t ∧ t = { s with tlbs := t.tlbs, atc := t.atc, shooting := t.shooting } ∧
      (∀ e, e ∈ t.tlbs ↔ e ∈ s.tlbs ∧ ¬(e.2.1 = asid ∧ e.2.2 = dva / 65536 * 65536)) ∧
      (∀ e ∈ t.atc, e ∈ s.atc) ∧
      (∀ pasid page, hostPage s asid (pageBase dva) = some (pasid, page) →
        ∀ e ∈ t.atc, ¬(e.1 + 1 = asid ∧ e.2.1 = pasid ∧ page ≤ e.2.2 ∧ e.2.2 < page + 16)) ∧
      (hostPage s asid (pageBase dva) = none → t.atc = s.atc) ∧
      t.shooting = s.shooting ++ [(asid, dva / 65536 * 65536)]

/-- A flit with a CRC error is counted at the reporting end and charged to its group, and discarded: no delivery, no
acknowledgement, no credit (R228, R338, R339, R341). -/
def Obligations.BadFlitIsCountedAndDiscarded : Prop :=
  ∀ (l : Fin 8) (atFirst : Bool) (flit : Flit) (s : State), Clocked s → linkUp s l.val = true → flitClean flit = false →
    let n := if firstReports s l.val = atFirst then 1 else 0
    ∃ t, exec (.flitReceived l flit atFirst) s = .next t ∧ t = { s with links := t.links } ∧
      (∀ j, j ≠ l.val → linkOf t j = linkOf s j) ∧
      dirOf (linkOf t l.val) (!atFirst) =
        { dirOf (linkOf s l.val) (!atFirst) with fails := (dirOf (linkOf s l.val) (!atFirst)).fails + 1 } ∧
      dirOf (linkOf t l.val) atFirst = dirOf (linkOf s l.val) atFirst ∧
      linkOf t l.val = { linkOf s l.val with
        out := (linkOf t l.val).out, back := (linkOf t l.val).back, groupErr := (linkOf t l.val).groupErr,
        crc := if n = 1 then sat64 (linkOf s l.val).crc 1 else (linkOf s l.val).crc,
        rx := if n = 1 then sat64 (linkOf s l.val).rx 1 else (linkOf s l.val).rx } ∧
      (∀ g, tget 0 (linkOf t l.val).groupErr g = tget 0 (linkOf s l.val).groupErr g + if g = flit.group then 1 else 0)

/-- AUDIT_MARKER puts a MGMT packet with type 0x23, the sender and the tide number into the reporting end's send queue, where it
goes with the other packets; a marker that a flit delivers in order latches what the receiving end counts (R606). -/
def Obligations.AuditMarkersLatchTheBooks : Prop :=
  (∀ (l : Fin 8) (s : State), Clocked s → linkUp s l.val = true →
    let me := if firstReports s l.val then (linkEnds l.val).1 else (linkEnds l.val).2
    let marker : Parcel := {
      op := 6, vc := 3, src := me, dst := otherEnd l.val me, route := [l.val],
      data := [0x23, BitVec.ofNat 8 me, 0, 0] ++ le 4 s.energy.tides }
    exec (.auditMarker l) s = .next (pump (updDir s l.val (decide ((linkEnds l.val).1 = me)) (fun d =>
      { d with queue := d.queue ++ [marker] })))) ∧
  (∀ (l : Fin 8) (atFirst : Bool) (flit : Flit) (s : State), Clocked s → linkUp s l.val = true → flitClean flit = true →
    (∀ kv ∈ s.links, kv.2.out.queue = [] ∧ kv.2.back.queue = []) → flitKind flit = 0 →
    flitSeq flit = (dirOf (linkOf s l.val) (!atFirst)).rxSeq → byteAt flit.data 0 = 6 → byteAt flit.data 16 = 0x23 →
    ∃ t, exec (.flitReceived l flit atFirst) s = .next t ∧
      (∀ (i : Nat) (v : VcBook), (dirOf (linkOf t l.val) atFirst).vcs[i]? = some v →
        ∃ w : VcBook, (dirOf (linkOf t l.val) atFirst).latched[i]? = some w ∧ w.sent = v.sent ∧ w.held = v.held ∧ w.back = v.back) ∧
      (∀ (i : Nat) (v : VcBook), (dirOf (linkOf t l.val) (!atFirst)).vcs[i]? = some v →
        ∃ w : VcBook, (dirOf (linkOf t l.val) (!atFirst)).latched[i]? = some w ∧ w.received = v.received ∧ w.out = v.out ∧
          w.occupied = v.occupied))

/-- At 100 % of its allowance a die is gated: GATED reads 1, KEEP_EFF 0, and no prefill step starts (R44, R567). -/
def Obligations.ExhaustedDieIsGated : Prop :=
  ∀ (d : Fin 4) (s : State), Clocked s → isReady s = true → domUsable s d.val = true → (dieOf s d.val).gated = false →
    ∃ t, exec (.allowanceExhausted d) s = .next t ∧ t = { s with dies := t.dies, energy := t.energy } ∧
      dieOf t d.val = { dieOf s d.val with gated := true } ∧ keepEff (dieOf t d.val) = 0 ∧
      (∀ e, e ≠ d.val → dieOf t e = dieOf s e ∧ domOf t e = domOf s e) ∧
      domOf t d.val = { domOf s d.val with noPrefill := true }

/-- At its commit point ENERGY_LIMIT_SET takes 120 to 300 W and refuses every other value, and BAR2_WINDOW_SET takes a multiple
of 64 GiB below 2^48 and refuses every other value (the response: log entry 24) (R181, R200). -/
def Obligations.RangesCheckedAtCommit : Prop :=
  (∀ (f : Fin 16) (slot : Fin 32) (s : State), Clocked s → committing s f slot 0x0A01 = true →
    let w := pay (slotBytes s f slot) 0 2
    let b := s.energy.bmcW
    (120 ≤ w → w ≤ 300 → byteAt (slotBytes s f slot) 18 = 0 → byteAt (slotBytes s f slot) 19 = 0 →
      exec (.commandCommit f slot) s = .next (afterCommit (completeSlot
        { s with energy := { s.energy with limitW := w, limitBmc := false } } f slot
        { status := 0, resp := le 2 (if b = 0 then w else min w b) ++ le 2 b }) f)) ∧
    ((w < 120 ∨ 300 < w) → exec (.commandCommit f slot) s =
      .next (afterCommit (completeSlot s f slot { status := stInvalidField, detail := 16 }) f))) ∧
  (∀ (f : Fin 16) (slot : Fin 32) (s : State), Clocked s → committing s f slot 0x0303 = true →
    let w := pay (slotBytes s f slot) 0 8
    (w % 2 ^ 36 = 0 → w < 2 ^ 48 → exec (.commandCommit f slot) s =
      .next (afterCommit (completeSlot (updFn s f (fun x => { x with window := w })) f slot { status := 0 }) f)) ∧
    ((w % 2 ^ 36 ≠ 0 ∨ 2 ^ 48 ≤ w) → exec (.commandCommit f slot) s =
      .next (afterCommit (completeSlot s f slot { status := stInvalidField, detail := 16 }) f)))

/-- CancelUpdate invalidates the copy being written and returns to IDLE; the running copy stands (R661). -/
def Obligations.CancelledUpdateReturnsToIdle : Prop :=
  ∀ s : State, mgmtUp s = true →
    ∃ t, exec .cancelUpdate s = .next t ∧ t = { s with mgmt := t.mgmt, out := t.out } ∧ t.mgmt.upd = .idle ∧
      (s.mgmt.upd = .idle → t.mgmt = s.mgmt) ∧
      (s.mgmt.upd ≠ .idle → s.mgmt.updComp ≠ 0 →
        let x := fwOf s s.mgmt.updComp
        let y := fwOf t s.mgmt.updComp
        y.runB = x.runB ∧ (x.runB = true → y.a.valid = false ∧ y.bb = x.bb) ∧ (x.runB = false → y.bb.valid = false ∧ y.a = x.a))

/-- A ledger entry that returns to FREE holds nothing of its request (R471, R501). -/
def Obligations.FreedEntryReadsReset : Prop :=
  ∀ (i : Nat) (s : State), Clocked s → mayFree s i = true →
    ∃ t, exec (.ledgerEntryFreed i) s = .next t ∧ entOf t i = {} ∧ entXOf t i = {} ∧ t.pending = s.pending

/-- A completion that matches a quarantined tag is only counted, in CNT_LATE_CPL (R97). -/
def Obligations.LateCompletionIsCounted : Prop :=
  ∀ (f : Fin 16) (tag expiry : Nat) (st : CplStatus) (s : State), Clocked s →
    tfind (fnOf s f.val).pci.tags tag = some (.quarantined expiry) →
    ∃ t, exec (.completionReceived f tag st) s = .next t ∧ t = { s with fns := t.fns } ∧
      (∀ g, g ≠ f.val → fnOf t g = fnOf s g) ∧
      fnOf t f.val = { fnOf s f.val with counters := (fnOf t f.val).counters } ∧
      (∀ off, off ≠ 0x200 → tget 0 (fnOf t f.val).counters off = tget 0 (fnOf s f.val).counters off) ∧
      tget 0 (fnOf t f.val).counters 0x200 = sat64 (tget 0 (fnOf s f.val).counters 0x200) 1

/-- An Initiate FLR written while FLR_BUSY reads 1 changes nothing (R108). -/
def Obligations.FlrWhileBusyHasNoEffect : Prop :=
  ∀ (f : Fin 16) (s : State), (fnOf s f.val).flrBusy = true → exec (.initiateFlr f) s = .next s

/-- CONFIG_DISCARD empties the shadow set and completes SUCCESS, whether or not anything was staged (R199). -/
def Obligations.ConfigDiscardEmptiesShadow : Prop :=
  ∀ (f : Fin 16) (slot : Fin 32) (s : State), Clocked s → committing s f slot 0x0904 = true →
    exec (.commandCommit f slot) s =
      .next (afterCommit (completeSlot { s with conf := { s.conf with shadow := [] } } f slot { status := 0 }) f)

/-- FUNCTION_CLOSE is refused IN_USE while a ring is open or a ledger entry is not FREE, and otherwise closes the function
(R177). -/
def Obligations.FunctionCloseChecksThenCloses : Prop :=
  ∀ (f : Fin 16) (slot : Fin 32) (s : State), Clocked s → committing s f slot 0x0202 = true →
    ((∃ kv ∈ (fnOf s f).rings, kv.2.state ≠ .closed) ∨ (∃ i ∈ s.ledger, i.2.state ≠ .free ∧ i.2.b.fn = f.val) →
      ∃ detail, exec (.commandCommit f slot) s =
        .next (afterCommit (completeSlot s f slot { status := stInUse, detail := detail }) f)) ∧
    ((∀ kv ∈ (fnOf s f).rings, kv.2.state = .closed) → (∀ i ∈ s.ledger, i.2.state = .free ∨ i.2.b.fn ≠ f.val) →
      exec (.commandCommit f slot) s = .next (afterCommit (completeSlot (updFn s f (fun x =>
        { x with engines := 0, engStop := 0, opened := false, evq := { overflow := x.evq.overflow } })) f slot
        { status := 0 }) f))



/-- MODEL_INFO, CONFIG_READ, ERRLOG_READ and ENERGY_REPORT change nothing at their start or at their commit point but their
slot's command and the slot that COMMAND_COMMIT completes (R184, R197, R201, R205). -/
def Obligations.ReadingCommandsChangeOnlyTheirSlot : Prop :=
  ∀ (f : Fin 16) (slot : Fin 32) (s : State), Clocked s → ∀ c ∈ [(Instr.modelInfo f slot, 0x0403),
      (Instr.configRead f slot, 0x0902), (Instr.errlogRead f slot, 0x0B04), (Instr.energyReport f slot, 0x0A02)],
    (mayStart s f slot c.2 = true →
      exec c.1 s = .next (updCmd s f slot (fun c => { c with started := true, startedAt := s.now }))) ∧
    (committing s f slot c.2 = true →
      ∃ o, exec (.commandCommit f slot) s = .next (afterCommit (completeSlot s f slot o) f))

/-- A doorbell write to a host-produced ring: ignored and counted, no effect, a new PROD, or a stop with INDEX_INVALID; a
stopped ring takes the index and stays stopped (R135). -/
def Obligations.HostRingDoorbell : Prop :=
  ∀ (f : Fin 16) (ring : Fin 64) (value : Word) (s : State), Clocked s → barOn s f.val = true →
    let g := ringOf s f.val ring.val
    let v := value.toNat
    let valid := sub32 v g.prod ≤ 2 ^ g.sizeLog2 ∧ sub32 v g.cons ≤ 2 ^ g.sizeLog2
    ((fnOf s f.val).opened = false ∨ (fnOf s f.val).flrBusy = true ∨ g.state = .closed →
      exec (.dbRingWrite f ring value) s = .next (cnt s f.val 0x300 1)) ∧
    ((fnOf s f.val).opened = true → (fnOf s f.val).flrBusy = false → g.typ ≠ .cpl →
      (g.state = .running ∨ g.state = .stopped → v = g.prod → exec (.dbRingWrite f ring value) s = .next s) ∧
      (g.state = .running → v ≠ g.prod → valid → exec (.dbRingWrite f ring value) s =
        .next (runRing (updRing s f.val ring.val (fun x => { x with prod := v })) f.val ring.val)) ∧
      (g.state = .running → v ≠ g.prod → ¬valid → exec (.dbRingWrite f ring value) s =
        .next (stopRing (cnt s f.val 0x300 1) f.val ring.val causeIndex)) ∧
      (g.state = .stopped → v ≠ g.prod → valid → exec (.dbRingWrite f ring value) s =
        .next (updRing s f.val ring.val (fun x => { x with prod := v }))) ∧
      (g.state = .stopped → v ≠ g.prod → ¬valid → exec (.dbRingWrite f ring value) s = .next (cnt s f.val 0x300 1)))

/-- A write to DB_MBOX submits the slots of its bits in ascending order; a slot already owned is only counted (R121). -/
def Obligations.MailboxDoorbellSubmitsInSlotOrder : Prop :=
  ∀ (f : Fin 16) (value : Word) (s : State), Clocked s → barOn s f.val = true →
    exec (.dbMboxWrite f value) s = .next (((List.range 32).filter (fun k => value.getLsbD k)).foldl
      (fun s slot => submitSlot s f slot) s) ∧
    ∀ slot, ((fnOf s f).owner.getLsbD slot = true → submitSlot s f slot = cnt s f 0x300 1)

/-- A slot submitted in CP recovery: DEVICE_INFO and DIAG_BOOTLOG are answered, every other opcode completes BUSY_RECOVERY
(R129). -/
def Obligations.SlotSubmittedInRecovery : Prop :=
  ∀ (f : Fin 16) (slot : Fin 32) (s : State), Clocked s → barOn s f.val = true → (fnOf s f).owner.getLsbD slot = false →
    (fnOf s f).flrBusy = false → isReady s = true → s.cp.recovery = true →
    let owned := updFn s f (fun x => { x with owner := setBit x.owner slot true })
    let b := slotBytes s f slot
    (slotOp b = 0x0101 ∨ slotOp b = 0x0B01 →
      exec (.dbMboxWrite f (BitVec.ofNat 32 (2 ^ slot.val))) s = .next (queueCmd owned f slot b)) ∧
    (∀ t, Clocked t → mayStart t f slot 0x0101 = true → slotOp (slotBytes t f slot) = 0x0101 →
      headerBad (slotBytes t f slot) = none → sharedChecks t f (slotBytes t f slot) = none →
      exec (.deviceInfo f slot) t = .next (completeSlot t f slot { resp := deviceInfo t f })) ∧
    (∀ t, Clocked t → mayStart t f slot 0x0B01 = true → headerBad (slotBytes t f slot) = none →
      sharedChecks t f (slotBytes t f slot) = none → (resv (slotBytes t f slot) 4 4).1 = false →
      exec (.diagBootlog f slot) t = .next (completeSlot t f slot { resp := bootLogAnswer t (pay (slotBytes t f slot) 0 4) })) ∧
    (slotOp b ≠ 0x0101 → slotOp b ≠ 0x0B01 →
      exec (.dbMboxWrite f (BitVec.ofNat 32 (2 ^ slot.val))) s =
        .next (completeSlot (cnt owned f 0x310 1) f slot { status := stBusyRecovery }))

/-- A slot write changes the bytes it covers in a slot the host owns, and is only counted in one the VX3 owns (R9, R120). -/
def Obligations.SlotWriteNeedsTheHostsSlot : Prop :=
  ∀ (f : Fin 16) (off width : Nat) (value : DWord) (s : State), Clocked s → barOn s f.val = true →
    (width = 4 ∨ width = 8) → off % width = 0 → off < 8192 →
    ((fnOf s f).owner.getLsbD (off / 256) = true →
      exec (.slotWrite f off width value) s = .next (cnt s f 0x308 1)) ∧
    ((fnOf s f).owner.getLsbD (off / 256) = false → ∃ t, exec (.slotWrite f off width value) s = .next t ∧
      slotBytes t f (off / 256) = padTo 256 (splice (slotBytes s f (off / 256)) (off % 256) (le width value.toNat)) ∧
      (∀ k, k ≠ off / 256 → slotBytes t f k = slotBytes s f k) ∧ (∀ g, g ≠ f.val → fnOf t g = fnOf s g) ∧
      t = { s with fns := t.fns })

/-- A write of another width or alignment does nothing, and a read of another width or alignment returns all ones (R9). -/
def Obligations.OtherWidthsDoNothing : Prop :=
  ∀ (f : Fin 16) (bar : Bar) (off width : Nat) (value : DWord) (s : State), Clocked s → barOn s f.val = true →
    ¬((width = 4 ∨ width = 8) ∧ off % width = 0) →
    exec (.slotWrite f off width value) s = .next s ∧
    (bar ≠ .config → exec (.registerWrite f bar off width value) s = .next s ∧
      exec (.lowHalfRead f bar off width) s =
        .next { s with out := s.out ++ [.readData f.val (List.replicate width 0xFF) false] })

/-- From READY and FUNCTION_OPEN on, unmasking a vector sends the message its PBA bit holds; until then every vector stays
masked (R52, R83). -/
def Obligations.UnmaskSendsThePendingMessage : Prop :=
  ∀ (f : Fin 16) (v : Fin 64) (s : State), Clocked s → barOn s f.val = true →
    (isReady s = false ∨ (fnOf s f.val).opened = false → exec (.msixUnmask f v) s = .next s) ∧
    (isReady s = true → (fnOf s f.val).opened = true → (vecOf s f.val v.val).pending = false →
      exec (.msixUnmask f v) s = .next (updVec s f.val v.val (fun x => { x with masked := false }))) ∧
    (isReady s = true → (fnOf s f.val).opened = true → (vecOf s f.val v.val).pending = true →
      (fnOf s f.val).pci.msixEn = true → (fnOf s f.val).pci.funcMask = false →
      busOn s f.val = true → ∃ t, exec (.msixUnmask f v) s = .next t ∧
        (vecOf t f.val v.val).pending = false ∧ (vecOf t f.val v.val).masked = false ∧
        t = { s with fns := t.fns, out := s.out ++ [.msix f.val v.val (vecOf s f.val v.val).addr (vecOf s f.val v.val).data] } ∧
        ∀ g, g ≠ f.val → fnOf t g = fnOf s g)

/-- A full write stores its data, clears the word's poison and logs OVERWRITTEN (R244). -/
def Obligations.FullWriteStoresAndClearsPoison : Prop :=
  ∀ (addr : Nat) (data : List Byte) (s : State), Clocked s → known addr = true → addr % eccUnit addr = 0 →
    data.length = eccUnit addr → answers s addr = true → MemoryCanonical s →
    ∃ t, exec (.fullWrite addr data) s = .next t ∧ cellsRead t.mem addr data.length = data ∧
      (∀ a, a < addr ∨ addr + data.length ≤ a → cellRead t.mem a = cellRead s.mem a) ∧
      isPoisoned t addr = false ∧ (∀ w, w ≠ eccWord addr → (w ∈ t.poison ↔ w ∈ s.poison)) ∧
      t = { s with mem := t.mem, poison := t.poison, errlog := t.errlog, errNext := t.errNext } ∧
      t.errlog = (if isPoisoned s addr then (logErr s (eccEntry s addr 3 1 3)).errlog else s.errlog) ∧
      t.errNext = (if isPoisoned s addr then s.errNext + 1 else s.errNext)

/-- A partial write is merged into a clean or corrected word and refused on a poisoned or uncorrectable one, which is left as
it was or poisoned (R245, R246). -/
def Obligations.PartialWriteActsOnTheWordsState : Prop :=
  ∀ (addr : Nat) (data : List Byte) (ecc : EccSeen) (by_ : Writer) (s : State), Clocked s → known addr = true →
    data ≠ [] → addr % eccUnit addr + data.length ≤ eccUnit addr → data.length < eccUnit addr → answers s addr = true →
    MemoryCanonical s →
    (isPoisoned s addr = false → ecc ≠ .uncorrectable → ∃ t, exec (.partialWrite addr data ecc by_) s = .next t ∧
      cellsRead t.mem addr data.length = data ∧
      (∀ a, a < addr ∨ addr + data.length ≤ a → cellRead t.mem a = cellRead s.mem a) ∧
      (ecc = .clean → t = { s with mem := t.mem })) ∧
    (isPoisoned s addr = true → exec (.partialWrite addr data ecc by_) s =
      .next (poisonFound (tellWriter (logErr s (eccEntry s addr 2 2 2)) by_) (eccWord addr) 2)) ∧
    (isPoisoned s addr = false → ecc = .uncorrectable → exec (.partialWrite addr data ecc by_) s =
      .next (poisonFound (tellWriter (logErr (poisonWord s addr) (eccEntry s addr 2 2 2)) by_) (eccWord addr) 2))

/-- PAGE_ZEROED leaves a quarantined page free with every byte 0 and every other byte as it was (R261). -/
def Obligations.QuarantinedPageIsZeroed : Prop :=
  ∀ (page : Nat) (s : State), Clocked s → (pageOf s page).state = .quarantined → MemoryCanonical s →
    ∃ t, exec (.pageZeroed page) s = .next t ∧
      (∀ a, 65536 * page ≤ a → a < 65536 * page + 65536 → cellRead t.mem a = 0) ∧
      (∀ a, a < 65536 * page ∨ 65536 * page + 65536 ≤ a → cellRead t.mem a = cellRead s.mem a) ∧
      (pageOf t page).state = .free ∧ (∀ q, q ≠ page → pageOf t q = pageOf s q) ∧
      (∀ w ∈ t.poison, ¬(isDram w = true ∧ pageAt w = page)) ∧
      t = { s with mem := t.mem, pages := t.pages, poison := t.poison }

/-- A bank access is served for the owner, waits for the coming owner, and is a permission fault otherwise (R301). -/
def Obligations.BankServesItsOwner : Prop :=
  ∀ (die : Fin 5) (bank off : Nat) (data : Option (List Byte)) (len code : Nat) (by_ : Writer) (seen : Seen)
    (s : State), Clocked s →
    bank < bankCount die.val → 0 < len → off + len ≤ 0x20000 → (∀ l, data = some l → l.length = len) →
    let x := bankOf s die.val bank
    let a : BankAcc := { code := code, off := off, len := len, data := data, by_ := by_, seen := seen }
    (x.state = .owned → x.owner = code → ∀ l, data = some l →
      exec (.bankAccess die bank off data len code by_ seen) s = .next (bankWrite s (bankBase die.val bank + off) l by_ seen)) ∧
    (x.state = .owned → x.owner = code → data = none →
      exec (.bankAccess die bank off data len code by_ seen) s = .next (bankRead s (bankBase die.val bank + off) len by_ seen)) ∧
    (x.state = .inHandover → x.next = code →
      exec (.bankAccess die bank off data len code by_ seen) s =
        .next (updBank s die.val bank (fun y => { y with waits := y.waits ++ [a] }))) ∧
    (¬(x.state = .owned ∧ x.owner = code) → ¬(x.state = .inHandover ∧ x.next = code) →
      exec (.bankAccess die bank off data len code by_ seen) s = .next (bankFault s a))

/-- A HANDOVER write starts a handover when STATE, NEXT_OWNER and OWNER allow it, and is otherwise counted in BANK_REFUSED
(R231, R302). -/
def Obligations.HandoverWriteAcceptedOrCounted : Prop :=
  ∀ (die : Fin 5) (bank : Nat) (next : BitVec 5) (s : State), Clocked s → barOn s 0 = true → isReady s = true →
    bank < bankCount die.val →
    let x := bankOf s die.val bank
    let ok := (x.state = .owned ∨ x.state = .unowned) ∧ (next.toNat ≤ 0x10 ∨ next.toNat = 0x1F) ∧ next.toNat ≠ x.owner
    (ok → exec (.bankHandover die bank next) s = .next (updBank s die.val bank (fun y =>
      { y with state := .inHandover, next := next.toNat, zeroDue := !(y.state == .unowned && !y.zeroDue) }))) ∧
    (¬ok → exec (.bankHandover die bank next) s = .next { s with bankRefused := sat64 s.bankRefused 1 })

/-- The end of a handover zeroes the bank when ZERO_PENDING and gives it to NEXT_OWNER (R302). -/
def Obligations.HandoverDoneZeroesAndPassesOn : Prop :=
  ∀ (die : Fin 5) (bank : Nat) (s : State), Clocked s → MemoryCanonical s →
    let x := bankOf s die.val bank
    let base := bankBase die.val bank
    x.state = .inHandover → x.waits = [] → ∃ t, exec (.handoverDone die bank) s = .next t ∧
      bankOf t die.val bank = { x with owner := x.next, state := if x.next = 0x1F then .unowned else .owned, zeroDue := false } ∧
      (x.zeroDue = true → ∀ a, base ≤ a → a < base + 0x20000 → cellRead t.mem a = 0) ∧
      (∀ a, a < base ∨ base + 0x20000 ≤ a → cellRead t.mem a = cellRead s.mem a) ∧
      (x.zeroDue = false → t.mem = s.mem)

/-- A read of the Alert Response Address returns the endpoint's address and deasserts SMB_ALERT_N (R653, R651). -/
def Obligations.AlertClearedByItsResponse : Prop :=
  ∀ s : State, mgmtUp s = true → s.pins.smbAlert = true →
    exec .smbusAlertResponse s = .next { s with
      pins := { s.pins with smbAlert := false },
      out := s.out ++ [.mgmt 4 (le 1 (2 * (0x60 + s.boot.smbAddr.toNat)))] }

/-- The BMC limit takes 0 and 120 to 300 W and refuses every other value without effect (R657, R200). -/
def Obligations.BmcLimitTakesItsRange : Prop :=
  ∀ (value : Nat) (s : State), mgmtUp s = true →
    (value = 0 ∨ (120 ≤ value ∧ value ≤ 300) → exec (.setNumericEffecterValue 1 value) s = .next { s with
      energy := { s.energy with bmcW := value, limitBmc := true },
      out := s.out ++ [.mgmt 2 [0x02, 0x31, 0x00]] }) ∧
    ((1 ≤ value ∧ value ≤ 119) ∨ 300 < value → exec (.setNumericEffecterValue 1 value) s = .next { s with
      out := s.out ++ [.mgmt 2 [0x02, 0x31, 0x02]] })

/-- A verified debug response to a nonce raises the level; three failures lock the instruction out (R670). -/
def Obligations.DebugResponsesAreSingleUse : Prop :=
  ∀ (level : Nat) (sigOk : Bool) (s : State), s.pins.pwrGood = true →
    (s.mgmt.lockout = false → level = 1 → sigOk = true → s.mgmt.nonce.isSome = true →
      ∃ t, exec (.dbgResponse level sigOk) s = .next t ∧ t.mgmt.debug = max s.mgmt.debug 1 ∧ t.mgmt.nonce = none ∧
        t.boot = s.boot ∧ t.mem = s.mem) ∧
    (s.mgmt.lockout = false → (sigOk = false ∨ s.mgmt.nonce = none) →
      ∃ t, exec (.dbgResponse level sigOk) s = .next t ∧ t.mgmt.debug = s.mgmt.debug ∧ t.mgmt.nonce = none ∧
        t.mgmt.dbgFails = s.mgmt.dbgFails + 1 ∧ (t.mgmt.lockout = true ↔ 3 ≤ t.mgmt.dbgFails)) ∧
    (s.mgmt.lockout = true → ∃ t, exec (.dbgResponse level sigOk) s = .next t ∧ t.mgmt.debug = s.mgmt.debug ∧
      t.mgmt.lockout = true)

/-- IDCODE of the package TAP shifts out 0x10B03947 (R671, R672). -/
def Obligations.PackageIdcodeIsShiftedOut : Prop :=
  ∀ s : State, s.pins.pwrGood = true → s.mgmt.dieSel = none → s.mgmt.dieLeft = 0 →
    exec .idcode s = .next { s with
      mgmt := { s.mgmt with ir := 0x02 },
      out := s.out ++ [.tdo [0x47, 0x39, 0xB0, 0x10]] }

/-- CANCEL, PAUSE, RESUME and CLOSE of an entry that is not the request's complete HANDLE_INVALID; RESUME of a request that is not host-paused has no effect
(R493, R494, R498). -/
def Obligations.ControlOfNoRequest : Prop :=
  ∀ (f : Fin 16) (ring : Fin 64) (s : State) (idx : Nat) (d : ReqDesc), Clocked s →
    let r := frontRing s f.val ring.val
    frontReq s f.val r = some (idx, d) → cplHeld s f.val r = false →
    (controlTarget s f.val d = none → ∀ c ∈ [(Instr.cancel f ring, 2), (Instr.pause f ring, 3), (Instr.resume f ring, 4),
        (Instr.close f ring, 5)], d.typ = c.2 →
      exec c.1 s = .next (runRing (controlDone s f.val r idx d stHandleInvalid) f.val r)) ∧
    (∀ i, d.typ = 4 → controlTarget s f.val d = some i →
      (entOf (controlDone s f.val r idx d 0) i).hostPause = false →
      exec (.resume f ring) s = .next (runRing (controlDone s f.val r idx d 0) f.val r))

/-- A SUBMIT with no free ledger entry stays in its ring and changes nothing (R150). -/
def Obligations.SubmitWaitsForAFreeEntry : Prop :=
  ∀ (f : Fin 16) (ring : Fin 64) (read : HostRead) (s : State) (idx : Nat) (d : ReqDesc), Clocked s →
    let r := frontRing s f.val ring.val
    frontReq s f.val r = some (idx, d) → d.typ = 1 → freeEntryIdx s = none →
    exec (.submit f ring read) s = .next s

/-- A die is throttled from 95 degrees until it falls below 92 degrees (R577). -/
def Obligations.ThrottleFollowsTemperature : Prop :=
  ∀ (dom : Fin 5) (temp : BitVec 12) (s : State), Clocked s → s.pins.pwrGood = true → sensed s dom.val = true →
    temp.toInt < deg 115 → ∃ t, exec (.tempUpdate dom temp) s = .next t ∧
      (thermOf t dom.val).temp = temp ∧
      (thermOf t dom.val).throttle = (if deg 95 ≤ temp.toInt then true else if temp.toInt < deg 92 then false
        else (thermOf s dom.val).throttle) ∧
      (∀ d, d ≠ dom.val → thermOf t d = thermOf s d) ∧ t.mem = s.mem ∧ t.ledger = s.ledger ∧ t.regions = s.regions ∧ t.conf = s.conf

/-- The fall of EPR_N halves the keep of every usable Crest die, rounded down, with a floor of 2 (R41). -/
def Obligations.EprHalvesTheKeep : Prop :=
  ∀ (s : State), s.pins.pwrGood = true → s.pins.eprN = true → Clocked s → ∃ t, exec .eprNFall s = .next t ∧
    t.pins.eprN = false ∧ ∀ d : Fin 4, domUsable s d.val = true → (dieOf s d.val).gated = false →
      keepEff (dieOf t d.val) = max 2 ((dieOf s d.val).keepPlan / 2) ∧ (dieOf t d.val).keepPlan = (dieOf s d.val).keepPlan

/-- A PLL that loses lock after READY is device-fatal: FAULT_N low, cause REFCLK_LOSS, READY 0 (R43, R54, R75). -/
def Obligations.LossOfReferenceClockIsFatal : Prop :=
  ∀ s : State, Clocked s → isReady s = true → ∃ t, exec .refclkLoss s = .next t ∧ t.pins.faultLow = true ∧
    t.pins.readyOut = false ∧ t.boot.failCause = 0x09 ∧ t.boot.failStage = s.boot.stage ∧ t.boot.stage = 0xFF ∧
    isReady t = false ∧ t.mem = s.mem ∧ t.ledger = s.ledger

/-- No command of the management controller reads or writes tenant memory or the ledger, nor writes any function's rings
(R650). -/
def Obligations.ManagementLeavesTenantsAlone : Prop :=
  ∀ (c : Instr) (s t : State), mgmtCommand c = true → exec c s = .next t →
    t.mem = s.mem ∧ t.ledger = s.ledger ∧ t.ledgerX = s.ledgerX ∧ t.fns = s.fns ∧
    ∀ u : State, exec c { s with mem := u.mem, ledger := u.ledger, ledgerX := u.ledgerX } =
      .next { t with mem := u.mem, ledger := u.ledger, ledgerX := u.ledgerX }

/-- No step forms for a group on a held die (R597). -/
def Obligations.NoStepFormsOnHeldGroup : Prop :=
  ∀ (model : Nat) (tenantUj : List (Nat × Nat)) (s t : State), groupHeld s model = true →
    exec (.prefillStepForm model tenantUj) s ≠ .next t ∧ exec (.decodeStepForm model tenantUj) s ≠ .next t

/-- COMMAND_COMMIT of a command whose answer stands in the journal, without a CMD_DONE event: the slot holds the response, its
owner bit is clear and its done bit set; no other slot or function changes (R119, R124). -/
def Obligations.CommitCompletesTheSlot : Prop :=
  ∀ (f : Fin 16) (slot : Fin 32) (s : State) (c : Cmd) (o : CmdOutcome), Clocked s → mayCommit s f slot = true →
    cmdOf s f slot = some c → c.outcome = some o → c.event = false →
    ∃ t, exec (.commandCommit f slot) s = .next t ∧ t = { s with fns := t.fns } ∧
      (∀ k, (fnOf t f).owner.getLsbD k = ((fnOf s f).owner.getLsbD k && decide (k ≠ slot.val))) ∧
      (∀ k, k < 32 → (fnOf t f).done.getLsbD k = ((fnOf s f).done.getLsbD k || decide (k = slot.val))) ∧
      slotBytes t f slot = padTo 256 ((slotBytes s f slot).take 2 ++ le 2 o.status ++ ((slotBytes s f slot).drop 4).take 4 ++
        le 2 o.resp.length ++ [BitVec.ofNat 8 o.dieMask, 0] ++ le 4 o.detail ++ o.resp) ∧
      (∀ k, k ≠ slot.val → slotBytes t f k = slotBytes s f k) ∧ cmdOf t f slot = none ∧
      (∀ k, k ≠ slot.val → cmdOf t f k = cmdOf s f k) ∧ (∀ g, g ≠ f.val → fnOf t g = fnOf s g)

/-- Before CONFIG_SPACE_READY a configuration request of a function on the link gets Request Retry Status and has no other effect
(R59, R69). -/
def Obligations.ConfigRequestsRetryBeforeReady : Prop :=
  ∀ (f : Fin 16) (off width : Nat) (value : DWord) (s : State), Clocked s → s.boot.cfgReady = false → onLink s f.val = true →
    exec (.registerWrite f .config off width value) s = .next { s with out := s.out ++ [.requestRetry f.val] } ∧
    exec (.lowHalfRead f .config off width) s = .next { s with out := s.out ++ [.requestRetry f.val] }

/-- A leaf's 64-bit entry reads back as the leaf, in every state of R272 and at every value its fields hold (R271, R272). -/
def Obligations.LeafEntriesReadBack : Prop :=
  readLeaf (leafEntry .unmapped) = some .unmapped ∧
  (∀ home, home < 4 → readLeaf (leafEntry (.absentReserved 0 home)) = some (.absentReserved 0 home)) ∧
  readLeaf (leafEntry (.absentReserved 1 4)) = some (.absentReserved 1 4) ∧
  (∀ (tier page : Nat) (w : Bool), tier < 2 → page < 2 ^ 32 →
    readLeaf (leafEntry (.mapped tier (65536 * page) w)) = some (.mapped tier (65536 * page) w)) ∧
  (∀ home page, home < 4 → page < 2 ^ 32 →
    readLeaf (leafEntry (.pooled home (65536 * page))) = some (.pooled home (65536 * page))) ∧
  (∀ (pasid page : Nat) (w : Bool), pasid < 2 ^ 20 → page < 2 ^ 36 →
    readLeaf (leafEntry (.host pasid (65536 * page) w)) = some (.host pasid (65536 * page) w))

/-- A flit that a sender makes is received clean, with the side-band fields it was sent with, at every value they hold; one whose
CRC field differs is not clean (R328, R329). -/
def Obligations.FlitsReadBack : Prop :=
  ∀ (group kind seq ack vc n : Nat) (data : List Byte), kind < 8 → seq < 256 → ack < 256 → vc < 4 → n < 64 →
    let x : Flit := { group := group, data := data, side := BitVec.ofNat 64 (flitSide kind seq ack vc n data) }
    flitClean x = true ∧ flitKind x = kind ∧ flitSeq x = seq ∧ flitAck x = ack ∧ flitCrVc x = vc ∧ flitCrCount x = n ∧
      ∀ e : BitVec 16, e ≠ 0 → flitClean { x with side := x.side ^^^ e.setWidth 64 } = false
end

