-- ==== Sys2Proof/Laws/Answer.lean ====
section
/-! SUPPORT. What each shared way of answering a command can answer: exactly when a next state, and which. -/

namespace Sys2Proof.Machine

open Sys2Proof

theorem done_clocked {s : State} (h : Clocked s) (t : State) : done s t = .next t := by
  simp [done, show s.pins.thermtrip = false from h]

theorem done_next_iff (s t u : State) : done s t = .next u ↔ u = if s.pins.thermtrip then s else t := by
  unfold done
  exact ⟨fun h => by injection h with h; exact h.symm, fun h => by rw [h]⟩

theorem occurs_clocked {s : State} (h : Clocked s) {can : Bool} (c : can = true) (what : String) (t : State) :
    occurs s can what t = .next t := by
  simp [occurs, c, show s.pins.thermtrip = false from h]

theorem occurs_next_iff (s t u : State) (can : Bool) (what : String) :
    occurs s can what t = .next u ↔ can = true ∧ Clocked s ∧ u = t := by
  unfold occurs Clocked
  cases can <;> cases s.pins.thermtrip <;> simp [eq_comm]

theorem occursAlways_next_iff (t u : State) (can : Bool) (what : String) :
    occursAlways can what t = .next u ↔ can = true ∧ u = t := by
  unfold occursAlways
  cases can <;> simp [eq_comm]

theorem occursAlways_next {can : Bool} (c : can = true) (what : String) (t : State) : occursAlways can what t = .next t :=
  (occursAlways_next_iff t t can what).2 ⟨c, rfl⟩

theorem managed_next_iff (s t u : State) : managed s t = .next u ↔ mgmtUp s = true ∧ u = t :=
  occursAlways_next_iff t u _ _

theorem asked_next_iff (s : State) (conn : Nat) (t u : State) : asked s conn t = .next u ↔ connUp s conn = true ∧ u = t :=
  occursAlways_next_iff t u _ _

theorem tap_next_iff (s : State) (opcode : Nat) (t u : State) :
    tap s opcode t = .next u ↔ s.pins.pwrGood = true ∧ u = tapped s opcode t :=
  occursAlways_next_iff _ u _ _

theorem runCmd_next_iff (s : State) (f slot op : Nat) (body : State → List Byte → Ran) (u : State) :
    runCmd s f slot op body = .next u ↔ mayStart s f slot op = true ∧ Clocked s ∧ u = startCmd s f slot body :=
  occurs_next_iff s _ u _ _

theorem starts_iff (s : State) (f slot op : Nat) :
    starts s f slot op = true ↔ mayStart s f slot op = true ∧ sharedChecks s f (slotBytes s f slot) = none := by
  simp [starts]

theorem checked_passed {s : State} {f slot : Nat} (h : sharedChecks s f (slotBytes s f slot) = none)
    (body : State → List Byte → Ran) : checked s f slot body = body s (slotBytes s f slot) := by
  simp [checked, h]

theorem runBegin_starts {s : State} {f slot op : Nat} (h : Clocked s) (a : starts s f slot op = true)
    (pre : State → List Byte → State) : runBegin s f slot op pre = .next (begun s f slot pre) := by
  obtain ⟨m, c⟩ := (starts_iff s f slot op).1 a
  rw [runBegin, occurs_clocked h m]
  simp only [beginCmd, c, begun]

theorem runCmd_starts {s : State} {f slot op : Nat} (h : Clocked s) (a : starts s f slot op = true)
    (body : State → List Byte → Ran) : runCmd s f slot op body = .next (afterAccepted s f slot body) := by
  obtain ⟨m, c⟩ := (starts_iff s f slot op).1 a
  rw [runCmd, occurs_clocked h m]
  simp only [startCmd, checked_passed c, afterAccepted, answerOf]

theorem runReserve_starts {s t : State} {f slot op : Nat} {body : State → List Byte → Ran} {o : CmdOutcome} (h : Clocked s)
    (a : starts s f slot op = true) (r : body s (slotBytes s f slot) = (t, some o)) (ok : o.status = 0) :
    runReserve s f slot op body = .next (updCmd { t with uncommitted := t.uncommitted ++
      ((allHandles t).filter (fun h => !(allHandles s).contains h)).map (fun h => (h, f, slot)) } f slot (fun c =>
        { c with started := true, startedAt := s.now, outcome := none, ready := some o })) := by
  obtain ⟨m, c⟩ := (starts_iff s f slot op).1 a
  rw [runReserve, occurs_clocked h m]
  simp only [reserveCmd, checked_passed c, r, ok, ne_eq, not_true_eq_false, decide_false, decide_true, Option.filter_some,
    Bool.false_eq_true, if_false, if_true]

/-- A command at its commit point with its effect still to come: what `committing` says of it. -/
theorem committing_iff (s : State) (f slot op : Nat) :
    committing s f slot op = true ↔ mayCommit s f slot = true ∧ slotOp (slotBytes s f slot) = op ∧
      sharedChecks s f (slotBytes s f slot) = none ∧
      ∃ c, cmdOf s f slot = some c ∧ c.opcode = op ∧ c.outcome = none ∧ c.ready = none := by
  simp only [committing, Bool.and_eq_true, decide_eq_true_eq, Option.isNone_iff_eq_none, and_assoc, Option.any_eq_true]

theorem commandCommit_next {s : State} (h : Clocked s) {f : Fin 16} {slot : Fin 32} (m : mayCommit s f slot = true) :
    exec (.commandCommit f slot) s = .next (commitCmd s f slot) := occurs_clocked h m _ _

/-- The commit of a command whose effect is its body: the body's effect and answer, whatever the answer. -/
theorem commitCmd_committing {s t : State} {f slot op : Nat} {o : CmdOutcome} (c : committing s f slot op = true)
    (march : op ≠ 0x0B03) (config : op ≠ 0x0903) (r : commitBody s f slot (slotBytes s f slot) = (t, some o)) :
    commitCmd s f slot = afterCommit (completeSlot t f slot o) f := by
  obtain ⟨-, -, ck, cmd, hc, ho, out, ready⟩ := (committing_iff s f slot op).1 c
  simp only [cmdOf] at hc
  simp only [commitCmd, hc, out, ready, ho, march, if_false, Option.orElse_none, commitRun, checked_passed ck, r, config]

/-- The commit of a command whose answer stands in the journal. -/
theorem commitCmd_answered {s : State} {f slot : Nat} {c : Cmd} {o : CmdOutcome} (h : cmdOf s f slot = some c)
    (a : c.outcome = some o) : commitCmd s f slot = completeSlot s f slot o := by
  simp only [cmdOf] at h
  simp only [commitCmd, h, a, Option.orElse_some]

theorem runControl_front {s : State} {f r typ idx : Nat} {d : ReqDesc} {act : State → ReqDesc → Nat → State} (h : Clocked s)
    (q : frontReq s f (frontRing s f r) = some (idx, d)) (t : d.typ = typ) :
    runControl s f r typ act = .next (control s f (frontRing s f r) idx d (fun u i => act u d i)) := by
  simp only [runControl, q]
  exact occurs_clocked h (by simpa using t) _ _

theorem runStream_front {s : State} {f r typ idx : Nat} {d : StrDesc} {act : Nat → Nat → StrDesc → State} (h : Clocked s)
    (q : frontStr s f (frontRing s f r) = some (idx, d)) (t : d.typ = typ) :
    runStream s f r typ act = .next (act (frontRing s f r) idx d) := by
  simp only [runStream, q]
  exact occurs_clocked h (by simpa using t) _ _

end Sys2Proof.Machine
end

