-- ==== Sys2Proof/Laws/Memory.lean ====
section
/-! SUPPORT. Memory: its canonical form as a statement about addresses and bytes, that every operation on memory keeps it, and
what a byte reads after a write. -/

namespace Sys2Proof.Machine

open Sys2Proof

/-- The canonical form: addresses strictly rising, no listed byte zero. -/
theorem Memory.wf_iff (m : List Host.Cell) :
    Memory.wf m = true ↔ m.Pairwise (fun x y => x.1 < y.1) ∧ ∀ c ∈ m, c.2 ≠ 0 := by
  induction m with
  | nil => simp [Memory.wf]
  | cons x rest ih =>
    obtain ⟨a, b⟩ := x
    cases rest with
    | nil => simp [Memory.wf]
    | cons y rest =>
      obtain ⟨a', b'⟩ := y
      simp only [Memory.wf, Bool.and_eq_true, bne_iff_ne, ne_eq, decide_eq_true_eq, ih, List.pairwise_cons,
        List.mem_cons, forall_eq_or_imp]
      constructor
      · rintro ⟨⟨hb, hlt⟩, ⟨h1, h2⟩, h3, h4⟩
        exact ⟨⟨⟨hlt, fun c hc => lt_trans hlt (h1 c hc)⟩, h1, h2⟩, hb, h3, h4⟩
      · rintro ⟨⟨⟨hlt, _⟩, h1, h2⟩, hb, h3, h4⟩
        exact ⟨⟨hb, hlt⟩, ⟨h1, h2⟩, h3, h4⟩

/-- What a write lists: the old entries of other addresses, and the new one unless it is zero. -/
theorem mem_cellWrite {m : List Host.Cell} {addr : Nat} {v : Byte} {c : Host.Cell} (h : c ∈ cellWrite m addr v) :
    c ∈ m ∨ (c = (addr, v) ∧ v ≠ 0) := by
  induction m with
  | nil =>
    simp only [cellWrite] at h
    split at h <;> simp_all
  | cons x rest ih =>
    obtain ⟨a, b⟩ := x
    simp only [cellWrite] at h
    split at h
    · split at h <;> simp_all
      tauto
    · split at h
      · split at h <;> simp_all
        tauto
      · simp only [List.mem_cons] at h ⊢
        rcases h with h | h
        · exact .inl (.inl h)
        · exact (ih h).imp .inr id

/-- A write of one byte keeps the canonical form. -/
theorem Memory.wf_cellWrite {m : List Host.Cell} (addr : Nat) (v : Byte) (h : Memory.wf m = true) :
    Memory.wf (cellWrite m addr v) = true := by
  rw [Memory.wf_iff] at h ⊢
  refine ⟨?_, fun c hc => ?_⟩
  · have hp := h.1
    clear h
    induction m with
    | nil => simp only [cellWrite]; split <;> simp
    | cons x rest ih =>
      obtain ⟨a, b⟩ := x
      rw [List.pairwise_cons] at hp
      simp only [cellWrite]
      split
      · rename_i hlt
        split
        · exact List.pairwise_cons.2 hp
        · refine List.pairwise_cons.2 ⟨?_, List.pairwise_cons.2 hp⟩
          intro c hc
          rcases List.mem_cons.1 hc with rfl | hc
          · exact hlt
          · exact lt_trans hlt (hp.1 c hc)
      · split
        · rename_i heq
          split
          · exact hp.2
          · exact List.pairwise_cons.2 ⟨fun c hc => heq ▸ hp.1 c hc, hp.2⟩
        · refine List.pairwise_cons.2 ⟨fun c hc => ?_, ih hp.2⟩
          rcases mem_cellWrite hc with hc | ⟨rfl, _⟩
          · exact hp.1 c hc
          · show a < addr
            omega
  · rcases mem_cellWrite hc with hc | ⟨rfl, hv⟩
    · exact h.2 c hc
    · exact hv

/-- A write of bytes keeps the canonical form. -/
theorem Memory.wf_cellsWrite {m : List Host.Cell} (addr : Nat) (l : List Byte) (h : Memory.wf m = true) :
    Memory.wf (cellsWrite m addr l) = true := by
  induction l generalizing m addr with
  | nil => exact h
  | cons b rest ih => exact ih (addr + 1) (Memory.wf_cellWrite addr b h)

/-- A memory with entries removed is canonical. -/
theorem Memory.wf_filter {m : List Host.Cell} (p : Host.Cell → Bool) (h : Memory.wf m = true) :
    Memory.wf (m.filter p) = true := by
  rw [Memory.wf_iff] at h ⊢
  exact ⟨h.1.filter _, fun c hc => h.2 c (List.mem_filter.1 hc).1⟩

/-- Zeroing a range keeps the canonical form. -/
theorem Memory.wf_cellsZero {m : List Host.Cell} (addr len : Nat) (h : Memory.wf m = true) :
    Memory.wf (cellsZero m addr len) = true := Memory.wf_filter _ h

/-- Writes of the bytes of other entries keep the canonical form. -/
theorem Memory.wf_foldl {α : Type} (l : List α) (addr : α → Nat) (v : α → Byte) {m : List Host.Cell} (h : Memory.wf m = true) :
    Memory.wf (l.foldl (fun m c => cellWrite m (addr c) (v c)) m) = true := by
  induction l generalizing m with
  | nil => exact h
  | cons x rest ih => exact ih (Memory.wf_cellWrite _ _ h)

/-- An address below every listed one reads zero. -/
theorem cellRead_below {m : List Host.Cell} {addr : Nat} (h : ∀ c ∈ m, addr < c.1) : cellRead m addr = 0 := by
  induction m with
  | nil => rfl
  | cons x rest ih =>
    obtain ⟨a, b⟩ := x
    have ha : addr < a := h (a, b) (List.mem_cons_self ..)
    simp only [cellRead]
    rw [if_neg (by omega)]
    exact ih (fun c hc => h c (List.mem_cons_of_mem _ hc))

/-- A written byte reads back. -/
theorem cellRead_cellWrite_same {m : List Host.Cell} (addr : Nat) (v : Byte) (h : Memory.wf m = true) :
    cellRead (cellWrite m addr v) addr = v := by
  rw [Memory.wf_iff] at h
  have hp := h.1
  clear h
  induction m with
  | nil =>
    simp only [cellWrite]
    split <;> simp_all [cellRead]
  | cons x rest ih =>
    obtain ⟨a, b⟩ := x
    rw [List.pairwise_cons] at hp
    simp only [cellWrite]
    split
    · rename_i hlt
      split
      · rename_i hv
        rw [hv]
        refine cellRead_below (fun c hc => ?_)
        rcases List.mem_cons.1 hc with rfl | hc
        · exact hlt
        · exact lt_trans hlt (hp.1 c hc)
      · simp [cellRead]
    · split
      · rename_i heq
        split
        · rename_i hv
          rw [hv]
          exact cellRead_below (fun c hc => heq ▸ hp.1 c hc)
        · simp [cellRead]
      · rename_i h1 h2
        simp only [cellRead]
        rw [if_neg (fun h => h2 h.symm)]
        exact ih hp.2

/-- Every other byte reads as before. -/
theorem cellRead_cellWrite_other {m : List Host.Cell} (addr : Nat) (v : Byte) {a : Nat} (ha : a ≠ addr) (h : Memory.wf m = true) :
    cellRead (cellWrite m addr v) a = cellRead m a := by
  rw [Memory.wf_iff] at h
  have hp := h.1
  clear h
  induction m with
  | nil =>
    simp only [cellWrite]
    split
    · rfl
    · simp only [cellRead]
      rw [if_neg (fun h => ha h.symm)]
  | cons x rest ih =>
    obtain ⟨a', b'⟩ := x
    rw [List.pairwise_cons] at hp
    simp only [cellWrite]
    split
    · split
      · rfl
      · simp only [cellRead]
        rw [if_neg (fun h => ha h.symm)]
    · split
      · rename_i heq
        subst heq
        split
        · simp only [cellRead]
          rw [if_neg (fun h => ha h.symm)]
        · simp only [cellRead]
          rw [if_neg (fun h => ha h.symm), if_neg (fun h => ha h.symm)]
      · simp only [cellRead]
        split
        · rfl
        · exact ih hp.2

/-- Bytes outside a written range read as before. -/
theorem cellRead_cellsWrite_other {m : List Host.Cell} (addr : Nat) (l : List Byte) {a : Nat} (ha : a < addr ∨ addr + l.length ≤ a)
    (h : Memory.wf m = true) : cellRead (cellsWrite m addr l) a = cellRead m a := by
  induction l generalizing m addr with
  | nil => rfl
  | cons b rest ih =>
    simp only [cellsWrite, List.length_cons] at ha ⊢
    rw [ih (addr + 1) (by omega) (Memory.wf_cellWrite addr b h), cellRead_cellWrite_other addr b (by omega) h]

/-- Written bytes read back. -/
theorem cellsRead_cellsWrite {m : List Host.Cell} (addr : Nat) (l : List Byte) (h : Memory.wf m = true) :
    cellsRead (cellsWrite m addr l) addr l.length = l := by
  induction l generalizing m addr with
  | nil => rfl
  | cons b rest ih =>
    simp only [cellsWrite, List.length_cons, cellsRead]
    rw [ih (addr + 1) (Memory.wf_cellWrite addr b h),
      cellRead_cellsWrite_other (addr + 1) rest (by omega) (Memory.wf_cellWrite addr b h), cellRead_cellWrite_same addr b h]

/-- Bytes outside a zeroed range read as before, and those inside it read zero. -/
theorem cellRead_cellsZero (m : List Host.Cell) (addr len a : Nat) :
    cellRead (cellsZero m addr len) a = if a < addr ∨ addr + len ≤ a then cellRead m a else 0 := by
  induction m with
  | nil => simp [cellsZero, cellRead]
  | cons x rest ih =>
    obtain ⟨k, v⟩ := x
    simp only [cellsZero] at ih ⊢
    rw [List.filter_cons]
    by_cases hk : k < addr ∨ addr + len ≤ k
    · rw [if_pos (by simpa using hk)]
      simp only [cellRead]
      split
      · rename_i h; subst h; rw [if_pos hk]
      · exact ih
    · rw [if_neg (by simpa using hk), ih]
      split
      · rename_i ha
        simp only [cellRead]
        rw [if_neg (fun h => hk (by omega))]
      · rfl

end Sys2Proof.Machine
end

