-- ==== Sys2Proof/Laws/Keeps.lean ====
section
/-! SUPPORT. What every operation leaves as it is: the queue of waiting commands, the Harbour die's fuses once
they are programmed, and the canonical form of memory. `Keeps a s` says that `s` comes from `a` by operations that do so. -/

set_option linter.all false

namespace Sys2Proof.Machine

open Sys2Proof

/-- The queue is that of `a`, the Harbour die's fuses are those of `a` once PKG_FUSED is programmed, and memory is canonical if
it was in `a`. -/
structure Keeps (a s : State) : Prop where
  pending : s.pending = a.pending
  hbFuses : a.hbFuses.fused = true → s.hbFuses = a.hbFuses
  mem : Memory.wf a.mem = true → Memory.wf s.mem = true

theorem keeps_refl (a : State) : Keeps a a := ⟨rfl, fun _ => rfl, id⟩

theorem Keeps.trans {a b c : State} (h : Keeps a b) (k : Keeps b c) : Keeps a c :=
  ⟨k.pending.trans h.pending,
    fun x => (k.hbFuses (by rw [h.hbFuses x]; exact x)).trans (h.hbFuses x), fun x => k.mem (h.mem x)⟩

/-- A record update of other fields. -/
theorem keeps_mk {a e : State} {pins boot dies thermal training fns sriov vfMse ari numVfs pcie atc pfHeld cp regions models vocabs bins grammars serials uncommitted ledger ledgerX steps nextStep lanesIn lanesOut turnIn turnOut poison pages shooting tlbs stale faults scrubs banks bankRefused links txns energy conf errlog errNext books mgmt now freeCtr out} (h : Keeps a e) :
    Keeps a (State.mk pins boot e.hbFuses dies thermal training fns sriov vfMse ari numVfs pcie atc pfHeld cp regions models vocabs bins grammars serials uncommitted ledger ledgerX steps nextStep lanesIn lanesOut turnIn turnOut e.mem poison pages shooting tlbs stale faults scrubs banks bankRefused links txns energy conf errlog errNext books mgmt now freeCtr out e.pending) := ⟨h.pending, h.hbFuses, h.mem⟩

/-- The same as a rewriting rule, which sees only a state written out as a record. -/
theorem keeps_mk_iff {a e : State} {pins boot dies thermal training fns sriov vfMse ari numVfs pcie atc pfHeld cp regions models vocabs bins grammars serials uncommitted ledger ledgerX steps nextStep lanesIn lanesOut turnIn turnOut poison pages shooting tlbs stale faults scrubs banks bankRefused links txns energy conf errlog errNext books mgmt now freeCtr out} :
    Keeps a (State.mk pins boot e.hbFuses dies thermal training fns sriov vfMse ari numVfs pcie atc pfHeld cp regions models vocabs bins grammars serials uncommitted ledger ledgerX steps nextStep lanesIn lanesOut turnIn turnOut e.mem poison pages shooting tlbs stale faults scrubs banks bankRefused links txns energy conf errlog errNext books mgmt now freeCtr out e.pending) ↔ Keeps a e := ⟨fun h => ⟨h.pending, h.hbFuses, h.mem⟩, fun h => ⟨h.pending, h.hbFuses, h.mem⟩⟩

/-- A record update that writes memory. -/
theorem keeps_mem {a e : State} {pins boot dies thermal training fns sriov vfMse ari numVfs pcie atc pfHeld cp regions models vocabs bins grammars serials uncommitted ledger ledgerX steps nextStep lanesIn lanesOut turnIn turnOut poison pages shooting tlbs stale faults scrubs banks bankRefused links txns energy conf errlog errNext books mgmt now freeCtr out} {m : List Host.Cell} (h : Keeps a e)
    (hm : Memory.wf e.mem = true → Memory.wf m = true) :
    Keeps a (State.mk pins boot e.hbFuses dies thermal training fns sriov vfMse ari numVfs pcie atc pfHeld cp regions models vocabs bins grammars serials uncommitted ledger ledgerX steps nextStep lanesIn lanesOut turnIn turnOut m poison pages shooting tlbs stale faults scrubs banks bankRefused links txns energy conf errlog errNext books mgmt now freeCtr out e.pending) := ⟨h.pending, h.hbFuses, fun x => hm (h.mem x)⟩

theorem keeps_ite {a x y : State} {c : Prop} [Decidable c] (hx : c → Keeps a x) (hy : ¬c → Keeps a y) :
    Keeps a (if c then x else y) := by
  split
  · exact hx ‹_›
  · exact hy ‹_›

theorem keeps_ite_fst {α : Type} {a : State} {x y : State × α} {c : Prop} [Decidable c] (hx : c → Keeps a x.1) (hy : ¬c → Keeps a y.1) :
    Keeps a (if c then x else y).1 := by
  split
  · exact hx ‹_›
  · exact hy ‹_›

theorem keeps_foldl {a s : State} {α : Type} {l : List α} {g : State → α → State} (hg : ∀ t x, Keeps a t → Keeps a (g t x))
    (h : Keeps a s) : Keeps a (l.foldl g s) := by
  induction l generalizing s with
  | nil => exact h
  | cons x rest ih => exact ih (hg s x h)

theorem keeps_foldl_fst {a : State} {α β : Type} {p : State × β} {l : List α} {g : State × β → α → State × β}
    (hg : ∀ t x, Keeps a t.1 → Keeps a (g t x).1) (h : Keeps a p.1) : Keeps a (l.foldl g p).1 := by
  induction l generalizing p with
  | nil => exact h
  | cons x rest ih => exact ih (hg p x h)

theorem Memory.wf_nil : Memory.wf [] = true := rfl

theorem keeps_getD {a d : State} {o : Option State} (h : ∀ t, o = some t → Keeps a t) (hd : Keeps a d) : Keeps a (o.getD d) := by
  cases o with
  | none => exact hd
  | some t => exact h t rfl

end Sys2Proof.Machine
end

