-- ==== Sys2Proof/Laws/KeepsOps.lean ====
section
/-! SUPPORT. The operations of Machine/Ops.lean leave the queue, the fuses and the memory's form as they are. -/

set_option linter.all false

namespace Sys2Proof.Machine

open Sys2Proof

theorem keeps_updFn {a₀ : State} (s : State) (f : Nat) (g : Fn → Fn) (hs : Keeps a₀ s) :
    Keeps a₀ (updFn s f g) := by
  unfold updFn
  repeat' first
    | with_reducible assumption
    | extract_lets
    | simp (zeta := false) only [keeps_mk_iff]

theorem keeps_updDie {a₀ : State} (s : State) (d : Nat) (g : Die → Die) (hs : Keeps a₀ s) :
    Keeps a₀ (updDie s d g) := by
  unfold updDie
  repeat' first
    | with_reducible assumption
    | extract_lets
    | simp (zeta := false) only [keeps_mk_iff]

theorem keeps_updLink {a₀ : State} (s : State) (l : Nat) (g : Link → Link) (hs : Keeps a₀ s) :
    Keeps a₀ (updLink s l g) := by
  unfold updLink
  repeat' first
    | with_reducible assumption
    | extract_lets
    | simp (zeta := false) only [keeps_mk_iff]

theorem keeps_updTherm {a₀ : State} (s : State) (d : Nat) (g : Thermal → Thermal) (hs : Keeps a₀ s) :
    Keeps a₀ (updTherm s d g) := by
  unfold updTherm
  repeat' first
    | with_reducible assumption
    | extract_lets
    | simp (zeta := false) only [keeps_mk_iff]

theorem keeps_updDom {a₀ : State} (s : State) (d : Nat) (g : Domain → Domain) (hs : Keeps a₀ s) :
    Keeps a₀ (updDom s d g) := by
  unfold updDom
  repeat' first
    | with_reducible assumption
    | extract_lets
    | simp (zeta := false) only [keeps_mk_iff]

theorem keeps_updEnt {a₀ : State} (s : State) (i : Nat) (g : Entry → Entry) (hs : Keeps a₀ s) :
    Keeps a₀ (updEnt s i g) := by
  unfold updEnt
  repeat' first
    | with_reducible assumption
    | extract_lets
    | simp (zeta := false) only [keeps_mk_iff]

theorem keeps_updEntX {a₀ : State} (s : State) (i : Nat) (g : EntryX → EntryX) (hs : Keeps a₀ s) :
    Keeps a₀ (updEntX s i g) := by
  unfold updEntX
  repeat' first
    | with_reducible assumption
    | extract_lets
    | simp (zeta := false) only [keeps_mk_iff]

theorem keeps_updRing {a₀ : State} (s : State) (f r : Nat) (g : Ring → Ring) (hs : Keeps a₀ s) :
    Keeps a₀ (updRing s f r g) := by
  unfold updRing
  repeat' first
    | with_reducible assumption
    | extract_lets
    | with_reducible apply keeps_updFn
    | simp (zeta := false) only [keeps_mk_iff]
    | intro _

theorem keeps_updStream {a₀ : State} (s : State) (f i : Nat) (g : Stream → Stream) (hs : Keeps a₀ s) :
    Keeps a₀ (updStream s f i g) := by
  unfold updStream
  repeat' first
    | with_reducible assumption
    | extract_lets
    | with_reducible apply keeps_updFn
    | with_reducible apply keeps_ite
    | simp (zeta := false) only [keeps_mk_iff]
    | intro _
    | split

theorem keeps_updPci {a₀ : State} (s : State) (f : Nat) (g : Pci → Pci) (hs : Keeps a₀ s) :
    Keeps a₀ (updPci s f g) := by
  unfold updPci
  repeat' first
    | with_reducible assumption
    | extract_lets
    | with_reducible apply keeps_updFn
    | simp (zeta := false) only [keeps_mk_iff]
    | intro _

theorem keeps_updScrub {a₀ : State} (s : State) (c : Nat) (g : Scrub → Scrub) (hs : Keeps a₀ s) :
    Keeps a₀ (updScrub s c g) := by
  unfold updScrub
  repeat' first
    | with_reducible assumption
    | extract_lets
    | simp (zeta := false) only [keeps_mk_iff]

theorem keeps_updBank {a₀ : State} (s : State) (d b : Nat) (g : Bank → Bank) (hs : Keeps a₀ s) :
    Keeps a₀ (updBank s d b g) := by
  unfold updBank
  repeat' first
    | with_reducible assumption
    | extract_lets
    | simp (zeta := false) only [keeps_mk_iff]

theorem keeps_updPage {a₀ : State} (s : State) (p : Nat) (g : Page → Page) (hs : Keeps a₀ s) :
    Keeps a₀ (updPage s p g) := by
  unfold updPage
  repeat' first
    | with_reducible assumption
    | extract_lets
    | simp (zeta := false) only [keeps_mk_iff]

theorem keeps_putMem {a₀ : State} (s : State) (m : List Host.Cell) (hs : Keeps a₀ s)
    (hm : Memory.wf s.mem = true → Memory.wf m = true) : Keeps a₀ (putMem s m) :=
  ⟨hs.pending, hs.hbFuses, fun x => hm (hs.mem x)⟩

theorem keeps_emit {a₀ : State} (s : State) (o : Output) (hs : Keeps a₀ s) :
    Keeps a₀ (emit s o) := by
  unfold emit
  repeat' first
    | with_reducible assumption
    | extract_lets
    | simp (zeta := false) only [keeps_mk_iff]

theorem keeps_drawn {a₀ : State} (s : State) (hs : Keeps a₀ s) :
    Keeps a₀ (drawn s) := by
  unfold drawn
  repeat' first
    | with_reducible assumption
    | extract_lets
    | simp (zeta := false) only [keeps_mk_iff]

theorem keeps_cnt {a₀ : State} (s : State) (f off n : Nat) (hs : Keeps a₀ s) :
    Keeps a₀ (cnt s f off n) := by
  unfold cnt
  repeat' first
    | with_reducible assumption
    | extract_lets
    | with_reducible apply keeps_updFn
    | simp (zeta := false) only [keeps_mk_iff]
    | intro _

theorem keeps_bootLog {a₀ : State} (s : State) (kind arg : Nat) (hs : Keeps a₀ s) :
    Keeps a₀ (bootLog s kind arg) := by
  unfold bootLog
  repeat' first
    | with_reducible assumption
    | extract_lets
    | with_reducible apply keeps_emit
    | with_reducible apply keeps_ite
    | simp (zeta := false) only [keeps_mk_iff]
    | intro _
    | split

theorem keeps_setStage {a₀ : State} (s : State) (n : Nat) (hs : Keeps a₀ s) :
    Keeps a₀ (setStage s n) := by
  unfold setStage
  repeat' first
    | with_reducible assumption
    | extract_lets
    | with_reducible apply keeps_bootLog
    | with_reducible apply keeps_stage
    | simp (zeta := false) only [keeps_mk_iff]

theorem keeps_logErr {a₀ : State} (s : State) (e : LogEntry) (hs : Keeps a₀ s) :
    Keeps a₀ (logErr s e) := by
  unfold logErr
  repeat' first
    | with_reducible assumption
    | extract_lets
    | with_reducible apply keeps_ite
    | simp (zeta := false) only [keeps_mk_iff]
    | intro _
    | split

theorem keeps_logCorrected {a₀ : State} (s : State) (e : LogEntry) (hs : Keeps a₀ s) :
    Keeps a₀ (logCorrected s e) := by
  unfold logCorrected
  repeat' first
    | with_reducible assumption
    | extract_lets
    | with_reducible apply keeps_logErr
    | with_reducible apply keeps_ite
    | simp (zeta := false) only [keeps_mk_iff]
    | intro _
    | split

theorem keeps_aer {a₀ : State} (s : State) (f : Nat) (e : AerErr) (hs : Keeps a₀ s) :
    Keeps a₀ (aer s f e) := by
  unfold aer
  repeat' first
    | with_reducible assumption
    | extract_lets
    | with_reducible apply keeps_drawn
    | with_reducible apply keeps_emit
    | with_reducible apply keeps_updPci
    | with_reducible apply keeps_ite
    | simp (zeta := false) only [keeps_mk_iff]
    | intro _
    | split

theorem keeps_refuseAccess {a₀ : State} (s : State) (f : Nat) (hs : Keeps a₀ s) :
    Keeps a₀ (refuseAccess s f) := by
  unfold refuseAccess
  repeat' first
    | with_reducible assumption
    | with_reducible apply keeps_aer
    | with_reducible apply keeps_ite
    | intro _
    | split

theorem keeps_setPoison {a₀ : State} (s : State) (addr : Nat) (hs : Keeps a₀ s) :
    Keeps a₀ (setPoison s addr) := by
  unfold setPoison
  repeat' first
    | with_reducible assumption
    | extract_lets
    | simp (zeta := false) only [keeps_mk_iff]

theorem keeps_clearPoison {a₀ : State} (s : State) (addr : Nat) (hs : Keeps a₀ s) :
    Keeps a₀ (clearPoison s addr) := by
  unfold clearPoison
  repeat' first
    | with_reducible assumption
    | extract_lets
    | simp (zeta := false) only [keeps_mk_iff]

theorem keeps_correctWord {a₀ : State} (s : State) (addr source : Nat) (hs : Keeps a₀ s) :
    Keeps a₀ (correctWord s addr source) := by
  unfold correctWord
  repeat' first
    | with_reducible assumption
    | extract_lets
    | with_reducible apply keeps_logCorrected
    | with_reducible apply keeps_updPage
    | with_reducible apply keeps_updScrub
    | with_reducible apply keeps_ite
    | simp (zeta := false) only [keeps_mk_iff]
    | intro _
    | split

theorem keeps_poisonWord {a₀ : State} (s : State) (addr : Nat) (hs : Keeps a₀ s) :
    Keeps a₀ (poisonWord s addr) := by
  unfold poisonWord
  repeat' first
    | with_reducible assumption
    | extract_lets
    | with_reducible apply keeps_setPoison
    | with_reducible apply keeps_updPage
    | with_reducible apply keeps_updScrub
    | with_reducible apply keeps_ite
    | simp (zeta := false) only [keeps_mk_iff]
    | intro _
    | split

theorem keeps_checkWord {a₀ : State} (s : State) (addr source : Nat) (ecc : EccSeen) (hs : Keeps a₀ s) :
    Keeps a₀ (checkWord s addr source ecc).1 := by
  unfold checkWord
  repeat' first
    | with_reducible assumption
    | extract_lets
    | with_reducible apply keeps_poisonWord
    | with_reducible apply keeps_correctWord
    | with_reducible apply keeps_logErr
    | with_reducible apply keeps_ite
    | with_reducible apply keeps_ite_fst
    | simp (zeta := false) only [keeps_mk_iff]
    | intro _
    | split

theorem keeps_overwrite {a₀ : State} (s : State) (addr : Nat) (hs : Keeps a₀ s) :
    Keeps a₀ (overwrite s addr) := by
  unfold overwrite
  repeat' first
    | with_reducible assumption
    | extract_lets
    | with_reducible apply keeps_clearPoison
    | with_reducible apply keeps_logErr
    | with_reducible apply keeps_ite
    | simp (zeta := false) only [keeps_mk_iff]
    | intro _
    | split

theorem keeps_storeWord {a₀ : State} (s : State) (addr : Nat) (data : List Byte) (ecc : EccSeen) (hs : Keeps a₀ s) :
    Keeps a₀ (storeWord s addr data ecc).1 := by
  unfold storeWord
  repeat' first
    | with_reducible assumption
    | extract_lets
    | with_reducible apply keeps_overwrite
    | with_reducible apply keeps_poisonWord
    | with_reducible apply keeps_correctWord
    | with_reducible apply keeps_logErr
    | with_reducible refine keeps_putMem _ _ ?_ (by first | exact Memory.wf_cellsWrite _ _ | exact Memory.wf_cellsZero _ _ | exact Memory.wf_foldl _ _ _ (Memory.wf_cellsZero _ _) | exact fun _ => Memory.wf_nil | exact fun h => Memory.wf_foldl _ _ _ (Memory.wf_cellsZero _ _ h) | exact fun h => Memory.wf_foldl _ _ _ h)
    | with_reducible apply keeps_ite
    | with_reducible apply keeps_ite_fst
    | simp (zeta := false) only [keeps_mk_iff]
    | intro _
    | split

theorem keeps_storeAt {a₀ : State} (s : State) (addr : Nat) (b : List Byte) (seen : Seen) (hs : Keeps a₀ s) :
    Keeps a₀ (storeAt s addr b seen).1 := by
  unfold storeAt
  repeat' first
    | with_reducible assumption
    | extract_lets
    | with_reducible apply keeps_storeWord
    | with_reducible apply keeps_ite
    | with_reducible apply keeps_ite_fst
    | simp (zeta := false) only [keeps_mk_iff]
    | with_reducible apply keeps_foldl
    | with_reducible apply keeps_foldl_fst
    | intro _
    | split

theorem keeps_readWords {a₀ : State} (s : State) (seen : Seen) (ws : List Nat) (hs : Keeps a₀ s) :
    Keeps a₀ (readWords s seen ws).1 := by
  unfold readWords
  repeat' first
    | with_reducible assumption
    | extract_lets
    | with_reducible apply keeps_checkWord
    | with_reducible apply keeps_ite
    | with_reducible apply keeps_ite_fst
    | simp (zeta := false) only [keeps_mk_iff]
    | with_reducible apply keeps_foldl
    | with_reducible apply keeps_foldl_fst
    | intro _
    | split

theorem keeps_writePiece {a₀ : State} (s : State) (f dva : Nat) (b : List Byte) (bulk ep : Bool) (seen : Seen) (hs : Keeps a₀ s) :
    Keeps a₀ (writePiece s f dva b bulk ep seen).1 := by
  unfold writePiece
  repeat' first
    | with_reducible assumption
    | extract_lets
    | with_reducible apply keeps_storeAt
    | with_reducible apply keeps_emit
    | with_reducible apply keeps_ite
    | with_reducible apply keeps_ite_fst
    | simp (zeta := false) only [keeps_mk_iff]
    | intro _
    | split

theorem keeps_writePieces {a₀ : State} (f : Nat) (bulk ep : Bool) (seen : Seen) (w0 : Nat) (w1 : State) (w2 : Nat) (w3 : List Byte) (hw1 : Keeps a₀ w1) :
    Keeps a₀ (writePieces f bulk ep seen w0 w1 w2 w3).1 := by
  induction w0 generalizing w1 w2 w3 with
  | zero => unfold writePieces; repeat' first | assumption | split
  | succ _ ih =>
   unfold writePieces
   repeat' first
    | with_reducible assumption
    | with_reducible apply ih
    | extract_lets
    | with_reducible apply keeps_writePiece
    | with_reducible apply keeps_ite
    | with_reducible apply keeps_ite_fst
    | simp (zeta := false) only [keeps_mk_iff]
    | intro _
    | split

theorem keeps_storeDva {a₀ : State} (s : State) (f dva : Nat) (b : List Byte) (bulk ep : Bool) (seen : Seen) (hs : Keeps a₀ s) :
    Keeps a₀ (storeDva s f dva b bulk ep seen).1 := by
  unfold storeDva
  repeat' first
    | with_reducible assumption
    | extract_lets
    | with_reducible apply keeps_writePieces
    | with_reducible apply keeps_ite
    | with_reducible apply keeps_ite_fst
    | simp (zeta := false) only [keeps_mk_iff]
    | intro _
    | split

theorem keeps_writeDva {a₀ : State} (s : State) (f dva : Nat) (b : List Byte) (bulk ep : Bool) (hs : Keeps a₀ s) :
    Keeps a₀ (writeDva s f dva b bulk ep) := by
  unfold writeDva
  repeat' first
    | with_reducible assumption
    | extract_lets
    | with_reducible apply keeps_storeDva
    | with_reducible apply keeps_ite
    | simp (zeta := false) only [keeps_mk_iff]
    | intro _
    | split

theorem keeps_updVec {a₀ : State} (s : State) (f v : Nat) (g : Vec → Vec) (hs : Keeps a₀ s) :
    Keeps a₀ (updVec s f v g) := by
  unfold updVec
  repeat' first
    | with_reducible assumption
    | extract_lets
    | with_reducible apply keeps_updPci
    | simp (zeta := false) only [keeps_mk_iff]
    | intro _

theorem keeps_fireVector {a₀ : State} (s : State) (f v : Nat) (hs : Keeps a₀ s) :
    Keeps a₀ (fireVector s f v) := by
  unfold fireVector
  repeat' first
    | with_reducible assumption
    | extract_lets
    | with_reducible apply keeps_updVec
    | with_reducible apply keeps_emit
    | with_reducible apply keeps_ite
    | simp (zeta := false) only [keeps_mk_iff]
    | intro _
    | split

theorem keeps_firePending {a₀ : State} (s : State) (f : Nat) (hs : Keeps a₀ s) :
    Keeps a₀ (firePending s f) := by
  unfold firePending
  repeat' first
    | with_reducible assumption
    | extract_lets
    | with_reducible apply keeps_fireVector
    | with_reducible apply keeps_updVec
    | with_reducible apply keeps_ite
    | simp (zeta := false) only [keeps_mk_iff]
    | with_reducible apply keeps_foldl
    | intro _
    | split

theorem keeps_putEntry {a₀ : State} (s : State) (f : Nat) (e : Event) (hs : Keeps a₀ s) :
    Keeps a₀ (putEntry s f e) := by
  unfold putEntry
  repeat' first
    | with_reducible assumption
    | extract_lets
    | with_reducible apply keeps_writeDva
    | with_reducible apply keeps_updFn
    | with_reducible apply keeps_ite
    | simp (zeta := false) only [keeps_mk_iff]
    | intro _
    | split

theorem keeps_putEvent {a₀ : State} (s : State) (f : Nat) (e : Event) (hs : Keeps a₀ s) :
    Keeps a₀ (putEvent s f e) := by
  unfold putEvent
  repeat' first
    | with_reducible assumption
    | extract_lets
    | with_reducible apply keeps_putEntry
    | with_reducible apply keeps_cnt
    | with_reducible apply keeps_updFn
    | with_reducible apply keeps_ite
    | simp (zeta := false) only [keeps_mk_iff]
    | intro _
    | split

theorem keeps_enqueue {a₀ : State} (s : State) (f : Nat) (e : Event) (hs : Keeps a₀ s) :
    Keeps a₀ (enqueue s f e) := by
  unfold enqueue
  repeat' first
    | with_reducible assumption
    | extract_lets
    | with_reducible apply keeps_putEvent
    | with_reducible apply keeps_fireVector
    | with_reducible apply keeps_updFn
    | with_reducible apply keeps_ite
    | simp (zeta := false) only [keeps_mk_iff]
    | intro _
    | split

theorem keeps_post {a₀ : State} (s : State) (f : Nat) (e : Event) (hs : Keeps a₀ s) :
    Keeps a₀ (post s f e) := by
  unfold post
  repeat' first
    | with_reducible assumption
    | extract_lets
    | with_reducible apply keeps_enqueue
    | with_reducible apply keeps_cnt
    | with_reducible apply keeps_updFn
    | with_reducible apply keeps_ite
    | simp (zeta := false) only [keeps_mk_iff]
    | intro _
    | split

theorem keeps_postFw {a₀ : State} (s : State) (f : Nat) (e : Event) (hs : Keeps a₀ s) :
    Keeps a₀ (postFw s f e) := by
  unfold postFw
  repeat' first
    | with_reducible assumption
    | extract_lets
    | with_reducible apply keeps_post
    | with_reducible apply keeps_ite
    | simp (zeta := false) only [keeps_mk_iff]
    | intro _
    | split

theorem keeps_poisonFound {a₀ : State} (s : State) (addr source : Nat) (hs : Keeps a₀ s) :
    Keeps a₀ (poisonFound s addr source) := by
  unfold poisonFound
  repeat' first
    | with_reducible assumption
    | extract_lets
    | with_reducible apply keeps_postFw
    | simp (zeta := false) only [keeps_mk_iff]
    | split

theorem keeps_refusedFound {a₀ : State} (s : State) (w0 : List Nat) (hs : Keeps a₀ s) :
    Keeps a₀ (refusedFound s w0) := by
  unfold refusedFound
  repeat' first
    | with_reducible assumption
    | extract_lets
    | with_reducible apply keeps_poisonFound
    | with_reducible apply keeps_ite
    | simp (zeta := false) only [keeps_mk_iff]
    | intro _
    | split

theorem keeps_firmwareRefused {a₀ : State} (s : State) (ws : List Nat) (hs : Keeps a₀ s) :
    Keeps a₀ (firmwareRefused s ws) := by
  unfold firmwareRefused
  repeat' first
    | with_reducible assumption
    | extract_lets
    | with_reducible apply keeps_refusedFound
    | with_reducible apply keeps_logErr
    | with_reducible apply keeps_ite
    | simp (zeta := false) only [keeps_mk_iff]
    | intro _
    | split

theorem keeps_noteRecord {a₀ : State} (s : State) (f : Nat) (r : Rec) (hs : Keeps a₀ s) :
    Keeps a₀ (noteRecord s f r) := by
  unfold noteRecord
  repeat' first
    | with_reducible assumption
    | extract_lets
    | with_reducible apply keeps_cnt
    | with_reducible apply keeps_updRing
    | with_reducible apply keeps_updEntX
    | with_reducible apply keeps_ite
    | simp (zeta := false) only [keeps_mk_iff]
    | intro _
    | split

theorem keeps_noteDropped {a₀ : State} (s : State) (f : Nat) (r : Rec) (hs : Keeps a₀ s) :
    Keeps a₀ (noteDropped s f r) := by
  unfold noteDropped
  repeat' first
    | with_reducible assumption
    | with_reducible apply keeps_noteRecord
    | with_reducible apply keeps_ite
    | intro _
    | split

theorem keeps_putRecord {a₀ : State} (s : State) (f c : Nat) (r : Rec) (hs : Keeps a₀ s) :
    Keeps a₀ (putRecord s f c r) := by
  unfold putRecord
  repeat' first
    | with_reducible assumption
    | extract_lets
    | with_reducible apply keeps_noteRecord
    | with_reducible apply keeps_writeDva
    | with_reducible apply keeps_updRing
    | with_reducible apply keeps_ite
    | simp (zeta := false) only [keeps_mk_iff]
    | intro _
    | split

theorem keeps_noteUnsig {a₀ : State} (s : State) (f c : Nat) (hs : Keeps a₀ s) :
    Keeps a₀ (noteUnsig s f c) := by
  unfold noteUnsig
  repeat' first
    | with_reducible assumption
    | extract_lets
    | with_reducible apply keeps_updRing
    | with_reducible apply keeps_ite
    | simp (zeta := false) only [keeps_mk_iff]
    | intro _
    | split

theorem keeps_signal {a₀ : State} (s : State) (f c : Nat) (hs : Keeps a₀ s) :
    Keeps a₀ (signal s f c) := by
  unfold signal
  repeat' first
    | with_reducible assumption
    | extract_lets
    | with_reducible apply keeps_noteUnsig
    | with_reducible apply keeps_fireVector
    | with_reducible apply keeps_ite
    | simp (zeta := false) only [keeps_mk_iff]
    | intro _
    | split

theorem keeps_writeRecord {a₀ : State} (s : State) (f c : Nat) (r : Rec) (hs : Keeps a₀ s) :
    Keeps a₀ (writeRecord s f c r) := by
  unfold writeRecord
  repeat' first
    | with_reducible assumption
    | extract_lets
    | with_reducible apply keeps_signal
    | with_reducible apply keeps_putRecord
    | with_reducible apply keeps_ite
    | simp (zeta := false) only [keeps_mk_iff]
    | intro _
    | split

theorem keeps_showHeld {a₀ : State} (s : State) (f c : Nat) (hs : Keeps a₀ s) :
    Keeps a₀ (showHeld s f c) := by
  unfold showHeld
  repeat' first
    | with_reducible assumption
    | extract_lets
    | with_reducible apply keeps_updRing
    | with_reducible apply keeps_ite
    | simp (zeta := false) only [keeps_mk_iff]
    | intro _
    | split

theorem keeps_dropHeld {a₀ : State} (s : State) (f c : Nat) (hs : Keeps a₀ s) :
    Keeps a₀ (dropHeld s f c) := by
  unfold dropHeld
  repeat' first
    | with_reducible assumption
    | extract_lets
    | with_reducible apply keeps_noteDropped
    | with_reducible apply keeps_updRing
    | with_reducible apply keeps_updFn
    | with_reducible apply keeps_ite
    | simp (zeta := false) only [keeps_mk_iff]
    | with_reducible apply keeps_foldl
    | intro _
    | split

theorem keeps_stopRing {a₀ : State} (s : State) (f r cause : Nat) (hs : Keeps a₀ s) :
    Keeps a₀ (stopRing s f r cause) := by
  unfold stopRing
  repeat' first
    | with_reducible assumption
    | extract_lets
    | with_reducible apply keeps_dropHeld
    | with_reducible apply keeps_post
    | with_reducible apply keeps_updRing
    | simp (zeta := false) only [keeps_mk_iff]
    | intro _

theorem keeps_takeRecord {a₀ : State} (s : State) (f c : Nat) (r : Rec) (hs : Keeps a₀ s) :
    Keeps a₀ (takeRecord s f c r) := by
  unfold takeRecord
  repeat' first
    | with_reducible assumption
    | extract_lets
    | with_reducible apply keeps_stopRing
    | with_reducible apply keeps_showHeld
    | with_reducible apply keeps_writeRecord
    | with_reducible apply keeps_signal
    | with_reducible apply keeps_noteDropped
    | with_reducible apply keeps_updRing
    | with_reducible apply keeps_updFn
    | with_reducible apply keeps_ite
    | simp (zeta := false) only [keeps_mk_iff]
    | intro _
    | split

theorem keeps_record {a₀ : State} (s : State) (f c : Nat) (r : Rec) (hs : Keeps a₀ s) :
    Keeps a₀ (record s f c r) := by
  unfold record
  repeat' first
    | with_reducible assumption
    | extract_lets
    | with_reducible apply keeps_takeRecord
    | with_reducible apply keeps_noteDropped
    | with_reducible apply keeps_updRing
    | with_reducible apply keeps_ite
    | simp (zeta := false) only [keeps_mk_iff]
    | intro _
    | split

theorem keeps_flushHeld {a₀ : State} (s : State) (f c : Nat) (w0 : Nat) (hs : Keeps a₀ s) :
    Keeps a₀ (flushHeld s f c w0) := by
  induction w0 generalizing s with
  | zero => unfold flushHeld; repeat' first | assumption | split
  | succ _ ih =>
   unfold flushHeld
   repeat' first
    | with_reducible assumption
    | with_reducible apply ih
    | extract_lets
    | with_reducible apply keeps_stopRing
    | with_reducible apply keeps_showHeld
    | with_reducible apply keeps_writeRecord
    | with_reducible apply keeps_updRing
    | with_reducible apply keeps_ite
    | simp (zeta := false) only [keeps_mk_iff]
    | intro _
    | split

theorem keeps_drainDue {a₀ : State} (s : State) (f c : Nat) (w0 : Nat) (hs : Keeps a₀ s) :
    Keeps a₀ (drainDue s f c w0) := by
  induction w0 generalizing s with
  | zero => unfold drainDue; repeat' first | assumption | split
  | succ _ ih =>
   unfold drainDue
   repeat' first
    | with_reducible assumption
    | with_reducible apply ih
    | extract_lets
    | with_reducible apply keeps_takeRecord
    | with_reducible apply keeps_updRing
    | with_reducible apply keeps_ite
    | simp (zeta := false) only [keeps_mk_iff]
    | intro _
    | split

theorem keeps_flushRing {a₀ : State} (s : State) (f c : Nat) (hs : Keeps a₀ s) :
    Keeps a₀ (flushRing s f c) := by
  unfold flushRing
  repeat' first
    | with_reducible assumption
    | extract_lets
    | with_reducible apply keeps_drainDue
    | with_reducible apply keeps_flushHeld
    | with_reducible apply keeps_ite
    | simp (zeta := false) only [keeps_mk_iff]
    | intro _
    | split

theorem keeps_writeBack {a₀ : State} (s : State) (f r : Nat) (hs : Keeps a₀ s) :
    Keeps a₀ (writeBack s f r) := by
  unfold writeBack
  repeat' first
    | with_reducible assumption
    | extract_lets
    | with_reducible apply keeps_writeDva
    | with_reducible apply keeps_updRing
    | with_reducible apply keeps_ite
    | simp (zeta := false) only [keeps_mk_iff]
    | intro _
    | split

theorem keeps_pend {a₀ : State} (s : State) (f v : Nat) (hs : Keeps a₀ s) :
    Keeps a₀ (pend s f v) := by
  unfold pend
  repeat' first
    | with_reducible assumption
    | extract_lets
    | with_reducible apply keeps_updVec
    | with_reducible apply keeps_ite
    | simp (zeta := false) only [keeps_mk_iff]
    | intro _
    | split

theorem keeps_flushItem {a₀ : State} (s : State) (f : Nat) (w0 : Waiting) (hs : Keeps a₀ s) :
    Keeps a₀ (flushItem s f w0) := by
  unfold flushItem
  repeat' first
    | with_reducible assumption
    | extract_lets
    | with_reducible apply keeps_pend
    | with_reducible apply keeps_writeBack
    | with_reducible apply keeps_record
    | with_reducible apply keeps_stopRing
    | with_reducible apply keeps_showHeld
    | with_reducible apply keeps_noteUnsig
    | with_reducible apply keeps_putRecord
    | with_reducible apply keeps_noteDropped
    | with_reducible apply keeps_putEvent
    | with_reducible apply keeps_ite
    | simp (zeta := false) only [keeps_mk_iff]
    | intro _
    | split

theorem keeps_flushItems {a₀ : State} (s : State) (f : Nat) (w0 : Nat) (hs : Keeps a₀ s) :
    Keeps a₀ (flushItems s f w0) := by
  induction w0 generalizing s with
  | zero => unfold flushItems; repeat' first | assumption | split
  | succ _ ih =>
   unfold flushItems
   repeat' first
    | with_reducible assumption
    | with_reducible apply ih
    | extract_lets
    | with_reducible apply keeps_flushItem
    | with_reducible apply keeps_updFn
    | with_reducible apply keeps_ite
    | simp (zeta := false) only [keeps_mk_iff]
    | intro _
    | split

theorem keeps_flushWaiting {a₀ : State} (s : State) (f : Nat) (hs : Keeps a₀ s) :
    Keeps a₀ (flushWaiting s f) := by
  unfold flushWaiting
  repeat' first
    | with_reducible assumption
    | extract_lets
    | with_reducible apply keeps_flushItems
    | with_reducible apply keeps_flushRing
    | with_reducible apply keeps_firePending
    | with_reducible apply keeps_ite
    | simp (zeta := false) only [keeps_mk_iff]
    | with_reducible apply keeps_foldl
    | with_reducible apply keeps_foldl_fst
    | intro _
    | split

theorem keeps_takeTag {a₀ : State} (s : State) (f t : Nat) (why : ReadFor) (page : Option (Nat × Nat)) (hs : Keeps a₀ s) :
    Keeps a₀ (takeTag s f t why page) := by
  unfold takeTag
  repeat' first
    | with_reducible assumption
    | extract_lets
    | with_reducible apply keeps_updPci
    | with_reducible apply keeps_ite
    | simp (zeta := false) only [keeps_mk_iff]
    | intro _
    | split

theorem keeps_issueRead {a₀ : State} (s : State) (f : Nat) (why : ReadFor) (dva len : Nat) (hs : Keeps a₀ s) :
    Keeps a₀ (issueRead s f why dva len) := by
  unfold issueRead
  repeat' first
    | with_reducible assumption
    | extract_lets
    | with_reducible apply keeps_takeTag
    | with_reducible apply keeps_emit
    | with_reducible apply keeps_ite
    | simp (zeta := false) only [keeps_mk_iff]
    | intro _
    | split

theorem keeps_issueReads {a₀ : State} (s : State) (f : Nat) (why : ReadFor) (l : List (Nat × Nat)) (hs : Keeps a₀ s) :
    Keeps a₀ (issueReads s f why l) := by
  unfold issueReads
  repeat' first
    | with_reducible assumption
    | extract_lets
    | with_reducible apply keeps_issueRead
    | with_reducible apply keeps_ite
    | simp (zeta := false) only [keeps_mk_iff]
    | with_reducible apply keeps_foldl
    | with_reducible apply keeps_foldl_fst
    | intro _
    | split

theorem keeps_noteRead {a₀ : State} (s : State) (f status : Nat) (hs : Keeps a₀ s) :
    Keeps a₀ (noteRead s f status) := by
  unfold noteRead
  repeat' first
    | with_reducible assumption
    | extract_lets
    | with_reducible apply keeps_aer
    | with_reducible apply keeps_cnt
    | with_reducible apply keeps_updPci
    | with_reducible apply keeps_ite
    | simp (zeta := false) only [keeps_mk_iff]
    | intro _
    | split

theorem keeps_takePages {a₀ : State} (s : State) (ps : List Nat) (asid : Nat) (cls : PClass) (object : Nat) (hs : Keeps a₀ s) :
    Keeps a₀ (takePages s ps asid cls object) := by
  unfold takePages
  repeat' first
    | with_reducible assumption
    | extract_lets
    | with_reducible refine keeps_putMem _ _ ?_ (by first | exact Memory.wf_cellsWrite _ _ | exact Memory.wf_cellsZero _ _ | exact Memory.wf_dvaCells _ _ _ _ | exact Memory.wf_bar2Cells _ _ _ _ _ | exact fun _ => Memory.wf_nil | exact fun h => Memory.wf_foldl _ _ _ (Memory.wf_cellsZero _ _ h))
    | with_reducible apply keeps_updPage
    | simp (zeta := false) only [keeps_mk_iff]
    | with_reducible apply keeps_foldl
    | intro _

theorem keeps_retirePage {a₀ : State} (s : State) (p reason line : Nat) (hs : Keeps a₀ s) :
    Keeps a₀ (retirePage s p reason line) := by
  unfold retirePage
  repeat' first
    | with_reducible assumption
    | extract_lets
    | with_reducible apply keeps_postFw
    | with_reducible apply keeps_logErr
    | with_reducible apply keeps_updPage
    | with_reducible apply keeps_updScrub
    | simp (zeta := false) only [keeps_mk_iff]
    | intro _

theorem keeps_releasePages {a₀ : State} (s : State) (ps : List Nat) (hs : Keeps a₀ s) :
    Keeps a₀ (releasePages s ps) := by
  unfold releasePages
  repeat' first
    | with_reducible assumption
    | extract_lets
    | with_reducible apply keeps_retirePage
    | with_reducible apply keeps_updPage
    | with_reducible apply keeps_ite
    | simp (zeta := false) only [keeps_mk_iff]
    | with_reducible apply keeps_foldl
    | intro _
    | split
    | (rename_i v; subst v)
    | (rename_i v _; subst v)
    | (rename_i v _ _; subst v)
    | (rename_i v _ _ _; subst v)
    | (rename_i v _ _ _ _; subst v)
    | (rename_i v _ _ _ _ _; subst v)
    | (rename_i v _ _ _ _ _ _; subst v)
    | (rename_i v _ _ _ _ _ _ _; subst v)

theorem keeps_newHandle {a₀ : State} (s : State) (typ f : Nat) (hs : Keeps a₀ s) :
    Keeps a₀ (newHandle s typ f).2 := by
  unfold newHandle
  repeat' first
    | with_reducible assumption
    | extract_lets
    | simp (zeta := false) only [keeps_mk_iff]

theorem keeps_noteHealth {a₀ : State} (s : State) (hs : Keeps a₀ s) :
    Keeps a₀ (noteHealth s) := by
  unfold noteHealth
  repeat' first
    | with_reducible assumption
    | extract_lets
    | with_reducible apply keeps_ite
    | simp (zeta := false) only [keeps_mk_iff]
    | intro _
    | split

theorem keeps_deviceFatal {a₀ : State} (s : State) (cause : Nat) (hs : Keeps a₀ s) :
    Keeps a₀ (deviceFatal s cause) := by
  unfold deviceFatal
  repeat' first
    | with_reducible assumption
    | extract_lets
    | with_reducible apply keeps_noteHealth
    | with_reducible apply keeps_aer
    | with_reducible apply keeps_logErr
    | with_reducible apply keeps_setStage
    | with_reducible apply keeps_bootLog
    | with_reducible apply keeps_ite
    | simp (zeta := false) only [keeps_mk_iff]
    | intro _
    | split
    | (rename_i v; subst v)
    | (rename_i v _; subst v)
    | (rename_i v _ _; subst v)
    | (rename_i v _ _ _; subst v)
    | (rename_i v _ _ _ _; subst v)
    | (rename_i v _ _ _ _ _; subst v)
    | (rename_i v _ _ _ _ _ _; subst v)
    | (rename_i v _ _ _ _ _ _ _; subst v)

theorem keeps_putSlot {a₀ : State} (s : State) (f slot : Nat) (b : List Byte) (hs : Keeps a₀ s) :
    Keeps a₀ (putSlot s f slot b) := by
  unfold putSlot
  repeat' first
    | with_reducible assumption
    | extract_lets
    | with_reducible apply keeps_updFn
    | simp (zeta := false) only [keeps_mk_iff]
    | intro _

theorem keeps_completeSlot {a₀ : State} (s : State) (f slot : Nat) (o : CmdOutcome) (hs : Keeps a₀ s) :
    Keeps a₀ (completeSlot s f slot o) := by
  unfold completeSlot
  repeat' first
    | with_reducible assumption
    | extract_lets
    | with_reducible apply keeps_putSlot
    | with_reducible apply keeps_post
    | with_reducible apply keeps_updFn
    | with_reducible apply keeps_ite
    | simp (zeta := false) only [keeps_mk_iff]
    | intro _
    | split

end Sys2Proof.Machine
end

