-- ==== Sys2Proof/Laws/KeepsFlits.lean ====
section
/-! SUPPORT. The operations of Machine/Flits.lean leave the queue, the fuses and the memory's form as they are. -/

set_option linter.all false

namespace Sys2Proof.Machine

open Sys2Proof

theorem keeps_updDir {a₀ : State} (s : State) (l : Nat) (fromFirst : Bool) (g : LinkDir → LinkDir) (hs : Keeps a₀ s) :
    Keeps a₀ (updDir s l fromFirst g) := by
  unfold updDir
  repeat' first
    | with_reducible assumption
    | extract_lets
    | with_reducible apply keeps_updLink
    | with_reducible apply keeps_ite
    | simp (zeta := false) only [keeps_mk_iff]
    | intro _
    | split

theorem keeps_putParcel {a₀ : State} (s : State) (from_ : Nat) (p : Parcel) (hs : Keeps a₀ s) :
    Keeps a₀ (putParcel s from_ p) := by
  unfold putParcel
  repeat' first
    | with_reducible assumption
    | extract_lets
    | with_reducible apply keeps_updDir
    | with_reducible apply keeps_ite
    | simp (zeta := false) only [keeps_mk_iff]
    | intro _
    | split

theorem keeps_sendRequest {a₀ : State} (s : State) (t : OutTxn) (hs : Keeps a₀ s) :
    Keeps a₀ (sendRequest s t) := by
  unfold sendRequest
  repeat' first
    | with_reducible assumption
    | extract_lets
    | with_reducible apply keeps_putParcel
    | with_reducible apply keeps_ite
    | simp (zeta := false) only [keeps_mk_iff]
    | intro _
    | split

theorem keeps_sendAnswer {a₀ : State} (s : State) (t : OutTxn) (a : Answer) (hs : Keeps a₀ s) :
    Keeps a₀ (sendAnswer s t a) := by
  unfold sendAnswer
  repeat' first
    | with_reducible assumption
    | extract_lets
    | with_reducible apply keeps_putParcel
    | with_reducible apply keeps_ite
    | simp (zeta := false) only [keeps_mk_iff]
    | intro _
    | split

theorem keeps_dropParcels {a₀ : State} (s : State) (t : OutTxn) (hs : Keeps a₀ s) :
    Keeps a₀ (dropParcels s t) := by
  unfold dropParcels
  repeat' first
    | with_reducible assumption
    | extract_lets
    | with_reducible apply keeps_ite
    | simp (zeta := false) only [keeps_mk_iff]
    | intro _
    | split

theorem keeps_storeMarked {a₀ : State} (s : State) (addr from_ : Nat) (b : List Byte) (poison : List Nat) (hs : Keeps a₀ s) :
    Keeps a₀ (storeMarked s addr from_ b poison) := by
  unfold storeMarked
  repeat' first
    | with_reducible assumption
    | extract_lets
    | with_reducible apply keeps_storeAt
    | with_reducible apply keeps_setPoison
    | with_reducible apply keeps_ite
    | simp (zeta := false) only [keeps_mk_iff]
    | with_reducible apply keeps_foldl
    | with_reducible apply keeps_foldl_fst
    | intro _
    | split

theorem keeps_finishTxn {a₀ : State} (s : State) (t : OutTxn) (a : Answer) (hs : Keeps a₀ s) :
    Keeps a₀ (finishTxn s t a) := by
  unfold finishTxn
  repeat' first
    | with_reducible assumption
    | extract_lets
    | with_reducible apply keeps_storeMarked
    | with_reducible apply keeps_ite
    | simp (zeta := false) only [keeps_mk_iff]
    | intro _
    | split
    | (rename_i v; subst v)
    | (rename_i v _; subst v)
    | (rename_i v _ _; subst v)
    | (rename_i v _ _ _; subst v)
    | (rename_i v _ _ _ _; subst v)
    | (rename_i v _ _ _ _ _; subst v)
    | (rename_i v _ _ _ _ _ _; subst v)
    | (rename_i v _ _ _ _ _ _ _; subst v)

theorem keeps_arrive {a₀ : State} (s : State) (p : Parcel) (hs : Keeps a₀ s) :
    Keeps a₀ (arrive s p) := by
  unfold arrive
  repeat' first
    | with_reducible assumption
    | extract_lets
    | with_reducible apply keeps_finishTxn
    | with_reducible apply keeps_ite
    | simp (zeta := false) only [keeps_mk_iff]
    | intro _
    | split

theorem keeps_latchEnd {a₀ : State} (s : State) (l : Nat) (first : Bool) (hs : Keeps a₀ s) :
    Keeps a₀ (latchEnd s l first) := by
  unfold latchEnd
  repeat' first
    | with_reducible assumption
    | extract_lets
    | with_reducible apply keeps_updDir
    | with_reducible apply keeps_ite
    | simp (zeta := false) only [keeps_mk_iff]
    | intro _
    | split

theorem keeps_passOnward {a₀ : State} (s : State) (l : Nat) (fromFirst : Bool) (p : Parcel) (hs : Keeps a₀ s) :
    Keeps a₀ (passOnward s l fromFirst p) := by
  unfold passOnward
  repeat' first
    | with_reducible assumption
    | extract_lets
    | with_reducible apply keeps_latchEnd
    | with_reducible apply keeps_arrive
    | with_reducible apply keeps_putParcel
    | with_reducible apply keeps_ite
    | simp (zeta := false) only [keeps_mk_iff]
    | intro _
    | split

theorem keeps_sendFlit {a₀ : State} (s : State) (l : Nat) (fromFirst : Bool) (vc : Nat) (hs : Keeps a₀ s) :
    Keeps a₀ (sendFlit s l fromFirst vc) := by
  unfold sendFlit
  repeat' first
    | with_reducible assumption
    | extract_lets
    | with_reducible apply keeps_passOnward
    | with_reducible apply keeps_updLink
    | with_reducible apply keeps_ite
    | simp (zeta := false) only [keeps_mk_iff]
    | with_reducible apply keeps_foldl
    | intro _
    | split
    | (rename_i v; subst v)
    | (rename_i v _; subst v)
    | (rename_i v _ _; subst v)
    | (rename_i v _ _ _; subst v)
    | (rename_i v _ _ _ _; subst v)
    | (rename_i v _ _ _ _ _; subst v)
    | (rename_i v _ _ _ _ _ _; subst v)
    | (rename_i v _ _ _ _ _ _ _; subst v)

theorem keeps_pumpFlits {a₀ : State} (w0 : Nat) (w1 : State) (hw1 : Keeps a₀ w1) :
    Keeps a₀ (pumpFlits w0 w1) := by
  induction w0 generalizing w1 with
  | zero => unfold pumpFlits; repeat' first | assumption | split
  | succ _ ih =>
   unfold pumpFlits
   repeat' first
    | with_reducible assumption
    | with_reducible apply ih
    | extract_lets
    | with_reducible apply keeps_sendFlit
    | with_reducible apply keeps_ite
    | simp (zeta := false) only [keeps_mk_iff]
    | intro _
    | split

theorem keeps_pump {a₀ : State} (s : State) (hs : Keeps a₀ s) :
    Keeps a₀ (pump s) := by
  unfold pump
  repeat' first
    | with_reducible assumption
    | extract_lets
    | with_reducible apply keeps_pumpFlits
    | with_reducible apply keeps_ite
    | simp (zeta := false) only [keeps_mk_iff]
    | intro _
    | split

end Sys2Proof.Machine
end

