-- ==== Sys2Proof/Laws/KeepsFabric.lean ====
section
/-! SUPPORT. The operations of Machine/Fabric.lean leave the queue, the fuses and the memory's form as they are. -/

set_option linter.all false

namespace Sys2Proof.Machine

open Sys2Proof

theorem keeps_linkDead {a₀ : State} (s : State) (l : Nat) (st : LinkState) (hs : Keeps a₀ s) :
    Keeps a₀ (linkDead s l st) := by
  unfold linkDead
  repeat' first
    | with_reducible assumption
    | extract_lets
    | with_reducible apply keeps_updLink
    | with_reducible apply keeps_ite
    | simp (zeta := false) only [keeps_mk_iff]
    | intro _
    | split

theorem keeps_settleTxns {a₀ : State} (s : State) (l : Nat) (hs : Keeps a₀ s) :
    Keeps a₀ (settleTxns s l) := by
  unfold settleTxns
  repeat' first
    | with_reducible assumption
    | extract_lets
    | with_reducible apply keeps_pump
    | with_reducible apply keeps_dropParcels
    | with_reducible apply keeps_sendRequest
    | with_reducible apply keeps_logErr
    | with_reducible apply keeps_ite
    | simp (zeta := false) only [keeps_mk_iff]
    | with_reducible apply keeps_foldl
    | intro _
    | split

theorem keeps_blinkDown {a₀ : State} (s : State) (l : Nat) (hs : Keeps a₀ s) :
    Keeps a₀ (blinkDown s l) := by
  unfold blinkDown
  repeat' first
    | with_reducible assumption
    | extract_lets
    | with_reducible apply keeps_settleTxns
    | with_reducible apply keeps_linkDead
    | with_reducible apply keeps_postFw
    | simp (zeta := false) only [keeps_mk_iff]
    | (rename_i v; subst v)
    | (rename_i v _; subst v)
    | (rename_i v _ _; subst v)
    | (rename_i v _ _ _; subst v)
    | (rename_i v _ _ _ _; subst v)
    | (rename_i v _ _ _ _ _; subst v)
    | (rename_i v _ _ _ _ _ _; subst v)
    | (rename_i v _ _ _ _ _ _ _; subst v)

theorem keeps_zeroBank {a₀ : State} (s : State) (d b : Nat) (hs : Keeps a₀ s) :
    Keeps a₀ (zeroBank s d b) := by
  unfold zeroBank
  repeat' first
    | with_reducible assumption
    | extract_lets
    | with_reducible apply keeps_overwrite
    | with_reducible refine keeps_putMem _ _ ?_ (by first | exact Memory.wf_cellsWrite _ _ | exact Memory.wf_cellsZero _ _ | exact Memory.wf_foldl _ _ _ (Memory.wf_cellsZero _ _) | exact fun _ => Memory.wf_nil | exact fun h => Memory.wf_foldl _ _ _ (Memory.wf_cellsZero _ _ h) | exact fun h => Memory.wf_foldl _ _ _ h)
    | with_reducible apply keeps_ite
    | simp (zeta := false) only [keeps_mk_iff]
    | with_reducible apply keeps_foldl
    | intro _
    | split

theorem keeps_seizeBank {a₀ : State} (s : State) (d b onward : Nat) (march : Bool := false) (hs : Keeps a₀ s) :
    Keeps a₀ (seizeBank s d b onward march) := by
  unfold seizeBank
  repeat' first
    | with_reducible assumption
    | extract_lets
    | with_reducible apply keeps_logErr
    | with_reducible apply keeps_updBank
    | with_reducible apply keeps_ite
    | simp (zeta := false) only [keeps_mk_iff]
    | intro _
    | split

theorem keeps_loseDie {a₀ : State} (s : State) (d cause : Nat) (hs : Keeps a₀ s) :
    Keeps a₀ (loseDie s d cause) := by
  unfold loseDie
  repeat' first
    | with_reducible assumption
    | extract_lets
    | with_reducible apply keeps_settleTxns
    | with_reducible apply keeps_linkDead
    | with_reducible apply keeps_deviceFatal
    | with_reducible apply keeps_noteHealth
    | with_reducible apply keeps_updDie
    | with_reducible apply keeps_ite
    | simp (zeta := false) only [keeps_mk_iff]
    | with_reducible apply keeps_foldl
    | intro _
    | split
    | (rename_i v; subst v)
    | (rename_i v _; subst v)
    | (rename_i v _ _; subst v)
    | (rename_i v _ _ _; subst v)
    | (rename_i v _ _ _ _; subst v)
    | (rename_i v _ _ _ _ _; subst v)
    | (rename_i v _ _ _ _ _ _; subst v)
    | (rename_i v _ _ _ _ _ _ _; subst v)

theorem keeps_excludeDie {a₀ : State} (s : State) (d cause : Nat) (hs : Keeps a₀ s) :
    Keeps a₀ (excludeDie s d cause) := by
  unfold excludeDie
  repeat' first
    | with_reducible assumption
    | extract_lets
    | with_reducible apply keeps_deviceFatal
    | with_reducible apply keeps_post
    | with_reducible apply keeps_updDie
    | with_reducible apply keeps_ite
    | simp (zeta := false) only [keeps_mk_iff]
    | intro _
    | split
    | (rename_i v; subst v)
    | (rename_i v _; subst v)
    | (rename_i v _ _; subst v)
    | (rename_i v _ _ _; subst v)
    | (rename_i v _ _ _ _; subst v)
    | (rename_i v _ _ _ _ _; subst v)
    | (rename_i v _ _ _ _ _ _; subst v)
    | (rename_i v _ _ _ _ _ _ _; subst v)

theorem keeps_avsTowards {a₀ : State} (s : State) (d target : Nat) (hs : Keeps a₀ s) :
    Keeps a₀ (avsTowards s d target) := by
  unfold avsTowards
  repeat' first
    | with_reducible assumption
    | extract_lets
    | with_reducible apply keeps_emit
    | with_reducible apply keeps_updDie
    | with_reducible apply keeps_ite
    | simp (zeta := false) only [keeps_mk_iff]
    | intro _
    | split

theorem keeps_endDieFw {a₀ : State} (s : State) (hs : Keeps a₀ s) :
    Keeps a₀ (endDieFw s) := by
  unfold endDieFw
  repeat' first
    | with_reducible assumption
    | with_reducible apply keeps_avsTowards
    | with_reducible apply keeps_setStage
    | with_reducible apply keeps_ite
    | with_reducible apply keeps_foldl
    | intro _
    | split

theorem keeps_endTraining {a₀ : State} (s : State) (hs : Keeps a₀ s) :
    Keeps a₀ (endTraining s) := by
  unfold endTraining
  repeat' first
    | with_reducible assumption
    | with_reducible apply keeps_setStage
    | with_reducible apply keeps_ite
    | intro _
    | split

end Sys2Proof.Machine
end

