-- ==== Sys2Proof/Laws/KeepsStreams.lean ====
section
/-! SUPPORT. The operations of Machine/Streams.lean leave the queue, the fuses and the memory's form as they are. -/

set_option linter.all false

namespace Sys2Proof.Machine

open Sys2Proof

theorem keeps_streamDone {a₀ : State} (s : State) (f ring idx stream status count ledger : Nat) (tag : DWord) (hs : Keeps a₀ s) :
    Keeps a₀ (streamDone s f ring idx stream status count ledger tag) := by
  unfold streamDone
  repeat' first
    | with_reducible assumption
    | with_reducible apply keeps_record

theorem keeps_outFinish {a₀ : State} (s : State) (f i status : Nat) (hs : Keeps a₀ s) :
    Keeps a₀ (outFinish s f i status) := by
  unfold outFinish
  repeat' first
    | with_reducible assumption
    | extract_lets
    | with_reducible apply keeps_streamDone
    | with_reducible apply keeps_updStream
    | with_reducible apply keeps_ite
    | simp (zeta := false) only [keeps_mk_iff]
    | intro _
    | split

theorem keeps_outFail {a₀ : State} (s : State) (f st i status : Nat) (hs : Keeps a₀ s) :
    Keeps a₀ (outFail s f st i status) := by
  unfold outFail
  repeat' first
    | with_reducible assumption
    | extract_lets
    | with_reducible apply keeps_outFinish
    | with_reducible apply keeps_cnt
    | with_reducible apply keeps_updEntX
    | with_reducible apply keeps_ite
    | simp (zeta := false) only [keeps_mk_iff]
    | intro _
    | split

theorem keeps_outReturn {a₀ : State} (s : State) (f i : Nat) (hs : Keeps a₀ s) :
    Keeps a₀ (outReturn s f i) := by
  unfold outReturn
  repeat' first
    | with_reducible assumption
    | extract_lets
    | with_reducible apply keeps_streamDone
    | with_reducible apply keeps_updStream
    | simp (zeta := false) only [keeps_mk_iff]
    | with_reducible apply keeps_foldl
    | intro _
    | split

theorem keeps_placeText {a₀ : State} (s : State) (f st i : Nat) (w0 : Nat) (hs : Keeps a₀ s) :
    Keeps a₀ (placeText s f st i w0) := by
  induction w0 generalizing s with
  | zero => unfold placeText; repeat' first | assumption | split
  | succ _ ih =>
   unfold placeText
   repeat' first
    | with_reducible assumption
    | with_reducible apply ih
    | extract_lets
    | with_reducible apply keeps_outFail
    | with_reducible apply keeps_outFinish
    | with_reducible apply keeps_refusedFound
    | with_reducible apply keeps_storeDva
    | with_reducible apply keeps_cnt
    | with_reducible apply keeps_updStream
    | with_reducible apply keeps_updEntX
    | with_reducible apply keeps_ite
    | simp (zeta := false) only [keeps_mk_iff]
    | intro _
    | split

theorem keeps_placeStep {a₀ : State} (s : State) (f st i : Nat) (hs : Keeps a₀ s) :
    Keeps a₀ (placeStep s f st i) := by
  unfold placeStep
  repeat' first
    | with_reducible assumption
    | extract_lets
    | with_reducible apply keeps_placeText
    | with_reducible apply keeps_outFinish
    | with_reducible apply keeps_ite
    | simp (zeta := false) only [keeps_mk_iff]
    | intro _
    | split

theorem keeps_putElem {a₀ : State} (s : State) (f st i : Nat) (d : StrDesc) (done v : Nat) (hs : Keeps a₀ s) :
    Keeps a₀ (putElem s f st i d done v) := by
  unfold putElem
  repeat' first
    | with_reducible assumption
    | extract_lets
    | with_reducible apply keeps_outFail
    | with_reducible apply keeps_outFinish
    | with_reducible apply keeps_refusedFound
    | with_reducible apply keeps_storeDva
    | with_reducible apply keeps_cnt
    | with_reducible apply keeps_updStream
    | with_reducible apply keeps_updEntX
    | with_reducible apply keeps_ite
    | simp (zeta := false) only [keeps_mk_iff]
    | intro _
    | split

theorem keeps_evictTables {a₀ : State} (s : State) (h : Nat) (w0 : Nat) (hs : Keeps a₀ s) :
    Keeps a₀ (evictTables s h w0) := by
  induction w0 generalizing s with
  | zero => unfold evictTables; repeat' first | assumption | split
  | succ _ ih =>
   unfold evictTables
   repeat' first
    | with_reducible apply ih
    | with_reducible assumption
    | extract_lets
    | with_reducible apply keeps_ite
    | simp (zeta := false) only [keeps_mk_iff]
    | intro _
    | split

theorem keeps_useTable {a₀ : State} (s : State) (h : Nat) (hs : Keeps a₀ s) :
    Keeps a₀ (useTable s h) := by
  unfold useTable
  repeat' first
    | with_reducible assumption
    | extract_lets
    | with_reducible apply keeps_ite
    | simp (zeta := false) only [keeps_mk_iff]
    | intro _
    | split

theorem keeps_feltNum {a₀ : State} (s : State) (f st i : Nat) (w0 : Nat) (hs : Keeps a₀ s) :
    Keeps a₀ (feltNum s f st i w0) := by
  induction w0 generalizing s with
  | zero => unfold feltNum; repeat' first | assumption | split
  | succ _ ih =>
   unfold feltNum
   repeat' first
    | with_reducible assumption
    | with_reducible apply ih
    | extract_lets
    | with_reducible apply keeps_useTable
    | with_reducible apply keeps_putElem
    | with_reducible apply keeps_logErr
    | with_reducible apply keeps_updStream
    | with_reducible apply keeps_updEntX
    | with_reducible apply keeps_ite
    | simp (zeta := false) only [keeps_mk_iff]
    | intro _
    | split

theorem keeps_logForeign {a₀ : State} (s : State) (i : Nat) (new : List Nat) (hs : Keeps a₀ s) :
    Keeps a₀ (logForeign s i new) := by
  unfold logForeign
  repeat' first
    | with_reducible assumption
    | extract_lets
    | with_reducible apply keeps_logErr
    | with_reducible apply keeps_updEntX
    | with_reducible apply keeps_ite
    | simp (zeta := false) only [keeps_mk_iff]
    | intro _
    | split

theorem keeps_felt {a₀ : State} (s : State) (i : Nat) (hs : Keeps a₀ s) :
    Keeps a₀ (felt s i) := by
  unfold felt
  repeat' first
    | with_reducible assumption
    | extract_lets
    | with_reducible apply keeps_logForeign
    | with_reducible apply keeps_feltNum
    | with_reducible apply keeps_placeStep
    | with_reducible apply keeps_updEntX
    | with_reducible apply keeps_ite
    | simp (zeta := false) only [keeps_mk_iff]
    | intro _
    | split

theorem keeps_flushHolds {a₀ : State} (s : State) (i : Nat) (hs : Keeps a₀ s) :
    Keeps a₀ (flushHolds s i) := by
  unfold flushHolds
  repeat' first
    | with_reducible assumption
    | extract_lets
    | with_reducible apply keeps_updEntX
    | with_reducible apply keeps_ite
    | simp (zeta := false) only [keeps_mk_iff]
    | intro _
    | split

theorem keeps_detach {a₀ : State} (s : State) (i : Nat) (hs : Keeps a₀ s) :
    Keeps a₀ (detach s i) := by
  unfold detach
  repeat' first
    | with_reducible assumption
    | extract_lets
    | with_reducible apply keeps_outReturn
    | with_reducible apply keeps_outFinish
    | with_reducible apply keeps_updStream
    | with_reducible apply keeps_ite
    | simp (zeta := false) only [keeps_mk_iff]
    | intro _
    | split

theorem keeps_requestEnd {a₀ : State} (s : State) (i : Nat) (hs : Keeps a₀ s) :
    Keeps a₀ (requestEnd s i) := by
  unfold requestEnd
  repeat' first
    | with_reducible assumption
    | extract_lets
    | with_reducible apply keeps_record
    | with_reducible apply keeps_updEntX
    | simp (zeta := false) only [keeps_mk_iff]
    | intro _

theorem keeps_settleOutput {a₀ : State} (s : State) (i : Nat) (hs : Keeps a₀ s) :
    Keeps a₀ (settleOutput s i) := by
  unfold settleOutput
  repeat' first
    | with_reducible assumption
    | extract_lets
    | with_reducible apply keeps_requestEnd
    | with_reducible apply keeps_detach
    | with_reducible apply keeps_flushHolds
    | with_reducible apply keeps_placeText
    | with_reducible apply keeps_ite
    | intro _
    | split

theorem keeps_serveOutput {a₀ : State} (s : State) (f st : Nat) (w0 : Nat) (hs : Keeps a₀ s) :
    Keeps a₀ (serveOutput s f st w0) := by
  induction w0 generalizing s with
  | zero => unfold serveOutput; repeat' first | assumption | split
  | succ _ ih =>
   unfold serveOutput
   repeat' first
    | with_reducible assumption
    | with_reducible apply ih
    | extract_lets
    | with_reducible apply keeps_settleOutput
    | with_reducible apply keeps_placeStep
    | with_reducible apply keeps_ite
    | simp (zeta := false) only [keeps_mk_iff]
    | intro _
    | split

theorem keeps_drainOutput {a₀ : State} (s : State) (i : Nat) (hs : Keeps a₀ s) :
    Keeps a₀ (drainOutput s i) := by
  unfold drainOutput
  repeat' first
    | with_reducible assumption
    | extract_lets
    | with_reducible apply keeps_outReturn
    | with_reducible apply keeps_outFinish
    | with_reducible apply keeps_updEntX
    | with_reducible apply keeps_ite
    | simp (zeta := false) only [keeps_mk_iff]
    | intro _
    | split

end Sys2Proof.Machine
end

