-- ==== Sys2Proof/Laws/KeepsLife.lean ====
section
/-! SUPPORT. The operations of Machine/Life.lean leave the queue, the fuses and the memory's form as they are. -/

set_option linter.all false

namespace Sys2Proof.Machine

open Sys2Proof

theorem keeps_charge {a₀ : State} (s : State) (i : Nat) (bucket reserved spent : Int) (hs : Keeps a₀ s) :
    Keeps a₀ (charge s i bucket reserved spent) := by
  unfold charge
  repeat' first
    | with_reducible assumption
    | extract_lets
    | with_reducible apply keeps_updEntX
    | with_reducible apply keeps_updFn
    | simp (zeta := false) only [keeps_mk_iff]
    | intro _

theorem keeps_settleBudget {a₀ : State} (s : State) (i p : Nat) (hs : Keeps a₀ s) :
    Keeps a₀ (settleBudget s i p) := by
  unfold settleBudget
  repeat' first
    | with_reducible assumption
    | extract_lets
    | with_reducible apply keeps_charge
    | with_reducible apply keeps_ite
    | intro _
    | split

theorem keeps_growHistory {a₀ : State} (s : State) (i : Nat) (hs : Keeps a₀ s) :
    Keeps a₀ (growHistory s i) := by
  unfold growHistory
  repeat' first
    | with_reducible assumption
    | extract_lets
    | with_reducible apply keeps_takePages
    | with_reducible apply keeps_updEnt
    | simp (zeta := false) only [keeps_mk_iff]
    | intro _
    | split

theorem keeps_putHistory {a₀ : State} (s : State) (i : Nat) (w0 : Nat) (w1 : Nat) (w2 : List Nat) (hs : Keeps a₀ s) :
    Keeps a₀ (putHistory s i w0 w1 w2) := by
  induction w0 generalizing s w1 w2 with
  | zero => unfold putHistory; repeat' first | assumption | split
  | succ _ ih =>
   unfold putHistory
   repeat' first
    | with_reducible assumption
    | with_reducible apply ih
    | extract_lets
    | with_reducible apply keeps_storeAt
    | with_reducible apply keeps_ite
    | simp (zeta := false) only [keeps_mk_iff]
    | intro _
    | split
    | (rename_i v; subst v)
    | (rename_i v _; subst v)
    | (rename_i v _ _; subst v)
    | (rename_i v _ _ _; subst v)
    | (rename_i v _ _ _ _; subst v)
    | (rename_i v _ _ _ _ _; subst v)
    | (rename_i v _ _ _ _ _ _; subst v)
    | (rename_i v _ _ _ _ _ _ _; subst v)

theorem keeps_noteHistory {a₀ : State} (s : State) (i lo : Nat) (hs : Keeps a₀ s) :
    Keeps a₀ (noteHistory s i lo) := by
  unfold noteHistory
  repeat' first
    | with_reducible assumption
    | extract_lets
    | with_reducible apply keeps_putHistory
    | with_reducible apply keeps_growHistory
    | with_reducible apply keeps_ite
    | simp (zeta := false) only [keeps_mk_iff]
    | intro _
    | split

theorem keeps_addBlock {a₀ : State} (s : State) (i : Nat) (b : KvBlock) (hs : Keeps a₀ s) :
    Keeps a₀ (addBlock s i b) := by
  unfold addBlock
  repeat' first
    | with_reducible assumption
    | extract_lets
    | with_reducible apply keeps_updEnt
    | simp (zeta := false) only [keeps_mk_iff]
    | intro _

theorem keeps_takeKvPage {a₀ : State} (s : State) (i d : Nat) {x : Nat} {r : State} (hr : takeKvPage s i d = some (x, r)) (hs : Keeps a₀ s) :
    Keeps a₀ r := by
  unfold takeKvPage at hr
  repeat' first
    | (cases hr; done)
    | (simp only [Option.some.injEq, Prod.mk.injEq] at hr)
    | (obtain ⟨rfl, rfl⟩ := hr)
    | subst hr
    | extract_lets at hr
    | split at hr
  all_goals
   repeat' first
    | with_reducible assumption
    | extract_lets
    | with_reducible apply keeps_takePages
    | simp (zeta := false) only [keeps_mk_iff]
    | split
    | split

theorem keeps_fillPages {a₀ : State} (s : State) (i : Nat) (m : Model) (onC : List Nat) (k : Nat) (l : List Nat) (hs : Keeps a₀ s) :
    Keeps a₀ (fillPages s i m onC k l).2 := by
  induction l generalizing s k with
  | nil => exact hs
  | cons p rest ih =>
    unfold fillPages
    split
    · exact ih s (k + 1) hs
    · split
      · exact ih _ _ (keeps_takeKvPage (hr := by assumption) (hs := hs) ..)
      · exact ih s (k + 1) hs

theorem keeps_fillBlock {a₀ : State} (s : State) (i b : Nat) (hs : Keeps a₀ s) :
    Keeps a₀ (fillBlock s i b) := by
  unfold fillBlock
  repeat' first
    | with_reducible assumption
    | extract_lets
    | with_reducible apply keeps_fillPages
    | with_reducible apply keeps_cnt
    | with_reducible apply keeps_updEnt
    | with_reducible apply keeps_ite
    | simp (zeta := false) only [keeps_mk_iff]
    | intro _
    | split

theorem keeps_fillBlocks {a₀ : State} (s : State) (i n : Nat) (hs : Keeps a₀ s) :
    Keeps a₀ (fillBlocks s i n) := by
  unfold fillBlocks
  repeat' first
    | with_reducible assumption
    | with_reducible apply keeps_fillBlock
    | with_reducible apply keeps_foldl
    | intro _

theorem keeps_growCover {a₀ : State} (s : State) (i : Nat) {r : State} (hr : growCover s i = some r) (hs : Keeps a₀ s) :
    Keeps a₀ r := by
  unfold growCover at hr
  repeat' first
    | (cases hr; done)
    | (simp only [Option.some.injEq, Prod.mk.injEq] at hr)
    | (obtain ⟨rfl, rfl⟩ := hr)
    | subst hr
    | extract_lets at hr
    | split at hr
  all_goals
   repeat' first
    | with_reducible assumption
    | extract_lets
    | with_reducible apply keeps_addBlock
    | with_reducible apply keeps_takePages
    | with_reducible apply keeps_updEnt
    | with_reducible apply keeps_ite
    | simp (zeta := false) only [keeps_mk_iff]
    | intro _
    | split
    | split

theorem keeps_coverTo {a₀ : State} (s : State) (i n : Nat) (w0 : Nat) (hs : Keeps a₀ s) :
    Keeps a₀ (coverTo s i n w0).1 := by
  induction w0 generalizing s with
  | zero => unfold coverTo; repeat' first | assumption | split
  | succ _ ih =>
   unfold coverTo
   repeat' first
    | with_reducible apply ih
    | with_reducible assumption
    | extract_lets
    | with_reducible refine keeps_growCover (hr := by assumption) (hs := ?_) ..
    | with_reducible apply keeps_ite
    | with_reducible apply keeps_ite_fst
    | simp (zeta := false) only [keeps_mk_iff]
    | intro _
    | split

theorem keeps_claimReserve {a₀ : State} (s : State) (i : Nat) (hs : Keeps a₀ s) :
    Keeps a₀ (claimReserve s i) := by
  unfold claimReserve
  repeat' first
    | with_reducible assumption
    | with_reducible apply keeps_addBlock
    | with_reducible apply keeps_ite
    | intro _
    | split

theorem keeps_dropReserve {a₀ : State} (s : State) (i : Nat) (hs : Keeps a₀ s) :
    Keeps a₀ (dropReserve s i) := by
  unfold dropReserve
  repeat' first
    | with_reducible assumption
    | extract_lets
    | with_reducible apply keeps_releasePages
    | with_reducible apply keeps_updEnt
    | simp (zeta := false) only [keeps_mk_iff]
    | intro _

theorem keeps_leavePage {a₀ : State} (s : State) (i p : Nat) (hs : Keeps a₀ s) :
    Keeps a₀ (leavePage s i p) := by
  unfold leavePage
  repeat' first
    | with_reducible assumption
    | extract_lets
    | with_reducible apply keeps_releasePages
    | with_reducible apply keeps_updPage
    | with_reducible apply keeps_ite
    | simp (zeta := false) only [keeps_mk_iff]
    | with_reducible apply keeps_foldl
    | intro _
    | split
    | (rename_i v; subst v)
    | (rename_i v _; subst v)
    | (rename_i v _ _; subst v)
    | (rename_i v _ _ _; subst v)
    | (rename_i v _ _ _ _; subst v)
    | (rename_i v _ _ _ _ _; subst v)
    | (rename_i v _ _ _ _ _ _; subst v)
    | (rename_i v _ _ _ _ _ _ _; subst v)

theorem keeps_releaseKv {a₀ : State} (s : State) (i : Nat) (hs : Keeps a₀ s) :
    Keeps a₀ (releaseKv s i) := by
  unfold releaseKv
  repeat' first
    | with_reducible assumption
    | extract_lets
    | with_reducible apply keeps_leavePage
    | with_reducible apply keeps_updEntX
    | with_reducible apply keeps_updEnt
    | with_reducible apply keeps_ite
    | simp (zeta := false) only [keeps_mk_iff]
    | with_reducible apply keeps_foldl
    | intro _
    | split

theorem keeps_remapKv {a₀ : State} (s : State) (p q : Nat) (hs : Keeps a₀ s) :
    Keeps a₀ (remapKv s p q) := by
  unfold remapKv
  repeat' first
    | with_reducible assumption
    | extract_lets
    | with_reducible apply keeps_ite
    | simp (zeta := false) only [keeps_mk_iff]
    | intro _
    | split

theorem keeps_putKvEntry {a₀ : State} (s : State) (i slot draw : Nat) (toks : List Nat) (hs : Keeps a₀ s) :
    Keeps a₀ (putKvEntry s i slot draw toks) := by
  unfold putKvEntry
  repeat' first
    | with_reducible assumption
    | extract_lets
    | with_reducible apply keeps_storeWord
    | with_reducible apply keeps_ite
    | simp (zeta := false) only [keeps_mk_iff]
    | with_reducible apply keeps_foldl
    | with_reducible apply keeps_foldl_fst
    | intro _
    | split

theorem keeps_putKvEntries {a₀ : State} (s : State) (i lo hi : Nat) (fast : Bool) (hs : Keeps a₀ s) :
    Keeps a₀ (putKvEntries s i lo hi fast) := by
  unfold putKvEntries
  repeat' first
    | with_reducible assumption
    | extract_lets
    | with_reducible apply keeps_putKvEntry
    | with_reducible apply keeps_drawn
    | with_reducible apply keeps_ite
    | simp (zeta := false) only [keeps_mk_iff]
    | with_reducible apply keeps_foldl
    | intro _
    | split

theorem keeps_copyEntry {a₀ : State} (s : State) (i src dst : Nat) (hs : Keeps a₀ s) :
    Keeps a₀ (copyEntry s i src dst) := by
  unfold copyEntry
  repeat' first
    | with_reducible assumption
    | extract_lets
    | with_reducible apply keeps_storeWord
    | with_reducible apply keeps_ite
    | simp (zeta := false) only [keeps_mk_iff]
    | with_reducible apply keeps_foldl
    | with_reducible apply keeps_foldl_fst
    | intro _
    | split

theorem keeps_shareBlocks {a₀ : State} (s : State) (i d n : Nat) (hs : Keeps a₀ s) :
    Keeps a₀ (shareBlocks s i d n) := by
  unfold shareBlocks
  repeat' first
    | with_reducible assumption
    | extract_lets
    | with_reducible apply keeps_updPage
    | with_reducible apply keeps_updEntX
    | with_reducible apply keeps_updEnt
    | with_reducible apply keeps_ite
    | simp (zeta := false) only [keeps_mk_iff]
    | with_reducible apply keeps_foldl
    | intro _
    | split

theorem keeps_endWait {a₀ : State} (s : State) (i n : Nat) (hs : Keeps a₀ s) :
    Keeps a₀ (endWait s i n) := by
  unfold endWait
  repeat' first
    | with_reducible assumption
    | extract_lets
    | with_reducible apply keeps_shareBlocks
    | with_reducible apply keeps_updEntX
    | with_reducible apply keeps_ite
    | simp (zeta := false) only [keeps_mk_iff]
    | intro _
    | split

theorem keeps_waitersReady {a₀ : State} (s : State) (d : Nat) (hs : Keeps a₀ s) :
    Keeps a₀ (waitersReady s d) := by
  unfold waitersReady
  repeat' first
    | with_reducible assumption
    | with_reducible apply keeps_endWait
    | with_reducible apply keeps_ite
    | with_reducible apply keeps_foldl
    | intro _
    | split

theorem keeps_waitersStop {a₀ : State} (s : State) (d : Nat) (hs : Keeps a₀ s) :
    Keeps a₀ (waitersStop s d) := by
  unfold waitersStop
  repeat' first
    | with_reducible assumption
    | with_reducible apply keeps_endWait
    | with_reducible apply keeps_foldl
    | intro _

theorem keeps_prefixMatch {a₀ : State} (s : State) (i : Nat) (hs : Keeps a₀ s) :
    Keeps a₀ (prefixMatch s i) := by
  unfold prefixMatch
  repeat' first
    | with_reducible assumption
    | extract_lets
    | with_reducible apply keeps_shareBlocks
    | with_reducible apply keeps_updEntX
    | with_reducible apply keeps_ite
    | simp (zeta := false) only [keeps_mk_iff]
    | intro _
    | split

theorem keeps_leaveRun {a₀ : State} (s : State) (i : Nat) (hs : Keeps a₀ s) :
    Keeps a₀ (leaveRun s i) := by
  unfold leaveRun
  repeat' first
    | with_reducible assumption
    | extract_lets
    | with_reducible apply keeps_updStream
    | with_reducible apply keeps_ite
    | simp (zeta := false) only [keeps_mk_iff]
    | intro _
    | split

theorem keeps_leaveParent {a₀ : State} (s : State) (i : Nat) (hs : Keeps a₀ s) :
    Keeps a₀ (leaveParent s i) := by
  unfold leaveParent
  repeat' first
    | with_reducible assumption
    | extract_lets
    | with_reducible apply keeps_updEntX
    | simp (zeta := false) only [keeps_mk_iff]
    | intro _
    | split

theorem keeps_endReq {a₀ : State} (s : State) (i : Nat) (st : ReqState) (status : Nat) (hs : Keeps a₀ s) :
    Keeps a₀ (endReq s i st status) := by
  unfold endReq
  repeat' first
    | with_reducible assumption
    | extract_lets
    | with_reducible apply keeps_leaveParent
    | with_reducible apply keeps_leaveRun
    | with_reducible apply keeps_waitersStop
    | with_reducible apply keeps_dropReserve
    | with_reducible apply keeps_settleBudget
    | with_reducible apply keeps_settleOutput
    | with_reducible apply keeps_cnt
    | with_reducible apply keeps_updEntX
    | with_reducible apply keeps_updEnt
    | with_reducible apply keeps_ite
    | simp (zeta := false) only [keeps_mk_iff]
    | intro _
    | split

theorem keeps_failReq {a₀ : State} (s : State) (i status : Nat) (hs : Keeps a₀ s) :
    Keeps a₀ (failReq s i status) := by
  unfold failReq
  repeat' first
    | with_reducible assumption
    | with_reducible apply keeps_endReq

theorem keeps_cancelled {a₀ : State} (s : State) (i : Nat) (hs : Keeps a₀ s) :
    Keeps a₀ (cancelled s i) := by
  unfold cancelled
  repeat' first
    | with_reducible assumption
    | with_reducible apply keeps_endReq

theorem keeps_stateRecord {a₀ : State} (s : State) (i code : Nat) (hs : Keeps a₀ s) :
    Keeps a₀ (stateRecord s i code) := by
  unfold stateRecord
  repeat' first
    | with_reducible assumption
    | extract_lets
    | with_reducible apply keeps_record

theorem keeps_dropClaims {a₀ : State} (s : State) (i : Nat) (hs : Keeps a₀ s) :
    Keeps a₀ (dropClaims s i) := by
  unfold dropClaims
  repeat' first
    | with_reducible assumption
    | extract_lets
    | with_reducible apply keeps_dropReserve
    | with_reducible apply keeps_updEnt
    | simp (zeta := false) only [keeps_mk_iff]
    | intro _

theorem keeps_startMove {a₀ : State} (s : State) (i : Nat) (hs : Keeps a₀ s) :
    Keeps a₀ (startMove s i) := by
  unfold startMove
  repeat' first
    | with_reducible assumption
    | extract_lets
    | with_reducible apply keeps_dropClaims
    | with_reducible apply keeps_cancelled
    | with_reducible apply keeps_postFw
    | with_reducible apply keeps_updEntX
    | with_reducible apply keeps_ite
    | simp (zeta := false) only [keeps_mk_iff]
    | intro _
    | split

theorem keeps_pauseNow {a₀ : State} (s : State) (i : Nat) (hs : Keeps a₀ s) :
    Keeps a₀ (pauseNow s i) := by
  unfold pauseNow
  repeat' first
    | with_reducible assumption
    | extract_lets
    | with_reducible apply keeps_startMove
    | with_reducible apply keeps_waitersStop
    | with_reducible apply keeps_dropReserve
    | with_reducible apply keeps_cnt
    | with_reducible apply keeps_updEntX
    | with_reducible apply keeps_updEnt
    | with_reducible apply keeps_ite
    | simp (zeta := false) only [keeps_mk_iff]
    | intro _
    | split

theorem keeps_askPause {a₀ : State} (s : State) (i : Nat) (hs : Keeps a₀ s) :
    Keeps a₀ (askPause s i) := by
  unfold askPause
  repeat' first
    | with_reducible assumption
    | extract_lets
    | with_reducible apply keeps_pauseNow
    | with_reducible apply keeps_updEnt
    | with_reducible apply keeps_ite
    | simp (zeta := false) only [keeps_mk_iff]
    | intro _
    | split

theorem keeps_wake {a₀ : State} (s : State) (i : Nat) (hs : Keeps a₀ s) :
    Keeps a₀ (wake s i) := by
  unfold wake
  repeat' first
    | with_reducible assumption
    | extract_lets
    | with_reducible apply keeps_updEntX
    | with_reducible apply keeps_updEnt
    | with_reducible apply keeps_ite
    | simp (zeta := false) only [keeps_mk_iff]
    | intro _
    | split

theorem keeps_endHostTime {a₀ : State} (s : State) (i : Nat) (hs : Keeps a₀ s) :
    Keeps a₀ (endHostTime s i) := by
  unfold endHostTime
  repeat' first
    | with_reducible assumption
    | extract_lets
    | with_reducible apply keeps_updEnt
    | with_reducible apply keeps_ite
    | simp (zeta := false) only [keeps_mk_iff]
    | intro _
    | split

theorem keeps_toExpired {a₀ : State} (s : State) (i : Nat) (hs : Keeps a₀ s) :
    Keeps a₀ (toExpired s i) := by
  unfold toExpired
  repeat' first
    | with_reducible assumption
    | extract_lets
    | with_reducible apply keeps_stateRecord
    | with_reducible apply keeps_releaseKv
    | with_reducible apply keeps_cnt
    | with_reducible apply keeps_updEnt
    | simp (zeta := false) only [keeps_mk_iff]
    | intro _

theorem keeps_markCacheLost {a₀ : State} (s : State) (i lo hi : Nat) (hs : Keeps a₀ s) :
    Keeps a₀ (markCacheLost s i lo hi) := by
  unfold markCacheLost
  repeat' first
    | with_reducible assumption
    | extract_lets
    | with_reducible apply keeps_cnt
    | with_reducible apply keeps_updEntX
    | with_reducible apply keeps_updEnt
    | with_reducible apply keeps_cacheLost
    | with_reducible apply keeps_ite
    | simp (zeta := false) only [keeps_mk_iff]
    | intro _
    | split

theorem keeps_promptDone {a₀ : State} (s : State) (i : Nat) (toks : List Nat) (hs : Keeps a₀ s) :
    Keeps a₀ (promptDone s i toks) := by
  unfold promptDone
  repeat' first
    | with_reducible assumption
    | extract_lets
    | with_reducible apply keeps_failReq
    | with_reducible apply keeps_prefixMatch
    | with_reducible apply keeps_noteHistory
    | with_reducible apply keeps_charge
    | with_reducible apply keeps_cnt
    | with_reducible apply keeps_updEntX
    | with_reducible apply keeps_updEnt
    | with_reducible apply keeps_ite
    | simp (zeta := false) only [keeps_mk_iff]
    | intro _
    | split

theorem keeps_chargeRun {a₀ : State} (s : State) (i uj : Nat) (hs : Keeps a₀ s) :
    Keeps a₀ (chargeRun s i uj) := by
  unfold chargeRun
  repeat' first
    | with_reducible assumption
    | extract_lets
    | with_reducible apply keeps_updEntX
    | simp (zeta := false) only [keeps_mk_iff]
    | intro _

theorem keeps_takeRun {a₀ : State} (s : State) (i : Nat) (hs : Keeps a₀ s) :
    Keeps a₀ (takeRun s i) := by
  unfold takeRun
  repeat' first
    | with_reducible assumption
    | extract_lets
    | with_reducible apply keeps_chargeRun
    | with_reducible apply keeps_promptDone
    | with_reducible apply keeps_failReq
    | with_reducible apply keeps_updStream
    | with_reducible apply keeps_bad
    | with_reducible apply keeps_ite
    | simp (zeta := false) only [keeps_mk_iff]
    | intro _
    | split

theorem keeps_drainGeneration {a₀ : State} (s : State) (hs : Keeps a₀ s) :
    Keeps a₀ (drainGeneration s) := by
  unfold drainGeneration
  repeat' first
    | with_reducible assumption
    | extract_lets
    | with_reducible apply keeps_post
    | with_reducible apply keeps_ite
    | simp (zeta := false) only [keeps_mk_iff]
    | intro _
    | split

theorem keeps_freeEntry {a₀ : State} (s : State) (i : Nat) (hs : Keeps a₀ s) :
    Keeps a₀ (freeEntry s i) := by
  unfold freeEntry
  repeat' first
    | with_reducible assumption
    | extract_lets
    | with_reducible apply keeps_drainGeneration
    | with_reducible apply keeps_waitersStop
    | with_reducible apply keeps_releaseKv
    | with_reducible apply keeps_releasePages
    | simp (zeta := false) only [keeps_mk_iff]

end Sys2Proof.Machine
end

