-- ==== Sys2Proof/Laws/KeepsCarding.lean ====
section
/-! SUPPORT. The operations of Machine/Carding.lean leave the queue, the fuses and the memory's form as they are. -/

set_option linter.all false

namespace Sys2Proof.Machine

open Sys2Proof

theorem keeps_freeLane {a₀ : State} (s : State) (f st : Nat) (hs : Keeps a₀ s) :
    Keeps a₀ (freeLane s f st) := by
  unfold freeLane
  repeat' first
    | with_reducible assumption
    | extract_lets
    | with_reducible apply keeps_ite
    | simp (zeta := false) only [keeps_mk_iff]
    | intro _
    | split

theorem keeps_askChunk {a₀ : State} (s : State) (f st : Nat) (hs : Keeps a₀ s) :
    Keeps a₀ (askChunk s f st) := by
  unfold askChunk
  repeat' first
    | with_reducible assumption
    | extract_lets
    | with_reducible apply keeps_freeLane
    | with_reducible apply keeps_issueReads
    | with_reducible apply keeps_ite
    | simp (zeta := false) only [keeps_mk_iff]
    | intro _
    | split

theorem keeps_takeIn {a₀ : State} (s : State) (lane f st : Nat) (hs : Keeps a₀ s) :
    Keeps a₀ (takeIn s lane f st) := by
  unfold takeIn
  repeat' first
    | with_reducible assumption
    | extract_lets
    | with_reducible apply keeps_askChunk
    | with_reducible apply keeps_updStream
    | with_reducible apply keeps_ite
    | simp (zeta := false) only [keeps_mk_iff]
    | intro _
    | split
    | (rename_i v; subst v)
    | (rename_i v _; subst v)
    | (rename_i v _ _; subst v)
    | (rename_i v _ _ _; subst v)
    | (rename_i v _ _ _ _; subst v)
    | (rename_i v _ _ _ _ _; subst v)
    | (rename_i v _ _ _ _ _ _; subst v)
    | (rename_i v _ _ _ _ _ _ _; subst v)

theorem keeps_rejectRun {a₀ : State} (s : State) (f st off : Nat) (hs : Keeps a₀ s) :
    Keeps a₀ (rejectRun s f st off) := by
  unfold rejectRun
  repeat' first
    | with_reducible assumption
    | extract_lets
    | with_reducible apply keeps_failReq
    | with_reducible apply keeps_logErr
    | with_reducible apply keeps_updStream
    | with_reducible apply keeps_ite
    | simp (zeta := false) only [keeps_mk_iff]
    | intro _
    | split

theorem keeps_closeRun {a₀ : State} (s : State) (f st : Nat) (hs : Keeps a₀ s) :
    Keeps a₀ (closeRun s f st) := by
  unfold closeRun
  repeat' first
    | with_reducible assumption
    | extract_lets
    | with_reducible apply keeps_rejectRun
    | with_reducible apply keeps_promptDone
    | with_reducible apply keeps_updStream
    | with_reducible apply keeps_bad
    | with_reducible apply keeps_ite
    | simp (zeta := false) only [keeps_mk_iff]
    | intro _
    | split
    | (rename_i v; subst v)
    | (rename_i v _; subst v)
    | (rename_i v _ _; subst v)
    | (rename_i v _ _ _; subst v)
    | (rename_i v _ _ _ _; subst v)
    | (rename_i v _ _ _ _ _; subst v)
    | (rename_i v _ _ _ _ _ _; subst v)
    | (rename_i v _ _ _ _ _ _ _; subst v)

theorem keeps_dropClosed {a₀ : State} (s : State) (f st : Nat) (hs : Keeps a₀ s) :
    Keeps a₀ (dropClosed s f st) := by
  unfold dropClosed
  repeat' first
    | with_reducible assumption
    | extract_lets
    | with_reducible apply keeps_updFn
    | with_reducible apply keeps_ite
    | simp (zeta := false) only [keeps_mk_iff]
    | intro _
    | split

theorem keeps_finishIn {a₀ : State} (s : State) (f st status count : Nat) (reject : Option Nat) (hs : Keeps a₀ s) :
    Keeps a₀ (finishIn s f st status count reject) := by
  unfold finishIn
  repeat' first
    | with_reducible assumption
    | extract_lets
    | with_reducible apply keeps_dropClosed
    | with_reducible apply keeps_closeRun
    | with_reducible apply keeps_rejectRun
    | with_reducible apply keeps_freeLane
    | with_reducible apply keeps_streamDone
    | with_reducible apply keeps_updStream
    | with_reducible apply keeps_ite
    | simp (zeta := false) only [keeps_mk_iff]
    | intro _
    | split
    | (rename_i v; subst v)
    | (rename_i v _; subst v)
    | (rename_i v _ _; subst v)
    | (rename_i v _ _ _; subst v)
    | (rename_i v _ _ _ _; subst v)
    | (rename_i v _ _ _ _ _; subst v)
    | (rename_i v _ _ _ _ _ _; subst v)
    | (rename_i v _ _ _ _ _ _ _; subst v)

theorem keeps_cardBytes {a₀ : State} (s : State) (f st : Nat) (x : Stream) (d : StrDesc) (b : List Byte) (hs : Keeps a₀ s) :
    Keeps a₀ (cardBytes s f st x d b) := by
  unfold cardBytes
  repeat' first
    | with_reducible assumption
    | extract_lets
    | with_reducible apply keeps_finishIn
    | with_reducible apply keeps_askChunk
    | with_reducible apply keeps_cnt
    | with_reducible apply keeps_updStream
    | with_reducible apply keeps_ite
    | simp (zeta := false) only [keeps_mk_iff]
    | intro _
    | split

theorem keeps_cardVals {a₀ : State} (s : State) (f st : Nat) (x : Stream) (d : StrDesc) (vals : List Nat) (hs : Keeps a₀ s) :
    Keeps a₀ (cardVals s f st x d vals) := by
  unfold cardVals
  repeat' first
    | with_reducible assumption
    | extract_lets
    | with_reducible apply keeps_finishIn
    | with_reducible apply keeps_askChunk
    | with_reducible apply keeps_cnt
    | with_reducible apply keeps_updStream
    | with_reducible apply keeps_ite
    | simp (zeta := false) only [keeps_mk_iff]
    | intro _
    | split
    | (rename_i v; subst v)
    | (rename_i v _; subst v)
    | (rename_i v _ _; subst v)
    | (rename_i v _ _ _; subst v)
    | (rename_i v _ _ _ _; subst v)
    | (rename_i v _ _ _ _ _; subst v)
    | (rename_i v _ _ _ _ _ _; subst v)
    | (rename_i v _ _ _ _ _ _ _; subst v)

theorem keeps_cardChunk {a₀ : State} (s : State) (lane : Nat) (read : HostRead) (hs : Keeps a₀ s) :
    Keeps a₀ (cardChunk s lane read) := by
  unfold cardChunk
  repeat' first
    | with_reducible assumption
    | extract_lets
    | with_reducible apply keeps_cardVals
    | with_reducible apply keeps_cardBytes
    | with_reducible apply keeps_finishIn
    | with_reducible apply keeps_useTable
    | with_reducible apply keeps_noteRead
    | with_reducible apply keeps_cnt
    | with_reducible apply keeps_ite
    | simp (zeta := false) only [keeps_mk_iff]
    | intro _
    | split

theorem keeps_stageTable {a₀ : State} (s : State) (h : Nat) (hs : Keeps a₀ s) :
    Keeps a₀ (stageTable s h) := by
  unfold stageTable
  repeat' first
    | with_reducible assumption
    | extract_lets
    | with_reducible apply keeps_evictTables
    | with_reducible apply keeps_ite
    | simp (zeta := false) only [keeps_mk_iff]
    | intro _
    | split

theorem keeps_feltTake {a₀ : State} (s : State) (lane i : Nat) (hs : Keeps a₀ s) :
    Keeps a₀ (feltTake s lane i) := by
  unfold feltTake
  repeat' first
    | with_reducible assumption
    | extract_lets
    | with_reducible apply keeps_serveOutput
    | with_reducible apply keeps_settleOutput
    | with_reducible apply keeps_felt
    | with_reducible apply keeps_ite
    | simp (zeta := false) only [keeps_mk_iff]
    | intro _
    | split
    | (rename_i v; subst v)
    | (rename_i v _; subst v)
    | (rename_i v _ _; subst v)
    | (rename_i v _ _ _; subst v)
    | (rename_i v _ _ _ _; subst v)
    | (rename_i v _ _ _ _ _; subst v)
    | (rename_i v _ _ _ _ _ _; subst v)
    | (rename_i v _ _ _ _ _ _ _; subst v)

end Sys2Proof.Machine
end

