-- ==== Sys2Proof/Laws/KeepsMailbox.lean ====
section
/-! SUPPORT. The operations of Machine/Mailbox.lean leave the queue, the fuses and the memory's form as they are. -/

set_option linter.all false

namespace Sys2Proof.Machine

open Sys2Proof

theorem keeps_slotWrite {a₀ : State} (s : State) (f off width : Nat) (v : DWord) (hs : Keeps a₀ s) :
    Keeps a₀ (slotWrite s f off width v) := by
  unfold slotWrite
  repeat' first
    | with_reducible assumption
    | extract_lets
    | with_reducible apply keeps_putSlot
    | with_reducible apply keeps_refuseAccess
    | with_reducible apply keeps_cnt
    | with_reducible apply keeps_ite
    | intro _
    | split

theorem keeps_queueCmd {a₀ : State} (s : State) (f slot : Nat) (b : List Byte) (hs : Keeps a₀ s) :
    Keeps a₀ (queueCmd s f slot b) := by
  unfold queueCmd
  repeat' first
    | with_reducible assumption
    | extract_lets
    | with_reducible apply keeps_updFn
    | simp (zeta := false) only [keeps_mk_iff]
    | intro _

theorem keeps_submitSlot {a₀ : State} (s : State) (f slot : Nat) (hs : Keeps a₀ s) :
    Keeps a₀ (submitSlot s f slot) := by
  unfold submitSlot
  repeat' first
    | with_reducible assumption
    | extract_lets
    | with_reducible apply keeps_queueCmd
    | with_reducible apply keeps_completeSlot
    | with_reducible apply keeps_cnt
    | with_reducible apply keeps_updFn
    | with_reducible apply keeps_ite
    | simp (zeta := false) only [keeps_mk_iff]
    | intro _
    | split

theorem keeps_mailboxDoorbell {a₀ : State} (s : State) (f : Nat) (v : Word) (hs : Keeps a₀ s) :
    Keeps a₀ (mailboxDoorbell s f v) := by
  unfold mailboxDoorbell
  repeat' first
    | with_reducible assumption
    | with_reducible apply keeps_submitSlot
    | with_reducible apply keeps_refuseAccess
    | with_reducible apply keeps_ite
    | with_reducible apply keeps_foldl
    | intro _
    | split

theorem keeps_bad {a₀ : State} (s : State) (status detail : Nat) (hs : Keeps a₀ s) :
    Keeps a₀ (bad s status detail).1 := by
  unfold bad
  repeat' first
    | with_reducible assumption
    | with_reducible apply keeps_ite_fst

theorem keeps_good {a₀ : State} (s : State) (resp : List Byte) (hs : Keeps a₀ s) :
    Keeps a₀ (good s resp).1 := by
  unfold good
  repeat' first
    | with_reducible assumption
    | with_reducible apply keeps_ite_fst

theorem keeps_running {a₀ : State} (s : State) (hs : Keeps a₀ s) :
    Keeps a₀ (running s).1 := by
  unfold running
  repeat' first
    | with_reducible assumption
    | with_reducible apply keeps_ite_fst

theorem keeps_fields {a₀ : State} (s : State) (l : List (Bool × Nat)) (k : Ran) (hs : Keeps a₀ s) (hk : Keeps a₀ k.1) :
    Keeps a₀ (fields s l k).1 := by
  unfold fields
  repeat' first
    | with_reducible assumption
    | extract_lets
    | with_reducible apply keeps_bad
    | with_reducible apply keeps_ite_fst
    | simp (zeta := false) only [keeps_mk_iff]
    | split

theorem keeps_updCmd {a₀ : State} (s : State) (f slot : Nat) (g : Cmd → Cmd) (hs : Keeps a₀ s) :
    Keeps a₀ (updCmd s f slot g) := by
  unfold updCmd
  repeat' first
    | with_reducible assumption
    | extract_lets
    | with_reducible apply keeps_updFn
    | with_reducible apply keeps_ite
    | simp (zeta := false) only [keeps_mk_iff]
    | intro _
    | split

theorem keeps_beginCmd {a₀ : State} (s : State) (f slot : Nat) (pre : State → List Byte → State) (hs : Keeps a₀ s) (hpre : ∀ x0 x1, Keeps a₀ x0 → Keeps a₀ (pre x0 x1)) :
    Keeps a₀ (beginCmd s f slot pre) := by
  unfold beginCmd
  repeat' first
    | with_reducible assumption
    | extract_lets
    | with_reducible apply hpre
    | with_reducible apply keeps_updCmd
    | with_reducible apply keeps_ite
    | simp (zeta := false) only [keeps_mk_iff]
    | intro _
    | split
    | (rename_i v; subst v)
    | (rename_i v _; subst v)
    | (rename_i v _ _; subst v)
    | (rename_i v _ _ _; subst v)
    | (rename_i v _ _ _ _; subst v)
    | (rename_i v _ _ _ _ _; subst v)
    | (rename_i v _ _ _ _ _ _; subst v)
    | (rename_i v _ _ _ _ _ _ _; subst v)

theorem keeps_checked {a₀ : State} (s : State) (f slot : Nat) (body : State → List Byte → Ran) (hs : Keeps a₀ s) (hbody : ∀ x0 x1, Keeps a₀ x0 → Keeps a₀ (body x0 x1).1) :
    Keeps a₀ (checked s f slot body).1 := by
  unfold checked
  repeat' first
    | with_reducible assumption
    | extract_lets
    | with_reducible apply hbody
    | with_reducible apply keeps_ite
    | with_reducible apply keeps_ite_fst
    | simp (zeta := false) only [keeps_mk_iff]
    | intro _
    | split

theorem keeps_startCmd {a₀ : State} (s : State) (f slot : Nat) (body : State → List Byte → Ran) (hs : Keeps a₀ s) (hbody : ∀ x0 x1, Keeps a₀ x0 → Keeps a₀ (body x0 x1).1) :
    Keeps a₀ (startCmd s f slot body) := by
  unfold startCmd
  repeat' first
    | with_reducible assumption
    | extract_lets
    | with_reducible apply hbody
    | with_reducible apply keeps_checked
    | with_reducible apply keeps_updCmd
    | with_reducible apply keeps_ite
    | simp (zeta := false) only [keeps_mk_iff]
    | intro _
    | split

theorem keeps_reserveCmd {a₀ : State} (s : State) (f slot : Nat) (body : State → List Byte → Ran) (hs : Keeps a₀ s) (hbody : ∀ x0 x1, Keeps a₀ x0 → Keeps a₀ (body x0 x1).1) :
    Keeps a₀ (reserveCmd s f slot body) := by
  unfold reserveCmd
  repeat' first
    | with_reducible assumption
    | extract_lets
    | with_reducible apply hbody
    | with_reducible apply keeps_checked
    | with_reducible apply keeps_updCmd
    | with_reducible apply keeps_ite
    | simp (zeta := false) only [keeps_mk_iff]
    | intro _
    | split

theorem keeps_pumpReads {a₀ : State} (f slot : Nat) (w0 : Nat) (w1 : State) (hw1 : Keeps a₀ w1) :
    Keeps a₀ (pumpReads f slot w0 w1) := by
  induction w0 generalizing w1 with
  | zero => unfold pumpReads; repeat' first | assumption | split
  | succ _ ih =>
   unfold pumpReads
   repeat' first
    | with_reducible assumption
    | with_reducible apply ih
    | extract_lets
    | with_reducible apply keeps_updCmd
    | with_reducible apply keeps_issueRead
    | with_reducible apply keeps_ite
    | simp (zeta := false) only [keeps_mk_iff]
    | intro _
    | split

theorem keeps_pumpAll {a₀ : State} (s : State) (f : Nat) (hs : Keeps a₀ s) :
    Keeps a₀ (pumpAll s f) := by
  unfold pumpAll
  repeat' first
    | with_reducible assumption
    | extract_lets
    | with_reducible apply keeps_pumpReads
    | with_reducible apply keeps_ite
    | simp (zeta := false) only [keeps_mk_iff]
    | with_reducible apply keeps_foldl
    | intro _
    | split

theorem keeps_askImage {a₀ : State} (s : State) (f slot dva len : Nat) (hs : Keeps a₀ s) :
    Keeps a₀ (askImage s f slot dva len) := by
  unfold askImage
  repeat' first
    | with_reducible assumption
    | extract_lets
    | with_reducible apply keeps_pumpReads
    | with_reducible apply keeps_updCmd
    | with_reducible apply keeps_ite
    | simp (zeta := false) only [keeps_mk_iff]
    | intro _
    | split

theorem keeps_settleCmds {a₀ : State} (s : State) (f op : Nat) (o : Cmd → Option CmdOutcome) (hs : Keeps a₀ s) :
    Keeps a₀ (settleCmds s f op o) := by
  unfold settleCmds
  repeat' first
    | with_reducible assumption
    | extract_lets
    | with_reducible apply keeps_updFn
    | with_reducible apply keeps_ite
    | simp (zeta := false) only [keeps_mk_iff]
    | intro _
    | split

end Sys2Proof.Machine
end

