-- ==== Sys2Proof/Laws/KeepsObjects.lean ====
section
/-! SUPPORT. The operations of Machine/Objects.lean leave the queue, the fuses and the memory's form as they are. -/

set_option linter.all false

namespace Sys2Proof.Machine

open Sys2Proof

theorem keeps_dropRange {a₀ : State} (s : State) (asid : Nat) (r : Region) (hs : Keeps a₀ s) :
    Keeps a₀ (dropRange s asid r) := by
  unfold dropRange
  repeat' first
    | with_reducible assumption
    | extract_lets
    | with_reducible apply keeps_ite
    | simp (zeta := false) only [keeps_mk_iff]
    | intro _
    | split

theorem keeps_dropAsid {a₀ : State} (s : State) (f : Nat) (hs : Keeps a₀ s) :
    Keeps a₀ (dropAsid s f) := by
  unfold dropAsid
  repeat' first
    | with_reducible assumption
    | extract_lets
    | simp (zeta := false) only [keeps_mk_iff]
    | intro _

theorem keeps_dropRegion {a₀ : State} (s : State) (h : Nat) (hs : Keeps a₀ s) :
    Keeps a₀ (dropRegion s h) := by
  unfold dropRegion
  repeat' first
    | with_reducible assumption
    | extract_lets
    | with_reducible apply keeps_dropRange
    | with_reducible apply keeps_releasePages
    | simp (zeta := false) only [keeps_mk_iff]
    | split

theorem keeps_dropVocab {a₀ : State} (s : State) (h : Nat) (hs : Keeps a₀ s) :
    Keeps a₀ (dropVocab s h) := by
  unfold dropVocab
  repeat' first
    | with_reducible assumption
    | extract_lets
    | with_reducible apply keeps_releasePages
    | simp (zeta := false) only [keeps_mk_iff]

theorem keeps_dropTable {a₀ : State} (s : State) (h : Nat) (hs : Keeps a₀ s) :
    Keeps a₀ (dropTable s h) := by
  unfold dropTable
  repeat' first
    | with_reducible assumption
    | extract_lets
    | with_reducible apply keeps_releasePages
    | simp (zeta := false) only [keeps_mk_iff]

theorem keeps_dropGrammar {a₀ : State} (s : State) (h : Nat) (hs : Keeps a₀ s) :
    Keeps a₀ (dropGrammar s h) := by
  unfold dropGrammar
  repeat' first
    | with_reducible assumption
    | extract_lets
    | with_reducible apply keeps_releasePages
    | simp (zeta := false) only [keeps_mk_iff]

theorem keeps_handBank {a₀ : State} (s : State) (d b owner : Nat) (hs : Keeps a₀ s) :
    Keeps a₀ (handBank s d b owner) := by
  unfold handBank
  repeat' first
    | with_reducible assumption
    | extract_lets
    | with_reducible apply keeps_zeroBank
    | with_reducible apply keeps_updBank
    | with_reducible apply keeps_ite
    | simp (zeta := false) only [keeps_mk_iff]
    | intro _
    | split

theorem keeps_clearClusters {a₀ : State} (s : State) (d dense stream : Nat) (hs : Keeps a₀ s) :
    Keeps a₀ (clearClusters s d dense stream) := by
  unfold clearClusters
  repeat' first
    | with_reducible assumption
    | extract_lets
    | with_reducible apply keeps_updDie
    | with_reducible apply keeps_ite
    | simp (zeta := false) only [keeps_mk_iff]
    | intro _
    | split

theorem keeps_freeClusters {a₀ : State} (s : State) (m : Model) (hs : Keeps a₀ s) :
    Keeps a₀ (freeClusters s m) := by
  unfold freeClusters
  repeat' first
    | with_reducible assumption
    | extract_lets
    | with_reducible apply keeps_clearClusters
    | with_reducible apply keeps_ite
    | simp (zeta := false) only [keeps_mk_iff]
    | with_reducible apply keeps_foldl
    | intro _
    | split

theorem keeps_ownClusters {a₀ : State} (s : State) (d : Nat) (hs : Keeps a₀ s) :
    Keeps a₀ (ownClusters s d) := by
  unfold ownClusters
  repeat' first
    | with_reducible assumption
    | extract_lets
    | with_reducible apply keeps_updDie
    | with_reducible apply keeps_ite
    | simp (zeta := false) only [keeps_mk_iff]
    | with_reducible apply keeps_foldl
    | intro _
    | split

theorem keeps_freeBanks {a₀ : State} (s : State) (m : Model) (hs : Keeps a₀ s) :
    Keeps a₀ (freeBanks s m) := by
  unfold freeBanks
  repeat' first
    | with_reducible assumption
    | with_reducible apply keeps_handBank
    | with_reducible apply keeps_foldl
    | intro _

theorem keeps_dropModel {a₀ : State} (s : State) (h : Nat) (seize : Bool) (hs : Keeps a₀ s) :
    Keeps a₀ (dropModel s h seize) := by
  unfold dropModel
  repeat' first
    | with_reducible assumption
    | extract_lets
    | with_reducible apply keeps_freeBanks
    | with_reducible apply keeps_freeClusters
    | with_reducible apply keeps_dropVocab
    | with_reducible apply keeps_seizeBank
    | with_reducible apply keeps_releasePages
    | with_reducible apply keeps_ite
    | simp (zeta := false) only [keeps_mk_iff]
    | with_reducible apply keeps_foldl
    | intro _
    | split

theorem keeps_dropBuilt {a₀ : State} (s : State) (f slot : Nat) (hs : Keeps a₀ s) :
    Keeps a₀ (dropBuilt s f slot) := by
  unfold dropBuilt
  repeat' first
    | with_reducible assumption
    | extract_lets
    | with_reducible apply keeps_dropModel
    | with_reducible apply keeps_dropGrammar
    | with_reducible apply keeps_dropTable
    | with_reducible apply keeps_dropVocab
    | with_reducible apply keeps_dropRegion
    | with_reducible apply keeps_ite
    | simp (zeta := false) only [keeps_mk_iff]
    | with_reducible apply keeps_foldl
    | with_reducible apply keeps_foldl_fst
    | intro _
    | split

theorem keeps_showBuilt {a₀ : State} (s : State) (f slot : Nat) (hs : Keeps a₀ s) :
    Keeps a₀ (showBuilt s f slot) := by
  unfold showBuilt
  repeat' first
    | with_reducible assumption
    | extract_lets
    | with_reducible apply keeps_ite
    | simp (zeta := false) only [keeps_mk_iff]
    | intro _
    | split

theorem keeps_failRead {a₀ : State} (s : State) (f slot : Nat) (o : CmdOutcome) (hs : Keeps a₀ s) :
    Keeps a₀ (failRead s f slot o) := by
  unfold failRead
  repeat' first
    | with_reducible assumption
    | extract_lets
    | with_reducible apply keeps_dropBuilt
    | with_reducible apply keeps_updCmd
    | with_reducible apply keeps_ite
    | simp (zeta := false) only [keeps_mk_iff]
    | intro _
    | split

theorem keeps_dropObjects {a₀ : State} (s : State) (f : Nat) (hs : Keeps a₀ s) :
    Keeps a₀ (dropObjects s f) := by
  unfold dropObjects
  repeat' first
    | with_reducible assumption
    | extract_lets
    | with_reducible apply keeps_dropModel
    | with_reducible apply keeps_dropGrammar
    | with_reducible apply keeps_dropTable
    | with_reducible apply keeps_dropVocab
    | with_reducible apply keeps_dropRegion
    | with_reducible apply keeps_foldl
    | intro _

theorem keeps_seizeBanksOf {a₀ : State} (s : State) (f : Nat) (hs : Keeps a₀ s) :
    Keeps a₀ (seizeBanksOf s f) := by
  unfold seizeBanksOf
  repeat' first
    | with_reducible assumption
    | with_reducible apply keeps_seizeBank
    | with_reducible apply keeps_ite
    | with_reducible apply keeps_foldl
    | intro _
    | split

end Sys2Proof.Machine
end

