-- ==== Sys2Proof/Laws/KeepsPower.lean ====
section
/-! SUPPORT. The operations of Machine/Power.lean leave the queue, the fuses and the memory's form as they are. -/

set_option linter.all false

namespace Sys2Proof.Machine

open Sys2Proof

theorem keeps_packageReset {a₀ : State} (s : State) (last : Nat) (hot : Bool) (hs : Keeps a₀ s) :
    Keeps a₀ (packageReset s last hot) := by
  unfold packageReset
  apply keeps_noteHealth
  exact ⟨hs.pending, hs.hbFuses, fun _ => rfl⟩

theorem keeps_powerOnReset {a₀ : State} (s : State) (hs : Keeps a₀ s) :
    Keeps a₀ (powerOnReset s) := by
  exact ⟨hs.pending, hs.hbFuses, fun _ => rfl⟩

theorem keeps_allLoopback {a₀ : State} (s : State) (hs : Keeps a₀ s) :
    Keeps a₀ (allLoopback s) := by
  unfold allLoopback
  repeat' first
    | with_reducible assumption
    | extract_lets
    | with_reducible apply keeps_updLink
    | simp (zeta := false) only [keeps_mk_iff]
    | with_reducible apply keeps_foldl
    | intro _

theorem keeps_startUp {a₀ : State} (s : State) (hs : Keeps a₀ s) :
    Keeps a₀ (startUp s) := by
  unfold startUp
  repeat' first
    | with_reducible assumption
    | extract_lets
    | with_reducible apply keeps_allLoopback
    | with_reducible apply keeps_setStage
    | with_reducible apply keeps_bootLog
    | with_reducible apply keeps_ite
    | simp (zeta := false) only [keeps_mk_iff]
    | intro _
    | split
    | (rename_i v; subst v)
    | (rename_i v _; subst v)
    | (rename_i v _ _; subst v)
    | (rename_i v _ _ _; subst v)
    | (rename_i v _ _ _ _; subst v)
    | (rename_i v _ _ _ _ _; subst v)
    | (rename_i v _ _ _ _ _ _; subst v)
    | (rename_i v _ _ _ _ _ _ _; subst v)

theorem keeps_updFw {a₀ : State} (s : State) (c : Nat) (g : FwComp → FwComp) (hs : Keeps a₀ s) :
    Keeps a₀ (updFw s c g) := by
  unfold updFw
  repeat' first
    | with_reducible assumption
    | extract_lets
    | simp (zeta := false) only [keeps_mk_iff]

theorem keeps_takeCopy {a₀ : State} (s : State) (c : Nat) {r : State} (hr : takeCopy s c = some r) (hs : Keeps a₀ s) :
    Keeps a₀ r := by
  unfold takeCopy at hr
  repeat' first
    | (cases hr; done)
    | (simp only [Option.some.injEq, Prod.mk.injEq] at hr)
    | (obtain ⟨rfl, rfl⟩ := hr)
    | subst hr
    | extract_lets at hr
    | split at hr
  all_goals
   repeat' first
    | with_reducible assumption
    | extract_lets
    | with_reducible apply keeps_updFw
    | with_reducible apply keeps_bootLog
    | with_reducible apply keeps_ite
    | simp (zeta := false) only [keeps_mk_iff]
    | intro _
    | split
    | split

theorem keeps_risePwr {a₀ : State} (s : State) (smb : BitVec 2) (hs : Keeps a₀ s) :
    Keeps a₀ (risePwr s smb) := by
  unfold risePwr
  repeat' first
    | with_reducible refine keeps_getD (fun t ht => keeps_takeCopy (hr := ht) (hs := ?_) ..) ?_
    | with_reducible assumption
    | extract_lets
    | with_reducible refine keeps_takeCopy (hr := by assumption) (hs := ?_) ..
    | with_reducible apply keeps_powerOnReset
    | simp (zeta := false) only [keeps_mk_iff]

theorem keeps_fallPwr {a₀ : State} (s : State) (hs : Keeps a₀ s) :
    Keeps a₀ (fallPwr s) := by
  unfold fallPwr
  repeat' first
    | with_reducible assumption
    | extract_lets
    | with_reducible apply keeps_powerOnReset
    | simp (zeta := false) only [keeps_mk_iff]

theorem keeps_assertPerst {a₀ : State} (s : State) (hs : Keeps a₀ s) :
    Keeps a₀ (assertPerst s) := by
  unfold assertPerst
  repeat' first
    | with_reducible assumption
    | extract_lets
    | with_reducible apply keeps_packageReset
    | simp (zeta := false) only [keeps_mk_iff]

theorem keeps_deassertPerst {a₀ : State} (s : State) (straps : Straps) (early : Bool) (hs : Keeps a₀ s) :
    Keeps a₀ (deassertPerst s straps early) := by
  unfold deassertPerst
  repeat' first
    | with_reducible assumption
    | extract_lets
    | with_reducible apply keeps_startUp
    | with_reducible apply keeps_ite
    | simp (zeta := false) only [keeps_mk_iff]
    | intro _
    | split
    | (rename_i v; subst v)
    | (rename_i v _; subst v)
    | (rename_i v _ _; subst v)
    | (rename_i v _ _ _; subst v)
    | (rename_i v _ _ _ _; subst v)
    | (rename_i v _ _ _ _ _; subst v)
    | (rename_i v _ _ _ _ _ _; subst v)
    | (rename_i v _ _ _ _ _ _ _; subst v)

theorem keeps_takeDeassertion {a₀ : State} (s : State) (straps : Straps) (hs : Keeps a₀ s) :
    Keeps a₀ (takeDeassertion s straps) := by
  unfold takeDeassertion
  repeat' first
    | with_reducible assumption
    | extract_lets
    | with_reducible apply keeps_startUp
    | simp (zeta := false) only [keeps_mk_iff]

theorem keeps_keepFatal {a₀ : State} (old s : State) (hold : Keeps a₀ old) (hs : Keeps a₀ s) :
    Keeps a₀ (keepFatal old s) := by
  unfold keepFatal
  repeat' first
    | with_reducible assumption
    | extract_lets
    | with_reducible apply keeps_ite
    | simp (zeta := false) only [keeps_mk_iff]
    | intro _
    | split

theorem keeps_hotReset {a₀ : State} (s : State) (dlDown : Bool) (hs : Keeps a₀ s) :
    Keeps a₀ (hotReset s dlDown) := by
  unfold hotReset
  repeat' first
    | with_reducible assumption
    | extract_lets
    | with_reducible apply keeps_keepFatal
    | with_reducible apply keeps_startUp
    | with_reducible apply keeps_packageReset
    | with_reducible apply keeps_ite
    | simp (zeta := false) only [keeps_mk_iff]
    | intro _
    | split

theorem keeps_dieClockLost {a₀ : State} (s : State) (d : Nat) (hs : Keeps a₀ s) :
    Keeps a₀ (dieClockLost s d) := by
  unfold dieClockLost
  repeat' first
    | with_reducible assumption
    | extract_lets
    | with_reducible apply keeps_endTraining
    | with_reducible apply keeps_endDieFw
    | with_reducible apply keeps_loseDie
    | with_reducible apply keeps_updDie
    | with_reducible apply keeps_ite
    | simp (zeta := false) only [keeps_mk_iff]
    | intro _
    | split

theorem keeps_railFault {a₀ : State} (s : State) (r : Rail) (hs : Keeps a₀ s) :
    Keeps a₀ (railFault s r) := by
  unfold railFault
  repeat' first
    | with_reducible assumption
    | extract_lets
    | with_reducible apply keeps_dieClockLost
    | with_reducible apply keeps_fallPwr
    | simp (zeta := false) only [keeps_mk_iff]
    | split

theorem keeps_lockCrest {a₀ : State} (s : State) (d : Nat) (hs : Keeps a₀ s) :
    Keeps a₀ (lockCrest s d) := by
  unfold lockCrest
  repeat' first
    | with_reducible assumption
    | extract_lets
    | with_reducible apply keeps_updLink
    | with_reducible apply keeps_updDie
    | with_reducible apply keeps_ite
    | simp (zeta := false) only [keeps_mk_iff]
    | with_reducible apply keeps_foldl
    | intro _
    | split

end Sys2Proof.Machine
end

