-- ==== Sys2Proof/Laws/KeepsBoot.lean ====
section
/-! SUPPORT. The operations of Machine/Boot.lean leave the queue, the fuses and the memory's form as they are. -/

set_option linter.all false

namespace Sys2Proof.Machine

open Sys2Proof

theorem keeps_startSlinks {a₀ : State} (s : State) (hs : Keeps a₀ s) :
    Keeps a₀ (startSlinks s) := by
  unfold startSlinks
  repeat' first
    | with_reducible assumption
    | extract_lets
    | with_reducible apply keeps_updLink
    | with_reducible apply keeps_ite
    | simp (zeta := false) only [keeps_mk_iff]
    | with_reducible apply keeps_foldl
    | intro _
    | split

theorem keeps_verifyFw {a₀ : State} (s : State) (hs : Keeps a₀ s) :
    Keeps a₀ (verifyFw s) := by
  unfold verifyFw
  repeat' first
    | with_reducible assumption
    | extract_lets
    | with_reducible apply keeps_startSlinks
    | with_reducible refine keeps_takeCopy (hr := by assumption) (hs := ?_) ..
    | with_reducible apply keeps_deviceFatal
    | with_reducible apply keeps_setStage
    | simp (zeta := false) only [keeps_mk_iff]
    | split

theorem keeps_mismatch {a₀ : State} (s : State) (causes : List Nat) (hs : Keeps a₀ s) :
    Keeps a₀ (mismatch s causes) := by
  unfold mismatch
  repeat' first
    | with_reducible assumption
    | extract_lets
    | with_reducible apply keeps_deviceFatal
    | with_reducible apply keeps_bootLog
    | with_reducible apply keeps_ite
    | simp (zeta := false) only [keeps_mk_iff]
    | with_reducible apply keeps_foldl
    | intro _
    | split
    | (rename_i v; subst v)
    | (rename_i v _; subst v)
    | (rename_i v _ _; subst v)
    | (rename_i v _ _ _; subst v)
    | (rename_i v _ _ _ _; subst v)
    | (rename_i v _ _ _ _ _; subst v)
    | (rename_i v _ _ _ _ _ _; subst v)
    | (rename_i v _ _ _ _ _ _ _; subst v)

theorem keeps_endRollCall {a₀ : State} (s : State) (hs : Keeps a₀ s) :
    Keeps a₀ (endRollCall s) := by
  unfold endRollCall
  repeat' first
    | with_reducible assumption
    | extract_lets
    | with_reducible apply keeps_deviceFatal
    | with_reducible apply keeps_setStage
    | with_reducible apply keeps_ite
    | simp (zeta := false) only [keeps_mk_iff]
    | intro _
    | split
    | (rename_i v; subst v)
    | (rename_i v _; subst v)
    | (rename_i v _ _; subst v)
    | (rename_i v _ _ _; subst v)
    | (rename_i v _ _ _ _; subst v)
    | (rename_i v _ _ _ _ _; subst v)
    | (rename_i v _ _ _ _ _ _; subst v)
    | (rename_i v _ _ _ _ _ _ _; subst v)

theorem keeps_answer {a₀ : State} (s : State) (port : Nat) (hs : Keeps a₀ s) :
    Keeps a₀ (answer s port) := by
  unfold answer
  repeat' first
    | with_reducible assumption
    | extract_lets
    | with_reducible apply keeps_endRollCall
    | with_reducible apply keeps_mismatch
    | with_reducible apply keeps_updDie
    | simp (zeta := false) only [keeps_mk_iff]
    | intro _
    | (rename_i v; subst v)
    | (rename_i v _; subst v)
    | (rename_i v _ _; subst v)
    | (rename_i v _ _ _; subst v)
    | (rename_i v _ _ _ _; subst v)
    | (rename_i v _ _ _ _ _; subst v)
    | (rename_i v _ _ _ _ _ _; subst v)
    | (rename_i v _ _ _ _ _ _ _; subst v)

theorem keeps_silentPort {a₀ : State} (s : State) (port : Nat) (hs : Keeps a₀ s) :
    Keeps a₀ (silentPort s port) := by
  unfold silentPort
  repeat' first
    | with_reducible assumption
    | extract_lets
    | with_reducible apply keeps_endRollCall
    | with_reducible apply keeps_mismatch
    | with_reducible apply keeps_post
    | with_reducible apply keeps_ite
    | simp (zeta := false) only [keeps_mk_iff]
    | intro _
    | split
    | (rename_i v; subst v)
    | (rename_i v _; subst v)
    | (rename_i v _ _; subst v)
    | (rename_i v _ _ _; subst v)
    | (rename_i v _ _ _ _; subst v)
    | (rename_i v _ _ _ _ _; subst v)
    | (rename_i v _ _ _ _ _ _; subst v)
    | (rename_i v _ _ _ _ _ _ _; subst v)

theorem keeps_exchange {a₀ : State} (s : State) (l : Nat) (atFirst : Bool) (pos : BitVec 2) (hs : Keeps a₀ s) :
    Keeps a₀ (exchange s l atFirst pos) := by
  unfold exchange
  repeat' first
    | with_reducible assumption
    | extract_lets
    | with_reducible apply keeps_endRollCall
    | with_reducible apply keeps_mismatch
    | with_reducible apply keeps_good
    | with_reducible apply keeps_updDie
    | with_reducible apply keeps_ite
    | simp (zeta := false) only [keeps_mk_iff]
    | intro _
    | split
    | (rename_i v; subst v)
    | (rename_i v _; subst v)
    | (rename_i v _ _; subst v)
    | (rename_i v _ _ _; subst v)
    | (rename_i v _ _ _ _; subst v)
    | (rename_i v _ _ _ _ _; subst v)
    | (rename_i v _ _ _ _ _ _; subst v)
    | (rename_i v _ _ _ _ _ _ _; subst v)

theorem keeps_exchangeTimeout {a₀ : State} (s : State) (l : Nat) (hs : Keeps a₀ s) :
    Keeps a₀ (exchangeTimeout s l) := by
  unfold exchangeTimeout
  repeat' first
    | with_reducible assumption
    | extract_lets
    | with_reducible apply keeps_endRollCall
    | with_reducible apply keeps_linkDead
    | with_reducible apply keeps_post
    | simp (zeta := false) only [keeps_mk_iff]
    | (rename_i v; subst v)
    | (rename_i v _; subst v)
    | (rename_i v _ _; subst v)
    | (rename_i v _ _ _; subst v)
    | (rename_i v _ _ _ _; subst v)
    | (rename_i v _ _ _ _ _; subst v)
    | (rename_i v _ _ _ _ _ _; subst v)
    | (rename_i v _ _ _ _ _ _ _; subst v)

theorem keeps_avsAck {a₀ : State} (s : State) (d : Nat) (hs : Keeps a₀ s) :
    Keeps a₀ (avsAck s d) := by
  unfold avsAck
  repeat' first
    | with_reducible assumption
    | extract_lets
    | with_reducible apply keeps_updDie
    | simp (zeta := false) only [keeps_mk_iff]
    | intro _

theorem keeps_avsSettled {a₀ : State} (s : State) (d : Nat) (hs : Keeps a₀ s) :
    Keeps a₀ (avsSettled s d) := by
  unfold avsSettled
  repeat' first
    | with_reducible assumption
    | extract_lets
    | with_reducible apply keeps_avsTowards
    | with_reducible apply keeps_updDie
    | simp (zeta := false) only [keeps_mk_iff]
    | intro _

theorem keeps_avsFails {a₀ : State} (s : State) (d : Nat) (hs : Keeps a₀ s) :
    Keeps a₀ (avsFails s d) := by
  unfold avsFails
  repeat' first
    | with_reducible assumption
    | extract_lets
    | with_reducible apply keeps_logErr
    | with_reducible apply keeps_bootLog
    | with_reducible apply keeps_updDie
    | with_reducible apply keeps_ite
    | simp (zeta := false) only [keeps_mk_iff]
    | intro _
    | split

theorem keeps_dieFwLoaded {a₀ : State} (s : State) (d : Nat) (ok : Bool) (hs : Keeps a₀ s) :
    Keeps a₀ (dieFwLoaded s d ok) := by
  unfold dieFwLoaded
  repeat' first
    | with_reducible assumption
    | extract_lets
    | with_reducible apply keeps_endDieFw
    | with_reducible refine keeps_takeCopy (hr := by assumption) (hs := ?_) ..
    | with_reducible apply keeps_excludeDie
    | with_reducible apply keeps_ite
    | simp (zeta := false) only [keeps_mk_iff]
    | intro _
    | split
    | (have h := ‹_ = some _›; revert h; split <;> intro h)
    | with_reducible exact keeps_takeCopy (hr := by assumption) (hs := by assumption) ..
    | contradiction

theorem keeps_selfCalDone {a₀ : State} (s : State) (hs : Keeps a₀ s) :
    Keeps a₀ (selfCalDone s) := by
  unfold selfCalDone
  repeat' first
    | with_reducible assumption
    | extract_lets
    | with_reducible apply keeps_setStage
    | with_reducible apply keeps_ite
    | simp (zeta := false) only [keeps_mk_iff]
    | intro _
    | split

theorem keeps_trainingDone {a₀ : State} (s : State) (c : Nat) (ok : Bool) (hs : Keeps a₀ s) :
    Keeps a₀ (trainingDone s c ok) := by
  unfold trainingDone
  repeat' first
    | with_reducible assumption
    | extract_lets
    | with_reducible apply keeps_endTraining
    | with_reducible apply keeps_excludeDie
    | with_reducible apply keeps_deviceFatal
    | with_reducible apply keeps_updDie
    | with_reducible apply keeps_ite
    | simp (zeta := false) only [keeps_mk_iff]
    | intro _
    | split

theorem keeps_bootRetire {a₀ : State} (s : State) (page line : Nat) (hs : Keeps a₀ s) :
    Keeps a₀ (bootRetire s page line) := by
  unfold bootRetire
  repeat' first
    | with_reducible assumption
    | with_reducible apply keeps_retirePage
    | with_reducible apply keeps_bootLog

theorem keeps_memInit {a₀ : State} (s : State) (r : InitReport) (hs : Keeps a₀ s) :
    Keeps a₀ (memInit s r) := by
  unfold memInit
  repeat' first
    | with_reducible assumption
    | extract_lets
    | with_reducible apply keeps_bootRetire
    | with_reducible apply keeps_excludeDie
    | with_reducible apply keeps_deviceFatal
    | with_reducible apply keeps_setStage
    | with_reducible refine keeps_putMem _ _ ?_ (by first | exact Memory.wf_cellsWrite _ _ | exact Memory.wf_cellsZero _ _ | exact Memory.wf_dvaCells _ _ _ _ | exact Memory.wf_bar2Cells _ _ _ _ _ | exact fun _ => Memory.wf_nil | exact fun h => Memory.wf_foldl _ _ _ (Memory.wf_cellsZero _ _ h))
    | with_reducible apply keeps_updBank
    | with_reducible apply keeps_ite
    | simp (zeta := false) only [keeps_mk_iff]
    | with_reducible apply keeps_foldl
    | intro _
    | split
    | (rename_i v; subst v)
    | (rename_i v _; subst v)
    | (rename_i v _ _; subst v)
    | (rename_i v _ _ _; subst v)
    | (rename_i v _ _ _ _; subst v)
    | (rename_i v _ _ _ _ _; subst v)
    | (rename_i v _ _ _ _ _ _; subst v)
    | (rename_i v _ _ _ _ _ _ _; subst v)

theorem keeps_readyBanks {a₀ : State} (s : State) (hs : Keeps a₀ s) :
    Keeps a₀ (readyBanks s) := by
  unfold readyBanks
  repeat' first
    | with_reducible assumption
    | extract_lets
    | with_reducible apply keeps_updBank
    | with_reducible apply keeps_ite
    | simp (zeta := false) only [keeps_mk_iff]
    | with_reducible apply keeps_foldl
    | intro _
    | split

theorem keeps_onFloor {a₀ : State} (s : State) (d : Nat) (hs : Keeps a₀ s) :
    Keeps a₀ (onFloor s d) := by
  unfold onFloor
  repeat' first
    | with_reducible assumption
    | extract_lets
    | with_reducible apply keeps_updDom
    | simp (zeta := false) only [keeps_mk_iff]
    | intro _

theorem keeps_startTides {a₀ : State} (s : State) (hs : Keeps a₀ s) :
    Keeps a₀ (startTides s) := by
  unfold startTides
  repeat' first
    | with_reducible assumption
    | with_reducible apply keeps_onFloor
    | with_reducible apply keeps_foldl
    | intro _

theorem keeps_setReady {a₀ : State} (s : State) (hs : Keeps a₀ s) :
    Keeps a₀ (setReady s) := by
  unfold setReady
  repeat' first
    | with_reducible assumption
    | extract_lets
    | with_reducible apply keeps_startTides
    | with_reducible apply keeps_readyBanks
    | with_reducible apply keeps_updFw
    | with_reducible apply keeps_noteHealth
    | with_reducible apply keeps_post
    | with_reducible apply keeps_setStage
    | with_reducible apply keeps_updDie
    | with_reducible apply keeps_ite
    | simp (zeta := false) only [keeps_mk_iff]
    | with_reducible apply keeps_foldl
    | intro _
    | split
    | (rename_i v; subst v)
    | (rename_i v _; subst v)
    | (rename_i v _ _; subst v)
    | (rename_i v _ _ _; subst v)
    | (rename_i v _ _ _ _; subst v)
    | (rename_i v _ _ _ _ _; subst v)
    | (rename_i v _ _ _ _ _ _; subst v)
    | (rename_i v _ _ _ _ _ _ _; subst v)

end Sys2Proof.Machine
end

