-- ==== Sys2Proof/Laws/KeepsRegisters.lean ====
section
/-! SUPPORT. The operations of Machine/Registers.lean leave the queue, the fuses and the memory's form as they are. -/

set_option linter.all false

namespace Sys2Proof.Machine

open Sys2Proof

theorem keeps_read32 {a₀ : State} (s : State) (f : Nat) (bar : Bar) (off : Nat) (hs : Keeps a₀ s) :
    Keeps a₀ (read32 s f bar off).2 := by
  unfold read32
  repeat' first
    | with_reducible assumption
    | extract_lets
    | with_reducible apply keeps_updFn
    | with_reducible apply keeps_ite
    | with_reducible apply keeps_ite_fst
    | simp (zeta := false) only [keeps_mk_iff]
    | intro _
    | split

theorem keeps_setCommitted {a₀ : State} (s : State) (id idx v : Nat) (hs : Keeps a₀ s) :
    Keeps a₀ (setCommitted s id idx v) := by
  unfold setCommitted
  repeat' first
    | with_reducible assumption
    | extract_lets
    | with_reducible apply keeps_ite
    | simp (zeta := false) only [keeps_mk_iff]
    | intro _
    | split

theorem keeps_writeScrub {a₀ : State} (s : State) (c v : Nat) (hs : Keeps a₀ s) :
    Keeps a₀ (writeScrub s c v) := by
  unfold writeScrub
  repeat' first
    | with_reducible assumption
    | extract_lets
    | with_reducible apply keeps_setCommitted
    | with_reducible apply keeps_updScrub
    | with_reducible apply keeps_ite
    | simp (zeta := false) only [keeps_mk_iff]
    | intro _
    | split

theorem keeps_writeNextOwner {a₀ : State} (s : State) (d b v : Nat) (hs : Keeps a₀ s) :
    Keeps a₀ (writeNextOwner s d b v) := by
  unfold writeNextOwner
  repeat' first
    | with_reducible assumption
    | extract_lets
    | with_reducible apply keeps_updBank
    | simp (zeta := false) only [keeps_mk_iff]
    | intro _

theorem keeps_writeMsix {a₀ : State} (s : State) (f off v : Nat) (hs : Keeps a₀ s) :
    Keeps a₀ (writeMsix s f off v) := by
  unfold writeMsix
  repeat' first
    | with_reducible assumption
    | extract_lets
    | with_reducible apply keeps_updVec
    | simp (zeta := false) only [keeps_mk_iff]
    | intro _
    | split

theorem keeps_write32 {a₀ : State} (s : State) (f : Nat) (bar : Bar) (off v : Nat) (hs : Keeps a₀ s) :
    Keeps a₀ (write32 s f bar off v) := by
  unfold write32
  repeat' first
    | with_reducible assumption
    | extract_lets
    | with_reducible apply keeps_writeMsix
    | with_reducible apply keeps_writeNextOwner
    | with_reducible apply keeps_writeScrub
    | with_reducible apply keeps_updFn
    | with_reducible apply keeps_ite
    | simp (zeta := false) only [keeps_mk_iff]
    | intro _
    | split

theorem keeps_unmask {a₀ : State} (s : State) (f v : Nat) (hs : Keeps a₀ s) :
    Keeps a₀ (unmask s f v) := by
  unfold unmask
  repeat' first
    | with_reducible assumption
    | extract_lets
    | with_reducible apply keeps_fireVector
    | with_reducible apply keeps_updVec
    | with_reducible apply keeps_refuseAccess
    | with_reducible apply keeps_ite
    | simp (zeta := false) only [keeps_mk_iff]
    | intro _
    | split

end Sys2Proof.Machine
end

