-- ==== Sys2Proof/Laws/KeepsFunctionCommands.lean ====
section
/-! SUPPORT. The operations of Machine/FunctionCommands.lean leave the queue, the fuses and the memory's form as they are. -/

set_option linter.all false

namespace Sys2Proof.Machine

open Sys2Proof

theorem keeps_hwComplete {a₀ : State} (s : State) (f slot : Nat) (o : CmdOutcome) (hs : Keeps a₀ s) :
    Keeps a₀ (hwComplete s f slot o) := by
  unfold hwComplete
  repeat' first
    | with_reducible assumption
    | extract_lets
    | with_reducible apply keeps_completeSlot
    | with_reducible apply keeps_cnt
    | with_reducible apply keeps_ite
    | simp (zeta := false) only [keeps_mk_iff]
    | intro _
    | split

theorem keeps_releaseHeld {a₀ : State} (s : State) (hs : Keeps a₀ s) :
    Keeps a₀ (releaseHeld s) := by
  unfold releaseHeld
  repeat' first
    | with_reducible assumption
    | extract_lets
    | with_reducible apply keeps_enqueue
    | with_reducible apply keeps_ite
    | simp (zeta := false) only [keeps_mk_iff]
    | with_reducible apply keeps_foldl
    | intro _
    | split

theorem keeps_functionOpen {a₀ : State} (s : State) (f : Nat) (b : List Byte) (hs : Keeps a₀ s) :
    Keeps a₀ (functionOpen s f b).1 := by
  unfold functionOpen
  repeat' first
    | with_reducible assumption
    | extract_lets
    | with_reducible apply keeps_releaseHeld
    | with_reducible apply keeps_fields
    | with_reducible apply keeps_good
    | with_reducible apply keeps_bad
    | with_reducible apply keeps_updFn
    | with_reducible apply keeps_ite
    | with_reducible apply keeps_ite_fst
    | simp (zeta := false) only [keeps_mk_iff]
    | intro _
    | split

theorem keeps_functionClose {a₀ : State} (s : State) (f : Nat) (hs : Keeps a₀ s) :
    Keeps a₀ (functionClose s f).1 := by
  unfold functionClose
  repeat' first
    | with_reducible assumption
    | extract_lets
    | with_reducible apply keeps_good
    | with_reducible apply keeps_bad
    | with_reducible apply keeps_updFn
    | with_reducible apply keeps_ite
    | with_reducible apply keeps_ite_fst
    | simp (zeta := false) only [keeps_mk_iff]
    | intro _
    | split

theorem keeps_stopLanes {a₀ : State} (s : State) (f : Nat) (hs : Keeps a₀ s) :
    Keeps a₀ (stopLanes s f) := by
  unfold stopLanes
  repeat' first
    | with_reducible assumption
    | extract_lets
    | with_reducible apply keeps_ite
    | simp (zeta := false) only [keeps_mk_iff]
    | intro _
    | split

theorem keeps_engineFields {a₀ : State} (s : State) (b : List Byte) (k : Nat → Nat → Ran) (hs : Keeps a₀ s) (hk : ∀ x0 x1, Keeps a₀ (k x0 x1).1) :
    Keeps a₀ (engineFields s b k).1 := by
  unfold engineFields
  repeat' first
    | with_reducible assumption
    | extract_lets
    | with_reducible apply hk
    | with_reducible apply keeps_fields
    | with_reducible apply keeps_ite
    | with_reducible apply keeps_ite_fst
    | simp (zeta := false) only [keeps_mk_iff]
    | intro _
    | split

theorem keeps_engineStops {a₀ : State} (s : State) (f : Nat) (b : List Byte) (hs : Keeps a₀ s) :
    Keeps a₀ (engineStops s f b) := by
  unfold engineStops
  repeat' first
    | with_reducible assumption
    | extract_lets
    | with_reducible apply keeps_engineFields
    | with_reducible apply keeps_stopLanes
    | with_reducible apply keeps_updFn
    | with_reducible apply keeps_ite
    | simp (zeta := false) only [keeps_mk_iff]
    | intro _
    | split

theorem keeps_engineEnable {a₀ : State} (s : State) (f : Nat) (b : List Byte) (hs : Keeps a₀ s) :
    Keeps a₀ (engineEnable s f b).1 := by
  unfold engineEnable
  repeat' first
    | with_reducible assumption
    | extract_lets
    | with_reducible apply keeps_engineFields
    | with_reducible apply keeps_good
    | with_reducible apply keeps_updFn
    | with_reducible apply keeps_ite
    | with_reducible apply keeps_ite_fst
    | simp (zeta := false) only [keeps_mk_iff]
    | intro _
    | split

theorem keeps_regionCreate {a₀ : State} (s : State) (f : Nat) (b : List Byte) (hs : Keeps a₀ s) :
    Keeps a₀ (regionCreate s f b).1 := by
  unfold regionCreate
  repeat' first
    | with_reducible assumption
    | extract_lets
    | with_reducible apply keeps_fields
    | with_reducible apply keeps_good
    | with_reducible apply keeps_bad
    | with_reducible apply keeps_newHandle
    | with_reducible apply keeps_takePages
    | with_reducible apply keeps_updPage
    | with_reducible apply keeps_ite
    | with_reducible apply keeps_ite_fst
    | simp (zeta := false) only [keeps_mk_iff]
    | with_reducible apply keeps_foldl
    | with_reducible apply keeps_foldl_fst
    | intro _
    | split
    | (rename_i v; subst v)
    | (rename_i v _; subst v)
    | (rename_i v _ _; subst v)
    | (rename_i v _ _ _; subst v)
    | (rename_i v _ _ _ _; subst v)
    | (rename_i v _ _ _ _ _; subst v)
    | (rename_i v _ _ _ _ _ _; subst v)
    | (rename_i v _ _ _ _ _ _ _; subst v)

theorem keeps_regionDestroy {a₀ : State} (s : State) (f slot : Nat) (b : List Byte) (hs : Keeps a₀ s) :
    Keeps a₀ (regionDestroy s f slot b).1 := by
  unfold regionDestroy
  repeat' first
    | with_reducible assumption
    | extract_lets
    | with_reducible apply keeps_dropRegion
    | with_reducible apply keeps_fields
    | with_reducible apply keeps_good
    | with_reducible apply keeps_bad
    | with_reducible apply keeps_ite
    | with_reducible apply keeps_ite_fst
    | simp (zeta := false) only [keeps_mk_iff]
    | intro _
    | split

theorem keeps_bar2WindowSet {a₀ : State} (s : State) (f : Nat) (b : List Byte) (hs : Keeps a₀ s) :
    Keeps a₀ (bar2WindowSet s f b).1 := by
  unfold bar2WindowSet
  repeat' first
    | with_reducible assumption
    | extract_lets
    | with_reducible apply keeps_fields
    | with_reducible apply keeps_good
    | with_reducible apply keeps_updFn
    | with_reducible apply keeps_ite_fst
    | simp (zeta := false) only [keeps_mk_iff]
    | intro _

end Sys2Proof.Machine
end

