-- ==== Sys2Proof/Laws/KeepsObjectCommands.lean ====
section
/-! SUPPORT. The operations of Machine/ObjectCommands.lean leave the queue, the fuses and the memory's form as they are. -/

set_option linter.all false

namespace Sys2Proof.Machine

open Sys2Proof

theorem keeps_withImage {a₀ : State} (s : State) (f slot dva len : Nat) (read : HostRead) (k : State → List Byte → Ran) (hs : Keeps a₀ s) (hk : ∀ x0 x1, Keeps a₀ x0 → Keeps a₀ (k x0 x1).1) :
    Keeps a₀ (withImage s f slot dva len read k).1 := by
  unfold withImage
  repeat' first
    | with_reducible assumption
    | extract_lets
    | with_reducible apply hk
    | with_reducible apply keeps_askImage
    | with_reducible apply keeps_bad
    | with_reducible apply keeps_noteRead
    | with_reducible apply keeps_ite
    | with_reducible apply keeps_ite_fst
    | simp (zeta := false) only [keeps_mk_iff]
    | intro _
    | split

theorem keeps_takeWeights {a₀ : State} (s : State) (asid h : Nat) (cls : PClass) (w0 : List (Nat × Nat)) {x : List Nat} {r : State} (hr : takeWeights s asid h cls w0 = some (x, r)) (hs : Keeps a₀ s) :
    Keeps a₀ r := by
  revert w0 x r hs s
  intro s w0
  induction w0 generalizing s with
  | nil => intro x r hr hs; cases hr; exact hs
  | cons q rest ih =>
    intro x r hr hs
    unfold takeWeights at hr
    split at hr
    · cases hr
    · split at hr
      · cases hr
      · cases hr
        exact ih _ (by assumption) (keeps_takePages _ _ _ _ _ hs)

theorem keeps_takeClusters {a₀ : State} (s : State) (code dense stream : Nat) (w0 : List Nat) {x : List (Nat × Nat × Nat × List Nat)} {r : State} (hr : takeClusters s code dense stream w0 = some (x, r)) (hs : Keeps a₀ s) :
    Keeps a₀ r := by
  revert w0 x r hs s
  intro s w0
  induction w0 generalizing s with
  | nil => intro x r hr hs; cases hr; exact hs
  | cons q rest ih =>
    intro x r hr hs
    unfold takeClusters at hr
    split at hr
    · split at hr
      · cases hr
      · extract_lets at hr
        split at hr
        · cases hr
        · cases hr
          refine ih _ (by assumption) ?_
          apply keeps_foldl
          · intro _ _ _
            apply keeps_handBank
            assumption
          · apply keeps_updDie
            exact hs
    · cases hr

theorem keeps_placeVocab {a₀ : State} (s : State) (f : Nat) (shared pin : Bool) (img : List Byte) {x : Nat} {r : State} (hr : placeVocab s f shared pin img = some (x, r)) (hs : Keeps a₀ s) :
    Keeps a₀ r := by
  unfold placeVocab at hr
  repeat' first
    | (cases hr; done)
    | (simp only [Option.some.injEq, Prod.mk.injEq] at hr)
    | (obtain ⟨rfl, rfl⟩ := hr)
    | subst hr
    | extract_lets at hr
    | split at hr
  all_goals
   repeat' first
    | with_reducible assumption
    | extract_lets
    | with_reducible apply keeps_evictTables
    | with_reducible apply keeps_newHandle
    | with_reducible apply keeps_takePages
    | simp (zeta := false) only [keeps_mk_iff]
    | split
    | split

theorem keeps_formGroup {a₀ : State} (s : State) (f : Nat) (b : List Byte) (img : ModelImage) (voc : List Byte) (hs : Keeps a₀ s) :
    Keeps a₀ (formGroup s f b img voc).1 := by
  unfold formGroup
  repeat' first
    | with_reducible assumption
    | extract_lets
    | with_reducible refine keeps_placeVocab (hr := by assumption) (hs := ?_) ..
    | with_reducible refine keeps_takeClusters (hr := by assumption) (hs := ?_) ..
    | with_reducible refine keeps_takeWeights (hr := by assumption) (hs := ?_) ..
    | with_reducible apply keeps_bad
    | with_reducible apply keeps_newHandle
    | with_reducible apply keeps_takePages
    | with_reducible apply keeps_ite
    | with_reducible apply keeps_ite_fst
    | simp (zeta := false) only [keeps_mk_iff]
    | with_reducible apply keeps_foldl
    | intro _
    | split
    | cases ‹some _ = some _›
    | (have h := ‹_ = some (_, _)›; revert h; split <;> intro h)

theorem keeps_modelLoad {a₀ : State} (s : State) (f slot : Nat) (b : List Byte) (read : HostRead) (img : ModelImage) (hs : Keeps a₀ s) :
    Keeps a₀ (modelLoad s f slot b read img).1 := by
  unfold modelLoad
  repeat' first
    | with_reducible assumption
    | extract_lets
    | with_reducible apply keeps_formGroup
    | with_reducible apply keeps_withImage
    | with_reducible apply keeps_fields
    | with_reducible apply keeps_bad
    | with_reducible apply keeps_drawn
    | with_reducible apply keeps_ite
    | with_reducible apply keeps_ite_fst
    | simp (zeta := false) only [keeps_mk_iff]
    | intro _
    | split

theorem keeps_withObject {a₀ : State} (s : State) (f : Nat) (b : List Byte) (unload : Bool) (own : Option (Nat × Bool)) (k : Nat → Ran) (hs : Keeps a₀ s) (hk : ∀ x0, Keeps a₀ (k x0).1) :
    Keeps a₀ (withObject s f b unload own k).1 := by
  unfold withObject
  repeat' first
    | with_reducible assumption
    | extract_lets
    | with_reducible apply hk
    | with_reducible apply keeps_fields
    | with_reducible apply keeps_bad
    | with_reducible apply keeps_ite
    | with_reducible apply keeps_ite_fst
    | simp (zeta := false) only [keeps_mk_iff]
    | intro _
    | split

theorem keeps_modelUnload {a₀ : State} (s : State) (f : Nat) (b : List Byte) (hs : Keeps a₀ s) :
    Keeps a₀ (modelUnload s f b).1 := by
  unfold modelUnload
  repeat' first
    | with_reducible assumption
    | extract_lets
    | with_reducible apply keeps_withObject
    | with_reducible apply keeps_dropModel
    | with_reducible apply keeps_good
    | with_reducible apply keeps_bad
    | with_reducible apply keeps_ite
    | with_reducible apply keeps_ite_fst
    | simp (zeta := false) only [keeps_mk_iff]
    | intro _
    | split

theorem keeps_modelInfoCmd {a₀ : State} (s : State) (f : Nat) (b : List Byte) (hs : Keeps a₀ s) :
    Keeps a₀ (modelInfoCmd s f b).1 := by
  unfold modelInfoCmd
  repeat' first
    | with_reducible assumption
    | extract_lets
    | with_reducible apply keeps_withObject
    | with_reducible apply keeps_good
    | with_reducible apply keeps_ite
    | with_reducible apply keeps_ite_fst
    | simp (zeta := false) only [keeps_mk_iff]
    | intro _
    | split

theorem keeps_vocabLoad {a₀ : State} (s : State) (f slot : Nat) (b : List Byte) (read : HostRead) (hs : Keeps a₀ s) :
    Keeps a₀ (vocabLoad s f slot b read).1 := by
  unfold vocabLoad
  repeat' first
    | with_reducible assumption
    | extract_lets
    | with_reducible refine keeps_placeVocab (hr := by assumption) (hs := ?_) ..
    | with_reducible apply keeps_withImage
    | with_reducible apply keeps_fields
    | with_reducible apply keeps_good
    | with_reducible apply keeps_bad
    | with_reducible apply keeps_ite
    | with_reducible apply keeps_ite_fst
    | simp (zeta := false) only [keeps_mk_iff]
    | intro _
    | split

theorem keeps_vocabUnload {a₀ : State} (s : State) (f : Nat) (b : List Byte) (hs : Keeps a₀ s) :
    Keeps a₀ (vocabUnload s f b).1 := by
  unfold vocabUnload
  repeat' first
    | with_reducible assumption
    | extract_lets
    | with_reducible apply keeps_withObject
    | with_reducible apply keeps_dropVocab
    | with_reducible apply keeps_good
    | with_reducible apply keeps_bad
    | with_reducible apply keeps_ite_fst
    | simp (zeta := false) only [keeps_mk_iff]
    | intro _
    | split

theorem keeps_bintableLoad {a₀ : State} (s : State) (f slot : Nat) (b : List Byte) (read : HostRead) (hs : Keeps a₀ s) :
    Keeps a₀ (bintableLoad s f slot b read).1 := by
  unfold bintableLoad
  repeat' first
    | with_reducible assumption
    | extract_lets
    | with_reducible apply keeps_withImage
    | with_reducible apply keeps_fields
    | with_reducible apply keeps_good
    | with_reducible apply keeps_bad
    | with_reducible apply keeps_newHandle
    | with_reducible apply keeps_takePages
    | with_reducible apply keeps_ite
    | with_reducible apply keeps_ite_fst
    | simp (zeta := false) only [keeps_mk_iff]
    | intro _
    | split

theorem keeps_bintableUnload {a₀ : State} (s : State) (f : Nat) (b : List Byte) (hs : Keeps a₀ s) :
    Keeps a₀ (bintableUnload s f b).1 := by
  unfold bintableUnload
  repeat' first
    | with_reducible assumption
    | with_reducible apply keeps_withObject
    | with_reducible apply keeps_dropTable
    | with_reducible apply keeps_good
    | with_reducible apply keeps_bad
    | with_reducible apply keeps_ite
    | with_reducible apply keeps_ite_fst
    | intro _
    | split

theorem keeps_takeCopies {a₀ : State} (s : State) (asid h n : Nat) (w0 : List Nat) {x : List Nat} {r : State} (hr : takeCopies s asid h n w0 = some (x, r)) (hs : Keeps a₀ s) :
    Keeps a₀ r := by
  revert w0 x r hs s
  intro s w0
  induction w0 generalizing s with
  | nil => intro x r hr hs; cases hr; exact hs
  | cons q rest ih =>
    intro x r hr hs
    unfold takeCopies at hr
    split at hr
    · cases hr
    · split at hr
      · cases hr
      · cases hr
        exact ih _ (by assumption) (keeps_takePages _ _ _ _ _ hs)

theorem keeps_grammarLoad {a₀ : State} (s : State) (f slot : Nat) (b : List Byte) (read : HostRead) (img : GrammarImage) (hs : Keeps a₀ s) :
    Keeps a₀ (grammarLoad s f slot b read img).1 := by
  unfold grammarLoad
  repeat' first
    | with_reducible assumption
    | extract_lets
    | with_reducible refine keeps_takeCopies (hr := by assumption) (hs := ?_) ..
    | with_reducible apply keeps_withImage
    | with_reducible apply keeps_fields
    | with_reducible apply keeps_good
    | with_reducible apply keeps_bad
    | with_reducible apply keeps_newHandle
    | with_reducible apply keeps_takePages
    | with_reducible apply keeps_ite
    | with_reducible apply keeps_ite_fst
    | simp (zeta := false) only [keeps_mk_iff]
    | intro _
    | split

theorem keeps_grammarUnload {a₀ : State} (s : State) (f : Nat) (b : List Byte) (hs : Keeps a₀ s) :
    Keeps a₀ (grammarUnload s f b).1 := by
  unfold grammarUnload
  repeat' first
    | with_reducible assumption
    | extract_lets
    | with_reducible apply keeps_withObject
    | with_reducible apply keeps_dropGrammar
    | with_reducible apply keeps_good
    | with_reducible apply keeps_bad
    | with_reducible apply keeps_ite
    | with_reducible apply keeps_ite_fst
    | simp (zeta := false) only [keeps_mk_iff]
    | intro _
    | split

end Sys2Proof.Machine
end

