-- ==== Sys2Proof/Laws/KeepsConfigCommands.lean ====
section
/-! SUPPORT. The operations of Machine/ConfigCommands.lean leave the queue, the fuses and the memory's form as they are. -/

set_option linter.all false

namespace Sys2Proof.Machine

open Sys2Proof

theorem keeps_stage {a₀ : State} (s : State) (base : Nat) (b : List Byte) (hs : Keeps a₀ s) :
    Keeps a₀ (stage s base b).1 := by
  unfold stage
  repeat' first
    | with_reducible assumption
    | extract_lets
    | with_reducible apply keeps_good
    | with_reducible apply keeps_bad
    | with_reducible apply keeps_ite
    | with_reducible apply keeps_ite_fst
    | simp (zeta := false) only [keeps_mk_iff]
    | intro _
    | split

theorem keeps_stageBegin {a₀ : State} (s : State) (f slot : Nat) (b : List Byte) (read : HostRead) (hs : Keeps a₀ s) :
    Keeps a₀ (stageBegin s f slot b read) := by
  unfold stageBegin
  repeat' first
    | with_reducible assumption
    | extract_lets
    | with_reducible apply keeps_failRead
    | with_reducible apply keeps_askImage
    | with_reducible apply keeps_updCmd
    | with_reducible apply keeps_noteRead
    | with_reducible apply keeps_ite
    | simp (zeta := false) only [keeps_mk_iff]
    | intro _
    | split

theorem keeps_configStage {a₀ : State} (s : State) (f slot : Nat) (b : List Byte) (hs : Keeps a₀ s) :
    Keeps a₀ (configStage s f slot b).1 := by
  unfold configStage
  repeat' first
    | with_reducible assumption
    | extract_lets
    | with_reducible apply keeps_stage
    | with_reducible apply keeps_bad
    | with_reducible apply keeps_ite
    | with_reducible apply keeps_ite_fst
    | simp (zeta := false) only [keeps_mk_iff]
    | intro _
    | split

theorem keeps_configRead {a₀ : State} (s : State) (f : Nat) (b : List Byte) (hs : Keeps a₀ s) :
    Keeps a₀ (configRead s f b).1 := by
  unfold configRead
  repeat' first
    | with_reducible assumption
    | extract_lets
    | with_reducible apply keeps_fields
    | with_reducible apply keeps_good
    | with_reducible apply keeps_bad
    | with_reducible apply keeps_ite
    | with_reducible apply keeps_ite_fst
    | simp (zeta := false) only [keeps_mk_iff]
    | intro _
    | split

theorem keeps_startMoves {a₀ : State} (s : State) (g : Nat) (vals : ItemVals) (hs : Keeps a₀ s) :
    Keeps a₀ (startMoves s g vals) := by
  unfold startMoves
  repeat' first
    | with_reducible assumption
    | extract_lets
    | with_reducible apply keeps_ite
    | simp (zeta := false) only [keeps_mk_iff]
    | with_reducible apply keeps_foldl
    | intro _
    | split

theorem keeps_commitShadow {a₀ : State} (s : State) (hs : Keeps a₀ s) :
    Keeps a₀ (commitShadow s).1 := by
  unfold commitShadow
  repeat' first
    | with_reducible assumption
    | extract_lets
    | with_reducible apply keeps_startMoves
    | with_reducible apply keeps_good
    | with_reducible apply keeps_drainGeneration
    | with_reducible apply keeps_post
    | with_reducible apply keeps_ite
    | with_reducible apply keeps_ite_fst
    | simp (zeta := false) only [keeps_mk_iff]
    | with_reducible apply keeps_foldl
    | intro _
    | split
    | (rename_i v; subst v)
    | (rename_i v _; subst v)
    | (rename_i v _ _; subst v)
    | (rename_i v _ _ _; subst v)
    | (rename_i v _ _ _ _; subst v)
    | (rename_i v _ _ _ _ _; subst v)
    | (rename_i v _ _ _ _ _ _; subst v)
    | (rename_i v _ _ _ _ _ _ _; subst v)

theorem keeps_commitConfig {a₀ : State} (s : State) (hs : Keeps a₀ s) :
    Keeps a₀ (commitConfig s).1 := by
  unfold commitConfig
  repeat' first
    | with_reducible assumption
    | with_reducible apply keeps_commitShadow
    | with_reducible apply keeps_bad
    | with_reducible apply keeps_ite
    | with_reducible apply keeps_ite_fst
    | intro _
    | split

theorem keeps_configDiscard {a₀ : State} (s : State) (hs : Keeps a₀ s) :
    Keeps a₀ (configDiscard s).1 := by
  unfold configDiscard
  repeat' first
    | with_reducible assumption
    | extract_lets
    | with_reducible apply keeps_good
    | with_reducible apply keeps_ite
    | with_reducible apply keeps_ite_fst
    | simp (zeta := false) only [keeps_mk_iff]
    | intro _
    | split

theorem keeps_energyLimitSet {a₀ : State} (s : State) (b : List Byte) (hs : Keeps a₀ s) :
    Keeps a₀ (energyLimitSet s b).1 := by
  unfold energyLimitSet
  repeat' first
    | with_reducible assumption
    | extract_lets
    | with_reducible apply keeps_fields
    | with_reducible apply keeps_good
    | with_reducible apply keeps_ite_fst
    | simp (zeta := false) only [keeps_mk_iff]
    | (rename_i v; subst v)
    | (rename_i v _; subst v)
    | (rename_i v _ _; subst v)
    | (rename_i v _ _ _; subst v)
    | (rename_i v _ _ _ _; subst v)
    | (rename_i v _ _ _ _ _; subst v)
    | (rename_i v _ _ _ _ _ _; subst v)
    | (rename_i v _ _ _ _ _ _ _; subst v)

theorem keeps_booksAudit {a₀ : State} (s : State) (f slot : Nat) (b : List Byte) (hs : Keeps a₀ s) :
    Keeps a₀ (booksAudit s f slot b).1 := by
  unfold booksAudit
  repeat' first
    | with_reducible assumption
    | extract_lets
    | with_reducible apply keeps_updCmd
    | with_reducible apply keeps_fields
    | with_reducible apply keeps_running
    | with_reducible apply keeps_ite
    | with_reducible apply keeps_ite_fst
    | simp (zeta := false) only [keeps_mk_iff]
    | intro _
    | split

theorem keeps_errlogRead {a₀ : State} (s : State) (b : List Byte) (hs : Keeps a₀ s) :
    Keeps a₀ (errlogRead s b).1 := by
  unfold errlogRead
  repeat' first
    | with_reducible assumption
    | extract_lets
    | with_reducible apply keeps_fields
    | with_reducible apply keeps_good
    | with_reducible apply keeps_ite_fst

end Sys2Proof.Machine
end

