-- ==== Sys2Proof/Laws/KeepsPauses.lean ====
section
/-! SUPPORT. The operations of Machine/Pauses.lean leave the queue, the fuses and the memory's form as they are. -/

set_option linter.all false

namespace Sys2Proof.Machine

open Sys2Proof

theorem keeps_schedPause {a₀ : State} (s : State) (i : Nat) (move : Bool) (hs : Keeps a₀ s) :
    Keeps a₀ (schedPause s i move) := by
  unfold schedPause
  repeat' first
    | with_reducible assumption
    | extract_lets
    | with_reducible apply keeps_askPause
    | with_reducible apply keeps_updEntX
    | with_reducible apply keeps_updEnt
    | simp (zeta := false) only [keeps_mk_iff]
    | intro _

theorem keeps_pauseForPages {a₀ : State} (s : State) (d : Nat) (hs : Keeps a₀ s) :
    Keeps a₀ (pauseForPages s d) := by
  unfold pauseForPages
  repeat' first
    | with_reducible assumption
    | extract_lets
    | with_reducible apply keeps_schedPause
    | with_reducible apply keeps_startMove
    | with_reducible apply keeps_updEntX
    | with_reducible apply keeps_idle
    | with_reducible apply keeps_ite
    | simp (zeta := false) only [keeps_mk_iff]
    | with_reducible apply keeps_foldl
    | intro _
    | split

end Sys2Proof.Machine
end

