-- ==== Sys2Proof/Laws/KeepsPageTables.lean ====
section
/-! SUPPORT. The operations of Machine/PageTables.lean leave the queue, the fuses and the memory's form as they are. -/

set_option linter.all false

namespace Sys2Proof.Machine

open Sys2Proof

theorem keeps_rewritePage {a₀ : State} (s : State) (p : Nat) (hs : Keeps a₀ s) :
    Keeps a₀ (rewritePage s p) := by
  unfold rewritePage
  repeat' first
    | with_reducible assumption
    | extract_lets
    | with_reducible apply keeps_overwrite
    | with_reducible apply keeps_ite
    | simp (zeta := false) only [keeps_mk_iff]
    | with_reducible apply keeps_foldl
    | intro _
    | split

theorem keeps_rebuildTables {a₀ : State} (s : State) (asid dva : Nat) (hs : Keeps a₀ s) :
    Keeps a₀ (rebuildTables s asid dva) := by
  unfold rebuildTables
  repeat' first
    | with_reducible assumption
    | extract_lets
    | with_reducible apply keeps_rewritePage
    | with_reducible apply keeps_ite
    | simp (zeta := false) only [keeps_mk_iff]
    | with_reducible apply keeps_foldl
    | intro _
    | split

end Sys2Proof.Machine
end

