-- ==== Sys2Proof/Laws/KeepsTranslation.lean ====
section
/-! SUPPORT. The operations of Machine/Translation.lean leave the queue, the fuses and the memory's form as they are. -/

set_option linter.all false

namespace Sys2Proof.Machine

open Sys2Proof

theorem keeps_addTlb {a₀ : State} (s : State) (die asid dva : Nat) (hs : Keeps a₀ s) :
    Keeps a₀ (addTlb s die asid dva) := by
  unfold addTlb
  repeat' first
    | with_reducible assumption
    | extract_lets
    | with_reducible apply keeps_ite
    | simp (zeta := false) only [keeps_mk_iff]
    | intro _
    | split

theorem keeps_addAtc {a₀ : State} (s : State) (f pasid page : Nat) (hs : Keeps a₀ s) :
    Keeps a₀ (addAtc s f pasid page) := by
  unfold addAtc
  repeat' first
    | with_reducible assumption
    | extract_lets
    | with_reducible apply keeps_ite
    | simp (zeta := false) only [keeps_mk_iff]
    | intro _
    | split

theorem keeps_updStep {a₀ : State} (s : State) (id : Nat) (g : Step → Step) (hs : Keeps a₀ s) :
    Keeps a₀ (updStep s id g) := by
  unfold updStep
  repeat' first
    | with_reducible assumption
    | extract_lets
    | with_reducible apply keeps_ite
    | simp (zeta := false) only [keeps_mk_iff]
    | intro _
    | split

theorem keeps_leaveStep {a₀ : State} (s : State) (id i : Nat) (hs : Keeps a₀ s) :
    Keeps a₀ (leaveStep s id i) := by
  unfold leaveStep
  repeat' first
    | with_reducible assumption
    | extract_lets
    | with_reducible apply keeps_updStep
    | with_reducible apply keeps_updEntX
    | simp (zeta := false) only [keeps_mk_iff]
    | intro _

theorem keeps_holdWork {a₀ : State} (s : State) (w0 : WalkWork) (hs : Keeps a₀ s) :
    Keeps a₀ (holdWork s w0) := by
  unfold holdWork
  repeat' first
    | with_reducible assumption
    | extract_lets
    | with_reducible apply keeps_updStep
    | with_reducible apply keeps_updStream
    | simp (zeta := false) only [keeps_mk_iff]
    | intro _
    | split

theorem keeps_freeWork {a₀ : State} (s : State) (w0 : WalkWork) (hs : Keeps a₀ s) :
    Keeps a₀ (freeWork s w0) := by
  unfold freeWork
  repeat' first
    | with_reducible assumption
    | extract_lets
    | with_reducible apply keeps_updStep
    | with_reducible apply keeps_updStream
    | with_reducible apply keeps_updEntX
    | simp (zeta := false) only [keeps_mk_iff]
    | intro _
    | split

theorem keeps_failEvq {a₀ : State} (s : State) (f : Nat) (hs : Keeps a₀ s) :
    Keeps a₀ (failEvq s f) := by
  unfold failEvq
  repeat' first
    | with_reducible assumption
    | extract_lets
    | with_reducible apply keeps_cnt
    | with_reducible apply keeps_updFn
    | with_reducible apply keeps_ite
    | simp (zeta := false) only [keeps_mk_iff]
    | intro _
    | split

theorem keeps_endWork {a₀ : State} (s : State) (w : WalkWork) (status : Nat) (hs : Keeps a₀ s) :
    Keeps a₀ (endWork s w status) := by
  unfold endWork
  repeat' first
    | with_reducible assumption
    | extract_lets
    | with_reducible apply keeps_failEvq
    | with_reducible apply keeps_leaveStep
    | with_reducible apply keeps_failRead
    | with_reducible apply keeps_finishIn
    | with_reducible apply keeps_failReq
    | with_reducible apply keeps_outFail
    | with_reducible apply keeps_stopRing
    | with_reducible apply keeps_cnt
    | with_reducible apply keeps_ite
    | simp (zeta := false) only [keeps_mk_iff]
    | intro _
    | split

theorem keeps_updFault {a₀ : State} (s : State) (asid dva : Nat) (g : FaultRec → FaultRec) (hs : Keeps a₀ s) :
    Keeps a₀ (updFault s asid dva g) := by
  unfold updFault
  repeat' first
    | with_reducible assumption
    | extract_lets
    | with_reducible apply keeps_ite
    | simp (zeta := false) only [keeps_mk_iff]
    | intro _
    | split

theorem keeps_dropFault {a₀ : State} (s : State) (asid dva : Nat) (hs : Keeps a₀ s) :
    Keeps a₀ (dropFault s asid dva) := by
  unfold dropFault
  repeat' first
    | with_reducible assumption
    | extract_lets
    | simp (zeta := false) only [keeps_mk_iff]
    | intro _

theorem keeps_addFault {a₀ : State} (s : State) (r : FaultRec) (w : WalkWork) (hs : Keeps a₀ s) :
    Keeps a₀ (addFault s r w) := by
  unfold addFault
  repeat' first
    | with_reducible assumption
    | extract_lets
    | with_reducible apply keeps_updFault
    | with_reducible apply keeps_holdWork
    | with_reducible apply keeps_ite
    | simp (zeta := false) only [keeps_mk_iff]
    | intro _
    | split

theorem keeps_release {a₀ : State} (s : State) (r : FaultRec) (hs : Keeps a₀ s) :
    Keeps a₀ (release s r) := by
  unfold release
  repeat' first
    | with_reducible assumption
    | with_reducible apply keeps_dropFault
    | with_reducible apply keeps_freeWork
    | with_reducible apply keeps_foldl
    | intro _

theorem keeps_fatalFault {a₀ : State} (s : State) (r : FaultRec) (status : Nat) (hs : Keeps a₀ s) :
    Keeps a₀ (fatalFault s r status) := by
  unfold fatalFault
  repeat' first
    | with_reducible assumption
    | with_reducible apply keeps_dropFault
    | with_reducible apply keeps_endWork
    | with_reducible apply keeps_foldl
    | intro _

theorem keeps_logAbandoned {a₀ : State} (s : State) (r : FaultRec) (reason : Nat) (hs : Keeps a₀ s) :
    Keeps a₀ (logAbandoned s r reason) := by
  unfold logAbandoned
  repeat' first
    | with_reducible assumption
    | extract_lets
    | with_reducible apply keeps_logErr
    | with_reducible apply keeps_ite
    | simp (zeta := false) only [keeps_mk_iff]
    | intro _
    | split

theorem keeps_dropFaultsOf {a₀ : State} (s : State) (i : Nat) (reason : Option Nat) (hs : Keeps a₀ s) :
    Keeps a₀ (dropFaultsOf s i reason) := by
  unfold dropFaultsOf
  repeat' first
    | with_reducible assumption
    | extract_lets
    | with_reducible apply keeps_logAbandoned
    | simp (zeta := false) only [keeps_mk_iff]
    | with_reducible apply keeps_foldl
    | intro _
    | split
    | (rename_i v; subst v)
    | (rename_i v _; subst v)
    | (rename_i v _ _; subst v)
    | (rename_i v _ _ _; subst v)
    | (rename_i v _ _ _ _; subst v)
    | (rename_i v _ _ _ _ _; subst v)
    | (rename_i v _ _ _ _ _ _; subst v)
    | (rename_i v _ _ _ _ _ _ _; subst v)

theorem keeps_askTranslation {a₀ : State} (s : State) (f pasid page : Nat) (hs : Keeps a₀ s) :
    Keeps a₀ (askTranslation s f pasid page) := by
  unfold askTranslation
  repeat' first
    | with_reducible assumption
    | extract_lets
    | with_reducible apply keeps_takeTag
    | with_reducible apply keeps_emit
    | with_reducible apply keeps_ite
    | simp (zeta := false) only [keeps_mk_iff]
    | intro _
    | split

theorem keeps_sendPages {a₀ : State} (s : State) (f : Nat) (hs : Keeps a₀ s) :
    Keeps a₀ (sendPages s f) := by
  unfold sendPages
  repeat' first
    | with_reducible assumption
    | extract_lets
    | with_reducible apply keeps_updFault
    | with_reducible apply keeps_cnt
    | with_reducible apply keeps_emit
    | with_reducible apply keeps_ite
    | simp (zeta := false) only [keeps_mk_iff]
    | with_reducible apply keeps_foldl
    | intro _
    | split

theorem keeps_askAgain {a₀ : State} (s : State) (f : Nat) (hs : Keeps a₀ s) :
    Keeps a₀ (askAgain s f) := by
  unfold askAgain
  repeat' first
    | with_reducible assumption
    | extract_lets
    | with_reducible apply keeps_askTranslation
    | with_reducible apply keeps_ite
    | simp (zeta := false) only [keeps_mk_iff]
    | with_reducible apply keeps_foldl
    | intro _
    | split

theorem keeps_notPresent {a₀ : State} (s : State) (r : FaultRec) (hs : Keeps a₀ s) :
    Keeps a₀ (notPresent s r) := by
  unfold notPresent
  repeat' first
    | with_reducible assumption
    | extract_lets
    | with_reducible apply keeps_sendPages
    | with_reducible apply keeps_fatalFault
    | with_reducible apply keeps_updFault
    | with_reducible apply keeps_ite
    | simp (zeta := false) only [keeps_mk_iff]
    | intro _
    | split

theorem keeps_retryReads {a₀ : State} (s : State) (f : Nat) (hs : Keeps a₀ s) :
    Keeps a₀ (retryReads s f) := by
  unfold retryReads
  repeat' first
    | with_reducible assumption
    | extract_lets
    | with_reducible apply keeps_release
    | with_reducible apply keeps_issueRead
    | with_reducible apply keeps_ite
    | simp (zeta := false) only [keeps_mk_iff]
    | with_reducible apply keeps_foldl
    | intro _
    | split

theorem keeps_hostWalk {a₀ : State} (s : State) (die f dva pasid iova : Nat) (write : Bool) (work : WalkWork) (hs : Keeps a₀ s) :
    Keeps a₀ (hostWalk s die f dva pasid iova write work) := by
  unfold hostWalk
  repeat' first
    | with_reducible assumption
    | extract_lets
    | with_reducible apply keeps_retryReads
    | with_reducible apply keeps_askTranslation
    | with_reducible apply keeps_addFault
    | with_reducible apply keeps_addTlb
    | with_reducible apply keeps_ite
    | simp (zeta := false) only [keeps_mk_iff]
    | intro _
    | split

theorem keeps_logMalformed {a₀ : State} (s : State) (die asid dva : Nat) (w : WalkWork) (hs : Keeps a₀ s) :
    Keeps a₀ (logMalformed s die asid dva w) := by
  unfold logMalformed
  repeat' first
    | with_reducible assumption
    | extract_lets
    | with_reducible apply keeps_logErr
    | with_reducible apply keeps_ite
    | simp (zeta := false) only [keeps_mk_iff]
    | intro _
    | split

theorem keeps_walkDone {a₀ : State} (s : State) (die asid dva : Nat) (write : Bool) (work : WalkWork) (hs : Keeps a₀ s) :
    Keeps a₀ (walkDone s die asid dva write work) := by
  unfold walkDone
  repeat' first
    | with_reducible assumption
    | extract_lets
    | with_reducible apply keeps_logMalformed
    | with_reducible apply keeps_hostWalk
    | with_reducible apply keeps_addFault
    | with_reducible apply keeps_endWork
    | with_reducible apply keeps_addTlb
    | with_reducible apply keeps_pauseForPages
    | with_reducible apply keeps_ite
    | simp (zeta := false) only [keeps_mk_iff]
    | intro _
    | split

theorem keeps_setKvPage {a₀ : State} (s : State) (i k q : Nat) (hs : Keeps a₀ s) :
    Keeps a₀ (setKvPage s i k q) := by
  unfold setKvPage
  repeat' first
    | with_reducible assumption
    | extract_lets
    | with_reducible apply keeps_updEnt
    | simp (zeta := false) only [keeps_mk_iff]
    | intro _

theorem keeps_serveAbsent {a₀ : State} (s : State) (r : FaultRec) (hs : Keeps a₀ s) :
    Keeps a₀ (serveAbsent s r) := by
  unfold serveAbsent
  repeat' first
    | with_reducible assumption
    | extract_lets
    | with_reducible apply keeps_setKvPage
    | with_reducible apply keeps_release
    | with_reducible refine keeps_takeKvPage (hr := by assumption) (hs := ?_) ..
    | with_reducible apply keeps_takePages
    | with_reducible apply keeps_cnt
    | with_reducible apply keeps_updEntX
    | with_reducible apply keeps_updEnt
    | with_reducible apply keeps_ite
    | simp (zeta := false) only [keeps_mk_iff]
    | intro _
    | split

theorem keeps_copyPage {a₀ : State} (s : State) (p q : Nat) (hs : Keeps a₀ s) :
    Keeps a₀ (copyPage s p q) := by
  unfold copyPage
  repeat' first
    | with_reducible assumption
    | extract_lets
    | with_reducible refine keeps_putMem _ _ ?_ (by first | exact Memory.wf_cellsWrite _ _ | exact Memory.wf_cellsZero _ _ | exact Memory.wf_dvaCells _ _ _ _ | exact Memory.wf_bar2Cells _ _ _ _ _ | exact fun _ => Memory.wf_nil | exact fun h => Memory.wf_foldl _ _ _ (Memory.wf_cellsZero _ _ h))
    | simp (zeta := false) only [keeps_mk_iff]
    | with_reducible apply keeps_foldl
    | intro _

theorem keeps_dropTlb {a₀ : State} (s : State) (asid dva : Nat) (hs : Keeps a₀ s) :
    Keeps a₀ (dropTlb s asid dva) := by
  unfold dropTlb
  repeat' first
    | with_reducible assumption
    | extract_lets
    | simp (zeta := false) only [keeps_mk_iff]
    | intro _

theorem keeps_moveKvPage {a₀ : State} (s : State) (i p q : Nat) (hs : Keeps a₀ s) :
    Keeps a₀ (moveKvPage s i p q) := by
  unfold moveKvPage
  repeat' first
    | with_reducible assumption
    | extract_lets
    | with_reducible apply keeps_copyPage
    | with_reducible apply keeps_remapKv
    | with_reducible apply keeps_releasePages
    | with_reducible apply keeps_takePages
    | with_reducible apply keeps_updPage
    | simp (zeta := false) only [keeps_mk_iff]
    | intro _

theorem keeps_trimPooled {a₀ : State} (s : State) (hs : Keeps a₀ s) :
    Keeps a₀ (trimPooled s) := by
  unfold trimPooled
  repeat' first
    | with_reducible assumption
    | extract_lets
    | simp (zeta := false) only [keeps_mk_iff]
    | intro _

theorem keeps_servePooled {a₀ : State} (s : State) (r : FaultRec) (hs : Keeps a₀ s) :
    Keeps a₀ (servePooled s r) := by
  unfold servePooled
  repeat' first
    | with_reducible assumption
    | extract_lets
    | with_reducible apply keeps_trimPooled
    | with_reducible apply keeps_moveKvPage
    | with_reducible apply keeps_dropTlb
    | with_reducible apply keeps_release
    | with_reducible apply keeps_updFault
    | with_reducible apply keeps_pauseForPages
    | with_reducible apply keeps_cnt
    | with_reducible apply keeps_updEntX
    | simp (zeta := false) only [keeps_mk_iff]
    | intro _
    | split

theorem keeps_takeOff {a₀ : State} (s : State) (id i : Nat) (hs : Keeps a₀ s) :
    Keeps a₀ (takeOff s id i) := by
  unfold takeOff
  repeat' first
    | with_reducible assumption
    | extract_lets
    | with_reducible apply keeps_leaveStep
    | with_reducible apply keeps_pauseNow
    | with_reducible apply keeps_cancelled
    | with_reducible apply keeps_ite
    | intro _
    | split

theorem keeps_takeWork {a₀ : State} (s : State) (w0 : WalkWork) (hs : Keeps a₀ s) :
    Keeps a₀ (takeWork s w0) := by
  unfold takeWork
  repeat' first
    | with_reducible assumption
    | extract_lets
    | with_reducible apply keeps_takeOff
    | with_reducible apply keeps_freeLane
    | with_reducible apply keeps_updStream
    | simp (zeta := false) only [keeps_mk_iff]
    | intro _
    | split

theorem keeps_abandon {a₀ : State} (s : State) (r : FaultRec) (hs : Keeps a₀ s) :
    Keeps a₀ (abandon s r) := by
  unfold abandon
  repeat' first
    | with_reducible assumption
    | extract_lets
    | with_reducible apply keeps_takeWork
    | with_reducible apply keeps_logAbandoned
    | with_reducible apply keeps_dropFault
    | with_reducible apply keeps_updFault
    | with_reducible apply keeps_ite
    | simp (zeta := false) only [keeps_mk_iff]
    | with_reducible apply keeps_foldl
    | intro _
    | split

theorem keeps_shoot {a₀ : State} (s : State) (asid dva : Nat) (hs : Keeps a₀ s) :
    Keeps a₀ (shoot s asid dva) := by
  unfold shoot
  repeat' first
    | with_reducible assumption
    | extract_lets
    | with_reducible apply keeps_dropTlb
    | simp (zeta := false) only [keeps_mk_iff]
    | intro _
    | split
    | (rename_i v; subst v)
    | (rename_i v _; subst v)
    | (rename_i v _ _; subst v)
    | (rename_i v _ _ _; subst v)
    | (rename_i v _ _ _ _; subst v)
    | (rename_i v _ _ _ _ _; subst v)
    | (rename_i v _ _ _ _ _ _; subst v)
    | (rename_i v _ _ _ _ _ _ _; subst v)

end Sys2Proof.Machine
end

