-- ==== Sys2Proof/Laws/KeepsSettle.lean ====
section
/-! SUPPORT. The operations of Machine/Settle.lean leave the queue, the fuses and the memory's form as they are. -/

set_option linter.all false

namespace Sys2Proof.Machine

open Sys2Proof

theorem keeps_abandonStep {a₀ : State} (s : State) (id : Nat) (hs : Keeps a₀ s) :
    Keeps a₀ (abandonStep s id) := by
  unfold abandonStep
  repeat' first
    | with_reducible assumption
    | with_reducible apply keeps_takeOff
    | with_reducible apply keeps_foldl
    | intro _

theorem keeps_freeWaiters {a₀ : State} (s : State) (i n : Nat) (hs : Keeps a₀ s) :
    Keeps a₀ (freeWaiters s i n) := by
  unfold freeWaiters
  repeat' first
    | with_reducible assumption
    | with_reducible apply keeps_endWait
    | with_reducible apply keeps_foldl
    | intro _

theorem keeps_dropHotKv {a₀ : State} (s : State) (i : Nat) (hs : Keeps a₀ s) :
    Keeps a₀ (dropHotKv s i) := by
  unfold dropHotKv
  repeat' first
    | with_reducible assumption
    | extract_lets
    | with_reducible apply keeps_leavePage
    | with_reducible apply keeps_updEntX
    | with_reducible apply keeps_updEnt
    | with_reducible apply keeps_ite
    | simp (zeta := false) only [keeps_mk_iff]
    | with_reducible apply keeps_foldl
    | intro _
    | split

theorem keeps_readmit {a₀ : State} (s : State) (i h reason : Nat) (hs : Keeps a₀ s) :
    Keeps a₀ (readmit s i h reason) := by
  unfold readmit
  repeat' first
    | with_reducible assumption
    | extract_lets
    | with_reducible apply keeps_dropHotKv
    | with_reducible apply keeps_freeWaiters
    | with_reducible apply keeps_dropFaultsOf
    | with_reducible apply keeps_toExpired
    | with_reducible apply keeps_cancelled
    | with_reducible apply keeps_leaveParent
    | with_reducible apply keeps_releaseKv
    | with_reducible apply keeps_updEntX
    | with_reducible apply keeps_updEnt
    | with_reducible apply keeps_cacheLost
    | with_reducible apply keeps_ite
    | simp (zeta := false) only [keeps_mk_iff]
    | intro _
    | split

theorem keeps_loseReq {a₀ : State} (s : State) (i : Nat) (hs : Keeps a₀ s) :
    Keeps a₀ (loseReq s i) := by
  unfold loseReq
  repeat' first
    | with_reducible assumption
    | extract_lets
    | with_reducible apply keeps_freeWaiters
    | with_reducible apply keeps_dropFaultsOf
    | with_reducible apply keeps_cancelled
    | with_reducible apply keeps_failReq
    | with_reducible apply keeps_updEnt
    | with_reducible apply keeps_ite
    | simp (zeta := false) only [keeps_mk_iff]
    | intro _
    | split

theorem keeps_settleReq {a₀ : State} (s : State) (i : Nat) (hs : Keeps a₀ s) :
    Keeps a₀ (settleReq s i) := by
  unfold settleReq
  repeat' first
    | with_reducible assumption
    | extract_lets
    | with_reducible apply keeps_loseReq
    | with_reducible apply keeps_readmit
    | with_reducible apply keeps_ite
    | simp (zeta := false) only [keeps_mk_iff]
    | intro _
    | split

end Sys2Proof.Machine
end

