-- ==== Sys2Proof/Laws/KeepsTime.lean ====
section
/-! SUPPORT. The operations of Machine/Time.lean leave the queue, the fuses and the memory's form as they are. -/

set_option linter.all false

namespace Sys2Proof.Machine

open Sys2Proof

theorem keeps_cntN {a₀ : State} (s : State) (f off n : Nat) (hs : Keeps a₀ s) :
    Keeps a₀ (cntN s f off n) := by
  unfold cntN
  repeat' first
    | with_reducible assumption
    | with_reducible apply keeps_cnt
    | with_reducible apply keeps_ite
    | intro _
    | split

theorem keeps_countWaits {a₀ : State} (n : Nat) (s : State) (f : Nat) (hs : Keeps a₀ s) :
    Keeps a₀ (countWaits n s f) := by
  unfold countWaits
  repeat' first
    | with_reducible assumption
    | extract_lets
    | with_reducible apply keeps_cntN
    | with_reducible apply keeps_ite
    | intro _
    | split

theorem keeps_elapse {a₀ : State} (s : State) (t : Nat) (hs : Keeps a₀ s) :
    Keeps a₀ (elapse s t) := by
  unfold elapse
  repeat' first
    | with_reducible assumption
    | extract_lets
    | with_reducible apply keeps_countWaits
    | with_reducible apply keeps_ite
    | simp (zeta := false) only [keeps_mk_iff]
    | with_reducible apply keeps_foldl
    | intro _
    | split

end Sys2Proof.Machine
end

