-- ==== Sys2Proof/Laws/KeepsSlack.lean ====
section
/-! SUPPORT. The operations of Machine/Slack.lean leave the queue, the fuses and the memory's form as they are. -/

set_option linter.all false

namespace Sys2Proof.Machine

open Sys2Proof

theorem keeps_startHold {a₀ : State} (s : State) (hs : Keeps a₀ s) :
    Keeps a₀ (startHold s) := by
  unfold startHold
  repeat' first
    | with_reducible assumption
    | extract_lets
    | with_reducible apply keeps_ite
    | simp (zeta := false) only [keeps_mk_iff]
    | intro _
    | split

theorem keeps_repairGroup {a₀ : State} (s : State) (l : Nat) (t : LaneTest) (hs : Keeps a₀ s) :
    Keeps a₀ (repairGroup s l t) := by
  unfold repairGroup
  repeat' first
    | with_reducible assumption
    | extract_lets
    | with_reducible apply keeps_postFw
    | with_reducible apply keeps_logErr
    | with_reducible apply keeps_updLink
    | with_reducible apply keeps_ite
    | simp (zeta := false) only [keeps_mk_iff]
    | with_reducible apply keeps_foldl
    | with_reducible apply keeps_foldl_fst
    | intro _
    | split

theorem keeps_repairLink {a₀ : State} (s : State) (found : List LaneTest) (l : Nat) (hs : Keeps a₀ s) :
    Keeps a₀ (repairLink s found l) := by
  unfold repairLink
  repeat' first
    | with_reducible assumption
    | extract_lets
    | with_reducible apply keeps_repairGroup
    | with_reducible apply keeps_updLink
    | with_reducible apply keeps_ite
    | simp (zeta := false) only [keeps_mk_iff]
    | with_reducible apply keeps_foldl
    | intro _
    | split

theorem keeps_applyScrub {a₀ : State} (s : State) (key v : Nat) (hs : Keeps a₀ s) :
    Keeps a₀ (applyScrub s key v) := by
  unfold applyScrub
  repeat' first
    | with_reducible assumption
    | extract_lets
    | with_reducible apply keeps_updScrub
    | with_reducible apply keeps_applied
    | with_reducible apply keeps_ite
    | simp (zeta := false) only [keeps_mk_iff]
    | intro _
    | split

theorem keeps_freeParts {a₀ : State} (s : State) (parts : List (Nat × Nat × Nat × List Nat)) (hs : Keeps a₀ s) :
    Keeps a₀ (freeParts s parts) := by
  unfold freeParts
  repeat' first
    | with_reducible assumption
    | extract_lets
    | with_reducible apply keeps_clearClusters
    | with_reducible apply keeps_handBank
    | with_reducible apply keeps_ite
    | simp (zeta := false) only [keeps_mk_iff]
    | with_reducible apply keeps_foldl
    | with_reducible apply keeps_foldl_fst
    | intro _
    | split

theorem keeps_switchGroup {a₀ : State} (s : State) (h v : Nat) (hs : Keeps a₀ s) :
    Keeps a₀ (switchGroup s h v) := by
  unfold switchGroup
  repeat' first
    | with_reducible assumption
    | extract_lets
    | with_reducible apply keeps_readmit
    | simp (zeta := false) only [keeps_mk_iff]
    | with_reducible apply keeps_foldl
    | intro _
    | split

theorem keeps_releaseOld {a₀ : State} (s : State) (hs : Keeps a₀ s) :
    Keeps a₀ (releaseOld s) := by
  unfold releaseOld
  repeat' first
    | with_reducible assumption
    | extract_lets
    | with_reducible apply keeps_freeParts
    | with_reducible apply keeps_releasePages
    | with_reducible apply keeps_ite
    | simp (zeta := false) only [keeps_mk_iff]
    | with_reducible apply keeps_foldl
    | intro _
    | split

theorem keeps_dropMove {a₀ : State} (s : State) (h : Nat) (hs : Keeps a₀ s) :
    Keeps a₀ (dropMove s h) := by
  unfold dropMove
  repeat' first
    | with_reducible assumption
    | extract_lets
    | with_reducible apply keeps_freeParts
    | with_reducible apply keeps_releasePages
    | simp (zeta := false) only [keeps_mk_iff]
    | split
    | (rename_i v; subst v)
    | (rename_i v _; subst v)
    | (rename_i v _ _; subst v)
    | (rename_i v _ _ _; subst v)
    | (rename_i v _ _ _ _; subst v)
    | (rename_i v _ _ _ _ _; subst v)
    | (rename_i v _ _ _ _ _ _; subst v)
    | (rename_i v _ _ _ _ _ _ _; subst v)

theorem keeps_applyCommit {a₀ : State} (s : State) (moves : Bool) (c : Commit) (hs : Keeps a₀ s) :
    Keeps a₀ (applyCommit s moves c).1 := by
  unfold applyCommit
  repeat' first
    | with_reducible assumption
    | extract_lets
    | with_reducible apply keeps_dropMove
    | with_reducible apply keeps_switchGroup
    | with_reducible apply keeps_applyScrub
    | with_reducible apply keeps_ite
    | with_reducible apply keeps_ite_fst
    | simp (zeta := false) only [keeps_mk_iff]
    | with_reducible apply keeps_foldl
    | with_reducible apply keeps_foldl_fst
    | intro _
    | split

theorem keeps_applyAll {a₀ : State} (s : State) (moves : Bool) (hs : Keeps a₀ s) :
    Keeps a₀ (applyAll s moves) := by
  unfold applyAll
  repeat' first
    | with_reducible assumption
    | extract_lets
    | with_reducible apply keeps_applyCommit
    | simp (zeta := false) only [keeps_mk_iff]
    | with_reducible apply keeps_foldl
    | with_reducible apply keeps_foldl_fst
    | intro _

theorem keeps_deferAll {a₀ : State} (s : State) (hs : Keeps a₀ s) :
    Keeps a₀ (deferAll s) := by
  unfold deferAll
  repeat' first
    | with_reducible assumption
    | extract_lets
    | with_reducible apply keeps_ite
    | simp (zeta := false) only [keeps_mk_iff]
    | with_reducible apply keeps_foldl
    | intro _
    | split

theorem keeps_slackStart {a₀ : State} (s : State) (found : List LaneTest) (hs : Keeps a₀ s) :
    Keeps a₀ (slackStart s found) := by
  unfold slackStart
  repeat' first
    | with_reducible assumption
    | extract_lets
    | with_reducible apply keeps_deferAll
    | with_reducible apply keeps_applyAll
    | with_reducible apply keeps_repairLink
    | with_reducible apply keeps_ite
    | simp (zeta := false) only [keeps_mk_iff]
    | with_reducible apply keeps_foldl
    | intro _
    | split

theorem keeps_postQuiesce {a₀ : State} (s : State) (dies us : Nat) (c : Commit) (hs : Keeps a₀ s) :
    Keeps a₀ (postQuiesce s dies us c) := by
  unfold postQuiesce
  repeat' first
    | with_reducible assumption
    | with_reducible apply keeps_postFw
    | with_reducible apply keeps_ite
    | intro _
    | split

theorem keeps_slackEnd {a₀ : State} (s : State) (us : Nat) (hs : Keeps a₀ s) :
    Keeps a₀ (slackEnd s us) := by
  unfold slackEnd
  repeat' first
    | with_reducible assumption
    | extract_lets
    | with_reducible apply keeps_postQuiesce
    | with_reducible apply keeps_releaseOld
    | with_reducible apply keeps_ite
    | simp (zeta := false) only [keeps_mk_iff]
    | with_reducible apply keeps_foldl
    | intro _
    | split
    | (rename_i v; subst v)
    | (rename_i v _; subst v)
    | (rename_i v _ _; subst v)
    | (rename_i v _ _ _; subst v)
    | (rename_i v _ _ _ _; subst v)
    | (rename_i v _ _ _ _ _; subst v)
    | (rename_i v _ _ _ _ _ _; subst v)
    | (rename_i v _ _ _ _ _ _ _; subst v)

theorem keeps_heldDieLost {a₀ : State} (s : State) (d : Nat) (hs : Keeps a₀ s) :
    Keeps a₀ (heldDieLost s d) := by
  unfold heldDieLost
  repeat' first
    | with_reducible assumption
    | extract_lets
    | with_reducible apply keeps_dropMove
    | with_reducible apply keeps_ite
    | simp (zeta := false) only [keeps_mk_iff]
    | with_reducible apply keeps_foldl
    | with_reducible apply keeps_foldl_fst
    | intro _
    | split
    | (rename_i v; subst v)
    | (rename_i v _; subst v)
    | (rename_i v _ _; subst v)
    | (rename_i v _ _ _; subst v)
    | (rename_i v _ _ _ _; subst v)
    | (rename_i v _ _ _ _ _; subst v)
    | (rename_i v _ _ _ _ _ _; subst v)
    | (rename_i v _ _ _ _ _ _ _; subst v)

theorem keeps_moveFailed {a₀ : State} (s : State) (h gen cause : Nat) (hs : Keeps a₀ s) :
    Keeps a₀ (moveFailed s h gen cause) := by
  unfold moveFailed
  repeat' first
    | with_reducible assumption
    | extract_lets
    | with_reducible apply keeps_postQuiesce
    | with_reducible apply keeps_dropMove
    | with_reducible apply keeps_ite
    | simp (zeta := false) only [keeps_mk_iff]
    | with_reducible apply keeps_foldl
    | intro _
    | split

theorem keeps_prepareMove {a₀ : State} (s : State) (h : Nat) (m : Model) (v : Nat) {r : State} (hr : prepareMove s h m v = some r) (hs : Keeps a₀ s) :
    Keeps a₀ r := by
  unfold prepareMove at hr
  repeat' first
    | (cases hr; done)
    | (simp only [Option.some.injEq, Prod.mk.injEq] at hr)
    | (obtain ⟨rfl, rfl⟩ := hr)
    | subst hr
    | extract_lets at hr
    | split at hr
  all_goals
   repeat' first
    | with_reducible assumption
    | extract_lets
    | with_reducible refine keeps_takeClusters (hr := by assumption) (hs := ?_) ..
    | with_reducible refine keeps_takeWeights (hr := by assumption) (hs := ?_) ..
    | with_reducible apply keeps_ite
    | simp (zeta := false) only [keeps_mk_iff]
    | intro _
    | split
    | split

theorem keeps_movePrepared {a₀ : State} (s : State) (h : Nat) (ok : Bool) (hs : Keeps a₀ s) :
    Keeps a₀ (movePrepared s h ok) := by
  unfold movePrepared
  repeat' first
    | with_reducible assumption
    | extract_lets
    | with_reducible refine keeps_prepareMove (hr := by assumption) (hs := ?_) ..
    | with_reducible apply keeps_moveFailed
    | with_reducible apply keeps_ite
    | simp (zeta := false) only [keeps_mk_iff]
    | intro _
    | split
    | with_reducible exact keeps_prepareMove (hr := by assumption) (hs := by assumption) ..
    | (rename_i h; split at h)
    | contradiction

theorem keeps_noteFairness {a₀ : State} (old s : State) (hs : Keeps a₀ s) :
    Keeps a₀ (noteFairness old s) := by
  unfold noteFairness
  repeat' first
    | with_reducible assumption
    | extract_lets
    | with_reducible apply keeps_ite
    | simp (zeta := false) only [keeps_mk_iff]
    | intro _
    | split

theorem keeps_applyTide {a₀ : State} (s : State) (n : Nat) (hs : Keeps a₀ s) :
    Keeps a₀ (applyTide s n) := by
  unfold applyTide
  repeat' first
    | with_reducible assumption
    | extract_lets
    | with_reducible apply keeps_noteFairness
    | with_reducible apply keeps_applyScrub
    | with_reducible apply keeps_postFw
    | with_reducible apply keeps_applied
    | with_reducible apply keeps_ite
    | simp (zeta := false) only [keeps_mk_iff]
    | with_reducible apply keeps_foldl
    | intro _
    | split

end Sys2Proof.Machine
end

