-- ==== Sys2Proof/Laws/KeepsRecovery.lean ====
section
/-! SUPPORT. The operations of Machine/Recovery.lean leave the queue, the fuses and the memory's form as they are. -/

set_option linter.all false

namespace Sys2Proof.Machine

open Sys2Proof

theorem keeps_markSlots {a₀ : State} (s : State) (f : Nat) (hs : Keeps a₀ s) :
    Keeps a₀ (markSlots s f) := by
  unfold markSlots
  repeat' first
    | with_reducible assumption
    | extract_lets
    | with_reducible apply keeps_updCmd
    | with_reducible apply keeps_putSlot
    | with_reducible apply keeps_ite
    | simp (zeta := false) only [keeps_mk_iff]
    | with_reducible apply keeps_foldl
    | intro _
    | split

theorem keeps_returnBanks {a₀ : State} (s : State) (hs : Keeps a₀ s) :
    Keeps a₀ (returnBanks s) := by
  unfold returnBanks
  repeat' first
    | with_reducible assumption
    | extract_lets
    | with_reducible apply keeps_zeroBank
    | with_reducible apply keeps_logErr
    | with_reducible apply keeps_updBank
    | with_reducible apply keeps_ite
    | simp (zeta := false) only [keeps_mk_iff]
    | with_reducible apply keeps_foldl
    | intro _
    | split

theorem keeps_startRestart {a₀ : State} (s : State) (cause : Nat) (hs : Keeps a₀ s) :
    Keeps a₀ (startRestart s cause) := by
  unfold startRestart
  repeat' first
    | with_reducible assumption
    | extract_lets
    | with_reducible apply keeps_returnBanks
    | with_reducible apply keeps_markSlots
    | with_reducible apply keeps_ite
    | simp (zeta := false) only [keeps_mk_iff]
    | with_reducible apply keeps_foldl
    | intro _
    | split
    | (rename_i v; subst v)
    | (rename_i v _; subst v)
    | (rename_i v _ _; subst v)
    | (rename_i v _ _ _; subst v)
    | (rename_i v _ _ _ _; subst v)
    | (rename_i v _ _ _ _ _; subst v)
    | (rename_i v _ _ _ _ _ _; subst v)
    | (rename_i v _ _ _ _ _ _ _; subst v)

theorem keeps_watchdog {a₀ : State} (s : State) (hs : Keeps a₀ s) :
    Keeps a₀ (watchdog s) := by
  unfold watchdog
  repeat' first
    | with_reducible assumption
    | extract_lets
    | with_reducible apply keeps_startRestart
    | with_reducible apply keeps_deviceFatal
    | with_reducible apply keeps_ite
    | simp (zeta := false) only [keeps_mk_iff]
    | intro _
    | split

theorem keeps_endRejoins {a₀ : State} (s : State) (hs : Keeps a₀ s) :
    Keeps a₀ (endRejoins s) := by
  unfold endRejoins
  repeat' first
    | with_reducible assumption
    | extract_lets
    | with_reducible apply keeps_linkDead
    | with_reducible apply keeps_updDie
    | with_reducible apply keeps_ite
    | simp (zeta := false) only [keeps_mk_iff]
    | with_reducible apply keeps_foldl
    | intro _
    | split

theorem keeps_undoCmd {a₀ : State} (s : State) (f : Nat) (c : Cmd) (hs : Keeps a₀ s) :
    Keeps a₀ (undoCmd s f c) := by
  unfold undoCmd
  repeat' first
    | with_reducible assumption
    | extract_lets
    | with_reducible apply keeps_endRejoins
    | with_reducible apply keeps_dropBuilt
    | with_reducible apply keeps_updDie
    | with_reducible apply keeps_updFn
    | with_reducible apply keeps_ite
    | simp (zeta := false) only [keeps_mk_iff]
    | with_reducible apply keeps_foldl
    | intro _
    | split

theorem keeps_resolveSlots {a₀ : State} (s : State) (f : Nat) (hs : Keeps a₀ s) :
    Keeps a₀ (resolveSlots s f).1 := by
  unfold resolveSlots
  repeat' first
    | with_reducible assumption
    | extract_lets
    | with_reducible apply keeps_undoCmd
    | with_reducible apply keeps_completeSlot
    | simp (zeta := false) only [keeps_mk_iff]
    | with_reducible apply keeps_foldl
    | with_reducible apply keeps_foldl_fst
    | intro _
    | split

theorem keeps_resolveAll {a₀ : State} (s : State) (hs : Keeps a₀ s) :
    Keeps a₀ (resolveAll s).1 := by
  unfold resolveAll
  repeat' first
    | with_reducible assumption
    | extract_lets
    | with_reducible apply keeps_resolveSlots
    | with_reducible apply keeps_foldl
    | with_reducible apply keeps_foldl_fst
    | intro _

theorem keeps_drainMgmt {a₀ : State} (s : State) (hs : Keeps a₀ s) :
    Keeps a₀ (drainMgmt s) := by
  unfold drainMgmt
  repeat' first
    | with_reducible assumption
    | extract_lets
    | with_reducible apply keeps_updDir
    | with_reducible apply keeps_ite
    | simp (zeta := false) only [keeps_mk_iff]
    | with_reducible apply keeps_foldl
    | intro _
    | split

theorem keeps_endRestart {a₀ : State} (s : State) (hs : Keeps a₀ s) :
    Keeps a₀ (endRestart s) := by
  unfold endRestart
  repeat' first
    | with_reducible assumption
    | extract_lets
    | with_reducible apply keeps_drainMgmt
    | with_reducible apply keeps_resolveAll
    | with_reducible apply keeps_post
    | with_reducible apply keeps_logErr
    | with_reducible apply keeps_ite
    | simp (zeta := false) only [keeps_mk_iff]
    | with_reducible apply keeps_foldl
    | with_reducible apply keeps_foldl_fst
    | intro _
    | split
    | (rename_i v; subst v)
    | (rename_i v _; subst v)
    | (rename_i v _ _; subst v)
    | (rename_i v _ _ _; subst v)
    | (rename_i v _ _ _ _; subst v)
    | (rename_i v _ _ _ _ _; subst v)
    | (rename_i v _ _ _ _ _ _; subst v)
    | (rename_i v _ _ _ _ _ _ _; subst v)

theorem keeps_managerDone {a₀ : State} (s : State) (d : Nat) (ok : Bool) (hs : Keeps a₀ s) :
    Keeps a₀ (managerDone s d ok) := by
  unfold managerDone
  repeat' first
    | with_reducible assumption
    | extract_lets
    | with_reducible apply keeps_loseDie
    | with_reducible apply keeps_logErr
    | with_reducible apply keeps_updDie
    | with_reducible apply keeps_ite
    | simp (zeta := false) only [keeps_mk_iff]
    | intro _
    | split

end Sys2Proof.Machine
end

