-- ==== Sys2Proof/Laws/KeepsRas.lean ====
section
/-! SUPPORT. The operations of Machine/Ras.lean leave the queue, the fuses and the memory's form as they are. -/

set_option linter.all false

namespace Sys2Proof.Machine

open Sys2Proof

theorem keeps_restoreWord {a₀ : State} (s : State) (addr store : Nat) (hs : Keeps a₀ s) :
    Keeps a₀ (restoreWord s addr store) := by
  unfold restoreWord
  repeat' first
    | with_reducible assumption
    | extract_lets
    | with_reducible apply keeps_dropFaultsOf
    | with_reducible apply keeps_failReq
    | with_reducible apply keeps_deviceFatal
    | with_reducible apply keeps_overwrite
    | with_reducible apply keeps_logErr
    | with_reducible apply keeps_ite
    | simp (zeta := false) only [keeps_mk_iff]
    | intro _
    | split

theorem keeps_replaySteps {a₀ : State} (s : State) (d : Nat) (hs : Keeps a₀ s) :
    Keeps a₀ (replaySteps s d) := by
  unfold replaySteps
  repeat' first
    | with_reducible assumption
    | extract_lets
    | with_reducible apply keeps_ite
    | simp (zeta := false) only [keeps_mk_iff]
    | intro _
    | split

theorem keeps_sramFound {a₀ : State} (s : State) (addr : Nat) (hs : Keeps a₀ s) :
    Keeps a₀ (sramFound s addr) := by
  unfold sramFound
  repeat' first
    | with_reducible assumption
    | extract_lets
    | with_reducible apply keeps_replaySteps
    | with_reducible apply keeps_restoreWord
    | with_reducible apply keeps_startRestart
    | with_reducible apply keeps_deviceFatal
    | with_reducible apply keeps_storeWord
    | with_reducible apply keeps_clearPoison
    | with_reducible apply keeps_ite
    | simp (zeta := false) only [keeps_mk_iff]
    | intro _
    | split

theorem keeps_readWord {a₀ : State} (s : State) (addr source : Nat) (ecc : EccSeen) (hs : Keeps a₀ s) :
    Keeps a₀ (readWord s addr source ecc).1 := by
  unfold readWord
  repeat' first
    | with_reducible assumption
    | extract_lets
    | with_reducible apply keeps_sramFound
    | with_reducible apply keeps_checkWord
    | with_reducible apply keeps_ite
    | with_reducible apply keeps_ite_fst
    | simp (zeta := false) only [keeps_mk_iff]
    | intro _
    | split

theorem keeps_logConsumed {a₀ : State} (s : State) (addr ledger replay outcome : Nat) (hs : Keeps a₀ s) :
    Keeps a₀ (logConsumed s addr ledger replay outcome) := by
  unfold logConsumed
  repeat' first
    | with_reducible assumption
    | extract_lets
    | with_reducible apply keeps_logErr
    | with_reducible apply keeps_ite
    | simp (zeta := false) only [keeps_mk_iff]
    | intro _
    | split

theorem keeps_failStep {a₀ : State} (s : State) (id : Nat) (hs : Keeps a₀ s) :
    Keeps a₀ (failStep s id) := by
  unfold failStep
  repeat' first
    | with_reducible assumption
    | with_reducible apply keeps_dropFaultsOf
    | with_reducible apply keeps_leaveStep
    | with_reducible apply keeps_failReq
    | with_reducible apply keeps_foldl
    | intro _

theorem keeps_replayStep {a₀ : State} (s : State) (id : Nat) (hs : Keeps a₀ s) :
    Keeps a₀ (replayStep s id) := by
  unfold replayStep
  repeat' first
    | with_reducible assumption
    | extract_lets
    | with_reducible apply keeps_updStep
    | with_reducible apply keeps_ite
    | simp (zeta := false) only [keeps_mk_iff]
    | intro _
    | split

theorem keeps_rewriteMaskLine {a₀ : State} (s : State) (addr : Nat) (hs : Keeps a₀ s) :
    Keeps a₀ (rewriteMaskLine s addr) := by
  unfold rewriteMaskLine
  repeat' first
    | with_reducible assumption
    | extract_lets
    | with_reducible apply keeps_poisonFound
    | with_reducible apply keeps_overwrite
    | with_reducible apply keeps_ite
    | simp (zeta := false) only [keeps_mk_iff]
    | intro _
    | split

theorem keeps_stepConsumes {a₀ : State} (s : State) (addr id i : Nat) (hs : Keeps a₀ s) :
    Keeps a₀ (stepConsumes s addr id i) := by
  unfold stepConsumes
  repeat' first
    | with_reducible assumption
    | extract_lets
    | with_reducible apply keeps_rewriteMaskLine
    | with_reducible apply keeps_replayStep
    | with_reducible apply keeps_failStep
    | with_reducible apply keeps_logConsumed
    | with_reducible apply keeps_leaveStep
    | with_reducible apply keeps_failReq
    | with_reducible apply keeps_ite
    | simp (zeta := false) only [keeps_mk_iff]
    | intro _
    | split

theorem keeps_consume {a₀ : State} (s : State) (addr : Nat) (w0 : Consumer) (hs : Keeps a₀ s) :
    Keeps a₀ (consume s addr w0) := by
  unfold consume
  repeat' first
    | with_reducible assumption
    | with_reducible apply keeps_stepConsumes
    | with_reducible apply keeps_logConsumed
    | with_reducible apply keeps_failReq
    | with_reducible apply keeps_ite
    | intro _
    | split

theorem keeps_demandRead {a₀ : State} (s : State) (addr : Nat) (ecc : EccSeen) (c : Consumer) (hs : Keeps a₀ s) :
    Keeps a₀ (demandRead s addr ecc c) := by
  unfold demandRead
  repeat' first
    | with_reducible assumption
    | extract_lets
    | with_reducible apply keeps_consume
    | with_reducible apply keeps_readWord
    | with_reducible apply keeps_ite
    | intro _
    | split

theorem keeps_fullWrite {a₀ : State} (s : State) (addr : Nat) (data : List Byte) (hs : Keeps a₀ s) :
    Keeps a₀ (fullWrite s addr data) := by
  unfold fullWrite
  repeat' first
    | with_reducible assumption
    | extract_lets
    | with_reducible apply keeps_storeWord
    | with_reducible apply keeps_ite
    | simp (zeta := false) only [keeps_mk_iff]
    | intro _
    | split

theorem keeps_tellWriter {a₀ : State} (s : State) (w0 : Writer) (hs : Keeps a₀ s) :
    Keeps a₀ (tellWriter s w0) := by
  unfold tellWriter
  repeat' first
    | with_reducible assumption
    | with_reducible apply keeps_leaveStep
    | with_reducible apply keeps_failReq
    | with_reducible apply keeps_outFail
    | with_reducible apply keeps_logErr
    | with_reducible apply keeps_cnt
    | with_reducible apply keeps_ite
    | with_reducible apply keeps_foldl
    | intro _
    | split

theorem keeps_refused {a₀ : State} (w : Writer) (r : State × List Nat) (hr : Keeps a₀ r.1) :
    Keeps a₀ (refused w r) := by
  unfold refused
  repeat' first
    | with_reducible assumption
    | extract_lets
    | with_reducible apply keeps_tellWriter
    | with_reducible apply keeps_refusedFound
    | with_reducible apply keeps_ite
    | simp (zeta := false) only [keeps_mk_iff]
    | intro _
    | split

theorem keeps_partialWrite {a₀ : State} (s : State) (addr : Nat) (data : List Byte) (ecc : EccSeen) (w : Writer) (hs : Keeps a₀ s) :
    Keeps a₀ (partialWrite s addr data ecc w) := by
  unfold partialWrite
  repeat' first
    | with_reducible assumption
    | extract_lets
    | with_reducible apply keeps_refused
    | with_reducible apply keeps_storeAt
    | with_reducible apply keeps_ite
    | simp (zeta := false) only [keeps_mk_iff]
    | intro _
    | split

theorem keeps_patrolRead {a₀ : State} (s : State) (c : Nat) (ecc : EccSeen) (hs : Keeps a₀ s) :
    Keeps a₀ (patrolRead s c ecc) := by
  unfold patrolRead
  repeat' first
    | with_reducible assumption
    | extract_lets
    | with_reducible apply keeps_readWord
    | with_reducible apply keeps_updScrub
    | with_reducible apply keeps_ite
    | simp (zeta := false) only [keeps_mk_iff]
    | intro _
    | split

theorem keeps_moveClaim {a₀ : State} (s : State) (i d : Nat) (hs : Keeps a₀ s) :
    Keeps a₀ (moveClaim s i d) := by
  unfold moveClaim
  repeat' first
    | with_reducible assumption
    | extract_lets
    | with_reducible apply keeps_updEnt
    | simp (zeta := false) only [keeps_mk_iff]
    | intro _
    | split

theorem keeps_restoreClaims {a₀ : State} (s : State) (p : Nat) (w0 : Nat) (hs : Keeps a₀ s) :
    Keeps a₀ (restoreClaims s p w0) := by
  induction w0 generalizing s with
  | zero => unfold restoreClaims; repeat' first | assumption | split
  | succ _ ih =>
   unfold restoreClaims
   repeat' first
    | with_reducible assumption
    | with_reducible apply ih
    | extract_lets
    | with_reducible apply keeps_moveClaim
    | with_reducible apply keeps_dropFaultsOf
    | with_reducible apply keeps_leaveStep
    | with_reducible apply keeps_failReq
    | with_reducible apply keeps_dropReserve
    | with_reducible apply keeps_logErr
    | with_reducible apply keeps_updEnt
    | with_reducible apply keeps_ite
    | simp (zeta := false) only [keeps_mk_iff]
    | with_reducible apply keeps_foldl
    | with_reducible apply keeps_foldl_fst
    | intro _
    | split

theorem keeps_restore {a₀ : State} (s : State) (p : Nat) (hs : Keeps a₀ s) :
    Keeps a₀ (restore s p) := by
  unfold restore
  repeat' first
    | with_reducible assumption
    | with_reducible apply keeps_restoreClaims

theorem keeps_retire {a₀ : State} (s : State) (p reason line : Nat) (hs : Keeps a₀ s) :
    Keeps a₀ (retire s p reason line) := by
  unfold retire
  repeat' first
    | with_reducible assumption
    | extract_lets
    | with_reducible apply keeps_restore
    | with_reducible apply keeps_retirePage
    | simp (zeta := false) only [keeps_mk_iff]
    | split

theorem keeps_remapPage {a₀ : State} (s : State) (p q : Nat) (hs : Keeps a₀ s) :
    Keeps a₀ (remapPage s p q) := by
  unfold remapPage
  repeat' first
    | with_reducible assumption
    | extract_lets
    | with_reducible apply keeps_remapKv
    | with_reducible apply keeps_ite
    | simp (zeta := false) only [keeps_mk_iff]
    | intro _
    | split

theorem keeps_startMigration {a₀ : State} (s : State) (p reason line : Nat) (hs : Keeps a₀ s) :
    Keeps a₀ (startMigration s p reason line) := by
  unfold startMigration
  repeat' first
    | with_reducible assumption
    | extract_lets
    | with_reducible apply keeps_restore
    | with_reducible apply keeps_takePages
    | with_reducible apply keeps_updPage
    | with_reducible apply keeps_ite
    | simp (zeta := false) only [keeps_mk_iff]
    | intro _
    | split

theorem keeps_repaired {a₀ : State} (s : State) (addr src method lines : Nat) (hs : Keeps a₀ s) :
    Keeps a₀ (repaired s addr src method lines) := by
  unfold repaired
  repeat' first
    | with_reducible assumption
    | extract_lets
    | with_reducible apply keeps_postFw
    | with_reducible apply keeps_logErr
    | with_reducible apply keeps_ite
    | intro _
    | split

theorem keeps_migrationDone {a₀ : State} (s : State) (p q : Nat) (hs : Keeps a₀ s) :
    Keeps a₀ (migrationDone s p q) := by
  unfold migrationDone
  repeat' first
    | with_reducible assumption
    | extract_lets
    | with_reducible apply keeps_repaired
    | with_reducible apply keeps_remapPage
    | with_reducible apply keeps_retire
    | with_reducible apply keeps_copyPage
    | with_reducible apply keeps_bad
    | with_reducible apply keeps_updPage
    | with_reducible apply keeps_ite
    | simp (zeta := false) only [keeps_mk_iff]
    | intro _
    | split
    | (rename_i v; subst v)
    | (rename_i v _; subst v)
    | (rename_i v _ _; subst v)
    | (rename_i v _ _ _; subst v)
    | (rename_i v _ _ _ _; subst v)
    | (rename_i v _ _ _ _ _; subst v)
    | (rename_i v _ _ _ _ _ _; subst v)
    | (rename_i v _ _ _ _ _ _ _; subst v)

theorem keeps_ceRetire {a₀ : State} (s : State) (p : Nat) (hs : Keeps a₀ s) :
    Keeps a₀ (ceRetire s p) := by
  unfold ceRetire
  repeat' first
    | with_reducible assumption
    | extract_lets
    | with_reducible apply keeps_startMigration
    | with_reducible apply keeps_retire
    | with_reducible apply keeps_ite
    | intro _
    | split

theorem keeps_pageZeroed {a₀ : State} (s : State) (p : Nat) (hs : Keeps a₀ s) :
    Keeps a₀ (pageZeroed s p) := by
  unfold pageZeroed
  repeat' first
    | with_reducible assumption
    | extract_lets
    | with_reducible refine keeps_putMem _ _ ?_ (by first | exact Memory.wf_cellsWrite _ _ | exact Memory.wf_cellsZero _ _ | exact Memory.wf_dvaCells _ _ _ _ | exact Memory.wf_bar2Cells _ _ _ _ _ | exact fun _ => Memory.wf_nil | exact fun h => Memory.wf_foldl _ _ _ (Memory.wf_cellsZero _ _ h))
    | with_reducible apply keeps_updPage
    | simp (zeta := false) only [keeps_mk_iff]
    | intro _

theorem keeps_cacheLost {a₀ : State} (s : State) (i addr cause lo hi : Nat) (hs : Keeps a₀ s) :
    Keeps a₀ (cacheLost s i addr cause lo hi) := by
  unfold cacheLost
  repeat' first
    | with_reducible assumption
    | extract_lets
    | with_reducible apply keeps_postFw
    | with_reducible apply keeps_logErr

theorem keeps_damageLive {a₀ : State} (s : State) (addr : Nat) (hs : Keeps a₀ s) :
    Keeps a₀ (damageLive s addr) := by
  unfold damageLive
  repeat' first
    | with_reducible assumption
    | extract_lets
    | with_reducible apply keeps_cacheLost
    | with_reducible apply keeps_markCacheLost
    | with_reducible apply keeps_ite
    | simp (zeta := false) only [keeps_mk_iff]
    | with_reducible apply keeps_foldl
    | intro _
    | split

theorem keeps_damagePool {a₀ : State} (s : State) (addr : Nat) (hs : Keeps a₀ s) :
    Keeps a₀ (damagePool s addr) := by
  unfold damagePool
  repeat' first
    | with_reducible assumption
    | extract_lets
    | with_reducible apply keeps_cacheLost
    | with_reducible apply keeps_markCacheLost
    | with_reducible apply keeps_stateRecord
    | with_reducible apply keeps_leavePage
    | with_reducible apply keeps_updEntX
    | with_reducible apply keeps_updEnt
    | with_reducible apply keeps_ite
    | simp (zeta := false) only [keeps_mk_iff]
    | with_reducible apply keeps_foldl
    | intro _
    | split

theorem keeps_repairWeights {a₀ : State} (s : State) (addr src : Nat) (hs : Keeps a₀ s) :
    Keeps a₀ (repairWeights s addr src) := by
  unfold repairWeights
  repeat' first
    | with_reducible assumption
    | extract_lets
    | with_reducible apply keeps_repaired
    | with_reducible apply keeps_startMigration
    | with_reducible apply keeps_good
    | with_reducible apply keeps_storeWord
    | with_reducible apply keeps_updPage
    | with_reducible apply keeps_ite
    | simp (zeta := false) only [keeps_mk_iff]
    | with_reducible apply keeps_foldl
    | with_reducible apply keeps_foldl_fst
    | intro _
    | split

theorem keeps_disposeBank {a₀ : State} (s : State) (addr source : Nat) (hs : Keeps a₀ s) :
    Keeps a₀ (disposeBank s addr source) := by
  unfold disposeBank
  repeat' first
    | with_reducible assumption
    | extract_lets
    | with_reducible apply keeps_poisonFound
    | with_reducible apply keeps_seizeBank
    | with_reducible apply keeps_ite
    | intro _
    | split

theorem keeps_dispose {a₀ : State} (s : State) (addr source : Nat) (hs : Keeps a₀ s) :
    Keeps a₀ (dispose s addr source) := by
  unfold dispose
  repeat' first
    | with_reducible assumption
    | extract_lets
    | with_reducible apply keeps_disposeBank
    | with_reducible apply keeps_repairWeights
    | with_reducible apply keeps_damagePool
    | with_reducible apply keeps_damageLive
    | with_reducible apply keeps_retire
    | with_reducible apply keeps_sramFound
    | with_reducible apply keeps_poisonFound
    | with_reducible apply keeps_overwrite
    | with_reducible apply keeps_clearPoison
    | with_reducible apply keeps_logErr
    | with_reducible apply keeps_ite
    | simp (zeta := false) only [keeps_mk_iff]
    | intro _
    | split

end Sys2Proof.Machine
end

