-- ==== Sys2Proof/Laws/KeepsStreamCommands.lean ====
section
/-! SUPPORT. The operations of Machine/StreamCommands.lean leave the queue, the fuses and the memory's form as they are. -/

set_option linter.all false

namespace Sys2Proof.Machine

open Sys2Proof

theorem keeps_requestQuery {a₀ : State} (s : State) (f : Nat) (b : List Byte) (hs : Keeps a₀ s) :
    Keeps a₀ (requestQuery s f b).1 := by
  unfold requestQuery
  repeat' first
    | with_reducible assumption
    | extract_lets
    | with_reducible apply keeps_fields
    | with_reducible apply keeps_good
    | with_reducible apply keeps_bad
    | with_reducible apply keeps_firmwareRefused
    | with_reducible apply keeps_storeDva
    | with_reducible apply keeps_ite
    | with_reducible apply keeps_ite_fst
    | simp (zeta := false) only [keeps_mk_iff]
    | intro _
    | split

theorem keeps_ringFields {a₀ : State} (s : State) (f : Nat) (b : List Byte) (k : Ran) (hs : Keeps a₀ s) (hk : Keeps a₀ k.1) :
    Keeps a₀ (ringFields s f b k).1 := by
  unfold ringFields
  repeat' first
    | with_reducible assumption
    | extract_lets
    | with_reducible apply keeps_fields
    | with_reducible apply keeps_bad
    | with_reducible apply keeps_ite
    | with_reducible apply keeps_ite_fst
    | simp (zeta := false) only [keeps_mk_iff]
    | intro _
    | split

theorem keeps_ringOpen {a₀ : State} (s : State) (f slot : Nat) (b : List Byte) (hs : Keeps a₀ s) :
    Keeps a₀ (ringOpen s f slot b).1 := by
  unfold ringOpen
  repeat' first
    | with_reducible assumption
    | extract_lets
    | with_reducible apply keeps_ringFields
    | with_reducible apply keeps_running
    | with_reducible apply keeps_good
    | with_reducible apply keeps_bad
    | with_reducible apply keeps_writeBack
    | with_reducible apply keeps_stopRing
    | with_reducible apply keeps_updFn
    | with_reducible apply keeps_ite
    | with_reducible apply keeps_ite_fst
    | simp (zeta := false) only [keeps_mk_iff]
    | intro _
    | split

theorem keeps_ringClose {a₀ : State} (s : State) (f : Nat) (b : List Byte) (hs : Keeps a₀ s) :
    Keeps a₀ (ringClose s f b).1 := by
  unfold ringClose
  repeat' first
    | with_reducible assumption
    | extract_lets
    | with_reducible apply keeps_fields
    | with_reducible apply keeps_good
    | with_reducible apply keeps_bad
    | with_reducible apply keeps_dropHeld
    | with_reducible apply keeps_updRing
    | with_reducible apply keeps_updFn
    | with_reducible apply keeps_ite
    | with_reducible apply keeps_ite_fst
    | simp (zeta := false) only [keeps_mk_iff]
    | intro _
    | split

theorem keeps_streamFields {a₀ : State} (s : State) (f : Nat) (b : List Byte) (k : Ran) (hs : Keeps a₀ s) (hk : Keeps a₀ k.1) :
    Keeps a₀ (streamFields s f b k).1 := by
  unfold streamFields
  repeat' first
    | with_reducible assumption
    | extract_lets
    | with_reducible apply keeps_fields
    | with_reducible apply keeps_bad
    | with_reducible apply keeps_ite
    | with_reducible apply keeps_ite_fst
    | simp (zeta := false) only [keeps_mk_iff]
    | intro _
    | split

theorem keeps_streamOpen {a₀ : State} (s : State) (f slot : Nat) (b : List Byte) (hs : Keeps a₀ s) :
    Keeps a₀ (streamOpen s f slot b).1 := by
  unfold streamOpen
  repeat' first
    | with_reducible assumption
    | extract_lets
    | with_reducible apply keeps_streamFields
    | with_reducible apply keeps_good
    | with_reducible apply keeps_bad
    | with_reducible apply keeps_updFn
    | with_reducible apply keeps_ite
    | with_reducible apply keeps_ite_fst
    | simp (zeta := false) only [keeps_mk_iff]
    | intro _
    | split

theorem keeps_rekey {a₀ : State} (s : State) (f st k : Nat) (x : Stream) (hs : Keeps a₀ s) :
    Keeps a₀ (rekey s f st k x) := by
  unfold rekey
  repeat' first
    | with_reducible assumption
    | extract_lets
    | with_reducible apply keeps_updFn
    | with_reducible apply keeps_ite
    | simp (zeta := false) only [keeps_mk_iff]
    | intro _
    | split

theorem keeps_streamClose {a₀ : State} (s : State) (f : Nat) (b : List Byte) (hs : Keeps a₀ s) :
    Keeps a₀ (streamClose s f b).1 := by
  unfold streamClose
  repeat' first
    | with_reducible assumption
    | extract_lets
    | with_reducible apply keeps_rekey
    | with_reducible apply keeps_fields
    | with_reducible apply keeps_good
    | with_reducible apply keeps_bad
    | with_reducible apply keeps_outReturn
    | with_reducible apply keeps_updFn
    | with_reducible apply keeps_ite
    | with_reducible apply keeps_ite_fst
    | simp (zeta := false) only [keeps_mk_iff]
    | intro _
    | split

end Sys2Proof.Machine
end

