-- ==== Sys2Proof/Laws/KeepsHostLink.lean ====
section
/-! SUPPORT. The operations of Machine/HostLink.lean leave the queue, the fuses and the memory's form as they are. -/

set_option linter.all false

namespace Sys2Proof.Machine

open Sys2Proof

theorem keeps_startFetch {a₀ : State} (s : State) (f r : Nat) (hs : Keeps a₀ s) :
    Keeps a₀ (startFetch s f r) := by
  unfold startFetch
  repeat' first
    | with_reducible assumption
    | extract_lets
    | with_reducible apply keeps_running
    | with_reducible apply keeps_issueReads
    | with_reducible apply keeps_updRing
    | with_reducible apply keeps_ite
    | simp (zeta := false) only [keeps_mk_iff]
    | intro _
    | split

theorem keeps_resumeReads {a₀ : State} (s : State) (f : Nat) (hs : Keeps a₀ s) :
    Keeps a₀ (resumeReads s f) := by
  unfold resumeReads
  repeat' first
    | with_reducible assumption
    | extract_lets
    | with_reducible apply keeps_startFetch
    | with_reducible apply keeps_retryReads
    | with_reducible apply keeps_askAgain
    | with_reducible apply keeps_pumpAll
    | with_reducible apply keeps_ite
    | simp (zeta := false) only [keeps_mk_iff]
    | with_reducible apply keeps_foldl
    | with_reducible apply keeps_foldl_fst
    | intro _
    | split

theorem keeps_askPage {a₀ : State} (s : State) (f dva : Nat) (w : WalkWork) (hs : Keeps a₀ s) :
    Keeps a₀ (askPage s f dva w) := by
  unfold askPage
  repeat' first
    | with_reducible assumption
    | extract_lets
    | with_reducible apply keeps_askTranslation
    | with_reducible apply keeps_addFault
    | with_reducible apply keeps_endWork
    | with_reducible apply keeps_ite
    | simp (zeta := false) only [keeps_mk_iff]
    | intro _
    | split

theorem keeps_askLost {a₀ : State} (s : State) (f : Nat) (hs : Keeps a₀ s) :
    Keeps a₀ (askLost s f) := by
  unfold askLost
  repeat' first
    | with_reducible assumption
    | extract_lets
    | with_reducible apply keeps_askPage
    | with_reducible apply keeps_ite
    | simp (zeta := false) only [keeps_mk_iff]
    | with_reducible apply keeps_foldl
    | with_reducible apply keeps_foldl_fst
    | intro _
    | split

theorem keeps_losePage {a₀ : State} (s : State) (f pasid page : Nat) (hs : Keeps a₀ s) :
    Keeps a₀ (losePage s f pasid page) := by
  unfold losePage
  repeat' first
    | with_reducible assumption
    | extract_lets
    | with_reducible apply keeps_updFn
    | with_reducible apply keeps_ite
    | simp (zeta := false) only [keeps_mk_iff]
    | with_reducible apply keeps_foldl
    | intro _
    | split

theorem keeps_holdPage {a₀ : State} (s : State) (f pasid page : Nat) (hs : Keeps a₀ s) :
    Keeps a₀ (holdPage s f pasid page) := by
  unfold holdPage
  repeat' first
    | with_reducible assumption
    | extract_lets
    | with_reducible apply keeps_updFn
    | with_reducible apply keeps_ite
    | simp (zeta := false) only [keeps_mk_iff]
    | intro _
    | split

theorem keeps_staleReads {a₀ : State} (s : State) (f : Nat) (hs : Keeps a₀ s) :
    Keeps a₀ (staleReads s f) := by
  unfold staleReads
  repeat' first
    | with_reducible assumption
    | extract_lets
    | with_reducible apply keeps_updPci
    | with_reducible apply keeps_updFn
    | with_reducible apply keeps_ite
    | simp (zeta := false) only [keeps_mk_iff]
    | intro _
    | split

theorem keeps_bmeClear {a₀ : State} (s : State) (f : Nat) (hs : Keeps a₀ s) :
    Keeps a₀ (bmeClear s f) := by
  unfold bmeClear
  repeat' first
    | with_reducible assumption
    | extract_lets
    | with_reducible apply keeps_staleReads
    | with_reducible apply keeps_updPci
    | with_reducible apply keeps_ite
    | simp (zeta := false) only [keeps_mk_iff]
    | intro _
    | split

theorem keeps_serveAll {a₀ : State} (s : State) (f : Nat) (hs : Keeps a₀ s) :
    Keeps a₀ (serveAll s f) := by
  unfold serveAll
  repeat' first
    | with_reducible assumption
    | with_reducible apply keeps_serveOutput
    | with_reducible apply keeps_ite
    | with_reducible apply keeps_foldl
    | intro _
    | split

theorem keeps_resumeBus {a₀ : State} (s : State) (f : Nat) (hs : Keeps a₀ s) :
    Keeps a₀ (resumeBus s f) := by
  unfold resumeBus
  repeat' first
    | with_reducible assumption
    | extract_lets
    | with_reducible apply keeps_serveAll
    | with_reducible apply keeps_resumeReads
    | with_reducible apply keeps_sendPages
    | with_reducible apply keeps_flushWaiting
    | with_reducible apply keeps_ite
    | simp (zeta := false) only [keeps_mk_iff]
    | intro _
    | split

theorem keeps_bmeSet {a₀ : State} (s : State) (f : Nat) (hs : Keeps a₀ s) :
    Keeps a₀ (bmeSet s f) := by
  unfold bmeSet
  repeat' first
    | with_reducible assumption
    | extract_lets
    | with_reducible apply keeps_resumeBus
    | with_reducible apply keeps_updPci
    | with_reducible apply keeps_ite
    | simp (zeta := false) only [keeps_mk_iff]
    | intro _
    | split

theorem keeps_d3hotEntry {a₀ : State} (s : State) (f : Nat) (hs : Keeps a₀ s) :
    Keeps a₀ (d3hotEntry s f) := by
  unfold d3hotEntry
  repeat' first
    | with_reducible assumption
    | extract_lets
    | with_reducible apply keeps_staleReads
    | with_reducible apply keeps_updPci
    | with_reducible apply keeps_ite
    | simp (zeta := false) only [keeps_mk_iff]
    | intro _
    | split

theorem keeps_retrySlots {a₀ : State} (s : State) (f : Nat) (hs : Keeps a₀ s) :
    Keeps a₀ (retrySlots s f) := by
  unfold retrySlots
  repeat' first
    | with_reducible assumption
    | extract_lets
    | with_reducible apply keeps_undoCmd
    | with_reducible apply keeps_completeSlot
    | with_reducible apply keeps_ite
    | simp (zeta := false) only [keeps_mk_iff]
    | with_reducible apply keeps_foldl
    | intro _
    | split

theorem keeps_leaveSteps {a₀ : State} (s : State) (i : Nat) (hs : Keeps a₀ s) :
    Keeps a₀ (leaveSteps s i) := by
  unfold leaveSteps
  repeat' first
    | with_reducible assumption
    | with_reducible apply keeps_leaveStep
    | with_reducible apply keeps_foldl
    | intro _

theorem keeps_flrReq {a₀ : State} (s : State) (i : Nat) (hs : Keeps a₀ s) :
    Keeps a₀ (flrReq s i) := by
  unfold flrReq
  repeat' first
    | with_reducible assumption
    | extract_lets
    | with_reducible apply keeps_leaveSteps
    | with_reducible apply keeps_dropFaultsOf
    | with_reducible apply keeps_failReq
    | with_reducible apply keeps_charge
    | with_reducible apply keeps_updEntX
    | with_reducible apply keeps_updEnt
    | with_reducible apply keeps_ite
    | simp (zeta := false) only [keeps_mk_iff]
    | intro _
    | split

theorem keeps_dropLanes {a₀ : State} (s : State) (f : Nat) (hs : Keeps a₀ s) :
    Keeps a₀ (dropLanes s f) := by
  unfold dropLanes
  repeat' first
    | with_reducible assumption
    | extract_lets
    | with_reducible apply keeps_ite
    | simp (zeta := false) only [keeps_mk_iff]
    | intro _
    | split

theorem keeps_resetDoe {a₀ : State} (s : State) (f : Nat) (hs : Keeps a₀ s) :
    Keeps a₀ (resetDoe s f) := by
  unfold resetDoe
  repeat' first
    | with_reducible assumption
    | extract_lets
    | simp (zeta := false) only [keeps_mk_iff]
    | intro _

theorem keeps_flrOne {a₀ : State} (s : State) (f : Nat) (hs : Keeps a₀ s) :
    Keeps a₀ (flrOne s f) := by
  unfold flrOne
  repeat' first
    | with_reducible assumption
    | extract_lets
    | with_reducible apply keeps_resetDoe
    | with_reducible apply keeps_dropLanes
    | with_reducible apply keeps_flrReq
    | with_reducible apply keeps_retrySlots
    | with_reducible apply keeps_logAbandoned
    | with_reducible apply keeps_seizeBanksOf
    | with_reducible apply keeps_updFn
    | with_reducible apply keeps_ite
    | simp (zeta := false) only [keeps_mk_iff]
    | with_reducible apply keeps_foldl
    | with_reducible apply keeps_foldl_fst
    | intro _
    | split

theorem keeps_postReset {a₀ : State} (s : State) (f : Nat) (hs : Keeps a₀ s) :
    Keeps a₀ (postReset s f) := by
  unfold postReset
  repeat' first
    | with_reducible assumption
    | with_reducible apply keeps_post
    | with_reducible apply keeps_ite
    | intro _
    | split

theorem keeps_flrVf {a₀ : State} (s : State) (f : Nat) (hs : Keeps a₀ s) :
    Keeps a₀ (flrVf s f) := by
  unfold flrVf
  repeat' first
    | with_reducible assumption
    | with_reducible apply keeps_postReset
    | with_reducible apply keeps_flrOne
    | with_reducible apply keeps_ite
    | intro _
    | split

theorem keeps_flrPf {a₀ : State} (s : State) (hs : Keeps a₀ s) :
    Keeps a₀ (flrPf s) := by
  unfold flrPf
  repeat' first
    | with_reducible assumption
    | extract_lets
    | with_reducible apply keeps_flrOne
    | with_reducible apply keeps_ite
    | simp (zeta := false) only [keeps_mk_iff]
    | with_reducible apply keeps_foldl
    | intro _
    | split

theorem keeps_initiateFlr {a₀ : State} (s : State) (f : Nat) (hs : Keeps a₀ s) :
    Keeps a₀ (initiateFlr s f) := by
  unfold initiateFlr
  repeat' first
    | with_reducible assumption
    | with_reducible apply keeps_flrPf
    | with_reducible apply keeps_flrVf
    | with_reducible apply keeps_ite
    | intro _
    | split

theorem keeps_answerHw {a₀ : State} (s : State) (f : Nat) (hs : Keeps a₀ s) :
    Keeps a₀ (answerHw s f) := by
  unfold answerHw
  repeat' first
    | with_reducible assumption
    | extract_lets
    | with_reducible apply keeps_hwComplete
    | with_reducible apply keeps_ite
    | simp (zeta := false) only [keeps_mk_iff]
    | with_reducible apply keeps_foldl
    | intro _
    | split

theorem keeps_flrComplete {a₀ : State} (s : State) (f : Nat) (hs : Keeps a₀ s) :
    Keeps a₀ (flrComplete s f) := by
  unfold flrComplete
  repeat' first
    | with_reducible assumption
    | extract_lets
    | with_reducible apply keeps_answerHw
    | with_reducible apply keeps_dropObjects
    | with_reducible apply keeps_dropAsid
    | with_reducible apply keeps_updFn
    | intro _

theorem keeps_flrEnd {a₀ : State} (s : State) (f : Nat) (hs : Keeps a₀ s) :
    Keeps a₀ (flrEnd s f) := by
  unfold flrEnd
  repeat' first
    | with_reducible assumption
    | extract_lets
    | with_reducible apply keeps_flrComplete
    | with_reducible apply keeps_ite
    | simp (zeta := false) only [keeps_mk_iff]
    | with_reducible apply keeps_foldl
    | intro _
    | split

theorem keeps_vfClear {a₀ : State} (s : State) (hs : Keeps a₀ s) :
    Keeps a₀ (vfClear s) := by
  unfold vfClear
  repeat' first
    | with_reducible assumption
    | extract_lets
    | with_reducible apply keeps_flrVf
    | with_reducible apply keeps_ite
    | simp (zeta := false) only [keeps_mk_iff]
    | with_reducible apply keeps_foldl
    | intro _
    | split

theorem keeps_vfSet {a₀ : State} (s : State) (n : Nat) (hs : Keeps a₀ s) :
    Keeps a₀ (vfSet s n) := by
  unfold vfSet
  repeat' first
    | with_reducible assumption
    | extract_lets
    | with_reducible apply keeps_updPci
    | with_reducible apply keeps_ite
    | simp (zeta := false) only [keeps_mk_iff]
    | with_reducible apply keeps_foldl
    | intro _
    | split

theorem keeps_d0Return {a₀ : State} (s : State) (f : Nat) (hs : Keeps a₀ s) :
    Keeps a₀ (d0Return s f) := by
  unfold d0Return
  repeat' first
    | with_reducible assumption
    | extract_lets
    | with_reducible apply keeps_initiateFlr
    | with_reducible apply keeps_updPci
    | with_reducible apply keeps_ite
    | simp (zeta := false) only [keeps_mk_iff]
    | intro _
    | split

theorem keeps_endFetch {a₀ : State} (s : State) (f r : Nat) (e : ReadEnd) (hs : Keeps a₀ s) :
    Keeps a₀ (endFetch s f r e) := by
  unfold endFetch
  repeat' first
    | with_reducible assumption
    | extract_lets
    | with_reducible apply keeps_startFetch
    | with_reducible apply keeps_stopRing
    | with_reducible apply keeps_updRing
    | with_reducible apply keeps_ite
    | simp (zeta := false) only [keeps_mk_iff]
    | intro _
    | split

theorem keeps_endInput {a₀ : State} (s : State) (f st idx : Nat) (e : ReadEnd) (hs : Keeps a₀ s) :
    Keeps a₀ (endInput s f st idx e) := by
  unfold endInput
  repeat' first
    | with_reducible assumption
    | extract_lets
    | with_reducible apply keeps_finishIn
    | with_reducible apply keeps_ite
    | simp (zeta := false) only [keeps_mk_iff]
    | intro _
    | split

theorem keeps_endStepRead {a₀ : State} (s : State) (id i : Nat) (e : ReadEnd) (hs : Keeps a₀ s) :
    Keeps a₀ (endStepRead s id i e) := by
  unfold endStepRead
  repeat' first
    | with_reducible assumption
    | extract_lets
    | with_reducible apply keeps_abandonStep
    | with_reducible apply keeps_leaveStep
    | with_reducible apply keeps_failReq
    | with_reducible apply keeps_updEntX
    | with_reducible apply keeps_ite
    | simp (zeta := false) only [keeps_mk_iff]
    | intro _
    | split

theorem keeps_endTranslation {a₀ : State} (s : State) (f pasid page : Nat) (e : ReadEnd) (hs : Keeps a₀ s) :
    Keeps a₀ (endTranslation s f pasid page e) := by
  unfold endTranslation
  repeat' first
    | with_reducible assumption
    | extract_lets
    | with_reducible apply keeps_askTranslation
    | with_reducible apply keeps_fatalFault
    | with_reducible apply keeps_updFault
    | with_reducible apply keeps_timeout
    | with_reducible apply keeps_ite
    | simp (zeta := false) only [keeps_mk_iff]
    | with_reducible apply keeps_foldl
    | intro _
    | split

theorem keeps_endRead {a₀ : State} (s : State) (f : Nat) (w : ReadFor) (e : ReadEnd) (hs : Keeps a₀ s) :
    Keeps a₀ (endRead s f w e) := by
  unfold endRead
  repeat' first
    | with_reducible assumption
    | extract_lets
    | with_reducible apply keeps_endTranslation
    | with_reducible apply keeps_endStepRead
    | with_reducible apply keeps_endInput
    | with_reducible apply keeps_endFetch
    | with_reducible apply keeps_failRead
    | with_reducible apply keeps_ite
    | simp (zeta := false) only [keeps_mk_iff]
    | intro _
    | split

theorem keeps_endInvals {a₀ : State} (s : State) (f : Nat) (hs : Keeps a₀ s) :
    Keeps a₀ (endInvals s f) := by
  unfold endInvals
  repeat' first
    | with_reducible assumption
    | extract_lets
    | with_reducible apply keeps_emit
    | with_reducible apply keeps_updPci
    | with_reducible apply keeps_ite
    | simp (zeta := false) only [keeps_mk_iff]
    | with_reducible apply keeps_foldl
    | with_reducible apply keeps_foldl_fst
    | intro _
    | split

theorem keeps_freeTagOf {a₀ : State} (s : State) (f tag : Nat) (hs : Keeps a₀ s) :
    Keeps a₀ (freeTagOf s f tag) := by
  unfold freeTagOf
  repeat' first
    | with_reducible assumption
    | extract_lets
    | with_reducible apply keeps_endInvals
    | with_reducible apply keeps_updPci
    | with_reducible apply keeps_ite
    | simp (zeta := false) only [keeps_mk_iff]
    | intro _
    | split

theorem keeps_noteCpl {a₀ : State} (s : State) (f : Nat) (w0 : CplStatus) (hs : Keeps a₀ s) :
    Keeps a₀ (noteCpl s f w0) := by
  unfold noteCpl
  repeat' first
    | with_reducible assumption
    | extract_lets
    | with_reducible apply keeps_aer
    | with_reducible apply keeps_updPci
    | simp (zeta := false) only [keeps_mk_iff]
    | intro _
    | split

theorem keeps_completion {a₀ : State} (s : State) (f tag : Nat) (st : CplStatus) (hs : Keeps a₀ s) :
    Keeps a₀ (completion s f tag st) := by
  unfold completion
  repeat' first
    | with_reducible assumption
    | extract_lets
    | with_reducible apply keeps_noteCpl
    | with_reducible apply keeps_freeTagOf
    | with_reducible apply keeps_endRead
    | with_reducible apply keeps_resumeReads
    | with_reducible apply keeps_aer
    | with_reducible apply keeps_cnt
    | with_reducible apply keeps_ite
    | simp (zeta := false) only [keeps_mk_iff]
    | intro _
    | split

theorem keeps_timeout {a₀ : State} (s : State) (f tag : Nat) (w : ReadFor) (cto : Nat) (hs : Keeps a₀ s) :
    Keeps a₀ (timeout s f tag w cto) := by
  unfold timeout
  repeat' first
    | with_reducible assumption
    | extract_lets
    | with_reducible apply keeps_endInvals
    | with_reducible apply keeps_endRead
    | with_reducible apply keeps_aer
    | with_reducible apply keeps_cnt
    | with_reducible apply keeps_updPci
    | with_reducible apply keeps_ite
    | simp (zeta := false) only [keeps_mk_iff]
    | intro _
    | split

theorem keeps_quarantineEnd {a₀ : State} (s : State) (f tag until_ : Nat) (hs : Keeps a₀ s) :
    Keeps a₀ (quarantineEnd s f tag until_) := by
  unfold quarantineEnd
  repeat' first
    | with_reducible assumption
    | with_reducible apply keeps_freeTagOf
    | with_reducible apply keeps_resumeReads
    | with_reducible apply keeps_elapse

theorem keeps_bar2Read {a₀ : State} (s : State) (f off len : Nat) (seen : Seen) (hs : Keeps a₀ s) :
    Keeps a₀ (bar2Read s f off len seen) := by
  unfold bar2Read
  repeat' first
    | with_reducible assumption
    | extract_lets
    | with_reducible apply keeps_readWords
    | with_reducible apply keeps_refuseAccess
    | with_reducible apply keeps_cnt
    | with_reducible apply keeps_emit
    | with_reducible apply keeps_ite
    | simp (zeta := false) only [keeps_mk_iff]
    | intro _
    | split

theorem keeps_bar2Write {a₀ : State} (s : State) (f : Fin 16) (off : Nat) (data : List Byte) (poisonedTlp : Bool) (seen : Seen) (hs : Keeps a₀ s) :
    Keeps a₀ (bar2Write s f off data poisonedTlp seen) := by
  unfold bar2Write
  repeat' first
    | with_reducible assumption
    | extract_lets
    | with_reducible apply keeps_refused
    | with_reducible apply keeps_storeDva
    | with_reducible apply keeps_refuseAccess
    | with_reducible apply keeps_aer
    | with_reducible apply keeps_cnt
    | with_reducible apply keeps_ite
    | simp (zeta := false) only [keeps_mk_iff]
    | intro _
    | split

theorem keeps_invalidate {a₀ : State} (s : State) (f itag pasid page : Nat) (hs : Keeps a₀ s) :
    Keeps a₀ (invalidate s f itag pasid page) := by
  unfold invalidate
  repeat' first
    | with_reducible assumption
    | extract_lets
    | with_reducible apply keeps_endInvals
    | with_reducible apply keeps_losePage
    | with_reducible apply keeps_askLost
    | with_reducible apply keeps_cnt
    | with_reducible apply keeps_updPci
    | with_reducible apply keeps_ite
    | simp (zeta := false) only [keeps_mk_iff]
    | intro _
    | split
    | (rename_i v; subst v)
    | (rename_i v _; subst v)
    | (rename_i v _ _; subst v)
    | (rename_i v _ _ _; subst v)
    | (rename_i v _ _ _ _; subst v)
    | (rename_i v _ _ _ _ _; subst v)
    | (rename_i v _ _ _ _ _ _; subst v)
    | (rename_i v _ _ _ _ _ _ _; subst v)

theorem keeps_translationHeld {a₀ : State} (s : State) (f pasid page : Nat) (hs : Keeps a₀ s) :
    Keeps a₀ (translationHeld s f pasid page) := by
  unfold translationHeld
  repeat' first
    | with_reducible assumption
    | extract_lets
    | with_reducible apply keeps_holdPage
    | with_reducible apply keeps_release
    | with_reducible apply keeps_addAtc
    | with_reducible apply keeps_flushWaiting
    | with_reducible apply keeps_ite
    | simp (zeta := false) only [keeps_mk_iff]
    | with_reducible apply keeps_foldl
    | intro _
    | split

theorem keeps_translation {a₀ : State} (s : State) (f pasid page tag : Nat) (stale present : Bool) (hs : Keeps a₀ s) :
    Keeps a₀ (translation s f pasid page tag stale present) := by
  unfold translation
  repeat' first
    | with_reducible assumption
    | extract_lets
    | with_reducible apply keeps_translationHeld
    | with_reducible apply keeps_freeTagOf
    | with_reducible apply keeps_resumeReads
    | with_reducible apply keeps_notPresent
    | with_reducible apply keeps_cnt
    | with_reducible apply keeps_ite
    | simp (zeta := false) only [keeps_mk_iff]
    | with_reducible apply keeps_foldl
    | intro _
    | split

theorem keeps_prgResponse {a₀ : State} (s : State) (f pasid page : Nat) (code : PrgCode) (hs : Keeps a₀ s) :
    Keeps a₀ (prgResponse s f pasid page code) := by
  unfold prgResponse
  repeat' first
    | with_reducible assumption
    | extract_lets
    | with_reducible apply keeps_sendPages
    | with_reducible apply keeps_askTranslation
    | with_reducible apply keeps_fatalFault
    | with_reducible apply keeps_updFault
    | with_reducible apply keeps_cnt
    | with_reducible apply keeps_updPci
    | with_reducible apply keeps_ite
    | simp (zeta := false) only [keeps_mk_iff]
    | with_reducible apply keeps_foldl
    | intro _
    | split

end Sys2Proof.Machine
end

