-- ==== Sys2Proof/Laws/KeepsRings.lean ====
section
/-! SUPPORT. The operations of Machine/Rings.lean leave the queue, the fuses and the memory's form as they are. -/

set_option linter.all false

namespace Sys2Proof.Machine

open Sys2Proof

theorem keeps_popDesc {a₀ : State} (s : State) (f r : Nat) (hs : Keeps a₀ s) :
    Keeps a₀ (popDesc s f r) := by
  unfold popDesc
  repeat' first
    | with_reducible assumption
    | extract_lets
    | with_reducible apply keeps_updRing
    | simp (zeta := false) only [keeps_mk_iff]
    | intro _

theorem keeps_descError {a₀ : State} (s : State) (f r idx detail : Nat) (tag : DWord) (hs : Keeps a₀ s) :
    Keeps a₀ (descError s f r idx detail tag) := by
  unfold descError
  repeat' first
    | with_reducible assumption
    | extract_lets
    | with_reducible apply keeps_record
    | with_reducible apply keeps_cnt
    | with_reducible apply keeps_ite
    | simp (zeta := false) only [keeps_mk_iff]
    | intro _
    | split

theorem keeps_skipBad {a₀ : State} (s : State) (f r : Nat) (w0 : Nat) (hs : Keeps a₀ s) :
    Keeps a₀ (skipBad s f r w0) := by
  induction w0 generalizing s with
  | zero => unfold skipBad; repeat' first | assumption | split
  | succ _ ih =>
   unfold skipBad
   repeat' first
    | with_reducible apply ih
    | with_reducible assumption
    | extract_lets
    | with_reducible apply keeps_descError
    | with_reducible apply keeps_popDesc
    | with_reducible apply keeps_bad
    | with_reducible apply keeps_ite
    | simp (zeta := false) only [keeps_mk_iff]
    | intro _
    | split

theorem keeps_runRing {a₀ : State} (s : State) (f r : Nat) (hs : Keeps a₀ s) :
    Keeps a₀ (runRing s f r) := by
  unfold runRing
  repeat' first
    | with_reducible assumption
    | with_reducible apply keeps_skipBad
    | with_reducible apply keeps_startFetch

theorem keeps_runRings {a₀ : State} (s : State) (f : Nat) (hs : Keeps a₀ s) :
    Keeps a₀ (runRings s f) := by
  unfold runRings
  repeat' first
    | with_reducible assumption
    | with_reducible apply keeps_runRing
    | with_reducible apply keeps_foldl
    | intro _

theorem keeps_consumed {a₀ : State} (s : State) (f r : Nat) (hs : Keeps a₀ s) :
    Keeps a₀ (consumed s f r) := by
  unfold consumed
  repeat' first
    | with_reducible assumption
    | with_reducible apply keeps_runRing
    | with_reducible apply keeps_popDesc

theorem keeps_descriptorFetch {a₀ : State} (s : State) (f r : Nat) (b : List Byte) (hs : Keeps a₀ s) :
    Keeps a₀ (descriptorFetch s f r b) := by
  unfold descriptorFetch
  repeat' first
    | with_reducible assumption
    | extract_lets
    | with_reducible apply keeps_runRing
    | with_reducible apply keeps_updRing
    | with_reducible apply keeps_ite
    | simp (zeta := false) only [keeps_mk_iff]
    | intro _
    | split

theorem keeps_refuse {a₀ : State} (s : State) (f r idx status : Nat) (d : ReqDesc) (hs : Keeps a₀ s) :
    Keeps a₀ (refuse s f r idx status d) := by
  unfold refuse
  repeat' first
    | with_reducible assumption
    | extract_lets
    | with_reducible apply keeps_popDesc
    | with_reducible apply keeps_record
    | with_reducible apply keeps_ite
    | simp (zeta := false) only [keeps_mk_iff]
    | intro _
    | split

theorem keeps_joinV {a₀ : State} (s : State) (f : Nat) (hs : Keeps a₀ s) :
    Keeps a₀ (joinV s f) := by
  unfold joinV
  repeat' first
    | with_reducible assumption
    | extract_lets
    | with_reducible apply keeps_updFn
    | with_reducible apply keeps_ite
    | simp (zeta := false) only [keeps_mk_iff]
    | intro _
    | split

theorem keeps_admitRequest {a₀ : State} (s : State) (f r idx i : Nat) (d : ReqDesc) (stops : List (List Byte)) (hs : Keeps a₀ s) :
    Keeps a₀ (admitRequest s f r idx i d stops) := by
  unfold admitRequest
  repeat' first
    | with_reducible assumption
    | extract_lets
    | with_reducible apply keeps_joinV
    | with_reducible apply keeps_popDesc
    | with_reducible apply keeps_takeRun
    | with_reducible apply keeps_growHistory
    | with_reducible apply keeps_charge
    | with_reducible apply keeps_record
    | with_reducible apply keeps_updStream
    | with_reducible apply keeps_ite
    | simp (zeta := false) only [keeps_mk_iff]
    | intro _
    | split
    | (rename_i v; subst v)
    | (rename_i v _; subst v)
    | (rename_i v _ _; subst v)
    | (rename_i v _ _ _; subst v)
    | (rename_i v _ _ _ _; subst v)
    | (rename_i v _ _ _ _ _; subst v)
    | (rename_i v _ _ _ _ _ _; subst v)
    | (rename_i v _ _ _ _ _ _ _; subst v)

theorem keeps_noteStops {a₀ : State} (s : State) (f : Nat) (d : ReqDesc) (w0 : HostRead) (hs : Keeps a₀ s) :
    Keeps a₀ (noteStops s f d w0) := by
  unfold noteStops
  repeat' first
    | with_reducible assumption
    | extract_lets
    | with_reducible apply keeps_noteRead
    | with_reducible apply keeps_ite
    | simp (zeta := false) only [keeps_mk_iff]
    | intro _
    | split

theorem keeps_submit {a₀ : State} (s : State) (f r idx : Nat) (d : ReqDesc) (read : HostRead) (hs : Keeps a₀ s) :
    Keeps a₀ (submit s f r idx d read) := by
  unfold submit
  repeat' first
    | with_reducible assumption
    | extract_lets
    | with_reducible apply keeps_noteStops
    | with_reducible apply keeps_admitRequest
    | with_reducible apply keeps_refuse
    | with_reducible apply keeps_runRing
    | with_reducible apply keeps_descError
    | with_reducible apply keeps_popDesc
    | with_reducible apply keeps_updRing
    | with_reducible apply keeps_ite
    | simp (zeta := false) only [keeps_mk_iff]
    | with_reducible apply keeps_getD
    | intro _
    | split

theorem keeps_holdTimeout {a₀ : State} (s : State) (f r idx at_ : Nat) (d : ReqDesc) (hs : Keeps a₀ s) :
    Keeps a₀ (holdTimeout s f r idx at_ d) := by
  unfold holdTimeout
  repeat' first
    | with_reducible assumption
    | with_reducible apply keeps_refuse
    | with_reducible apply keeps_runRing
    | with_reducible apply keeps_elapse

theorem keeps_controlDone {a₀ : State} (s : State) (f r idx : Nat) (d : ReqDesc) (status : Nat) (hs : Keeps a₀ s) :
    Keeps a₀ (controlDone s f r idx d status) := by
  unfold controlDone
  repeat' first
    | with_reducible assumption
    | extract_lets
    | with_reducible apply keeps_popDesc
    | with_reducible apply keeps_record
    | with_reducible apply keeps_ite
    | simp (zeta := false) only [keeps_mk_iff]
    | intro _
    | split

theorem keeps_control {a₀ : State} (s : State) (f r idx : Nat) (d : ReqDesc) (act : State → Nat → State) (hs : Keeps a₀ s) (hact : ∀ x0 x1, Keeps a₀ x0 → Keeps a₀ (act x0 x1)) :
    Keeps a₀ (control s f r idx d act) := by
  unfold control
  repeat' first
    | with_reducible assumption
    | extract_lets
    | with_reducible apply hact
    | with_reducible apply keeps_controlDone
    | with_reducible apply keeps_runRing
    | with_reducible apply keeps_ite
    | simp (zeta := false) only [keeps_mk_iff]
    | intro _
    | split
    | (rename_i v; subst v)
    | (rename_i v _; subst v)
    | (rename_i v _ _; subst v)
    | (rename_i v _ _ _; subst v)
    | (rename_i v _ _ _ _; subst v)
    | (rename_i v _ _ _ _ _; subst v)
    | (rename_i v _ _ _ _ _ _; subst v)
    | (rename_i v _ _ _ _ _ _ _; subst v)

theorem keeps_endNow {a₀ : State} (s : State) (i : Nat) (hs : Keeps a₀ s) :
    Keeps a₀ (endNow s i) := by
  unfold endNow
  repeat' first
    | with_reducible assumption
    | extract_lets
    | with_reducible apply keeps_dropFaultsOf
    | with_reducible apply keeps_cancelled
    | with_reducible apply keeps_updEnt
    | with_reducible apply keeps_ite
    | simp (zeta := false) only [keeps_mk_iff]
    | intro _
    | split

theorem keeps_startDrain {a₀ : State} (s : State) (i : Nat) (hs : Keeps a₀ s) :
    Keeps a₀ (startDrain s i) := by
  unfold startDrain
  repeat' first
    | with_reducible assumption
    | extract_lets
    | with_reducible apply keeps_drainOutput
    | with_reducible apply keeps_updEnt
    | simp (zeta := false) only [keeps_mk_iff]
    | intro _

theorem keeps_cancelReq {a₀ : State} (s : State) (i : Nat) (drain close : Bool) (hs : Keeps a₀ s) :
    Keeps a₀ (cancelReq s i drain close) := by
  unfold cancelReq
  repeat' first
    | with_reducible assumption
    | extract_lets
    | with_reducible apply keeps_startDrain
    | with_reducible apply keeps_endNow
    | with_reducible apply keeps_dropFaultsOf
    | with_reducible apply keeps_cancelled
    | with_reducible apply keeps_ite
    | simp (zeta := false) only [keeps_mk_iff]
    | intro _
    | split

theorem keeps_hostPause {a₀ : State} (s : State) (i : Nat) (hs : Keeps a₀ s) :
    Keeps a₀ (hostPause s i) := by
  unfold hostPause
  repeat' first
    | with_reducible assumption
    | extract_lets
    | with_reducible apply keeps_askPause
    | with_reducible apply keeps_startMove
    | with_reducible apply keeps_updEnt
    | with_reducible apply keeps_ite
    | simp (zeta := false) only [keeps_mk_iff]
    | intro _
    | split

theorem keeps_hostResume {a₀ : State} (s : State) (i : Nat) (hs : Keeps a₀ s) :
    Keeps a₀ (hostResume s i) := by
  unfold hostResume
  repeat' first
    | with_reducible assumption
    | extract_lets
    | with_reducible apply keeps_hostPause
    | with_reducible apply keeps_endHostTime
    | with_reducible apply keeps_wake
    | with_reducible apply keeps_updEnt
    | with_reducible apply keeps_ite
    | simp (zeta := false) only [keeps_mk_iff]
    | intro _
    | split

theorem keeps_inputTake {a₀ : State} (s : State) (f r idx : Nat) (d : StrDesc) (hs : Keeps a₀ s) :
    Keeps a₀ (inputTake s f r idx d) := by
  unfold inputTake
  repeat' first
    | with_reducible assumption
    | extract_lets
    | with_reducible apply keeps_consumed
    | with_reducible apply keeps_runRing
    | with_reducible apply keeps_descError
    | with_reducible apply keeps_popDesc
    | with_reducible apply keeps_updStream
    | with_reducible apply keeps_ite
    | simp (zeta := false) only [keeps_mk_iff]
    | intro _
    | split

theorem keeps_outputTake {a₀ : State} (s : State) (f r idx : Nat) (d : StrDesc) (hs : Keeps a₀ s) :
    Keeps a₀ (outputTake s f r idx d) := by
  unfold outputTake
  repeat' first
    | with_reducible assumption
    | extract_lets
    | with_reducible apply keeps_runRing
    | with_reducible apply keeps_descError
    | with_reducible apply keeps_popDesc
    | with_reducible apply keeps_serveOutput
    | with_reducible apply keeps_updStream
    | with_reducible apply keeps_ite
    | simp (zeta := false) only [keeps_mk_iff]
    | intro _
    | split

theorem keeps_returnEntries {a₀ : State} (s : State) (f r v : Nat) (hs : Keeps a₀ s) :
    Keeps a₀ (returnEntries s f r v) := by
  unfold returnEntries
  repeat' first
    | with_reducible assumption
    | extract_lets
    | with_reducible apply keeps_runRings
    | with_reducible apply keeps_flushRing
    | with_reducible apply keeps_updRing
    | with_reducible apply keeps_ite
    | simp (zeta := false) only [keeps_mk_iff]
    | intro _
    | split

theorem keeps_stoppedDoorbell {a₀ : State} (s : State) (f r v : Nat) (hs : Keeps a₀ s) :
    Keeps a₀ (stoppedDoorbell s f r v) := by
  unfold stoppedDoorbell
  repeat' first
    | with_reducible assumption
    | extract_lets
    | with_reducible apply keeps_cnt
    | with_reducible apply keeps_updRing
    | with_reducible apply keeps_ite
    | simp (zeta := false) only [keeps_mk_iff]
    | intro _
    | split

theorem keeps_ringDoorbell {a₀ : State} (s : State) (f r v : Nat) (hs : Keeps a₀ s) :
    Keeps a₀ (ringDoorbell s f r v) := by
  unfold ringDoorbell
  repeat' first
    | with_reducible assumption
    | extract_lets
    | with_reducible apply keeps_stoppedDoorbell
    | with_reducible apply keeps_returnEntries
    | with_reducible apply keeps_runRing
    | with_reducible apply keeps_stopRing
    | with_reducible apply keeps_refuseAccess
    | with_reducible apply keeps_cnt
    | with_reducible apply keeps_updRing
    | with_reducible apply keeps_ite
    | simp (zeta := false) only [keeps_mk_iff]
    | intro _
    | split

theorem keeps_evqCons {a₀ : State} (s : State) (f v : Nat) (hs : Keeps a₀ s) :
    Keeps a₀ (evqCons s f v) := by
  unfold evqCons
  repeat' first
    | with_reducible assumption
    | extract_lets
    | with_reducible apply keeps_refuseAccess
    | with_reducible apply keeps_cnt
    | with_reducible apply keeps_updFn
    | with_reducible apply keeps_ite
    | simp (zeta := false) only [keeps_mk_iff]
    | intro _
    | split

theorem keeps_writebackUpdate {a₀ : State} (s : State) (f r : Nat) (hs : Keeps a₀ s) :
    Keeps a₀ (writebackUpdate s f r) := by
  unfold writebackUpdate
  repeat' first
    | with_reducible assumption
    | extract_lets
    | with_reducible apply keeps_writeBack
    | with_reducible apply keeps_stopRing
    | with_reducible apply keeps_updRing
    | with_reducible apply keeps_updFn
    | with_reducible apply keeps_ite
    | simp (zeta := false) only [keeps_mk_iff]
    | intro _
    | split

theorem keeps_holdoffEnd {a₀ : State} (s : State) (f r : Nat) (hs : Keeps a₀ s) :
    Keeps a₀ (holdoffEnd s f r) := by
  unfold holdoffEnd
  repeat' first
    | with_reducible assumption
    | extract_lets
    | with_reducible apply keeps_elapse
    | with_reducible apply keeps_fireVector
    | with_reducible apply keeps_updRing
    | simp (zeta := false) only [keeps_mk_iff]
    | intro _

end Sys2Proof.Machine
end

