-- ==== Sys2Proof/Laws/KeepsBanks.lean ====
section
/-! SUPPORT. The operations of Machine/Banks.lean leave the queue, the fuses and the memory's form as they are. -/

set_option linter.all false

namespace Sys2Proof.Machine

open Sys2Proof

theorem keeps_bankFault {a₀ : State} (s : State) (a : BankAcc) (hs : Keeps a₀ s) :
    Keeps a₀ (bankFault s a) := by
  unfold bankFault
  repeat' first
    | with_reducible assumption
    | extract_lets
    | with_reducible apply keeps_dropFaultsOf
    | with_reducible apply keeps_leaveStep
    | with_reducible apply keeps_finishIn
    | with_reducible apply keeps_failReq
    | with_reducible apply keeps_outFail
    | with_reducible apply keeps_cnt
    | with_reducible apply keeps_ite
    | simp (zeta := false) only [keeps_mk_iff]
    | with_reducible apply keeps_foldl
    | intro _
    | split

theorem keeps_bankWrite {a₀ : State} (s : State) (addr : Nat) (b : List Byte) (w : Writer) (seen : Seen) (hs : Keeps a₀ s) :
    Keeps a₀ (bankWrite s addr b w seen) := by
  unfold bankWrite
  repeat' first
    | with_reducible assumption
    | extract_lets
    | with_reducible apply keeps_refused
    | with_reducible apply keeps_storeAt
    | with_reducible apply keeps_ite
    | simp (zeta := false) only [keeps_mk_iff]
    | intro _
    | split

theorem keeps_bankRead {a₀ : State} (s : State) (addr len : Nat) (w : Writer) (seen : Seen) (hs : Keeps a₀ s) :
    Keeps a₀ (bankRead s addr len w seen) := by
  unfold bankRead
  repeat' first
    | with_reducible assumption
    | extract_lets
    | with_reducible apply keeps_consume
    | with_reducible apply keeps_stepConsumes
    | with_reducible apply keeps_readWords
    | with_reducible apply keeps_ite
    | simp (zeta := false) only [keeps_mk_iff]
    | intro _
    | split

theorem keeps_bankAccess {a₀ : State} (s : State) (d b : Nat) (a : BankAcc) (hs : Keeps a₀ s) :
    Keeps a₀ (bankAccess s d b a) := by
  unfold bankAccess
  repeat' first
    | with_reducible assumption
    | extract_lets
    | with_reducible apply keeps_bankRead
    | with_reducible apply keeps_bankWrite
    | with_reducible apply keeps_bankFault
    | with_reducible apply keeps_updBank
    | with_reducible apply keeps_ite
    | simp (zeta := false) only [keeps_mk_iff]
    | intro _
    | split

theorem keeps_bankHandover {a₀ : State} (s : State) (d b next : Nat) (hs : Keeps a₀ s) :
    Keeps a₀ (bankHandover s d b next) := by
  unfold bankHandover
  repeat' first
    | with_reducible assumption
    | extract_lets
    | with_reducible apply keeps_refuseAccess
    | with_reducible apply keeps_updBank
    | with_reducible apply keeps_ite
    | simp (zeta := false) only [keeps_mk_iff]
    | intro _
    | split

theorem keeps_handoverDone {a₀ : State} (s : State) (d b : Nat) (hs : Keeps a₀ s) :
    Keeps a₀ (handoverDone s d b) := by
  unfold handoverDone
  repeat' first
    | with_reducible assumption
    | extract_lets
    | with_reducible apply keeps_bankAccess
    | with_reducible apply keeps_zeroBank
    | with_reducible apply keeps_updBank
    | with_reducible apply keeps_ite
    | simp (zeta := false) only [keeps_mk_iff]
    | with_reducible apply keeps_foldl
    | intro _
    | split

theorem keeps_seizeFault {a₀ : State} (s : State) (d b onward : Nat) (hs : Keeps a₀ s) :
    Keeps a₀ (seizeFault s d b onward) := by
  unfold seizeFault
  repeat' first
    | with_reducible assumption
    | with_reducible apply keeps_bankFault
    | with_reducible apply keeps_seizeBank
    | with_reducible apply keeps_foldl
    | intro _

theorem keeps_reclaim {a₀ : State} (s : State) (d b : Nat) (hs : Keeps a₀ s) :
    Keeps a₀ (reclaim s d b) := by
  unfold reclaim
  repeat' first
    | with_reducible assumption
    | extract_lets
    | with_reducible apply keeps_seizeFault
    | with_reducible apply keeps_logErr
    | with_reducible apply keeps_ite
    | intro _
    | split

theorem keeps_passOn {a₀ : State} (s : State) (d b : Nat) (hs : Keeps a₀ s) :
    Keeps a₀ (passOn s d b) := by
  unfold passOn
  repeat' first
    | with_reducible assumption
    | extract_lets
    | with_reducible apply keeps_zeroBank
    | with_reducible apply keeps_updBank
    | with_reducible apply keeps_ite
    | simp (zeta := false) only [keeps_mk_iff]
    | intro _
    | split

theorem keeps_failBank {a₀ : State} (s : State) (d b row : Nat) (hs : Keeps a₀ s) :
    Keeps a₀ (failBank s d b row) := by
  unfold failBank
  repeat' first
    | with_reducible assumption
    | extract_lets
    | with_reducible apply keeps_logErr
    | with_reducible apply keeps_updBank
    | simp (zeta := false) only [keeps_mk_iff]
    | intro _

theorem keeps_cleaned {a₀ : State} (s : State) (d b : Nat) (w0 : Option Nat) (hs : Keeps a₀ s) :
    Keeps a₀ (cleaned s d b w0) := by
  unfold cleaned
  repeat' first
    | with_reducible assumption
    | extract_lets
    | with_reducible apply keeps_failBank
    | with_reducible apply keeps_passOn
    | with_reducible apply keeps_zeroBank
    | with_reducible apply keeps_updBank
    | with_reducible apply keeps_ite
    | simp (zeta := false) only [keeps_mk_iff]
    | intro _
    | split

theorem keeps_startMarch {a₀ : State} (s : State) (d mode b : Nat) (hs : Keeps a₀ s) :
    Keeps a₀ (startMarch s d mode b) := by
  unfold startMarch
  repeat' first
    | with_reducible assumption
    | extract_lets
    | with_reducible apply keeps_updBank
    | with_reducible apply keeps_ite
    | simp (zeta := false) only [keeps_mk_iff]
    | intro _
    | split

theorem keeps_marchRun {a₀ : State} (s : State) (b : List Byte) (hs : Keeps a₀ s) :
    Keeps a₀ (marchRun s b).1 := by
  unfold marchRun
  repeat' first
    | with_reducible assumption
    | extract_lets
    | with_reducible apply keeps_startMarch
    | with_reducible apply keeps_fields
    | with_reducible apply keeps_running
    | with_reducible apply keeps_bad
    | with_reducible apply keeps_ite
    | with_reducible apply keeps_ite_fst
    | simp (zeta := false) only [keeps_mk_iff]
    | with_reducible apply keeps_foldl
    | with_reducible apply keeps_foldl_fst
    | intro _
    | split

theorem keeps_countFailed {a₀ : State} (s : State) (d b : Nat) (hs : Keeps a₀ s) :
    Keeps a₀ (countFailed s d b) := by
  unfold countFailed
  repeat' first
    | with_reducible assumption
    | extract_lets
    | with_reducible apply keeps_updFn
    | with_reducible apply keeps_ite
    | simp (zeta := false) only [keeps_mk_iff]
    | intro _
    | split

theorem keeps_replaceBank {a₀ : State} (s : State) (d b : Nat) (hs : Keeps a₀ s) :
    Keeps a₀ (replaceBank s d b) := by
  unfold replaceBank
  repeat' first
    | with_reducible assumption
    | extract_lets
    | with_reducible apply keeps_failStep
    | with_reducible apply keeps_updStep
    | with_reducible apply keeps_handBank
    | with_reducible apply keeps_ite
    | simp (zeta := false) only [keeps_mk_iff]
    | with_reducible apply keeps_foldl
    | intro _
    | split
    | (rename_i v; subst v)
    | (rename_i v _; subst v)
    | (rename_i v _ _; subst v)
    | (rename_i v _ _ _; subst v)
    | (rename_i v _ _ _ _; subst v)
    | (rename_i v _ _ _ _ _; subst v)
    | (rename_i v _ _ _ _ _ _; subst v)
    | (rename_i v _ _ _ _ _ _ _; subst v)

theorem keeps_marchFound {a₀ : State} (s : State) (d b : Nat) (w : Nat × EccSeen) (hs : Keeps a₀ s) :
    Keeps a₀ (marchFound s d b w) := by
  unfold marchFound
  repeat' first
    | with_reducible assumption
    | extract_lets
    | with_reducible apply keeps_correctWord
    | with_reducible apply keeps_logErr
    | simp (zeta := false) only [keeps_mk_iff]
    | split

theorem keeps_transparentDone {a₀ : State} (s : State) (d b : Nat) (failRow : Option Nat) (found : List (Nat × EccSeen)) (hs : Keeps a₀ s) :
    Keeps a₀ (transparentDone s d b failRow found) := by
  unfold transparentDone
  repeat' first
    | with_reducible assumption
    | extract_lets
    | with_reducible apply keeps_marchFound
    | with_reducible apply keeps_replaceBank
    | with_reducible apply keeps_failBank
    | with_reducible apply keeps_bankFault
    | with_reducible apply keeps_logErr
    | with_reducible apply keeps_updBank
    | with_reducible apply keeps_ite
    | with_reducible apply keeps_ite_fst
    | simp (zeta := false) only [keeps_mk_iff]
    | with_reducible apply keeps_foldl
    | intro _
    | split

theorem keeps_marchDone {a₀ : State} (s : State) (d b : Nat) (failRow : Option Nat) (found : List (Nat × EccSeen)) (hs : Keeps a₀ s) :
    Keeps a₀ (marchDone s d b failRow found) := by
  unfold marchDone
  repeat' first
    | with_reducible assumption
    | extract_lets
    | with_reducible apply keeps_transparentDone
    | with_reducible apply keeps_countFailed
    | with_reducible apply keeps_cleaned
    | with_reducible apply keeps_ite
    | simp (zeta := false) only [keeps_mk_iff]
    | intro _
    | split

end Sys2Proof.Machine
end

