-- ==== Sys2Proof/Laws/KeepsLinks.lean ====
section
/-! SUPPORT. The operations of Machine/Links.lean leave the queue, the fuses and the memory's form as they are. -/

set_option linter.all false

namespace Sys2Proof.Machine

open Sys2Proof

theorem keeps_trained {a₀ : State} (s : State) (l groups : Nat) (hs : Keeps a₀ s) :
    Keeps a₀ (trained s l groups) := by
  unfold trained
  repeat' first
    | with_reducible assumption
    | extract_lets
    | with_reducible apply keeps_linkDead
    | with_reducible apply keeps_updLink
    | with_reducible apply keeps_updDie
    | with_reducible apply keeps_ite
    | simp (zeta := false) only [keeps_mk_iff]
    | intro _
    | split

theorem keeps_trainingTimeout {a₀ : State} (s : State) (l : Nat) (hs : Keeps a₀ s) :
    Keeps a₀ (trainingTimeout s l) := by
  unfold trainingTimeout
  repeat' first
    | with_reducible assumption
    | extract_lets
    | with_reducible apply keeps_linkDead
    | with_reducible apply keeps_postFw
    | with_reducible apply keeps_ite
    | intro _
    | split

theorem keeps_disableGroup {a₀ : State} (s : State) (l g trigger : Nat) (hs : Keeps a₀ s) :
    Keeps a₀ (disableGroup s l g trigger) := by
  unfold disableGroup
  repeat' first
    | with_reducible assumption
    | extract_lets
    | with_reducible apply keeps_loseDie
    | with_reducible apply keeps_blinkDown
    | with_reducible apply keeps_logErr
    | with_reducible apply keeps_updLink
    | with_reducible apply keeps_ite
    | simp (zeta := false) only [keeps_mk_iff]
    | intro _
    | split

theorem keeps_deliver {a₀ : State} (s : State) (l : Nat) (atFirst : Bool) (x : Flit) (hs : Keeps a₀ s) :
    Keeps a₀ (deliver s l atFirst x) := by
  unfold deliver
  repeat' first
    | with_reducible assumption
    | extract_lets
    | with_reducible apply keeps_latchEnd
    | with_reducible apply keeps_updDir
    | with_reducible apply keeps_ite
    | simp (zeta := false) only [keeps_mk_iff]
    | intro _
    | split

theorem keeps_replayFrom {a₀ : State} (s : State) (l : Nat) (fromFirst : Bool) (seq : Nat) (hs : Keeps a₀ s) :
    Keeps a₀ (replayFrom s l fromFirst seq) := by
  unfold replayFrom
  repeat' first
    | with_reducible assumption
    | extract_lets
    | with_reducible apply keeps_updLink
    | with_reducible apply keeps_ite
    | simp (zeta := false) only [keeps_mk_iff]
    | intro _
    | split

theorem keeps_countRx {a₀ : State} (s : State) (l : Nat) (atFirst : Bool) (bad : Nat) (hs : Keeps a₀ s) :
    Keeps a₀ (countRx s l atFirst bad) := by
  unfold countRx
  repeat' first
    | with_reducible assumption
    | extract_lets
    | with_reducible apply keeps_bad
    | with_reducible apply keeps_updLink
    | with_reducible apply keeps_ite
    | simp (zeta := false) only [keeps_mk_iff]
    | intro _
    | split

theorem keeps_flitGood {a₀ : State} (s : State) (l : Nat) (atFirst : Bool) (x : Flit) (hs : Keeps a₀ s) :
    Keeps a₀ (flitGood s l atFirst x) := by
  unfold flitGood
  repeat' first
    | with_reducible assumption
    | extract_lets
    | with_reducible apply keeps_countRx
    | with_reducible apply keeps_replayFrom
    | with_reducible apply keeps_deliver
    | with_reducible apply keeps_pump
    | with_reducible apply keeps_updDir
    | with_reducible apply keeps_ite
    | simp (zeta := false) only [keeps_mk_iff]
    | intro _
    | split

theorem keeps_flitBad {a₀ : State} (s : State) (l : Nat) (atFirst : Bool) (x : Flit) (hs : Keeps a₀ s) :
    Keeps a₀ (flitBad s l atFirst x) := by
  unfold flitBad
  repeat' first
    | with_reducible assumption
    | extract_lets
    | with_reducible apply keeps_countRx
    | with_reducible apply keeps_updLink
    | with_reducible apply keeps_ite
    | simp (zeta := false) only [keeps_mk_iff]
    | intro _
    | split

theorem keeps_linkFailure {a₀ : State} (s : State) (l : Nat) (hs : Keeps a₀ s) :
    Keeps a₀ (linkFailure s l) := by
  unfold linkFailure
  repeat' first
    | with_reducible assumption
    | with_reducible apply keeps_loseDie
    | with_reducible apply keeps_blinkDown
    | with_reducible apply keeps_ite
    | intro _
    | split

theorem keeps_latchBooks {a₀ : State} (s : State) (l : Nat) (hs : Keeps a₀ s) :
    Keeps a₀ (latchBooks s l) := by
  unfold latchBooks
  repeat' first
    | with_reducible assumption
    | extract_lets
    | with_reducible apply keeps_latchEnd
    | with_reducible apply keeps_ite
    | simp (zeta := false) only [keeps_mk_iff]
    | intro _
    | split

theorem keeps_auditMarker {a₀ : State} (s : State) (l : Nat) (hs : Keeps a₀ s) :
    Keeps a₀ (auditMarker s l) := by
  unfold auditMarker
  repeat' first
    | with_reducible assumption
    | extract_lets
    | with_reducible apply keeps_pump
    | with_reducible apply keeps_putParcel
    | with_reducible apply keeps_ite
    | simp (zeta := false) only [keeps_mk_iff]
    | intro _
    | split

theorem keeps_recentre {a₀ : State} (s : State) (l marked : Nat) (closed : List Nat) (hs : Keeps a₀ s) :
    Keeps a₀ (recentre s l marked closed) := by
  unfold recentre
  repeat' first
    | with_reducible assumption
    | extract_lets
    | with_reducible apply keeps_disableGroup
    | with_reducible apply keeps_updLink
    | with_reducible apply keeps_ite
    | simp (zeta := false) only [keeps_mk_iff]
    | with_reducible apply keeps_foldl
    | intro _
    | split

theorem keeps_partnerStop {a₀ : State} (s : State) (l : Nat) (atFirst : Bool) (hs : Keeps a₀ s) :
    Keeps a₀ (partnerStop s l atFirst) := by
  unfold partnerStop
  repeat' first
    | with_reducible assumption
    | extract_lets
    | with_reducible apply keeps_loseDie
    | with_reducible apply keeps_blinkDown
    | with_reducible apply keeps_settleTxns
    | with_reducible apply keeps_linkDead
    | with_reducible apply keeps_ite
    | simp (zeta := false) only [keeps_mk_iff]
    | intro _
    | split
    | (rename_i v; subst v)
    | (rename_i v _; subst v)
    | (rename_i v _ _; subst v)
    | (rename_i v _ _ _; subst v)
    | (rename_i v _ _ _ _; subst v)
    | (rename_i v _ _ _ _ _; subst v)
    | (rename_i v _ _ _ _ _ _; subst v)
    | (rename_i v _ _ _ _ _ _ _; subst v)

theorem keeps_clockStop {a₀ : State} (s : State) (l : Nat) (atFirst : Bool) (groups : List Nat) (hs : Keeps a₀ s) :
    Keeps a₀ (clockStop s l atFirst groups) := by
  unfold clockStop
  repeat' first
    | with_reducible assumption
    | extract_lets
    | with_reducible apply keeps_partnerStop
    | with_reducible apply keeps_disableGroup
    | with_reducible apply keeps_ite
    | simp (zeta := false) only [keeps_mk_iff]
    | with_reducible apply keeps_foldl
    | intro _
    | split

end Sys2Proof.Machine
end

