-- ==== Sys2Proof/Laws/KeepsDieLoss.lean ====
section
/-! SUPPORT. The operations of Machine/DieLoss.lean leave the queue, the fuses and the memory's form as they are. -/

set_option linter.all false

namespace Sys2Proof.Machine

open Sys2Proof

theorem keeps_dieReset {a₀ : State} (s : State) (b : List Byte) (hs : Keeps a₀ s) :
    Keeps a₀ (dieReset s b).1 := by
  unfold dieReset
  repeat' first
    | with_reducible assumption
    | extract_lets
    | with_reducible apply keeps_running
    | with_reducible apply keeps_bad
    | with_reducible apply keeps_updDie
    | with_reducible apply keeps_ite
    | with_reducible apply keeps_ite_fst
    | simp (zeta := false) only [keeps_mk_iff]
    | intro _
    | split

theorem keeps_dieRejoin {a₀ : State} (s : State) (b : List Byte) (hs : Keeps a₀ s) :
    Keeps a₀ (dieRejoin s b).1 := by
  unfold dieRejoin
  repeat' first
    | with_reducible assumption
    | extract_lets
    | with_reducible apply keeps_fields
    | with_reducible apply keeps_running
    | with_reducible apply keeps_bad
    | with_reducible apply keeps_linkDead
    | with_reducible apply keeps_updDie
    | with_reducible apply keeps_ite
    | with_reducible apply keeps_ite_fst
    | simp (zeta := false) only [keeps_mk_iff]
    | with_reducible apply keeps_foldl
    | intro _
    | split

theorem keeps_settleDie {a₀ : State} (s : State) (op d : Nat) (o : CmdOutcome) (hs : Keeps a₀ s) :
    Keeps a₀ (settleDie s op d o) := by
  unfold settleDie
  repeat' first
    | with_reducible assumption
    | with_reducible apply keeps_settleCmds
    | with_reducible apply keeps_ite
    | intro _
    | split

theorem keeps_unmapDie {a₀ : State} (s : State) (d : Nat) (hs : Keeps a₀ s) :
    Keeps a₀ (unmapDie s d) := by
  unfold unmapDie
  repeat' first
    | with_reducible assumption
    | extract_lets
    | with_reducible apply keeps_dropRange
    | with_reducible apply keeps_ite
    | simp (zeta := false) only [keeps_mk_iff]
    | with_reducible apply keeps_foldl
    | intro _
    | split

theorem keeps_seizeDieBanks {a₀ : State} (s : State) (d : Nat) (hs : Keeps a₀ s) :
    Keeps a₀ (seizeDieBanks s d) := by
  unfold seizeDieBanks
  repeat' first
    | with_reducible assumption
    | extract_lets
    | with_reducible apply keeps_seizeBank
    | with_reducible apply keeps_updBank
    | simp (zeta := false) only [keeps_mk_iff]
    | with_reducible apply keeps_foldl
    | intro _

theorem keeps_postLost {a₀ : State} (old s : State) (d : Nat) (fns reqs models : List Nat) (hs : Keeps a₀ s) :
    Keeps a₀ (postLost old s d fns reqs models) := by
  unfold postLost
  repeat' first
    | with_reducible assumption
    | extract_lets
    | with_reducible apply keeps_postFw
    | with_reducible apply keeps_ite
    | with_reducible apply keeps_foldl
    | intro _
    | split

theorem keeps_dropDieFaults {a₀ : State} (s : State) (d : Nat) (hs : Keeps a₀ s) :
    Keeps a₀ (dropDieFaults s d) := by
  unfold dropDieFaults
  repeat' first
    | with_reducible assumption
    | extract_lets
    | with_reducible apply keeps_logAbandoned
    | simp (zeta := false) only [keeps_mk_iff]
    | with_reducible apply keeps_foldl
    | intro _

theorem keeps_lossPath {a₀ : State} (s : State) (d : Nat) (hs : Keeps a₀ s) :
    Keeps a₀ (lossPath s d) := by
  unfold lossPath
  repeat' first
    | with_reducible assumption
    | extract_lets
    | with_reducible apply keeps_dropDieFaults
    | with_reducible apply keeps_postLost
    | with_reducible apply keeps_seizeDieBanks
    | with_reducible apply keeps_unmapDie
    | with_reducible apply keeps_settleDie
    | with_reducible apply keeps_heldDieLost
    | with_reducible apply keeps_settleReq
    | with_reducible apply keeps_abandonStep
    | with_reducible apply keeps_settleCmds
    | with_reducible apply keeps_logErr
    | with_reducible apply keeps_updDie
    | with_reducible apply keeps_ite
    | simp (zeta := false) only [keeps_mk_iff]
    | with_reducible apply keeps_foldl
    | intro _
    | split
    | (rename_i v; subst v)
    | (rename_i v _; subst v)
    | (rename_i v _ _; subst v)
    | (rename_i v _ _ _; subst v)
    | (rename_i v _ _ _ _; subst v)
    | (rename_i v _ _ _ _ _; subst v)
    | (rename_i v _ _ _ _ _ _; subst v)
    | (rename_i v _ _ _ _ _ _ _; subst v)

theorem keeps_resetDie {a₀ : State} (s : State) (d : Nat) (hs : Keeps a₀ s) :
    Keeps a₀ (resetDie s d) := by
  unfold resetDie
  repeat' first
    | with_reducible assumption
    | extract_lets
    | with_reducible apply keeps_lossPath
    | with_reducible apply keeps_settleDie
    | with_reducible apply keeps_loseDie
    | with_reducible apply keeps_updTherm
    | with_reducible apply keeps_updDie
    | simp (zeta := false) only [keeps_mk_iff]
    | intro _

theorem keeps_reloadModel {a₀ : State} (s : State) (d h : Nat) (m : Model) {r : State} (hr : reloadModel s d h m = some r) (hs : Keeps a₀ s) :
    Keeps a₀ r := by
  unfold reloadModel at hr
  repeat' first
    | (cases hr; done)
    | (simp only [Option.some.injEq, Prod.mk.injEq] at hr)
    | (obtain ⟨rfl, rfl⟩ := hr)
    | subst hr
    | extract_lets at hr
    | split at hr
  all_goals
   repeat' first
    | with_reducible assumption
    | extract_lets
    | with_reducible apply keeps_handBank
    | with_reducible apply keeps_takePages
    | with_reducible apply keeps_ite
    | simp (zeta := false) only [keeps_mk_iff]
    | with_reducible apply keeps_foldl
    | intro _
    | split
    | split

theorem keeps_reloadAll {a₀ : State} (s : State) (d : Nat) (hs : Keeps a₀ s) :
    Keeps a₀ (reloadAll s d).1 := by
  unfold reloadAll
  repeat' first
    | with_reducible assumption
    | extract_lets
    | with_reducible refine keeps_reloadModel (hr := by assumption) (hs := ?_) ..
    | with_reducible apply keeps_ite
    | with_reducible apply keeps_ite_fst
    | simp (zeta := false) only [keeps_mk_iff]
    | with_reducible apply keeps_foldl
    | with_reducible apply keeps_foldl_fst
    | intro _
    | split

theorem keeps_buildCopy {a₀ : State} (s : State) (d h : Nat) (hs : Keeps a₀ s) :
    Keeps a₀ (buildCopy s d h) := by
  unfold buildCopy
  repeat' first
    | with_reducible assumption
    | extract_lets
    | with_reducible refine keeps_takeCopies (hr := by assumption) (hs := ?_) ..
    | with_reducible apply keeps_ite
    | simp (zeta := false) only [keeps_mk_iff]
    | intro _
    | split

theorem keeps_noteNeighbour {a₀ : State} (s : State) (l at_ : Nat) (pos : BitVec 2) (hs : Keeps a₀ s) :
    Keeps a₀ (noteNeighbour s l at_ pos) := by
  unfold noteNeighbour
  repeat' first
    | with_reducible assumption
    | extract_lets
    | with_reducible apply keeps_updDie
    | with_reducible apply keeps_ite
    | simp (zeta := false) only [keeps_mk_iff]
    | intro _
    | split

theorem keeps_rejoinLinks {a₀ : State} (s : State) (d : Nat) (ns : List (Nat × Bool × BitVec 2)) (hs : Keeps a₀ s) :
    Keeps a₀ (rejoinLinks s d ns) := by
  unfold rejoinLinks
  repeat' first
    | with_reducible assumption
    | extract_lets
    | with_reducible apply keeps_noteNeighbour
    | with_reducible apply keeps_ite
    | simp (zeta := false) only [keeps_mk_iff]
    | with_reducible apply keeps_foldl
    | with_reducible apply keeps_foldl_fst
    | intro _
    | split

theorem keeps_rejoinMemory {a₀ : State} (s : State) (d : Nat) (lines banks : List Nat) (hs : Keeps a₀ s) :
    Keeps a₀ (rejoinMemory s d lines banks) := by
  unfold rejoinMemory
  repeat' first
    | with_reducible assumption
    | extract_lets
    | with_reducible apply keeps_failBank
    | with_reducible apply keeps_passOn
    | with_reducible apply keeps_zeroBank
    | with_reducible apply keeps_retirePage
    | with_reducible refine keeps_putMem _ _ ?_ (by first | exact Memory.wf_cellsWrite _ _ | exact Memory.wf_cellsZero _ _ | exact Memory.wf_dvaCells _ _ _ _ | exact Memory.wf_bar2Cells _ _ _ _ _ | exact fun _ => Memory.wf_nil | exact fun h => Memory.wf_foldl _ _ _ (Memory.wf_cellsZero _ _ h))
    | with_reducible apply keeps_updBank
    | with_reducible apply keeps_ite
    | simp (zeta := false) only [keeps_mk_iff]
    | with_reducible apply keeps_foldl
    | intro _
    | split
    | (rename_i v; subst v)
    | (rename_i v _; subst v)
    | (rename_i v _ _; subst v)
    | (rename_i v _ _ _; subst v)
    | (rename_i v _ _ _ _; subst v)
    | (rename_i v _ _ _ _ _; subst v)
    | (rename_i v _ _ _ _ _ _; subst v)
    | (rename_i v _ _ _ _ _ _ _; subst v)

theorem keeps_rejoinTraining {a₀ : State} (s : State) (d : Nat) (full : Bool) (hs : Keeps a₀ s) :
    Keeps a₀ (rejoinTraining s d full) := by
  unfold rejoinTraining
  repeat' first
    | with_reducible assumption
    | extract_lets
    | with_reducible apply keeps_ite
    | simp (zeta := false) only [keeps_mk_iff]
    | intro _
    | split

theorem keeps_rejoined {a₀ : State} (s : State) (d march : Nat) (ns : List (Nat × Bool × BitVec 2)) (lines banks : List Nat) (hs : Keeps a₀ s) :
    Keeps a₀ (rejoined s d march ns lines banks) := by
  unfold rejoined
  repeat' first
    | with_reducible assumption
    | extract_lets
    | with_reducible apply keeps_rejoinMemory
    | with_reducible apply keeps_rejoinLinks
    | with_reducible apply keeps_buildCopy
    | with_reducible apply keeps_reloadAll
    | with_reducible apply keeps_settleDie
    | with_reducible apply keeps_applyScrub
    | with_reducible apply keeps_onFloor
    | with_reducible apply keeps_ownClusters
    | with_reducible apply keeps_avsTowards
    | with_reducible apply keeps_noteHealth
    | with_reducible apply keeps_postFw
    | with_reducible apply keeps_logErr
    | with_reducible apply keeps_updDom
    | with_reducible apply keeps_updDie
    | with_reducible apply keeps_ite
    | simp (zeta := false) only [keeps_mk_iff]
    | with_reducible apply keeps_foldl
    | with_reducible apply keeps_foldl_fst
    | intro _
    | split

theorem keeps_rejoinFailed {a₀ : State} (s : State) (d : Nat) (o : CmdOutcome) (hs : Keeps a₀ s) :
    Keeps a₀ (rejoinFailed s d o) := by
  unfold rejoinFailed
  repeat' first
    | with_reducible assumption
    | extract_lets
    | with_reducible apply keeps_settleDie
    | with_reducible apply keeps_linkDead
    | with_reducible apply keeps_updDie
    | simp (zeta := false) only [keeps_mk_iff]
    | with_reducible apply keeps_foldl
    | intro _

theorem keeps_rejoinDone {a₀ : State} (s : State) (d march : Nat) (w0 : RejoinEnd) (hs : Keeps a₀ s) :
    Keeps a₀ (rejoinDone s d march w0) := by
  unfold rejoinDone
  repeat' first
    | with_reducible assumption
    | extract_lets
    | with_reducible apply keeps_rejoinFailed
    | with_reducible apply keeps_rejoined
    | with_reducible apply keeps_rejoinTraining
    | with_reducible apply keeps_stage
    | with_reducible apply keeps_ite
    | simp (zeta := false) only [keeps_mk_iff]
    | intro _
    | split

end Sys2Proof.Machine
end

