-- ==== Sys2Proof/Laws/KeepsConstraint.lean ====
section
/-! SUPPORT. The operations of Machine/Constraint.lean leave the queue, the fuses and the memory's form as they are. -/

set_option linter.all false

namespace Sys2Proof.Machine

open Sys2Proof

theorem keeps_pruneUnder {a₀ : State} (s : State) (i n : Nat) (hs : Keeps a₀ s) :
    Keeps a₀ (pruneUnder s i n) := by
  unfold pruneUnder
  repeat' first
    | with_reducible assumption
    | extract_lets
    | with_reducible apply keeps_updEntX
    | simp (zeta := false) only [keeps_mk_iff]
    | intro _

theorem keeps_dropStep {a₀ : State} (s : State) (i : Nat) (hs : Keeps a₀ s) :
    Keeps a₀ (dropStep s i) := by
  unfold dropStep
  repeat' first
    | with_reducible assumption
    | with_reducible apply keeps_leaveStep
    | with_reducible apply keeps_ite
    | with_reducible apply keeps_foldl
    | intro _
    | split

theorem keeps_deadEnd {a₀ : State} (s : State) (i : Nat) (hs : Keeps a₀ s) :
    Keeps a₀ (deadEnd s i) := by
  unfold deadEnd
  repeat' first
    | with_reducible assumption
    | extract_lets
    | with_reducible apply keeps_dropStep
    | with_reducible apply keeps_dropFaultsOf
    | with_reducible apply keeps_endReq

theorem keeps_maskDone {a₀ : State} (s : State) (i n : Nat) (hs : Keeps a₀ s) :
    Keeps a₀ (maskDone s i n) := by
  unfold maskDone
  repeat' first
    | with_reducible assumption
    | extract_lets
    | with_reducible apply keeps_deadEnd
    | with_reducible apply keeps_pruneUnder
    | with_reducible apply keeps_cnt
    | with_reducible apply keeps_updEntX
    | with_reducible apply keeps_ite
    | simp (zeta := false) only [keeps_mk_iff]
    | intro _
    | split

end Sys2Proof.Machine
end

