-- ==== Sys2Proof/Laws/KeepsEnergy.lean ====
section
/-! SUPPORT. The operations of Machine/Energy.lean leave the queue, the fuses and the memory's form as they are. -/

set_option linter.all false

namespace Sys2Proof.Machine

open Sys2Proof

theorem keeps_planTide {a₀ : State} (s : State) (hs : Keeps a₀ s) :
    Keeps a₀ (planTide s) := by
  unfold planTide
  repeat' first
    | with_reducible assumption
    | extract_lets
    | with_reducible apply keeps_updDom
    | with_reducible apply keeps_ite
    | simp (zeta := false) only [keeps_mk_iff]
    | with_reducible apply keeps_foldl
    | intro _
    | split

theorem keeps_planWhenIn {a₀ : State} (s : State) (hs : Keeps a₀ s) :
    Keeps a₀ (planWhenIn s) := by
  unfold planWhenIn
  repeat' first
    | with_reducible assumption
    | extract_lets
    | with_reducible apply keeps_planTide
    | with_reducible apply keeps_ite
    | simp (zeta := false) only [keeps_mk_iff]
    | intro _
    | split

theorem keeps_grantTide {a₀ : State} (s : State) (d : Nat) (hs : Keeps a₀ s) :
    Keeps a₀ (grantTide s d) := by
  unfold grantTide
  repeat' first
    | with_reducible assumption
    | extract_lets
    | with_reducible apply keeps_updDom
    | with_reducible apply keeps_ite
    | simp (zeta := false) only [keeps_mk_iff]
    | intro _
    | split

theorem keeps_reach97 {a₀ : State} (s : State) (d : Nat) (hs : Keeps a₀ s) :
    Keeps a₀ (reach97 s d) := by
  unfold reach97
  repeat' first
    | with_reducible assumption
    | extract_lets
    | with_reducible apply keeps_updDom
    | with_reducible apply keeps_updDie
    | with_reducible apply keeps_ite
    | simp (zeta := false) only [keeps_mk_iff]
    | intro _
    | split

theorem keeps_exhausted {a₀ : State} (s : State) (d : Nat) (hs : Keeps a₀ s) :
    Keeps a₀ (exhausted s d) := by
  unfold exhausted
  repeat' first
    | with_reducible assumption
    | extract_lets
    | with_reducible apply keeps_updDom
    | with_reducible apply keeps_updDie
    | simp (zeta := false) only [keeps_mk_iff]
    | intro _

theorem keeps_startHalving {a₀ : State} (s : State) (dies : List Nat) (cause : Nat) (g : Die → Die) (hs : Keeps a₀ s) :
    Keeps a₀ (startHalving s dies cause g) := by
  unfold startHalving
  repeat' first
    | with_reducible assumption
    | extract_lets
    | with_reducible apply keeps_post
    | with_reducible apply keeps_updDom
    | with_reducible apply keeps_updDie
    | with_reducible apply keeps_ite
    | simp (zeta := false) only [keeps_mk_iff]
    | with_reducible apply keeps_foldl
    | intro _
    | split
    | (rename_i v; subst v)
    | (rename_i v _; subst v)
    | (rename_i v _ _; subst v)
    | (rename_i v _ _ _; subst v)
    | (rename_i v _ _ _ _; subst v)
    | (rename_i v _ _ _ _ _; subst v)
    | (rename_i v _ _ _ _ _ _; subst v)
    | (rename_i v _ _ _ _ _ _ _; subst v)

theorem keeps_eprAbsent {a₀ : State} (s : State) (hs : Keeps a₀ s) :
    Keeps a₀ (eprAbsent s) := by
  unfold eprAbsent
  repeat' first
    | with_reducible assumption
    | extract_lets
    | with_reducible apply keeps_updDie
    | with_reducible apply keeps_ite
    | simp (zeta := false) only [keeps_mk_iff]
    | with_reducible apply keeps_foldl
    | intro _
    | split

theorem keeps_fallEpr {a₀ : State} (s : State) (hs : Keeps a₀ s) :
    Keeps a₀ (fallEpr s) := by
  unfold fallEpr
  repeat' first
    | with_reducible assumption
    | extract_lets
    | with_reducible apply keeps_eprAbsent
    | with_reducible apply keeps_startHalving
    | with_reducible apply keeps_ite
    | simp (zeta := false) only [keeps_mk_iff]
    | intro _
    | split
    | (rename_i v; subst v)
    | (rename_i v _; subst v)
    | (rename_i v _ _; subst v)
    | (rename_i v _ _ _; subst v)
    | (rename_i v _ _ _ _; subst v)
    | (rename_i v _ _ _ _ _; subst v)
    | (rename_i v _ _ _ _ _ _; subst v)
    | (rename_i v _ _ _ _ _ _ _; subst v)

theorem keeps_endHalvings {a₀ : State} (s : State) (hs : Keeps a₀ s) :
    Keeps a₀ (endHalvings s) := by
  unfold endHalvings
  repeat' first
    | with_reducible assumption
    | extract_lets
    | with_reducible apply keeps_updDie
    | with_reducible apply keeps_ite
    | simp (zeta := false) only [keeps_mk_iff]
    | with_reducible apply keeps_foldl
    | intro _
    | split

theorem keeps_msClear {a₀ : State} (s : State) (hs : Keeps a₀ s) :
    Keeps a₀ (msClear s) := by
  unfold msClear
  repeat' first
    | with_reducible assumption
    | extract_lets
    | with_reducible apply keeps_updDom
    | with_reducible apply keeps_ite
    | simp (zeta := false) only [keeps_mk_iff]
    | with_reducible apply keeps_foldl
    | intro _
    | split

theorem keeps_msMark {a₀ : State} (s : State) (hs : Keeps a₀ s) :
    Keeps a₀ (msMark s) := by
  unfold msMark
  repeat' first
    | with_reducible assumption
    | with_reducible apply keeps_msClear
    | with_reducible apply keeps_elapse

theorem keeps_thermalTrip {a₀ : State} (s : State) (hs : Keeps a₀ s) :
    Keeps a₀ (thermalTrip s) := by
  unfold thermalTrip
  repeat' first
    | with_reducible assumption
    | extract_lets
    | with_reducible apply keeps_noteHealth
    | simp (zeta := false) only [keeps_mk_iff]

theorem keeps_throttleChange {a₀ : State} (s : State) (d : Nat) (t : BitVec 12) (hs : Keeps a₀ s) :
    Keeps a₀ (throttleChange s d t) := by
  unfold throttleChange
  repeat' first
    | with_reducible assumption
    | extract_lets
    | with_reducible apply keeps_post
    | with_reducible apply keeps_updTherm
    | with_reducible apply keeps_ite
    | simp (zeta := false) only [keeps_mk_iff]
    | intro _
    | split

theorem keeps_tempUpdate {a₀ : State} (s : State) (d : Nat) (t : BitVec 12) (hs : Keeps a₀ s) :
    Keeps a₀ (tempUpdate s d t) := by
  unfold tempUpdate
  repeat' first
    | with_reducible assumption
    | extract_lets
    | with_reducible apply keeps_throttleChange
    | with_reducible apply keeps_thermalTrip
    | with_reducible apply keeps_startHalving
    | with_reducible apply keeps_updTherm
    | with_reducible apply keeps_ite
    | simp (zeta := false) only [keeps_mk_iff]
    | intro _
    | split

theorem keeps_tenantUses {a₀ : State} (s : State) (f uj : Nat) (hs : Keeps a₀ s) :
    Keeps a₀ (tenantUses s f uj) := by
  unfold tenantUses
  repeat' first
    | with_reducible assumption
    | extract_lets
    | with_reducible apply keeps_updFn
    | simp (zeta := false) only [keeps_mk_iff]
    | intro _

theorem keeps_chargeReq {a₀ : State} (s : State) (d i uj : Nat) (hs : Keeps a₀ s) :
    Keeps a₀ (chargeReq s d i uj) := by
  unfold chargeReq
  repeat' first
    | with_reducible assumption
    | extract_lets
    | with_reducible apply keeps_tenantUses
    | with_reducible apply keeps_chargeRun
    | with_reducible apply keeps_updDom
    | with_reducible apply keeps_ite
    | simp (zeta := false) only [keeps_mk_iff]
    | intro _
    | split

theorem keeps_chargeStream {a₀ : State} (s : State) (d f st uj : Nat) (hs : Keeps a₀ s) :
    Keeps a₀ (chargeStream s d f st uj) := by
  unfold chargeStream
  repeat' first
    | with_reducible assumption
    | extract_lets
    | with_reducible apply keeps_chargeReq
    | with_reducible apply keeps_tenantUses
    | with_reducible apply keeps_updStream
    | with_reducible apply keeps_updDom
    | with_reducible apply keeps_ite
    | simp (zeta := false) only [keeps_mk_iff]
    | intro _
    | split

theorem keeps_reconcile {a₀ : State} (s : State) (d : Nat) (m : DomainMeter) (hs : Keeps a₀ s) :
    Keeps a₀ (reconcile s d m) := by
  unfold reconcile
  repeat' first
    | with_reducible assumption
    | extract_lets
    | with_reducible apply keeps_chargeStream
    | with_reducible apply keeps_chargeReq
    | with_reducible apply keeps_updDom
    | with_reducible apply keeps_ite
    | simp (zeta := false) only [keeps_mk_iff]
    | with_reducible apply keeps_foldl
    | intro _
    | split

theorem keeps_closeDom {a₀ : State} (s : State) (d : Nat) (m : DomainMeter) (hs : Keeps a₀ s) :
    Keeps a₀ (closeDom s d m) := by
  unfold closeDom
  repeat' first
    | with_reducible assumption
    | extract_lets
    | with_reducible apply keeps_reconcile
    | with_reducible apply keeps_updDom
    | with_reducible apply keeps_ite
    | simp (zeta := false) only [keeps_mk_iff]
    | intro _
    | split

theorem keeps_closeTide {a₀ : State} (s : State) (meters : List DomainMeter) (hs : Keeps a₀ s) :
    Keeps a₀ (closeTide s meters) := by
  unfold closeTide
  repeat' first
    | with_reducible assumption
    | extract_lets
    | with_reducible apply keeps_closeDom
    | with_reducible apply keeps_updDom
    | with_reducible apply keeps_ite
    | simp (zeta := false) only [keeps_mk_iff]
    | with_reducible apply keeps_foldl
    | intro _
    | split
    | (rename_i v; subst v)
    | (rename_i v _; subst v)
    | (rename_i v _ _; subst v)
    | (rename_i v _ _ _; subst v)
    | (rename_i v _ _ _ _; subst v)
    | (rename_i v _ _ _ _ _; subst v)
    | (rename_i v _ _ _ _ _ _; subst v)
    | (rename_i v _ _ _ _ _ _ _; subst v)

theorem keeps_applyLimit {a₀ : State} (s : State) (hs : Keeps a₀ s) :
    Keeps a₀ (applyLimit s) := by
  unfold applyLimit
  repeat' first
    | with_reducible assumption
    | extract_lets
    | with_reducible apply keeps_post
    | with_reducible apply keeps_ite
    | simp (zeta := false) only [keeps_mk_iff]
    | intro _
    | split
    | (rename_i v; subst v)
    | (rename_i v _; subst v)
    | (rename_i v _ _; subst v)
    | (rename_i v _ _ _; subst v)
    | (rename_i v _ _ _ _; subst v)
    | (rename_i v _ _ _ _ _; subst v)
    | (rename_i v _ _ _ _ _ _; subst v)
    | (rename_i v _ _ _ _ _ _ _; subst v)

theorem keeps_openDom {a₀ : State} (s : State) (d : Nat) (hs : Keeps a₀ s) :
    Keeps a₀ (openDom s d) := by
  unfold openDom
  repeat' first
    | with_reducible assumption
    | extract_lets
    | with_reducible apply keeps_onFloor
    | with_reducible apply keeps_updDom
    | with_reducible apply keeps_ite
    | simp (zeta := false) only [keeps_mk_iff]
    | intro _
    | split

theorem keeps_openDie {a₀ : State} (s : State) (d : Nat) (m : DomainMeter) (hs : Keeps a₀ s) :
    Keeps a₀ (openDie s d m) := by
  unfold openDie
  repeat' first
    | with_reducible assumption
    | extract_lets
    | with_reducible apply keeps_updDom
    | with_reducible apply keeps_updTherm
    | with_reducible apply keeps_updDie
    | with_reducible apply keeps_ite
    | simp (zeta := false) only [keeps_mk_iff]
    | intro _
    | split

theorem keeps_openTide {a₀ : State} (s : State) (meters : List DomainMeter) (hs : Keeps a₀ s) :
    Keeps a₀ (openTide s meters) := by
  unfold openTide
  repeat' first
    | with_reducible assumption
    | extract_lets
    | with_reducible apply keeps_openDie
    | with_reducible apply keeps_openDom
    | with_reducible apply keeps_applyLimit
    | with_reducible apply keeps_endHalvings
    | simp (zeta := false) only [keeps_mk_iff]
    | with_reducible apply keeps_foldl
    | intro _

end Sys2Proof.Machine
end

