-- ==== Sys2Proof/Laws/KeepsSched.lean ====
section
/-! SUPPORT. The operations of Machine/Sched.lean leave the queue, the fuses and the memory's form as they are. -/

set_option linter.all false

namespace Sys2Proof.Machine

open Sys2Proof

theorem keeps_riskCheck {a₀ : State} (s : State) (h : Nat) (t : Rat) (hs : Keeps a₀ s) :
    Keeps a₀ (riskCheck s h t) := by
  unfold riskCheck
  repeat' first
    | with_reducible assumption
    | extract_lets
    | with_reducible apply keeps_updEnt
    | with_reducible apply keeps_ite
    | simp (zeta := false) only [keeps_mk_iff]
    | with_reducible apply keeps_foldl
    | intro _
    | split

theorem keeps_giveSlot {a₀ : State} (s : State) (i : Nat) (hs : Keeps a₀ s) :
    Keeps a₀ (giveSlot s i) := by
  unfold giveSlot
  repeat' first
    | with_reducible assumption
    | extract_lets
    | with_reducible apply keeps_updEntX
    | with_reducible apply keeps_updEnt
    | with_reducible apply keeps_ite
    | simp (zeta := false) only [keeps_mk_iff]
    | intro _
    | split

theorem keeps_noteRefused {a₀ : State} (s : State) (i : Nat) (why : SlotWhy) (hs : Keeps a₀ s) :
    Keeps a₀ (noteRefused s i why) := by
  unfold noteRefused
  repeat' first
    | with_reducible assumption
    | extract_lets
    | with_reducible apply keeps_updEntX
    | with_reducible apply keeps_ite
    | simp (zeta := false) only [keeps_mk_iff]
    | intro _
    | split

theorem keeps_grantList {a₀ : State} (s : State) (h : Nat) (w0 : Nat) (w1 : Bool) (w2 : List Nat) (hs : Keeps a₀ s) :
    Keeps a₀ (grantList s h w0 w1 w2) := by
  induction w2 generalizing s w0 w1 with
  | nil => unfold grantList; repeat' first | assumption | split
  | cons _ _ ih =>
   unfold grantList
   repeat' first
    | with_reducible assumption
    | with_reducible apply ih
    | extract_lets
    | with_reducible apply keeps_noteRefused
    | with_reducible apply keeps_giveSlot
    | with_reducible apply keeps_ite
    | simp (zeta := false) only [keeps_mk_iff]
    | with_reducible apply keeps_foldl
    | intro _
    | split

theorem keeps_grantSlots {a₀ : State} (s : State) (h : Nat) (hs : Keeps a₀ s) :
    Keeps a₀ (grantSlots s h) := by
  unfold grantSlots
  repeat' first
    | with_reducible assumption
    | extract_lets
    | with_reducible apply keeps_grantList
    | with_reducible apply keeps_ite
    | simp (zeta := false) only [keeps_mk_iff]
    | intro _
    | split

theorem keeps_pauseForSlots {a₀ : State} (s : State) (h : Nat) (hs : Keeps a₀ s) :
    Keeps a₀ (pauseForSlots s h) := by
  unfold pauseForSlots
  repeat' first
    | with_reducible assumption
    | extract_lets
    | with_reducible apply keeps_schedPause
    | with_reducible apply keeps_updEntX
    | simp (zeta := false) only [keeps_mk_iff]
    | with_reducible apply keeps_foldl
    | intro _
    | split

theorem keeps_pauseForBound {a₀ : State} (s : State) (h extra : Nat) (short rows : List Nat) (hs : Keeps a₀ s) :
    Keeps a₀ (pauseForBound s h extra short rows) := by
  unfold pauseForBound
  repeat' first
    | with_reducible assumption
    | extract_lets
    | with_reducible apply keeps_schedPause
    | with_reducible apply keeps_ite
    | simp (zeta := false) only [keeps_mk_iff]
    | with_reducible apply keeps_foldl
    | with_reducible apply keeps_foldl_fst
    | intro _
    | split

theorem keeps_noteCaps {a₀ : State} (s : State) (uj : List (Nat × Nat)) (held : List Nat) (hs : Keeps a₀ s) :
    Keeps a₀ (noteCaps s uj held) := by
  unfold noteCaps
  repeat' first
    | with_reducible assumption
    | extract_lets
    | with_reducible apply keeps_postFw
    | with_reducible apply keeps_updFn
    | with_reducible apply keeps_ite
    | with_reducible apply keeps_ite_fst
    | simp (zeta := false) only [keeps_mk_iff]
    | with_reducible apply keeps_foldl
    | intro _
    | split

theorem keeps_trimTrees {a₀ : State} (s : State) (h n : Nat) (bound : Rat) (l : List Nat) (w0 : Nat) (hs : Keeps a₀ s) :
    Keeps a₀ (trimTrees s h n bound l w0) := by
  induction w0 generalizing s with
  | zero => unfold trimTrees; repeat' first | assumption | split
  | succ _ ih =>
   unfold trimTrees
   repeat' first
    | with_reducible apply ih
    | with_reducible assumption
    | extract_lets
    | with_reducible apply keeps_bad
    | with_reducible apply keeps_updEntX
    | with_reducible apply keeps_ite
    | simp (zeta := false) only [keeps_mk_iff]
    | intro _
    | split

theorem keeps_readyTree {a₀ : State} (s : State) (i : Nat) (hs : Keeps a₀ s) :
    Keeps a₀ (readyTree s i) := by
  unfold readyTree
  repeat' first
    | with_reducible assumption
    | extract_lets
    | with_reducible apply keeps_updEntX
    | with_reducible apply keeps_ite
    | simp (zeta := false) only [keeps_mk_iff]
    | intro _
    | split

theorem keeps_beginFill {a₀ : State} (s : State) (i : Nat) (hs : Keeps a₀ s) :
    Keeps a₀ (beginFill s i) := by
  unfold beginFill
  repeat' first
    | with_reducible assumption
    | extract_lets
    | with_reducible apply keeps_cacheLost
    | with_reducible apply keeps_updEntX
    | with_reducible apply keeps_updEnt
    | with_reducible apply keeps_ite
    | simp (zeta := false) only [keeps_mk_iff]
    | intro _
    | split

theorem keeps_coverHot {a₀ : State} (s : State) (i n : Nat) (w0 : Nat) {r : State} (hr : coverHot s i n w0 = some r) (hs : Keeps a₀ s) :
    Keeps a₀ r := by
  revert r hs s
  induction w0 with
  | zero =>
    intro s r hr hs
    unfold coverHot at hr
    split at hr
    · cases hr; exact hs
    · cases hr
  | succ _ ih =>
    intro s r hr hs
    unfold coverHot at hr
    split at hr
    · cases hr; exact hs
    · split at hr
      · exact ih _ hr (keeps_updEnt _ _ _ hs)
      · split at hr
        · exact ih _ hr (keeps_addBlock _ _ _ hs)
        · cases hr

theorem keeps_takeChunk {a₀ : State} (s : State) (i n : Nat) {r : State} (hr : takeChunk s i n = some r) (hs : Keeps a₀ s) :
    Keeps a₀ r := by
  unfold takeChunk at hr
  extract_lets at hr
  rw [Option.map_eq_some_iff] at hr
  obtain ⟨t, ht, rfl⟩ := hr
  repeat' first
    | with_reducible assumption
    | extract_lets
    | with_reducible refine keeps_coverHot (hr := by assumption) (hs := ?_) ..
    | with_reducible apply keeps_beginFill
    | with_reducible apply keeps_updEntX
    | simp (zeta := false) only [keeps_mk_iff]
    | intro _
    | split

theorem keeps_launch {a₀ : State} (s : State) (st : Step) (hs : Keeps a₀ s) :
    Keeps a₀ (launch s st) := by
  unfold launch
  repeat' first
    | with_reducible assumption
    | extract_lets
    | simp (zeta := false) only [keeps_mk_iff]

theorem keeps_failRows {a₀ : State} (s : State) (rows : List Nat) (hs : Keeps a₀ s) :
    Keeps a₀ (failRows s rows) := by
  unfold failRows
  repeat' first
    | with_reducible assumption
    | with_reducible apply keeps_dropFaultsOf
    | with_reducible apply keeps_failReq
    | with_reducible apply keeps_foldl
    | intro _

theorem keeps_takeShort {a₀ : State} (s : State) (l : List Nat) (hs : Keeps a₀ s) :
    Keeps a₀ (takeShort s l).1 := by
  unfold takeShort
  repeat' first
    | with_reducible assumption
    | extract_lets
    | with_reducible refine keeps_takeChunk (hr := by assumption) (hs := ?_) ..
    | simp (zeta := false) only [keeps_mk_iff]
    | with_reducible apply keeps_foldl
    | with_reducible apply keeps_foldl_fst
    | intro _
    | split

theorem keeps_coverRow {a₀ : State} (s : State) (i : Nat) (hs : Keeps a₀ s) :
    Keeps a₀ (coverRow s i) := by
  unfold coverRow
  repeat' first
    | with_reducible assumption
    | extract_lets
    | with_reducible apply keeps_coverTo

theorem keeps_joinRow {a₀ : State} (s : State) (i : Nat) (hs : Keeps a₀ s) :
    Keeps a₀ (joinRow s i) := by
  unfold joinRow
  repeat' first
    | with_reducible assumption
    | extract_lets
    | with_reducible apply keeps_coverRow
    | with_reducible apply keeps_readyTree
    | with_reducible apply keeps_cacheLost
    | with_reducible apply keeps_updEntX
    | simp (zeta := false) only [keeps_mk_iff]
    | intro _

theorem keeps_formRows {a₀ : State} (s : State) (h : Nat) (rows short : List Nat) (hs : Keeps a₀ s) :
    Keeps a₀ (formRows s h rows short) := by
  unfold formRows
  repeat' first
    | with_reducible assumption
    | extract_lets
    | with_reducible apply keeps_joinRow
    | with_reducible apply keeps_takeShort
    | with_reducible apply keeps_launch
    | with_reducible apply keeps_trimTrees
    | with_reducible apply keeps_ite
    | simp (zeta := false) only [keeps_mk_iff]
    | with_reducible apply keeps_foldl
    | with_reducible apply keeps_foldl_fst
    | intro _
    | split

theorem keeps_formDecode {a₀ : State} (s : State) (h : Nat) (uj : List (Nat × Nat)) (hs : Keeps a₀ s) :
    Keeps a₀ (formDecode s h uj) := by
  unfold formDecode
  repeat' first
    | with_reducible assumption
    | extract_lets
    | with_reducible apply keeps_formRows
    | with_reducible apply keeps_failRows
    | with_reducible apply keeps_noteCaps
    | with_reducible apply keeps_pauseForBound
    | with_reducible apply keeps_pauseForSlots
    | with_reducible apply keeps_grantSlots
    | with_reducible apply keeps_riskCheck
    | with_reducible apply keeps_pauseForPages
    | with_reducible apply keeps_ite
    | simp (zeta := false) only [keeps_mk_iff]
    | with_reducible apply keeps_foldl
    | intro _
    | split
    | (rename_i v; subst v)
    | (rename_i v _; subst v)
    | (rename_i v _ _; subst v)
    | (rename_i v _ _ _; subst v)
    | (rename_i v _ _ _ _; subst v)
    | (rename_i v _ _ _ _ _; subst v)
    | (rename_i v _ _ _ _ _ _; subst v)
    | (rename_i v _ _ _ _ _ _ _; subst v)

theorem keeps_takeChunks {a₀ : State} (s : State) (chunk limit : Nat) (w0 : List (Nat × Nat)) (w1 : List Nat) (hs : Keeps a₀ s) :
    Keeps a₀ (takeChunks s chunk limit w0 w1).1 := by
  induction w1 generalizing s w0 with
  | nil => unfold takeChunks; repeat' first | assumption | split
  | cons _ _ ih =>
   unfold takeChunks
   repeat' first
    | with_reducible assumption
    | with_reducible apply ih
    | extract_lets
    | with_reducible refine keeps_takeChunk (hr := by assumption) (hs := ?_) ..
    | with_reducible apply keeps_ite
    | with_reducible apply keeps_ite_fst
    | simp (zeta := false) only [keeps_mk_iff]
    | intro _
    | split

theorem keeps_formPrefill {a₀ : State} (s : State) (h : Nat) (uj : List (Nat × Nat)) (hs : Keeps a₀ s) :
    Keeps a₀ (formPrefill s h uj) := by
  unfold formPrefill
  repeat' first
    | with_reducible assumption
    | extract_lets
    | with_reducible apply keeps_takeChunks
    | with_reducible apply keeps_failRows
    | with_reducible apply keeps_launch
    | with_reducible apply keeps_noteCaps
    | with_reducible apply keeps_riskCheck
    | with_reducible apply keeps_ite
    | simp (zeta := false) only [keeps_mk_iff]
    | intro _
    | split

theorem keeps_refillBuckets {a₀ : State} (s : State) (hs : Keeps a₀ s) :
    Keeps a₀ (refillBuckets s) := by
  unfold refillBuckets
  repeat' first
    | with_reducible assumption
    | extract_lets
    | with_reducible apply keeps_ite
    | simp (zeta := false) only [keeps_mk_iff]
    | intro _
    | split

theorem keeps_lendGroup {a₀ : State} (s : State) (h : Nat) (hs : Keeps a₀ s) :
    Keeps a₀ (lendGroup s h) := by
  unfold lendGroup
  repeat' first
    | with_reducible assumption
    | extract_lets
    | with_reducible apply keeps_ite
    | simp (zeta := false) only [keeps_mk_iff]
    | with_reducible apply keeps_foldl
    | intro _
    | split

theorem keeps_lendAll {a₀ : State} (s : State) (hs : Keeps a₀ s) :
    Keeps a₀ (lendAll s) := by
  unfold lendAll
  repeat' first
    | with_reducible assumption
    | extract_lets
    | with_reducible apply keeps_lendGroup
    | with_reducible apply keeps_ite
    | simp (zeta := false) only [keeps_mk_iff]
    | with_reducible apply keeps_foldl
    | intro _
    | split

theorem keeps_noteSplit {a₀ : State} (s : State) (hs : Keeps a₀ s) :
    Keeps a₀ (noteSplit s) := by
  unfold noteSplit
  repeat' first
    | with_reducible assumption
    | extract_lets
    | with_reducible apply keeps_updDom
    | simp (zeta := false) only [keeps_mk_iff]
    | with_reducible apply keeps_foldl
    | intro _

theorem keeps_riskAll {a₀ : State} (s : State) (hs : Keeps a₀ s) :
    Keeps a₀ (riskAll s) := by
  unfold riskAll
  repeat' first
    | with_reducible assumption
    | with_reducible apply keeps_riskCheck
    | with_reducible apply keeps_foldl
    | intro _

theorem keeps_resumeAll {a₀ : State} (s : State) (hs : Keeps a₀ s) :
    Keeps a₀ (resumeAll s) := by
  unfold resumeAll
  repeat' first
    | with_reducible assumption
    | extract_lets
    | with_reducible apply keeps_hostPause
    | with_reducible apply keeps_schedPause
    | with_reducible apply keeps_wake
    | with_reducible apply keeps_updEnt
    | with_reducible apply keeps_ite
    | simp (zeta := false) only [keeps_mk_iff]
    | with_reducible apply keeps_foldl
    | with_reducible apply keeps_foldl_fst
    | intro _
    | split

theorem keeps_shedDie {a₀ : State} (s : State) (d : Nat) (hs : Keeps a₀ s) :
    Keeps a₀ (shedDie s d) := by
  unfold shedDie
  repeat' first
    | with_reducible assumption
    | extract_lets
    | with_reducible apply keeps_dropStep
    | with_reducible apply keeps_dropFaultsOf
    | with_reducible apply keeps_failReq
    | with_reducible apply keeps_ite
    | simp (zeta := false) only [keeps_mk_iff]
    | intro _
    | split
    | (rename_i v; subst v)
    | (rename_i v _; subst v)
    | (rename_i v _ _; subst v)
    | (rename_i v _ _ _; subst v)
    | (rename_i v _ _ _ _; subst v)
    | (rename_i v _ _ _ _ _; subst v)
    | (rename_i v _ _ _ _ _ _; subst v)
    | (rename_i v _ _ _ _ _ _ _; subst v)

theorem keeps_schedTide {a₀ : State} (s : State) (hs : Keeps a₀ s) :
    Keeps a₀ (schedTide s) := by
  unfold schedTide
  repeat' first
    | with_reducible assumption
    | extract_lets
    | with_reducible apply keeps_shedDie
    | with_reducible apply keeps_resumeAll
    | with_reducible apply keeps_riskAll
    | with_reducible apply keeps_noteSplit
    | with_reducible apply keeps_lendAll
    | with_reducible apply keeps_refillBuckets
    | with_reducible apply keeps_pauseForSlots
    | with_reducible apply keeps_pauseForPages
    | with_reducible apply keeps_foldl
    | intro _

end Sys2Proof.Machine
end

