-- ==== Sys2Proof/Laws/KeepsSteps.lean ====
section
/-! SUPPORT. The operations of Machine/Steps.lean leave the queue, the fuses and the memory's form as they are. -/

set_option linter.all false

namespace Sys2Proof.Machine

open Sys2Proof

theorem keeps_boundaryMember {a₀ : State} (id : Nat) (s : State) (m : Nat × Nat) (hs : Keeps a₀ s) :
    Keeps a₀ (boundaryMember id s m) := by
  unfold boundaryMember
  repeat' first
    | with_reducible assumption
    | extract_lets
    | with_reducible apply keeps_takeOff
    | with_reducible apply keeps_dropFaultsOf
    | with_reducible apply keeps_leaveStep
    | with_reducible apply keeps_updEnt
    | with_reducible apply keeps_ite
    | simp (zeta := false) only [keeps_mk_iff]
    | intro _
    | split

theorem keeps_layerBoundary {a₀ : State} (s : State) (id : Nat) (last : Bool) (hs : Keeps a₀ s) :
    Keeps a₀ (layerBoundary s id last) := by
  unfold layerBoundary
  repeat' first
    | with_reducible assumption
    | extract_lets
    | with_reducible apply keeps_boundaryMember
    | with_reducible apply keeps_abandonStep
    | with_reducible apply keeps_updStep
    | with_reducible apply keeps_ite
    | simp (zeta := false) only [keeps_mk_iff]
    | with_reducible apply keeps_foldl
    | intro _
    | split

theorem keeps_privatePage {a₀ : State} (i : Nat) (s : State) (p : Nat) (hs : Keeps a₀ s) :
    Keeps a₀ (privatePage i s p) := by
  unfold privatePage
  repeat' first
    | with_reducible assumption
    | extract_lets
    | with_reducible apply keeps_copyPage
    | with_reducible apply keeps_leavePage
    | with_reducible apply keeps_takePages
    | with_reducible apply keeps_updEnt
    | with_reducible apply keeps_ite
    | simp (zeta := false) only [keeps_mk_iff]
    | intro _
    | split

theorem keeps_noteShared {a₀ : State} (s : State) (i : Nat) (hs : Keeps a₀ s) :
    Keeps a₀ (noteShared s i) := by
  unfold noteShared
  repeat' first
    | with_reducible assumption
    | extract_lets
    | with_reducible apply keeps_updEnt
    | simp (zeta := false) only [keeps_mk_iff]
    | intro _

theorem keeps_readyKv {a₀ : State} (s : State) (i lo hi : Nat) (hs : Keeps a₀ s) :
    Keeps a₀ (readyKv s i lo hi) := by
  unfold readyKv
  repeat' first
    | with_reducible assumption
    | extract_lets
    | with_reducible apply keeps_noteShared
    | with_reducible apply keeps_privatePage
    | with_reducible apply keeps_fillBlocks
    | with_reducible apply keeps_ite
    | simp (zeta := false) only [keeps_mk_iff]
    | with_reducible apply keeps_foldl
    | intro _
    | split

theorem keeps_writeKv {a₀ : State} (s : State) (i lo hi : Nat) (fast : Bool) (hs : Keeps a₀ s) :
    Keeps a₀ (writeKv s i lo hi fast) := by
  unfold writeKv
  repeat' first
    | with_reducible assumption
    | extract_lets
    | with_reducible apply keeps_readyKv
    | with_reducible apply keeps_putKvEntries
    | with_reducible apply keeps_ite
    | simp (zeta := false) only [keeps_mk_iff]
    | intro _
    | split

theorem keeps_writeRows {a₀ : State} (s : State) (i lo : Nat) (tree : List TreeNode) (fast : Bool) (hs : Keeps a₀ s) :
    Keeps a₀ (writeRows s i lo tree fast) := by
  unfold writeRows
  repeat' first
    | with_reducible assumption
    | extract_lets
    | with_reducible apply keeps_readyKv
    | with_reducible apply keeps_putKvEntries
    | with_reducible apply keeps_putKvEntry
    | with_reducible apply keeps_ite
    | simp (zeta := false) only [keeps_mk_iff]
    | with_reducible apply keeps_foldl
    | intro _
    | split

theorem keeps_compact {a₀ : State} (s : State) (i lo : Nat) (nodes : List Nat) (hs : Keeps a₀ s) :
    Keeps a₀ (compact s i lo nodes) := by
  unfold compact
  repeat' first
    | with_reducible assumption
    | extract_lets
    | with_reducible apply keeps_copyEntry
    | with_reducible apply keeps_ite
    | simp (zeta := false) only [keeps_mk_iff]
    | with_reducible apply keeps_foldl
    | with_reducible apply keeps_foldl_fst
    | intro _
    | split

theorem keeps_rebuildPage {a₀ : State} (i : Nat) (s : State) (p : Nat) (hs : Keeps a₀ s) :
    Keeps a₀ (rebuildPage i s p) := by
  unfold rebuildPage
  repeat' first
    | with_reducible assumption
    | extract_lets
    | with_reducible apply keeps_privatePage
    | with_reducible apply keeps_cacheLost
    | with_reducible apply keeps_moveKvPage
    | with_reducible apply keeps_updEntX
    | with_reducible apply keeps_updEnt
    | with_reducible apply keeps_ite
    | simp (zeta := false) only [keeps_mk_iff]
    | with_reducible apply keeps_foldl
    | intro _
    | split

theorem keeps_mendRange {a₀ : State} (s : State) (i : Nat) (fast : Bool) (hs : Keeps a₀ s) :
    Keeps a₀ (mendRange s i fast) := by
  unfold mendRange
  repeat' first
    | with_reducible assumption
    | extract_lets
    | with_reducible apply keeps_rebuildPage
    | with_reducible apply keeps_noteShared
    | with_reducible apply keeps_cacheLost
    | with_reducible apply keeps_bad
    | with_reducible apply keeps_putKvEntries
    | with_reducible apply keeps_updEntX
    | with_reducible apply keeps_updEnt
    | with_reducible apply keeps_ite
    | simp (zeta := false) only [keeps_mk_iff]
    | with_reducible apply keeps_foldl
    | intro _
    | split

theorem keeps_spendV {a₀ : State} (s : State) (f c : Nat) (hs : Keeps a₀ s) :
    Keeps a₀ (spendV s f c) := by
  unfold spendV
  repeat' first
    | with_reducible assumption
    | extract_lets
    | with_reducible apply keeps_updFn
    | simp (zeta := false) only [keeps_mk_iff]
    | intro _

theorem keeps_kvExhausted {a₀ : State} (s : State) (i n : Nat) (hs : Keeps a₀ s) :
    Keeps a₀ (kvExhausted s i n) := by
  unfold kvExhausted
  repeat' first
    | with_reducible assumption
    | extract_lets
    | with_reducible apply keeps_failReq
    | with_reducible apply keeps_logErr
    | with_reducible apply keeps_ite
    | simp (zeta := false) only [keeps_mk_iff]
    | intro _
    | split

theorem keeps_commitTimes {a₀ : State} (s : State) (i : Nat) (hs : Keeps a₀ s) :
    Keeps a₀ (commitTimes s i) := by
  unfold commitTimes
  repeat' first
    | with_reducible assumption
    | extract_lets
    | with_reducible apply keeps_cnt
    | with_reducible apply keeps_updEnt
    | with_reducible apply keeps_ite
    | simp (zeta := false) only [keeps_mk_iff]
    | intro _
    | split

theorem keeps_commitTokens {a₀ : State} (s : State) (i : Nat) (toks : List Nat) (hs : Keeps a₀ s) :
    Keeps a₀ (commitTokens s i toks) := by
  unfold commitTokens
  repeat' first
    | with_reducible assumption
    | extract_lets
    | with_reducible apply keeps_commitTimes
    | with_reducible apply keeps_spendV
    | with_reducible apply keeps_noteHistory
    | with_reducible apply keeps_charge
    | with_reducible apply keeps_cnt
    | with_reducible apply keeps_updEntX
    | with_reducible apply keeps_updEnt
    | with_reducible apply keeps_ite
    | simp (zeta := false) only [keeps_mk_iff]
    | intro _
    | split
    | (rename_i v; subst v)
    | (rename_i v _; subst v)
    | (rename_i v _ _; subst v)
    | (rename_i v _ _ _; subst v)
    | (rename_i v _ _ _ _; subst v)
    | (rename_i v _ _ _ _ _; subst v)
    | (rename_i v _ _ _ _ _ _; subst v)
    | (rename_i v _ _ _ _ _ _ _; subst v)

theorem keeps_proposeTree {a₀ : State} (s : State) (i : Nat) (l : List (Nat × Nat)) (hs : Keeps a₀ s) :
    Keeps a₀ (proposeTree s i l) := by
  unfold proposeTree
  repeat' first
    | with_reducible assumption
    | extract_lets
    | with_reducible apply keeps_updEntX
    | with_reducible apply keeps_ite
    | simp (zeta := false) only [keeps_mk_iff]
    | intro _
    | split

theorem keeps_commitCover {a₀ : State} (s : State) (i : Nat) (hs : Keeps a₀ s) :
    Keeps a₀ (commitCover s i) := by
  unfold commitCover
  repeat' first
    | with_reducible assumption
    | extract_lets
    | with_reducible apply keeps_kvExhausted
    | with_reducible apply keeps_claimReserve
    | with_reducible apply keeps_coverTo
    | with_reducible apply keeps_ite
    | intro _
    | split

theorem keeps_commitSample {a₀ : State} (s : State) (m : Nat × Nat) (r : StepRow) (hs : Keeps a₀ s) :
    Keeps a₀ (commitSample s m r) := by
  unfold commitSample
  repeat' first
    | with_reducible assumption
    | extract_lets
    | with_reducible apply keeps_commitCover
    | with_reducible apply keeps_proposeTree
    | with_reducible apply keeps_commitTokens
    | with_reducible apply keeps_compact
    | with_reducible apply keeps_endReq
    | with_reducible apply keeps_cnt
    | with_reducible apply keeps_updEntX
    | with_reducible apply keeps_updEnt
    | with_reducible apply keeps_ite
    | simp (zeta := false) only [keeps_mk_iff]
    | intro _
    | split

theorem keeps_memberFault {a₀ : State} (s : State) (i : Nat) (hs : Keeps a₀ s) :
    Keeps a₀ (memberFault s i) := by
  unfold memberFault
  repeat' first
    | with_reducible assumption
    | extract_lets
    | with_reducible apply keeps_failReq
    | with_reducible apply keeps_waitersStop
    | with_reducible apply keeps_updEnt
    | with_reducible apply keeps_ite
    | simp (zeta := false) only [keeps_mk_iff]
    | intro _
    | split

theorem keeps_commitFill {a₀ : State} (s : State) (m : Nat × Nat) (r : StepRow) (fast : Bool) (hs : Keeps a₀ s) :
    Keeps a₀ (commitFill s m r fast) := by
  unfold commitFill
  repeat' first
    | with_reducible assumption
    | extract_lets
    | with_reducible apply keeps_memberFault
    | with_reducible apply keeps_commitSample
    | with_reducible apply keeps_spendV
    | with_reducible apply keeps_writeKv
    | with_reducible apply keeps_cancelled
    | with_reducible apply keeps_waitersReady
    | with_reducible apply keeps_settleBudget
    | with_reducible apply keeps_updEntX
    | with_reducible apply keeps_updEnt
    | with_reducible apply keeps_ite
    | simp (zeta := false) only [keeps_mk_iff]
    | intro _
    | split

theorem keeps_commitRow {a₀ : State} (s : State) (m : Nat × Nat) (r : StepRow) (fast : Bool) (hs : Keeps a₀ s) :
    Keeps a₀ (commitRow s m r fast) := by
  unfold commitRow
  repeat' first
    | with_reducible assumption
    | extract_lets
    | with_reducible apply keeps_commitSample
    | with_reducible apply keeps_kvExhausted
    | with_reducible apply keeps_mendRange
    | with_reducible apply keeps_writeRows
    | with_reducible apply keeps_ite
    | simp (zeta := false) only [keeps_mk_iff]
    | intro _
    | split

theorem keeps_commitMember {a₀ : State} (rows : List StepRow) (fast : Bool) (s : State) (m : Nat × Nat) (hs : Keeps a₀ s) :
    Keeps a₀ (commitMember rows fast s m) := by
  unfold commitMember
  repeat' first
    | with_reducible assumption
    | extract_lets
    | with_reducible apply keeps_commitRow
    | with_reducible apply keeps_commitFill
    | with_reducible apply keeps_memberFault
    | with_reducible apply keeps_pauseNow
    | with_reducible apply keeps_cancelled
    | with_reducible apply keeps_updEntX
    | with_reducible apply keeps_updEnt
    | with_reducible apply keeps_ite
    | simp (zeta := false) only [keeps_mk_iff]
    | intro _
    | split

theorem keeps_noteStep {a₀ : State} (s : State) (x : Step) (us replaced : Nat) (hs : Keeps a₀ s) :
    Keeps a₀ (noteStep s x us replaced) := by
  unfold noteStep
  repeat' first
    | with_reducible assumption
    | extract_lets
    | with_reducible apply keeps_ite
    | simp (zeta := false) only [keeps_mk_iff]
    | intro _
    | split

theorem keeps_stepCommits {a₀ : State} (s : State) (id us : Nat) (rows : List StepRow) (hs : Keeps a₀ s) :
    Keeps a₀ (stepCommits s id us rows) := by
  unfold stepCommits
  repeat' first
    | with_reducible assumption
    | extract_lets
    | with_reducible apply keeps_noteStep
    | with_reducible apply keeps_commitMember
    | with_reducible apply keeps_elapse
    | with_reducible apply keeps_ite
    | simp (zeta := false) only [keeps_mk_iff]
    | with_reducible apply keeps_foldl
    | with_reducible apply keeps_foldl_fst
    | intro _
    | split

end Sys2Proof.Machine
end

