-- ==== Sys2Proof/Laws/KeepsTidepool.lean ====
section
/-! SUPPORT. The operations of Machine/Tidepool.lean leave the queue, the fuses and the memory's form as they are. -/

set_option linter.all false

namespace Sys2Proof.Machine

open Sys2Proof

theorem keeps_poolPage {a₀ : State} (s : State) (i p q : Nat) (hs : Keeps a₀ s) :
    Keeps a₀ (poolPage s i p q) := by
  unfold poolPage
  repeat' first
    | with_reducible assumption
    | extract_lets
    | with_reducible apply keeps_moveKvPage
    | with_reducible apply keeps_updPage
    | simp (zeta := false) only [keeps_mk_iff]
    | intro _

theorem keeps_dropNames {a₀ : State} (s : State) (i : Nat) (hs : Keeps a₀ s) :
    Keeps a₀ (dropNames s i) := by
  unfold dropNames
  repeat' first
    | with_reducible assumption
    | extract_lets
    | simp (zeta := false) only [keeps_mk_iff]
    | intro _

theorem keeps_poolLeaves {a₀ : State} (s : State) (moved : List Nat) (hs : Keeps a₀ s) :
    Keeps a₀ (poolLeaves s moved) := by
  unfold poolLeaves
  repeat' first
    | with_reducible assumption
    | extract_lets
    | with_reducible apply keeps_ite
    | simp (zeta := false) only [keeps_mk_iff]
    | intro _
    | split

theorem keeps_moveEnds {a₀ : State} (s : State) (i : Nat) (qs : List Nat) (hs : Keeps a₀ s) :
    Keeps a₀ (moveEnds s i qs) := by
  unfold moveEnds
  repeat' first
    | with_reducible assumption
    | extract_lets
    | with_reducible apply keeps_poolLeaves
    | with_reducible apply keeps_dropNames
    | with_reducible apply keeps_poolPage
    | with_reducible apply keeps_stateRecord
    | with_reducible apply keeps_cnt
    | with_reducible apply keeps_updPage
    | with_reducible apply keeps_updEntX
    | with_reducible apply keeps_updEnt
    | simp (zeta := false) only [keeps_mk_iff]
    | with_reducible apply keeps_foldl
    | intro _

theorem keeps_bringBack {a₀ : State} (i : Nat) (s : State) (pd : Nat × Nat) (hs : Keeps a₀ s) :
    Keeps a₀ (bringBack i s pd) := by
  unfold bringBack
  repeat' first
    | with_reducible assumption
    | extract_lets
    | with_reducible apply keeps_moveKvPage
    | simp (zeta := false) only [keeps_mk_iff]
    | split

theorem keeps_returnEnds {a₀ : State} (s : State) (i : Nat) (hs : Keeps a₀ s) :
    Keeps a₀ (returnEnds s i) := by
  unfold returnEnds
  repeat' first
    | with_reducible assumption
    | extract_lets
    | with_reducible apply keeps_bringBack
    | with_reducible apply keeps_dropNames
    | with_reducible apply keeps_trimPooled
    | with_reducible apply keeps_updEntX
    | simp (zeta := false) only [keeps_mk_iff]
    | with_reducible apply keeps_foldl
    | intro _

theorem keeps_trimSpilled {a₀ : State} (s : State) (hs : Keeps a₀ s) :
    Keeps a₀ (trimSpilled s) := by
  unfold trimSpilled
  repeat' first
    | with_reducible assumption
    | extract_lets
    | simp (zeta := false) only [keeps_mk_iff]
    | intro _

theorem keeps_spillReturn {a₀ : State} (s : State) (d : Nat) (hs : Keeps a₀ s) :
    Keeps a₀ (spillReturn s d) := by
  unfold spillReturn
  repeat' first
    | with_reducible assumption
    | extract_lets
    | with_reducible apply keeps_trimSpilled
    | with_reducible apply keeps_bringBack
    | with_reducible apply keeps_dropNames
    | with_reducible apply keeps_ite
    | with_reducible apply keeps_foldl
    | intro _
    | split

end Sys2Proof.Machine
end

