-- ==== Sys2Proof/Laws/KeepsBooks.lean ====
section
/-! SUPPORT. The operations of Machine/Books.lean leave the queue, the fuses and the memory's form as they are. -/

set_option linter.all false

namespace Sys2Proof.Machine

open Sys2Proof

theorem keeps_logMismatch {a₀ : State} (e : Nat) (s : State) (m : Mismatch) (hs : Keeps a₀ s) :
    Keeps a₀ (logMismatch e s m) := by
  unfold logMismatch
  repeat' first
    | with_reducible assumption
    | with_reducible apply keeps_logErr

theorem keeps_auditBook {a₀ : State} (old s : State) (e : Nat) (hs : Keeps a₀ s) :
    Keeps a₀ (auditBook old s e) := by
  unfold auditBook
  repeat' first
    | with_reducible assumption
    | extract_lets
    | with_reducible apply keeps_logMismatch
    | with_reducible apply keeps_post
    | with_reducible apply keeps_ite
    | simp (zeta := false) only [keeps_mk_iff]
    | with_reducible apply keeps_foldl
    | intro _
    | split

theorem keeps_answerAudits {a₀ : State} (mask : Nat) (s : State) (f : Nat) (hs : Keeps a₀ s) :
    Keeps a₀ (answerAudits mask s f) := by
  unfold answerAudits
  repeat' first
    | with_reducible assumption
    | extract_lets
    | with_reducible apply keeps_settleCmds
    | with_reducible apply keeps_bad
    | with_reducible apply keeps_ite
    | intro _
    | split

theorem keeps_demandEvents {a₀ : State} (old s : State) (l : List Nat) (hs : Keeps a₀ s) :
    Keeps a₀ (demandEvents old s l) := by
  unfold demandEvents
  repeat' first
    | with_reducible assumption
    | extract_lets
    | with_reducible apply keeps_post
    | simp (zeta := false) only [keeps_mk_iff]
    | with_reducible apply keeps_foldl
    | intro _
    | split

theorem keeps_audit {a₀ : State} (old s : State) (hold : Keeps a₀ old) (hs : Keeps a₀ s) :
    Keeps a₀ (audit old s) := by
  unfold audit
  repeat' first
    | with_reducible assumption
    | extract_lets
    | with_reducible apply keeps_demandEvents
    | with_reducible apply keeps_answerAudits
    | with_reducible apply keeps_auditBook
    | with_reducible apply keeps_latchBooks
    | with_reducible apply keeps_updLink
    | with_reducible apply keeps_ite
    | simp (zeta := false) only [keeps_mk_iff]
    | with_reducible apply keeps_foldl
    | intro _
    | split

theorem keeps_retryMoves {a₀ : State} (s : State) (hs : Keeps a₀ s) :
    Keeps a₀ (retryMoves s) := by
  unfold retryMoves
  repeat' first
    | with_reducible assumption
    | with_reducible apply keeps_startMove
    | with_reducible apply keeps_foldl
    | intro _

theorem keeps_tideTurns {a₀ : State} (s : State) (meters : List DomainMeter) (hs : Keeps a₀ s) :
    Keeps a₀ (tideTurns s meters) := by
  unfold tideTurns
  repeat' first
    | with_reducible assumption
    | extract_lets
    | with_reducible apply keeps_retryMoves
    | with_reducible apply keeps_audit
    | with_reducible apply keeps_spillReturn
    | with_reducible apply keeps_schedTide
    | with_reducible apply keeps_openTide
    | with_reducible apply keeps_closeTide
    | with_reducible apply keeps_msMark
    | with_reducible apply keeps_applyTide
    | with_reducible apply keeps_startHold
    | with_reducible apply keeps_ite
    | with_reducible apply keeps_foldl
    | intro _
    | split

end Sys2Proof.Machine
end

