-- ==== Sys2Proof/Laws/KeepsCommit.lean ====
section
/-! SUPPORT. The operations of Machine/Commit.lean leave the queue, the fuses and the memory's form as they are. -/

set_option linter.all false

namespace Sys2Proof.Machine

open Sys2Proof

theorem keeps_commitBody {a₀ : State} (s : State) (f slot : Nat) (b : List Byte) (hs : Keeps a₀ s) :
    Keeps a₀ (commitBody s f slot b).1 := by
  unfold commitBody
  repeat' first
    | with_reducible assumption
    | extract_lets
    | with_reducible apply keeps_streamClose
    | with_reducible apply keeps_streamOpen
    | with_reducible apply keeps_ringClose
    | with_reducible apply keeps_ringOpen
    | with_reducible apply keeps_requestQuery
    | with_reducible apply keeps_errlogRead
    | with_reducible apply keeps_energyLimitSet
    | with_reducible apply keeps_configDiscard
    | with_reducible apply keeps_commitConfig
    | with_reducible apply keeps_configRead
    | with_reducible apply keeps_configStage
    | with_reducible apply keeps_grammarUnload
    | with_reducible apply keeps_bintableUnload
    | with_reducible apply keeps_vocabUnload
    | with_reducible apply keeps_modelInfoCmd
    | with_reducible apply keeps_modelUnload
    | with_reducible apply keeps_bar2WindowSet
    | with_reducible apply keeps_regionDestroy
    | with_reducible apply keeps_engineEnable
    | with_reducible apply keeps_functionClose
    | with_reducible apply keeps_functionOpen
    | with_reducible apply keeps_running
    | with_reducible apply keeps_good
    | with_reducible apply keeps_ite
    | with_reducible apply keeps_ite_fst
    | simp (zeta := false) only [keeps_mk_iff]
    | intro _
    | split

theorem keeps_commitBuilt {a₀ : State} (s : State) (f slot op : Nat) (o : CmdOutcome) (hs : Keeps a₀ s) :
    Keeps a₀ (commitBuilt s f slot op o) := by
  unfold commitBuilt
  repeat' first
    | with_reducible assumption
    | extract_lets
    | with_reducible apply keeps_showBuilt
    | with_reducible apply keeps_dropBuilt
    | with_reducible apply keeps_completeSlot
    | with_reducible apply keeps_ite
    | simp (zeta := false) only [keeps_mk_iff]
    | intro _
    | split

theorem keeps_afterCommit {a₀ : State} (s : State) (f : Nat) (hs : Keeps a₀ s) :
    Keeps a₀ (afterCommit s f) := by
  unfold afterCommit
  repeat' first
    | with_reducible assumption
    | extract_lets
    | with_reducible apply keeps_askLost
    | with_reducible apply keeps_resumeReads
    | with_reducible apply keeps_ite
    | simp (zeta := false) only [keeps_mk_iff]
    | intro _
    | split

theorem keeps_commitRun {a₀ : State} (s : State) (f slot op : Nat) (hs : Keeps a₀ s) :
    Keeps a₀ (commitRun s f slot op) := by
  unfold commitRun
  repeat' first
    | with_reducible assumption
    | extract_lets
    | with_reducible apply keeps_afterCommit
    | with_reducible apply keeps_commitBody
    | with_reducible apply keeps_commitConfig
    | with_reducible apply keeps_checked
    | with_reducible apply keeps_completeSlot
    | with_reducible apply keeps_ite
    | simp (zeta := false) only [keeps_mk_iff]
    | intro _
    | split

theorem keeps_commitCmd {a₀ : State} (s : State) (f slot : Nat) (hs : Keeps a₀ s) :
    Keeps a₀ (commitCmd s f slot) := by
  unfold commitCmd
  repeat' first
    | with_reducible assumption
    | extract_lets
    | with_reducible apply keeps_commitRun
    | with_reducible apply keeps_commitBuilt
    | with_reducible apply keeps_completeSlot
    | with_reducible apply keeps_ite
    | simp (zeta := false) only [keeps_mk_iff]
    | intro _
    | split

end Sys2Proof.Machine
end

