-- ==== Sys2Proof/Laws/KeepsConfigSpace.lean ====
section
/-! SUPPORT. The operations of Machine/ConfigSpace.lean leave the queue, the fuses and the memory's form as they are. -/

set_option linter.all false

namespace Sys2Proof.Machine

open Sys2Proof

theorem keeps_setAts {a₀ : State} (s : State) (f : Nat) (on : Bool) (hs : Keeps a₀ s) :
    Keeps a₀ (setAts s f on) := by
  unfold setAts
  repeat' first
    | with_reducible assumption
    | extract_lets
    | with_reducible apply keeps_resumeBus
    | with_reducible apply keeps_askLost
    | with_reducible apply keeps_updPci
    | with_reducible apply keeps_updFn
    | with_reducible apply keeps_ite
    | simp (zeta := false) only [keeps_mk_iff]
    | intro _
    | split

theorem keeps_writeField {a₀ : State} (s : State) (f field_ v : Nat) (hs : Keeps a₀ s) :
    Keeps a₀ (writeField s f field_ v) := by
  unfold writeField
  repeat' first
    | with_reducible assumption
    | extract_lets
    | with_reducible apply keeps_setAts
    | with_reducible apply keeps_d0Return
    | with_reducible apply keeps_vfSet
    | with_reducible apply keeps_vfClear
    | with_reducible apply keeps_d3hotEntry
    | with_reducible apply keeps_bmeSet
    | with_reducible apply keeps_bmeClear
    | with_reducible apply keeps_resumeReads
    | with_reducible apply keeps_sendPages
    | with_reducible apply keeps_firePending
    | with_reducible apply keeps_aer
    | with_reducible apply keeps_updPci
    | with_reducible apply keeps_ite
    | simp (zeta := false) only [keeps_mk_iff]
    | intro _
    | split

theorem keeps_writeConfig {a₀ : State} (s : State) (f field_ v : Nat) (hs : Keeps a₀ s) :
    Keeps a₀ (writeConfig s f field_ v) := by
  unfold writeConfig
  repeat' first
    | with_reducible assumption
    | extract_lets
    | with_reducible apply keeps_writeField
    | with_reducible apply keeps_emit
    | with_reducible apply keeps_ite
    | simp (zeta := false) only [keeps_mk_iff]
    | intro _
    | split

theorem keeps_readConfig {a₀ : State} (s : State) (f field_ : Nat) (hs : Keeps a₀ s) :
    Keeps a₀ (readConfig s f field_) := by
  unfold readConfig
  repeat' first
    | with_reducible assumption
    | extract_lets
    | with_reducible apply keeps_emit
    | with_reducible apply keeps_ite
    | simp (zeta := false) only [keeps_mk_iff]
    | intro _
    | split

theorem keeps_registerWrite {a₀ : State} (s : State) (f : Nat) (bar : Bar) (off width : Nat) (v : DWord) (hs : Keeps a₀ s) :
    Keeps a₀ (registerWrite s f bar off width v) := by
  unfold registerWrite
  repeat' first
    | with_reducible assumption
    | extract_lets
    | with_reducible apply keeps_writeConfig
    | with_reducible apply keeps_write32
    | with_reducible apply keeps_refuseAccess
    | with_reducible apply keeps_ite
    | simp (zeta := false) only [keeps_mk_iff]
    | intro _
    | split

theorem keeps_readReg {a₀ : State} (s : State) (f : Nat) (bar : Bar) (off width : Nat) (hs : Keeps a₀ s) :
    Keeps a₀ (readReg s f bar off width).2 := by
  unfold readReg
  repeat' first
    | with_reducible assumption
    | extract_lets
    | with_reducible apply keeps_read32
    | with_reducible apply keeps_ite
    | with_reducible apply keeps_ite_fst
    | simp (zeta := false) only [keeps_mk_iff]
    | intro _
    | split

theorem keeps_lowHalfRead {a₀ : State} (s : State) (f : Nat) (bar : Bar) (off width : Nat) (hs : Keeps a₀ s) :
    Keeps a₀ (lowHalfRead s f bar off width) := by
  unfold lowHalfRead
  repeat' first
    | with_reducible assumption
    | extract_lets
    | with_reducible apply keeps_readReg
    | with_reducible apply keeps_readConfig
    | with_reducible apply keeps_refuseAccess
    | with_reducible apply keeps_emit
    | with_reducible apply keeps_ite
    | simp (zeta := false) only [keeps_mk_iff]
    | intro _
    | split

end Sys2Proof.Machine
end

