-- ==== Sys2Proof/Laws/KeepsIdle.lean ====
section
/-! SUPPORT. The operations of Machine/Idle.lean leave the queue, the fuses and the memory's form as they are. -/

set_option linter.all false

namespace Sys2Proof.Machine

open Sys2Proof

theorem keeps_idle {a₀ : State} (s : State) (hs : Keeps a₀ s) :
    Keeps a₀ (idle s) := by
  unfold idle
  repeat' first
    | with_reducible assumption
    | with_reducible apply keeps_elapse
    | with_reducible apply keeps_ite
    | intro _
    | split

end Sys2Proof.Machine
end

