-- ==== Sys2Proof/Laws/KeepsPldm.lean ====
section
/-! SUPPORT. The operations of Machine/Pldm.lean leave the queue, the fuses and the memory's form as they are. -/

set_option linter.all false

namespace Sys2Proof.Machine

open Sys2Proof

theorem keeps_mctp {a₀ : State} (s : State) (cmd cc : Nat) (data : List Byte) (hs : Keeps a₀ s) :
    Keeps a₀ (mctp s cmd cc data) := by
  unfold mctp
  repeat' first
    | with_reducible assumption
    | with_reducible apply keeps_emit

theorem keeps_setEid {a₀ : State} (s : State) (op : BitVec 2) (eid : Byte) (hs : Keeps a₀ s) :
    Keeps a₀ (setEid s op eid) := by
  unfold setEid
  repeat' first
    | with_reducible assumption
    | extract_lets
    | with_reducible apply keeps_mctp
    | with_reducible apply keeps_ite
    | simp (zeta := false) only [keeps_mk_iff]
    | intro _
    | split

theorem keeps_mctpVersions {a₀ : State} (s : State) (t : Byte) (hs : Keeps a₀ s) :
    Keeps a₀ (mctpVersions s t) := by
  unfold mctpVersions
  repeat' first
    | with_reducible assumption
    | with_reducible apply keeps_mctp
    | with_reducible apply keeps_ite
    | intro _
    | split

theorem keeps_pldm {a₀ : State} (s : State) (typ cmd cc : Nat) (data : List Byte) (hs : Keeps a₀ s) :
    Keeps a₀ (pldm s typ cmd cc data) := by
  unfold pldm
  repeat' first
    | with_reducible assumption
    | with_reducible apply keeps_emit

theorem keeps_setTid {a₀ : State} (s : State) (tid : Byte) (hs : Keeps a₀ s) :
    Keeps a₀ (setTid s tid) := by
  unfold setTid
  repeat' first
    | with_reducible assumption
    | extract_lets
    | with_reducible apply keeps_pldm
    | with_reducible apply keeps_ite
    | simp (zeta := false) only [keeps_mk_iff]
    | intro _
    | split

theorem keeps_pldmVersion {a₀ : State} (s : State) (typ : Byte) (hs : Keeps a₀ s) :
    Keeps a₀ (pldmVersion s typ) := by
  unfold pldmVersion
  repeat' first
    | with_reducible assumption
    | with_reducible apply keeps_pldm
    | with_reducible apply keeps_ite
    | intro _
    | split

theorem keeps_pldmCmds {a₀ : State} (s : State) (typ : Byte) (hs : Keeps a₀ s) :
    Keeps a₀ (pldmCmds s typ) := by
  unfold pldmCmds
  repeat' first
    | with_reducible assumption
    | with_reducible apply keeps_pldm
    | with_reducible apply keeps_ite
    | intro _
    | split

theorem keeps_getPdr {a₀ : State} (s : State) (record : Nat) (hs : Keeps a₀ s) :
    Keeps a₀ (getPdr s record) := by
  unfold getPdr
  repeat' first
    | with_reducible assumption
    | extract_lets
    | with_reducible apply keeps_pldm
    | with_reducible apply keeps_record
    | with_reducible apply keeps_ite
    | simp (zeta := false) only [keeps_mk_iff]
    | intro _
    | split

theorem keeps_sensorReading {a₀ : State} (s : State) (n : Nat) (hs : Keeps a₀ s) :
    Keeps a₀ (sensorReading s n) := by
  unfold sensorReading
  repeat' first
    | with_reducible assumption
    | extract_lets
    | with_reducible apply keeps_pldm
    | with_reducible apply keeps_ite
    | simp (zeta := false) only [keeps_mk_iff]
    | intro _
    | split

theorem keeps_stateSensor {a₀ : State} (s : State) (n : Nat) (hs : Keeps a₀ s) :
    Keeps a₀ (stateSensor s n) := by
  unfold stateSensor
  repeat' first
    | with_reducible assumption
    | with_reducible apply keeps_pldm
    | with_reducible apply keeps_ite
    | intro _
    | split

theorem keeps_setEffecter {a₀ : State} (s : State) (n v : Nat) (hs : Keeps a₀ s) :
    Keeps a₀ (setEffecter s n v) := by
  unfold setEffecter
  repeat' first
    | with_reducible assumption
    | extract_lets
    | with_reducible apply keeps_pldm
    | with_reducible apply keeps_ite
    | simp (zeta := false) only [keeps_mk_iff]
    | intro _
    | split

theorem keeps_getEffecter {a₀ : State} (s : State) (n : Nat) (hs : Keeps a₀ s) :
    Keeps a₀ (getEffecter s n) := by
  unfold getEffecter
  repeat' first
    | with_reducible assumption
    | extract_lets
    | with_reducible apply keeps_pldm
    | with_reducible apply keeps_ite
    | simp (zeta := false) only [keeps_mk_iff]
    | intro _
    | split

end Sys2Proof.Machine
end

