-- ==== Sys2Proof/Laws/KeepsJtag.lean ====
section
/-! SUPPORT. The operations of Machine/Jtag.lean leave the queue, the fuses and the memory's form as they are. -/

set_option linter.all false

namespace Sys2Proof.Machine

open Sys2Proof

theorem keeps_tapped {a₀ : State} (s : State) (opcode : Nat) (t : State) (ht : Keeps a₀ t) :
    Keeps a₀ (tapped s opcode t) := by
  unfold tapped
  repeat' first
    | with_reducible assumption
    | extract_lets
    | with_reducible apply keeps_ite
    | simp (zeta := false) only [keeps_mk_iff]
    | intro _
    | split

theorem keeps_bypassed {a₀ : State} (s : State) (hs : Keeps a₀ s) :
    Keeps a₀ (bypassed s) := by
  unfold bypassed
  repeat' first
    | with_reducible assumption
    | with_reducible apply keeps_emit

theorem keeps_boundaryOut {a₀ : State} (s : State) (hs : Keeps a₀ s) :
    Keeps a₀ (boundaryOut s) := by
  unfold boundaryOut
  repeat' first
    | with_reducible assumption
    | with_reducible apply keeps_drawn
    | with_reducible apply keeps_emit

theorem keeps_unlockReset {a₀ : State} (s : State) (hs : Keeps a₀ s) :
    Keeps a₀ (unlockReset s) := by
  unfold unlockReset
  repeat' first
    | with_reducible assumption
    | extract_lets
    | with_reducible apply keeps_keepFatal
    | with_reducible apply keeps_startUp
    | with_reducible apply keeps_packageReset
    | with_reducible apply keeps_ite
    | simp (zeta := false) only [keeps_mk_iff]
    | intro _
    | split
    | (rename_i v; subst v)
    | (rename_i v _; subst v)
    | (rename_i v _ _; subst v)
    | (rename_i v _ _ _; subst v)
    | (rename_i v _ _ _ _; subst v)
    | (rename_i v _ _ _ _ _; subst v)
    | (rename_i v _ _ _ _ _ _; subst v)
    | (rename_i v _ _ _ _ _ _ _; subst v)

theorem keeps_dbgResponse {a₀ : State} (s : State) (level : Nat) (sigOk : Bool) (hs : Keeps a₀ s) :
    Keeps a₀ (dbgResponse s level sigOk) := by
  unfold dbgResponse
  repeat' first
    | with_reducible assumption
    | extract_lets
    | with_reducible apply keeps_unlockReset
    | with_reducible apply keeps_bypassed
    | with_reducible apply keeps_ite
    | simp (zeta := false) only [keeps_mk_iff]
    | intro _
    | split

theorem keeps_testLink {a₀ : State} (s : State) (l : Nat) (flits : Bool) (hs : Keeps a₀ s) :
    Keeps a₀ (testLink s l flits) := by
  unfold testLink
  repeat' first
    | with_reducible assumption
    | extract_lets
    | with_reducible apply keeps_drawn
    | with_reducible apply keeps_updLink
    | with_reducible apply keeps_ite
    | simp (zeta := false) only [keeps_mk_iff]
    | intro _
    | split

theorem keeps_testAccess {a₀ : State} (s : State) (op arg : Nat) (hs : Keeps a₀ s) :
    Keeps a₀ (testAccess s op arg) := by
  unfold testAccess
  repeat' first
    | with_reducible assumption
    | extract_lets
    | with_reducible apply keeps_testLink
    | with_reducible apply keeps_bypassed
    | with_reducible apply keeps_trained
    | with_reducible apply keeps_drawn
    | with_reducible apply keeps_emit
    | with_reducible apply keeps_updBank
    | with_reducible apply keeps_updLink
    | with_reducible apply keeps_ite
    | simp (zeta := false) only [keeps_mk_iff]
    | intro _
    | split

theorem keeps_fuseProg {a₀ : State} (s : State) (d : Nat) (field : FuseField) (hs : Keeps a₀ s) :
    Keeps a₀ (fuseProg s d field) := by
  unfold fuseProg
  repeat' first
    | with_reducible assumption
    | extract_lets
    | with_reducible apply keeps_bypassed
    | with_reducible apply keeps_updDie
    | with_reducible apply keeps_ite
    | simp (zeta := false) only [keeps_mk_iff]
    | intro _
    | split
    | exact ⟨hs.pending, fun x => absurd (by rw [hs.hbFuses x]; exact x) ‹¬s.hbFuses.fused = true›, hs.mem⟩

theorem keeps_regRead {a₀ : State} (s : State) (off : Nat) (hs : Keeps a₀ s) :
    Keeps a₀ (regRead s off) := by
  unfold regRead
  repeat' first
    | with_reducible assumption
    | extract_lets
    | with_reducible apply keeps_bypassed
    | with_reducible apply keeps_emit
    | with_reducible apply keeps_ite
    | simp (zeta := false) only [keeps_mk_iff]
    | intro _
    | split

end Sys2Proof.Machine
end

