-- ==== Sys2Proof/Laws/KeepsPackets.lean ====
section
/-! SUPPORT. The operations of Machine/Packets.lean leave the queue, the fuses and the memory's form as they are. -/

set_option linter.all false

namespace Sys2Proof.Machine

open Sys2Proof

theorem keeps_answerTxn {a₀ : State} (s : State) (t : OutTxn) (a : Answer) (hs : Keeps a₀ s) :
    Keeps a₀ (answerTxn s t a) := by
  unfold answerTxn
  repeat' first
    | with_reducible assumption
    | extract_lets
    | with_reducible apply keeps_ite
    | simp (zeta := false) only [keeps_mk_iff]
    | intro _
    | split

theorem keeps_serveRead {a₀ : State} (s : State) (t : OutTxn) (seen : Seen) (hs : Keeps a₀ s) :
    Keeps a₀ (serveRead s t seen) := by
  unfold serveRead
  repeat' first
    | with_reducible assumption
    | extract_lets
    | with_reducible apply keeps_answerTxn
    | with_reducible apply keeps_readWords
    | with_reducible apply keeps_ite
    | simp (zeta := false) only [keeps_mk_iff]
    | intro _
    | split

theorem keeps_serveWrite {a₀ : State} (s : State) (t : OutTxn) (seen : Seen) (hs : Keeps a₀ s) :
    Keeps a₀ (serveWrite s t seen) := by
  unfold serveWrite
  repeat' first
    | with_reducible assumption
    | extract_lets
    | with_reducible apply keeps_answerTxn
    | with_reducible apply keeps_refused
    | with_reducible apply keeps_storeAt
    | with_reducible apply keeps_setPoison
    | with_reducible apply keeps_ite
    | simp (zeta := false) only [keeps_mk_iff]
    | with_reducible apply keeps_foldl
    | intro _
    | split

theorem keeps_serve {a₀ : State} (s : State) (t : OutTxn) (seen : Seen) (hs : Keeps a₀ s) :
    Keeps a₀ (serve s t seen) := by
  unfold serve
  repeat' first
    | with_reducible assumption
    | extract_lets
    | with_reducible apply keeps_serveWrite
    | with_reducible apply keeps_serveRead
    | with_reducible apply keeps_answerTxn
    | with_reducible apply keeps_ite
    | simp (zeta := false) only [keeps_mk_iff]
    | intro _
    | split

theorem keeps_serveArrived {a₀ : State} (s : State) (tag : Nat) (src : Fin 5) (seen : Seen) (hs : Keeps a₀ s) :
    Keeps a₀ (serveArrived s tag src seen) := by
  unfold serveArrived
  repeat' first
    | with_reducible assumption
    | extract_lets
    | with_reducible apply keeps_serve
    | with_reducible apply keeps_ite
    | simp (zeta := false) only [keeps_mk_iff]
    | intro _
    | split

theorem keeps_request {a₀ : State} (s : State) (x : Txn) (write : Bool) (seen : Seen) (hs : Keeps a₀ s) :
    Keeps a₀ (request s x write seen) := by
  unfold request
  repeat' first
    | with_reducible assumption
    | extract_lets
    | with_reducible apply keeps_serveArrived
    | with_reducible apply keeps_pump
    | with_reducible apply keeps_sendRequest
    | with_reducible apply keeps_ite
    | simp (zeta := false) only [keeps_mk_iff]
    | intro _
    | split

theorem keeps_reach {a₀ : State} (s : State) (x : Txn) (write : Bool) (seen : Seen) (hs : Keeps a₀ s) :
    Keeps a₀ (reach s x write seen) := by
  unfold reach
  repeat' first
    | with_reducible assumption
    | extract_lets
    | with_reducible apply keeps_request
    | with_reducible apply keeps_serveArrived
    | with_reducible apply keeps_ite
    | simp (zeta := false) only [keeps_mk_iff]
    | intro _
    | split

theorem keeps_giveAnswer {a₀ : State} (s : State) (t : OutTxn) (a : Answer) (hs : Keeps a₀ s) :
    Keeps a₀ (giveAnswer s t a) := by
  unfold giveAnswer
  repeat' first
    | with_reducible assumption
    | extract_lets
    | with_reducible apply keeps_pump
    | with_reducible apply keeps_finishTxn
    | with_reducible apply keeps_sendAnswer
    | with_reducible apply keeps_ite
    | simp (zeta := false) only [keeps_mk_iff]
    | intro _
    | split

end Sys2Proof.Machine
end

