-- ==== Sys2Proof/Laws/KeepsSpdm.lean ====
section
/-! SUPPORT. The operations of Machine/Spdm.lean leave the queue, the fuses and the memory's form as they are. -/

set_option linter.all false

namespace Sys2Proof.Machine

open Sys2Proof

theorem keeps_updSpdm {a₀ : State} (s : State) (conn : Nat) (g : Spdm → Spdm) (hs : Keeps a₀ s) :
    Keeps a₀ (updSpdm s conn g) := by
  unfold updSpdm
  repeat' first
    | with_reducible assumption
    | extract_lets
    | simp (zeta := false) only [keeps_mk_iff]

theorem keeps_spdmError {a₀ : State} (s : State) (conn code : Nat) (data : List Byte) (hs : Keeps a₀ s) :
    Keeps a₀ (spdmError s conn code data) := by
  unfold spdmError
  repeat' first
    | with_reducible assumption
    | with_reducible apply keeps_emit

theorem keeps_atPhase {a₀ : State} (s : State) (conn phase : Nat) (t : State) (hs : Keeps a₀ s) (ht : Keeps a₀ t) :
    Keeps a₀ (atPhase s conn phase t) := by
  unfold atPhase
  repeat' first
    | with_reducible assumption
    | with_reducible apply keeps_spdmError
    | with_reducible apply keeps_ite
    | intro _
    | split

theorem keeps_getVersion {a₀ : State} (s : State) (conn : Nat) (hs : Keeps a₀ s) :
    Keeps a₀ (getVersion s conn) := by
  unfold getVersion
  repeat' first
    | with_reducible assumption
    | extract_lets
    | with_reducible apply keeps_updSpdm
    | with_reducible apply keeps_emit
    | simp (zeta := false) only [keeps_mk_iff]
    | intro _
    | (rename_i v; subst v)
    | (rename_i v _; subst v)
    | (rename_i v _ _; subst v)
    | (rename_i v _ _ _; subst v)
    | (rename_i v _ _ _ _; subst v)
    | (rename_i v _ _ _ _ _; subst v)
    | (rename_i v _ _ _ _ _ _; subst v)
    | (rename_i v _ _ _ _ _ _ _; subst v)

theorem keeps_getCapabilities {a₀ : State} (s : State) (conn : Nat) (hs : Keeps a₀ s) :
    Keeps a₀ (getCapabilities s conn) := by
  unfold getCapabilities
  repeat' first
    | with_reducible assumption
    | extract_lets
    | with_reducible apply keeps_atPhase
    | with_reducible apply keeps_updSpdm
    | with_reducible apply keeps_emit
    | simp (zeta := false) only [keeps_mk_iff]
    | intro _

theorem keeps_negotiate {a₀ : State} (s : State) (conn : Nat) (ok : Bool) (hs : Keeps a₀ s) :
    Keeps a₀ (negotiate s conn ok) := by
  unfold negotiate
  repeat' first
    | with_reducible assumption
    | extract_lets
    | with_reducible apply keeps_atPhase
    | with_reducible apply keeps_spdmError
    | with_reducible apply keeps_updSpdm
    | with_reducible apply keeps_emit
    | with_reducible apply keeps_ite
    | simp (zeta := false) only [keeps_mk_iff]
    | intro _
    | split

theorem keeps_getCertificate {a₀ : State} (s : State) (conn slot off len : Nat) (hs : Keeps a₀ s) :
    Keeps a₀ (getCertificate s conn slot off len) := by
  unfold getCertificate
  repeat' first
    | with_reducible assumption
    | extract_lets
    | with_reducible apply keeps_spdmError
    | with_reducible apply keeps_emit
    | with_reducible apply keeps_ite
    | intro _
    | split

theorem keeps_signedResponse {a₀ : State} (s : State) (conn req : Nat) (hs : Keeps a₀ s) :
    Keeps a₀ (signedResponse s conn req) := by
  unfold signedResponse
  repeat' first
    | with_reducible assumption
    | extract_lets
    | with_reducible apply keeps_drawn
    | with_reducible apply keeps_emit
    | with_reducible apply keeps_ite
    | intro _
    | split

theorem keeps_askSign {a₀ : State} (s : State) (conn req : Nat) (hs : Keeps a₀ s) :
    Keeps a₀ (askSign s conn req) := by
  unfold askSign
  repeat' first
    | with_reducible assumption
    | extract_lets
    | with_reducible apply keeps_spdmError
    | with_reducible apply keeps_updSpdm
    | with_reducible apply keeps_ite
    | simp (zeta := false) only [keeps_mk_iff]
    | intro _
    | split
    | (rename_i v; subst v)
    | (rename_i v _; subst v)
    | (rename_i v _ _; subst v)
    | (rename_i v _ _ _; subst v)
    | (rename_i v _ _ _ _; subst v)
    | (rename_i v _ _ _ _ _; subst v)
    | (rename_i v _ _ _ _ _ _; subst v)
    | (rename_i v _ _ _ _ _ _ _; subst v)

theorem keeps_challengeReq {a₀ : State} (s : State) (conn slot : Nat) (hs : Keeps a₀ s) :
    Keeps a₀ (challengeReq s conn slot) := by
  unfold challengeReq
  repeat' first
    | with_reducible assumption
    | with_reducible apply keeps_askSign
    | with_reducible apply keeps_spdmError
    | with_reducible apply keeps_ite
    | intro _
    | split

theorem keeps_getMeasurements {a₀ : State} (s : State) (conn : Nat) (signed : Bool) (index : Nat) (hs : Keeps a₀ s) :
    Keeps a₀ (getMeasurements s conn signed index) := by
  unfold getMeasurements
  repeat' first
    | with_reducible assumption
    | with_reducible apply keeps_askSign
    | with_reducible apply keeps_spdmError
    | with_reducible apply keeps_emit
    | with_reducible apply keeps_ite
    | intro _
    | split

theorem keeps_respondIfReady {a₀ : State} (s : State) (conn token : Nat) (hs : Keeps a₀ s) :
    Keeps a₀ (respondIfReady s conn token) := by
  unfold respondIfReady
  repeat' first
    | with_reducible assumption
    | extract_lets
    | with_reducible apply keeps_signedResponse
    | with_reducible apply keeps_spdmError
    | with_reducible apply keeps_updSpdm
    | with_reducible apply keeps_ite
    | simp (zeta := false) only [keeps_mk_iff]
    | intro _
    | split

theorem keeps_signingDone {a₀ : State} (s : State) (hs : Keeps a₀ s) :
    Keeps a₀ (signingDone s) := by
  unfold signingDone
  repeat' first
    | with_reducible assumption
    | extract_lets
    | with_reducible apply keeps_signedResponse
    | with_reducible apply keeps_updSpdm
    | with_reducible apply keeps_ite
    | simp (zeta := false) only [keeps_mk_iff]
    | intro _
    | split
    | (rename_i v; subst v)
    | (rename_i v _; subst v)
    | (rename_i v _ _; subst v)
    | (rename_i v _ _ _; subst v)
    | (rename_i v _ _ _ _; subst v)
    | (rename_i v _ _ _ _ _; subst v)
    | (rename_i v _ _ _ _ _ _; subst v)
    | (rename_i v _ _ _ _ _ _ _; subst v)

end Sys2Proof.Machine
end

