-- ==== Sys2Proof/Laws/KeepsUpdate.lean ====
section
/-! SUPPORT. The operations of Machine/Update.lean leave the queue, the fuses and the memory's form as they are. -/

set_option linter.all false

namespace Sys2Proof.Machine

open Sys2Proof

theorem keeps_updMgmt {a₀ : State} (s : State) (g : Mgmt → Mgmt) (hs : Keeps a₀ s) :
    Keeps a₀ (updMgmt s g) := by
  unfold updMgmt
  repeat' first
    | with_reducible assumption
    | extract_lets
    | simp (zeta := false) only [keeps_mk_iff]

theorem keeps_updTarget {a₀ : State} (s : State) (c : Nat) (g : FwCopy → FwCopy) (hs : Keeps a₀ s) :
    Keeps a₀ (updTarget s c g) := by
  unfold updTarget
  repeat' first
    | with_reducible assumption
    | extract_lets
    | with_reducible apply keeps_updFw
    | with_reducible apply keeps_ite
    | simp (zeta := false) only [keeps_mk_iff]
    | intro _
    | split

theorem keeps_requestUpdate {a₀ : State} (s : State) (hs : Keeps a₀ s) :
    Keeps a₀ (requestUpdate s) := by
  unfold requestUpdate
  repeat' first
    | with_reducible assumption
    | extract_lets
    | with_reducible apply keeps_updMgmt
    | with_reducible apply keeps_pldm
    | with_reducible apply keeps_idle
    | with_reducible apply keeps_ite
    | simp (zeta := false) only [keeps_mk_iff]
    | intro _
    | split

theorem keeps_passTable {a₀ : State} (s : State) (comps : List Nat) (hs : Keeps a₀ s) :
    Keeps a₀ (passTable s comps) := by
  unfold passTable
  repeat' first
    | with_reducible assumption
    | extract_lets
    | with_reducible apply keeps_updMgmt
    | with_reducible apply keeps_pldm
    | with_reducible apply keeps_ite
    | simp (zeta := false) only [keeps_mk_iff]
    | intro _
    | split

theorem keeps_askUpdate {a₀ : State} (s : State) (hs : Keeps a₀ s) :
    Keeps a₀ (askUpdate s) := by
  unfold askUpdate
  repeat' first
    | with_reducible assumption
    | with_reducible apply keeps_emit

theorem keeps_updateComponent {a₀ : State} (s : State) (c size : Nat) (hs : Keeps a₀ s) :
    Keeps a₀ (updateComponent s c size) := by
  unfold updateComponent
  repeat' first
    | with_reducible assumption
    | extract_lets
    | with_reducible apply keeps_askUpdate
    | with_reducible apply keeps_updMgmt
    | with_reducible apply keeps_pldm
    | with_reducible apply keeps_ite
    | simp (zeta := false) only [keeps_mk_iff]
    | intro _
    | split

theorem keeps_takeData {a₀ : State} (s : State) (n : Nat) (hs : Keeps a₀ s) :
    Keeps a₀ (takeData s n) := by
  unfold takeData
  repeat' first
    | with_reducible assumption
    | extract_lets
    | with_reducible apply keeps_askUpdate
    | with_reducible apply keeps_updMgmt
    | with_reducible apply keeps_emit
    | with_reducible apply keeps_ite
    | simp (zeta := false) only [keeps_mk_iff]
    | intro _
    | split

theorem keeps_verified {a₀ : State} (s : State) (x : FwCopy) (hs : Keeps a₀ s) :
    Keeps a₀ (verified s x) := by
  unfold verified
  repeat' first
    | with_reducible assumption
    | extract_lets
    | with_reducible apply keeps_updTarget
    | with_reducible apply keeps_updMgmt
    | with_reducible apply keeps_emit
    | with_reducible apply keeps_ite
    | simp (zeta := false) only [keeps_mk_iff]
    | intro _
    | split

theorem keeps_applied {a₀ : State} (s : State) (hs : Keeps a₀ s) :
    Keeps a₀ (applied s) := by
  unfold applied
  repeat' first
    | with_reducible assumption
    | extract_lets
    | with_reducible apply keeps_updTarget
    | with_reducible apply keeps_updMgmt
    | with_reducible apply keeps_emit
    | simp (zeta := false) only [keeps_mk_iff]
    | intro _

theorem keeps_updateOver {a₀ : State} (s : State) (hs : Keeps a₀ s) :
    Keeps a₀ (updateOver s) := by
  unfold updateOver
  repeat' first
    | with_reducible assumption
    | extract_lets
    | with_reducible apply keeps_updMgmt
    | with_reducible apply keeps_idle
    | simp (zeta := false) only [keeps_mk_iff]
    | intro _

theorem keeps_activate {a₀ : State} (s : State) (hs : Keeps a₀ s) :
    Keeps a₀ (activate s) := by
  unfold activate
  repeat' first
    | with_reducible assumption
    | extract_lets
    | with_reducible apply keeps_updateOver
    | with_reducible apply keeps_updTarget
    | with_reducible apply keeps_pldm
    | with_reducible apply keeps_ite
    | simp (zeta := false) only [keeps_mk_iff]
    | with_reducible apply keeps_foldl
    | intro _
    | split

theorem keeps_abandonUpdate {a₀ : State} (s : State) (hs : Keeps a₀ s) :
    Keeps a₀ (abandonUpdate s) := by
  unfold abandonUpdate
  repeat' first
    | with_reducible assumption
    | extract_lets
    | with_reducible apply keeps_updateOver
    | with_reducible apply keeps_updTarget
    | with_reducible apply keeps_ite
    | simp (zeta := false) only [keeps_mk_iff]
    | with_reducible apply keeps_foldl
    | intro _
    | split

theorem keeps_cancelUpdate {a₀ : State} (s : State) (hs : Keeps a₀ s) :
    Keeps a₀ (cancelUpdate s) := by
  unfold cancelUpdate
  repeat' first
    | with_reducible assumption
    | with_reducible apply keeps_abandonUpdate
    | with_reducible apply keeps_pldm
    | with_reducible apply keeps_idle
    | with_reducible apply keeps_ite
    | intro _
    | split

end Sys2Proof.Machine
end

