-- ==== Sys2Proof/Laws/KeepsExec.lean ====
section
/-! SUPPORT. A command's next state, and a step's, keeps the queue, the fuses once programmed and the memory's canonical form. -/

set_option linter.all false

namespace Sys2Proof.Machine

open Sys2Proof

/-- Every next state that an outcome names keeps what `Keeps` says. -/
def KeepsNext (s : State) (o : Host.Outcome State Fault Refusal) : Prop := ∀ t, o = .next t → Keeps s t

theorem keepsNext_refused {s : State} {r : Refusal} : KeepsNext s (.refused r) := fun _ h => nomatch h

theorem keepsNext_fault {s : State} {r : Fault} : KeepsNext s (.fault r) := fun _ h => nomatch h

theorem keepsNext_next {s t : State} (h : Keeps s t) : KeepsNext s (.next t) := fun _ k => by cases k; exact h

theorem keepsNext_done {s t : State} (h : Keeps s t) : KeepsNext s (done s t) := by
  unfold done
  exact keepsNext_next (keeps_ite (fun _ => keeps_refl s) fun _ => h)

theorem keepsNext_occurs {s t : State} {can : Bool} {what : String} (h : Keeps s t) : KeepsNext s (occurs s can what t) := by
  unfold occurs
  split
  · exact keepsNext_next h
  · exact keepsNext_refused

theorem keepsNext_occursAlways {s t : State} {can : Bool} {what : String} (h : Keeps s t) :
    KeepsNext s (occursAlways can what t) := by
  unfold occursAlways
  split
  · exact keepsNext_next h
  · exact keepsNext_refused

theorem keepsNext_managed {s t : State} (h : Keeps s t) : KeepsNext s (managed s t) := keepsNext_occursAlways h

theorem keepsNext_asked {s t : State} {conn : Nat} (h : Keeps s t) : KeepsNext s (asked s conn t) := keepsNext_occursAlways h

theorem keepsNext_tap {s t : State} {opcode : Nat} (h : Keeps s t) : KeepsNext s (tap s opcode t) :=
  keepsNext_occursAlways (keeps_tapped s opcode t h)

theorem keepsNext_runCmd {s : State} {f slot op : Nat} {body : State → List Byte → Ran}
    (h : ∀ t b, Keeps s t → Keeps s (body t b).1) : KeepsNext s (runCmd s f slot op body) :=
  keepsNext_occurs (keeps_startCmd s f slot body (keeps_refl s) h)

theorem keepsNext_runBegin {s : State} {f slot op : Nat} {pre : State → List Byte → State}
    (h : ∀ t b, Keeps s t → Keeps s (pre t b)) : KeepsNext s (runBegin s f slot op pre) :=
  keepsNext_occurs (keeps_beginCmd s f slot pre (keeps_refl s) h)

theorem keepsNext_runReserve {s : State} {f slot op : Nat} {body : State → List Byte → Ran}
    (h : ∀ t b, Keeps s t → Keeps s (body t b).1) : KeepsNext s (runReserve s f slot op body) :=
  keepsNext_occurs (keeps_reserveCmd s f slot body (keeps_refl s) h)

theorem keepsNext_returnAnswer {s : State} {tag : Nat} {src : Fin 5} {kind : OutTxn → Answer → Bool} :
    KeepsNext s (returnAnswer s tag src kind) := by
  unfold returnAnswer
  split
  · exact keepsNext_occurs (keeps_giveAnswer _ _ _ (keeps_refl s))
  · exact keepsNext_refused

theorem keepsNext_runControl {s : State} {f r typ : Nat} {act : State → ReqDesc → Nat → State}
    (h : ∀ t d i, Keeps s t → Keeps s (act t d i)) : KeepsNext s (runControl s f r typ act) := by
  unfold runControl
  extract_lets
  split
  · exact keepsNext_occurs (by apply keeps_control <;> first | exact keeps_refl s | (intro t i k; exact h _ _ _ k))
  · exact keepsNext_refused

theorem keepsNext_runStream {s : State} {f r typ : Nat} {act : Nat → Nat → StrDesc → State}
    (h : ∀ k i d, Keeps s (act k i d)) : KeepsNext s (runStream s f r typ act) := by
  unfold runStream
  extract_lets
  split
  · exact keepsNext_occurs (h _ _ _)
  · exact keepsNext_refused

theorem keepsNext_ite {s : State} {c : Prop} [Decidable c] {x y : Host.Outcome State Fault Refusal} (hx : c → KeepsNext s x)
    (hy : ¬c → KeepsNext s y) : KeepsNext s (if c then x else y) := by
  split
  · exact hx ‹_›
  · exact hy ‹_›

theorem keepsNext_execCardingLaneTake (lane f : Fin 16) (stream : Nat) (s : State) : KeepsNext s (execCardingLaneTake lane f stream s) := by
  unfold execCardingLaneTake
  repeat' first
    | with_reducible exact keeps_refl _
    | with_reducible assumption
    | with_reducible apply keepsNext_occurs
    | with_reducible apply keeps_takeIn
    | split
    | intro _

theorem keepsNext_execCardingChunk (lane : Fin 16) (read : HostRead) (s : State) : KeepsNext s (execCardingChunk lane read s) := by
  unfold execCardingChunk
  repeat' first
    | with_reducible exact keeps_refl _
    | with_reducible assumption
    | with_reducible apply keepsNext_occurs
    | with_reducible apply keeps_cardChunk
    | split
    | intro _

theorem keepsNext_execCarryStateSpill (lane : Fin 16) (s : State) : KeepsNext s (execCarryStateSpill lane s) := by
  unfold execCarryStateSpill
  repeat' first
    | with_reducible exact keeps_refl _
    | with_reducible assumption
    | extract_lets
    | with_reducible apply keepsNext_occurs
    | with_reducible apply keeps_freeLane
    | simp (zeta := false) only [keeps_mk_iff]
    | split
    | intro _

theorem keepsNext_execBintableStaged (handle : Nat) (s : State) : KeepsNext s (execBintableStaged handle s) := by
  unfold execBintableStaged
  repeat' first
    | with_reducible exact keeps_refl _
    | with_reducible assumption
    | with_reducible apply keepsNext_occurs
    | with_reducible apply keeps_stageTable
    | split
    | intro _

theorem keepsNext_execVocabImageReloaded (handle : Nat) (s : State) : KeepsNext s (execVocabImageReloaded handle s) := by
  unfold execVocabImageReloaded
  repeat' first
    | with_reducible exact keeps_refl _
    | with_reducible assumption
    | extract_lets
    | with_reducible apply keepsNext_occurs
    | with_reducible apply keepsNext_ite
    | with_reducible apply keeps_ite
    | simp (zeta := false) only [keeps_mk_iff]
    | split
    | intro _

theorem keepsNext_execFeltingLaneTake (lane : Fin 16) (ledger : Nat) (s : State) : KeepsNext s (execFeltingLaneTake lane ledger s) := by
  unfold execFeltingLaneTake
  repeat' first
    | with_reducible exact keeps_refl _
    | with_reducible assumption
    | with_reducible apply keepsNext_occurs
    | with_reducible apply keeps_feltTake
    | split
    | intro _

theorem keepsNext_execSlotWrite (f : Fin 16) (off width : Nat) (value : DWord) (s : State) : KeepsNext s (execSlotWrite f off width value s) := by
  unfold execSlotWrite
  repeat' first
    | with_reducible exact keeps_refl _
    | with_reducible assumption
    | with_reducible apply keepsNext_done
    | with_reducible apply keeps_slotWrite
    | split
    | intro _

theorem keepsNext_execDbMboxWrite (f : Fin 16) (value : Word) (s : State) : KeepsNext s (execDbMboxWrite f value s) := by
  unfold execDbMboxWrite
  repeat' first
    | with_reducible exact keeps_refl _
    | with_reducible assumption
    | with_reducible apply keepsNext_done
    | with_reducible apply keeps_mailboxDoorbell
    | split
    | intro _

theorem keepsNext_execPwrGoodInRise (smbAddr : BitVec 2) (s : State) : KeepsNext s (execPwrGoodInRise smbAddr s) := by
  unfold execPwrGoodInRise
  repeat' first
    | with_reducible exact keeps_refl _
    | with_reducible assumption
    | with_reducible apply keepsNext_occursAlways
    | with_reducible apply keeps_risePwr
    | split
    | intro _

theorem keepsNext_execPwrGoodInFall (s : State) : KeepsNext s (execPwrGoodInFall s) := by
  unfold execPwrGoodInFall
  repeat' first
    | with_reducible exact keeps_refl _
    | with_reducible assumption
    | with_reducible apply keepsNext_occursAlways
    | with_reducible apply keeps_fallPwr
    | split
    | intro _

theorem keepsNext_execPerstNAssert (s : State) : KeepsNext s (execPerstNAssert s) := by
  unfold execPerstNAssert
  repeat' first
    | with_reducible exact keeps_refl _
    | with_reducible assumption
    | with_reducible apply keepsNext_occursAlways
    | with_reducible apply keeps_assertPerst
    | with_reducible apply keeps_good
    | split
    | intro _

theorem keepsNext_execPerstNDeassert (straps : Straps) (early : Bool) (s : State) : KeepsNext s (execPerstNDeassert straps early s) := by
  unfold execPerstNDeassert
  repeat' first
    | with_reducible exact keeps_refl _
    | with_reducible assumption
    | with_reducible apply keepsNext_occursAlways
    | with_reducible apply keeps_deassertPerst
    | with_reducible apply keeps_good
    | split
    | intro _

theorem keepsNext_execPerstNDeassertionTaken (straps : Straps) (s : State) : KeepsNext s (execPerstNDeassertionTaken straps s) := by
  unfold execPerstNDeassertionTaken
  repeat' first
    | with_reducible exact keeps_refl _
    | with_reducible assumption
    | with_reducible apply keepsNext_occursAlways
    | with_reducible apply keeps_takeDeassertion
    | split
    | intro _

theorem keepsNext_execHotReset (dlDown : Bool) (s : State) : KeepsNext s (execHotReset dlDown s) := by
  unfold execHotReset
  repeat' first
    | with_reducible exact keeps_refl _
    | with_reducible assumption
    | with_reducible apply keepsNext_occurs
    | with_reducible apply keeps_hotReset
    | split
    | intro _

theorem keepsNext_execRailFault (rail : Rail) (s : State) : KeepsNext s (execRailFault rail s) := by
  unfold execRailFault
  repeat' first
    | with_reducible exact keeps_refl _
    | with_reducible assumption
    | with_reducible apply keepsNext_occursAlways
    | with_reducible apply keeps_railFault
    | with_reducible apply keeps_good
    | split
    | intro _

theorem keepsNext_execRailReturn (s : State) : KeepsNext s (execRailReturn s) := by
  unfold execRailReturn
  repeat' first
    | with_reducible exact keeps_refl _
    | with_reducible assumption
    | with_reducible apply keepsNext_occursAlways
    | with_reducible apply keeps_risePwr
    | split
    | intro _

theorem keepsNext_execRefclkLoss (s : State) : KeepsNext s (execRefclkLoss s) := by
  unfold execRefclkLoss
  repeat' first
    | with_reducible exact keeps_refl _
    | with_reducible assumption
    | extract_lets
    | with_reducible apply keepsNext_occurs
    | with_reducible apply keeps_deviceFatal
    | simp (zeta := false) only [keeps_mk_iff]
    | split
    | intro _

theorem keepsNext_execCrestPllLoss (d : Fin 4) (s : State) : KeepsNext s (execCrestPllLoss d s) := by
  unfold execCrestPllLoss
  repeat' first
    | with_reducible exact keeps_refl _
    | with_reducible assumption
    | with_reducible apply keepsNext_occurs
    | with_reducible apply keeps_dieClockLost
    | split
    | intro _

theorem keepsNext_execCrestRootPllLock (d : Fin 4) (s : State) : KeepsNext s (execCrestRootPllLock d s) := by
  unfold execCrestRootPllLock
  repeat' first
    | with_reducible exact keeps_refl _
    | with_reducible assumption
    | with_reducible apply keepsNext_occurs
    | with_reducible apply keeps_lockCrest
    | split
    | intro _

theorem keepsNext_execHarbourPllLock (s : State) : KeepsNext s (execHarbourPllLock s) := by
  unfold execHarbourPllLock
  repeat' first
    | with_reducible exact keeps_refl _
    | with_reducible assumption
    | extract_lets
    | with_reducible apply keepsNext_occurs
    | with_reducible apply keeps_stage
    | with_reducible apply keeps_setStage
    | simp (zeta := false) only [keeps_mk_iff]
    | split
    | intro _

theorem keepsNext_execHarbourPllTimeout (s : State) : KeepsNext s (execHarbourPllTimeout s) := by
  unfold execHarbourPllTimeout
  repeat' first
    | with_reducible exact keeps_refl _
    | with_reducible assumption
    | with_reducible apply keepsNext_occurs
    | with_reducible apply keeps_stage
    | with_reducible apply keeps_deviceFatal
    | split
    | intro _

theorem keepsNext_execFwVerifyDone (s : State) : KeepsNext s (execFwVerifyDone s) := by
  unfold execFwVerifyDone
  repeat' first
    | with_reducible exact keeps_refl _
    | with_reducible assumption
    | with_reducible apply keepsNext_occurs
    | with_reducible apply keeps_stage
    | with_reducible apply keeps_verifyFw
    | split
    | intro _

theorem keepsNext_execConfigSpaceReady (s : State) : KeepsNext s (execConfigSpaceReady s) := by
  unfold execConfigSpaceReady
  repeat' first
    | with_reducible exact keeps_refl _
    | with_reducible assumption
    | extract_lets
    | with_reducible apply keepsNext_occurs
    | simp (zeta := false) only [keeps_mk_iff]
    | split
    | intro _

theorem keepsNext_execRollCallStart (s : State) : KeepsNext s (execRollCallStart s) := by
  unfold execRollCallStart
  repeat' first
    | with_reducible exact keeps_refl _
    | with_reducible assumption
    | extract_lets
    | with_reducible apply keepsNext_occurs
    | with_reducible apply keeps_stage
    | with_reducible apply keeps_setStage
    | simp (zeta := false) only [keeps_mk_iff]
    | split
    | intro _

theorem keepsNext_execRollCallAnswer (port : Fin 4) (s : State) : KeepsNext s (execRollCallAnswer port s) := by
  unfold execRollCallAnswer
  repeat' first
    | with_reducible exact keeps_refl _
    | with_reducible assumption
    | with_reducible apply keepsNext_occurs
    | with_reducible apply keeps_answer
    | split
    | intro _

theorem keepsNext_execRollCallSilent (port : Fin 4) (s : State) : KeepsNext s (execRollCallSilent port s) := by
  unfold execRollCallSilent
  repeat' first
    | with_reducible exact keeps_refl _
    | with_reducible assumption
    | with_reducible apply keepsNext_occurs
    | with_reducible apply keeps_silentPort
    | split
    | intro _

theorem keepsNext_execNeighbourExchange (l : Fin 4) (atFirst : Bool) (pos : BitVec 2) (s : State) : KeepsNext s (execNeighbourExchange l atFirst pos s) := by
  unfold execNeighbourExchange
  repeat' first
    | with_reducible exact keeps_refl _
    | with_reducible assumption
    | with_reducible apply keepsNext_occurs
    | with_reducible apply keeps_exchange
    | split
    | intro _

theorem keepsNext_execNeighbourExchangeTimeout (l : Fin 4) (s : State) : KeepsNext s (execNeighbourExchangeTimeout l s) := by
  unfold execNeighbourExchangeTimeout
  repeat' first
    | with_reducible exact keeps_refl _
    | with_reducible assumption
    | with_reducible apply keepsNext_occurs
    | with_reducible apply keeps_exchangeTimeout
    | split
    | intro _

theorem keepsNext_execAvsFrameAck (d : Fin 4) (s : State) : KeepsNext s (execAvsFrameAck d s) := by
  unfold execAvsFrameAck
  repeat' first
    | with_reducible exact keeps_refl _
    | with_reducible assumption
    | with_reducible apply keepsNext_occurs
    | with_reducible apply keeps_avsAck
    | split
    | intro _

theorem keepsNext_execAvsStepSettled (d : Fin 4) (s : State) : KeepsNext s (execAvsStepSettled d s) := by
  unfold execAvsStepSettled
  repeat' first
    | with_reducible exact keeps_refl _
    | with_reducible assumption
    | with_reducible apply keepsNext_occurs
    | with_reducible apply keeps_avsSettled
    | split
    | intro _

theorem keepsNext_execAvsNoAck (d : Fin 4) (s : State) : KeepsNext s (execAvsNoAck d s) := by
  unfold execAvsNoAck
  repeat' first
    | with_reducible exact keeps_refl _
    | with_reducible assumption
    | with_reducible apply keepsNext_occurs
    | with_reducible apply keeps_avsFails
    | split
    | intro _

theorem keepsNext_execDieFwLoaded (d : Fin 4) (ok : Bool) (s : State) : KeepsNext s (execDieFwLoaded d ok s) := by
  unfold execDieFwLoaded
  repeat' first
    | with_reducible exact keeps_refl _
    | with_reducible assumption
    | with_reducible apply keepsNext_occurs
    | with_reducible apply keeps_stage
    | with_reducible apply keeps_dieFwLoaded
    | split
    | intro _

theorem keepsNext_execSelfCalDone (s : State) : KeepsNext s (execSelfCalDone s) := by
  unfold execSelfCalDone
  repeat' first
    | with_reducible exact keeps_refl _
    | with_reducible assumption
    | with_reducible apply keepsNext_occurs
    | with_reducible apply keeps_stage
    | with_reducible apply keeps_selfCalDone
    | with_reducible apply keeps_running
    | split
    | intro _

theorem keepsNext_execMemTrainingDone (c : Fin 20) (ok : Bool) (s : State) : KeepsNext s (execMemTrainingDone c ok s) := by
  unfold execMemTrainingDone
  repeat' first
    | with_reducible exact keeps_refl _
    | with_reducible assumption
    | with_reducible apply keepsNext_occurs
    | with_reducible apply keeps_trained
    | with_reducible apply keeps_stage
    | with_reducible apply keeps_trainingDone
    | split
    | intro _

theorem keepsNext_execMemoryInitDone (report : InitReport) (s : State) : KeepsNext s (execMemoryInitDone report s) := by
  unfold execMemoryInitDone
  repeat' first
    | with_reducible exact keeps_refl _
    | with_reducible assumption
    | with_reducible apply keepsNext_occurs
    | with_reducible apply keeps_stage
    | with_reducible apply keeps_memInit
    | split
    | intro _

theorem keepsNext_execReadySet (s : State) : KeepsNext s (execReadySet s) := by
  unfold execReadySet
  repeat' first
    | with_reducible exact keeps_refl _
    | with_reducible assumption
    | with_reducible apply keepsNext_occurs
    | with_reducible apply keeps_stage
    | with_reducible apply keeps_setReady
    | split
    | intro _

theorem keepsNext_execBootTimeout (s : State) : KeepsNext s (execBootTimeout s) := by
  unfold execBootTimeout
  repeat' first
    | with_reducible exact keeps_refl _
    | with_reducible assumption
    | with_reducible apply keepsNext_occurs
    | with_reducible apply keeps_stage
    | with_reducible apply keeps_running
    | with_reducible apply keeps_deviceFatal
    | split
    | intro _

theorem keepsNext_execMsixUnmask (f : Fin 16) (v : Fin 64) (s : State) : KeepsNext s (execMsixUnmask f v s) := by
  unfold execMsixUnmask
  repeat' first
    | with_reducible exact keeps_refl _
    | with_reducible assumption
    | with_reducible apply keepsNext_done
    | with_reducible apply keeps_unmask
    | split
    | intro _

theorem keepsNext_execDeviceInfo (f : Fin 16) (slot : Fin 32) (s : State) : KeepsNext s (execDeviceInfo f slot s) := by
  unfold execDeviceInfo
  repeat' first
    | with_reducible exact keeps_refl _
    | with_reducible assumption
    | with_reducible apply keepsNext_occurs
    | with_reducible apply keeps_hwComplete
    | split
    | intro _

theorem keepsNext_execDiagBootlog (f : Fin 16) (slot : Fin 32) (s : State) : KeepsNext s (execDiagBootlog f slot s) := by
  unfold execDiagBootlog
  repeat' first
    | with_reducible exact keeps_refl _
    | with_reducible assumption
    | with_reducible apply keepsNext_occurs
    | with_reducible apply keeps_hwComplete
    | split
    | intro _

theorem keepsNext_execFunctionOpen (f : Fin 16) (slot : Fin 32) (s : State) : KeepsNext s (execFunctionOpen f slot s) := by
  unfold execFunctionOpen
  repeat' first
    | with_reducible exact keeps_refl _
    | with_reducible assumption
    | with_reducible apply keepsNext_runBegin
    | split
    | intro _

theorem keepsNext_execFunctionClose (f : Fin 16) (slot : Fin 32) (s : State) : KeepsNext s (execFunctionClose f slot s) := by
  unfold execFunctionClose
  repeat' first
    | with_reducible exact keeps_refl _
    | with_reducible assumption
    | with_reducible apply keepsNext_runBegin
    | split
    | intro _

theorem keepsNext_execEngineEnable (f : Fin 16) (slot : Fin 32) (s : State) : KeepsNext s (execEngineEnable f slot s) := by
  unfold execEngineEnable
  repeat' first
    | with_reducible exact keeps_refl _
    | with_reducible assumption
    | with_reducible apply keepsNext_runBegin
    | with_reducible apply keeps_engineStops
    | split
    | intro _

theorem keepsNext_execRegionCreate (f : Fin 16) (slot : Fin 32) (s : State) : KeepsNext s (execRegionCreate f slot s) := by
  unfold execRegionCreate
  repeat' first
    | with_reducible exact keeps_refl _
    | with_reducible assumption
    | with_reducible apply keepsNext_runReserve
    | with_reducible apply keeps_regionCreate
    | split
    | intro _

theorem keepsNext_execRegionDestroy (f : Fin 16) (slot : Fin 32) (s : State) : KeepsNext s (execRegionDestroy f slot s) := by
  unfold execRegionDestroy
  repeat' first
    | with_reducible exact keeps_refl _
    | with_reducible assumption
    | with_reducible apply keepsNext_runBegin
    | split
    | intro _

theorem keepsNext_execBar2WindowSet (f : Fin 16) (slot : Fin 32) (s : State) : KeepsNext s (execBar2WindowSet f slot s) := by
  unfold execBar2WindowSet
  repeat' first
    | with_reducible exact keeps_refl _
    | with_reducible assumption
    | with_reducible apply keepsNext_runBegin
    | split
    | intro _

theorem keepsNext_execModelLoad (f : Fin 16) (slot : Fin 32) (read : HostRead) (image : ModelImage) (s : State) : KeepsNext s (execModelLoad f slot read image s) := by
  unfold execModelLoad
  repeat' first
    | with_reducible exact keeps_refl _
    | with_reducible assumption
    | with_reducible apply keepsNext_runReserve
    | with_reducible apply keeps_modelLoad
    | split
    | intro _

theorem keepsNext_execModelUnload (f : Fin 16) (slot : Fin 32) (s : State) : KeepsNext s (execModelUnload f slot s) := by
  unfold execModelUnload
  repeat' first
    | with_reducible exact keeps_refl _
    | with_reducible assumption
    | with_reducible apply keepsNext_runBegin
    | split
    | intro _

theorem keepsNext_execModelInfo (f : Fin 16) (slot : Fin 32) (s : State) : KeepsNext s (execModelInfo f slot s) := by
  unfold execModelInfo
  repeat' first
    | with_reducible exact keeps_refl _
    | with_reducible assumption
    | with_reducible apply keepsNext_runBegin
    | split
    | intro _

theorem keepsNext_execVocabLoad (f : Fin 16) (slot : Fin 32) (read : HostRead) (s : State) : KeepsNext s (execVocabLoad f slot read s) := by
  unfold execVocabLoad
  repeat' first
    | with_reducible exact keeps_refl _
    | with_reducible assumption
    | with_reducible apply keepsNext_runReserve
    | with_reducible apply keeps_vocabLoad
    | split
    | intro _

theorem keepsNext_execVocabUnload (f : Fin 16) (slot : Fin 32) (s : State) : KeepsNext s (execVocabUnload f slot s) := by
  unfold execVocabUnload
  repeat' first
    | with_reducible exact keeps_refl _
    | with_reducible assumption
    | with_reducible apply keepsNext_runBegin
    | split
    | intro _

theorem keepsNext_execBintableLoad (f : Fin 16) (slot : Fin 32) (read : HostRead) (s : State) : KeepsNext s (execBintableLoad f slot read s) := by
  unfold execBintableLoad
  repeat' first
    | with_reducible exact keeps_refl _
    | with_reducible assumption
    | with_reducible apply keepsNext_runReserve
    | with_reducible apply keeps_bintableLoad
    | split
    | intro _

theorem keepsNext_execBintableUnload (f : Fin 16) (slot : Fin 32) (s : State) : KeepsNext s (execBintableUnload f slot s) := by
  unfold execBintableUnload
  repeat' first
    | with_reducible exact keeps_refl _
    | with_reducible assumption
    | with_reducible apply keepsNext_runBegin
    | split
    | intro _

theorem keepsNext_execGrammarLoad (f : Fin 16) (slot : Fin 32) (read : HostRead) (image : GrammarImage) (s : State) : KeepsNext s (execGrammarLoad f slot read image s) := by
  unfold execGrammarLoad
  repeat' first
    | with_reducible exact keeps_refl _
    | with_reducible assumption
    | with_reducible apply keepsNext_runReserve
    | with_reducible apply keeps_grammarLoad
    | split
    | intro _

theorem keepsNext_execGrammarUnload (f : Fin 16) (slot : Fin 32) (s : State) : KeepsNext s (execGrammarUnload f slot s) := by
  unfold execGrammarUnload
  repeat' first
    | with_reducible exact keeps_refl _
    | with_reducible assumption
    | with_reducible apply keepsNext_runBegin
    | split
    | intro _

theorem keepsNext_execConfigStage (f : Fin 16) (slot : Fin 32) (read : HostRead) (s : State) : KeepsNext s (execConfigStage f slot read s) := by
  unfold execConfigStage
  repeat' first
    | with_reducible exact keeps_refl _
    | with_reducible assumption
    | extract_lets
    | with_reducible apply keepsNext_occurs
    | with_reducible apply keeps_stageBegin
    | with_reducible apply keeps_beginCmd
    | with_reducible apply keeps_updCmd
    | simp (zeta := false) only [keeps_mk_iff]
    | split
    | intro _

theorem keepsNext_execConfigRead (f : Fin 16) (slot : Fin 32) (s : State) : KeepsNext s (execConfigRead f slot s) := by
  unfold execConfigRead
  repeat' first
    | with_reducible exact keeps_refl _
    | with_reducible assumption
    | with_reducible apply keepsNext_runBegin
    | split
    | intro _

theorem keepsNext_execCommitConfig (f : Fin 16) (slot : Fin 32) (s : State) : KeepsNext s (execCommitConfig f slot s) := by
  unfold execCommitConfig
  repeat' first
    | with_reducible exact keeps_refl _
    | with_reducible assumption
    | with_reducible apply keepsNext_runBegin
    | split
    | intro _

theorem keepsNext_execConfigDiscard (f : Fin 16) (slot : Fin 32) (s : State) : KeepsNext s (execConfigDiscard f slot s) := by
  unfold execConfigDiscard
  repeat' first
    | with_reducible exact keeps_refl _
    | with_reducible assumption
    | with_reducible apply keepsNext_runBegin
    | split
    | intro _

theorem keepsNext_execEnergyLimitSet (f : Fin 16) (slot : Fin 32) (s : State) : KeepsNext s (execEnergyLimitSet f slot s) := by
  unfold execEnergyLimitSet
  repeat' first
    | with_reducible exact keeps_refl _
    | with_reducible assumption
    | with_reducible apply keepsNext_runBegin
    | split
    | intro _

theorem keepsNext_execEnergyReport (f : Fin 16) (slot : Fin 32) (s : State) : KeepsNext s (execEnergyReport f slot s) := by
  unfold execEnergyReport
  repeat' first
    | with_reducible exact keeps_refl _
    | with_reducible assumption
    | with_reducible apply keepsNext_runBegin
    | split
    | intro _

theorem keepsNext_execBooksAudit (f : Fin 16) (slot : Fin 32) (s : State) : KeepsNext s (execBooksAudit f slot s) := by
  unfold execBooksAudit
  repeat' first
    | with_reducible exact keeps_refl _
    | with_reducible assumption
    | with_reducible apply keepsNext_runCmd
    | with_reducible apply keeps_booksAudit
    | split
    | intro _

theorem keepsNext_execErrlogRead (f : Fin 16) (slot : Fin 32) (s : State) : KeepsNext s (execErrlogRead f slot s) := by
  unfold execErrlogRead
  repeat' first
    | with_reducible exact keeps_refl _
    | with_reducible assumption
    | with_reducible apply keepsNext_runBegin
    | split
    | intro _

theorem keepsNext_execPageWalkDone (die : Fin 5) (asid dva : Nat) (write : Bool) (work : WalkWork) (s : State) : KeepsNext s (execPageWalkDone die asid dva write work s) := by
  unfold execPageWalkDone
  repeat' first
    | with_reducible exact keeps_refl _
    | with_reducible assumption
    | with_reducible apply keepsNext_occurs
    | with_reducible apply keeps_walkDone
    | split
    | intro _

theorem keepsNext_execTablePageRebuilt (asid dva : Nat) (s : State) : KeepsNext s (execTablePageRebuilt asid dva s) := by
  unfold execTablePageRebuilt
  repeat' first
    | with_reducible exact keeps_refl _
    | with_reducible assumption
    | extract_lets
    | with_reducible apply keepsNext_occurs
    | with_reducible apply keeps_rebuildTables
    | simp (zeta := false) only [keeps_mk_iff]
    | split
    | intro _

theorem keepsNext_execAbsentFaultServiced (asid dva : Nat) (s : State) : KeepsNext s (execAbsentFaultServiced asid dva s) := by
  unfold execAbsentFaultServiced
  repeat' first
    | with_reducible exact keeps_refl _
    | with_reducible assumption
    | extract_lets
    | with_reducible apply keepsNext_occurs
    | exact keepsNext_refused
    | with_reducible apply keeps_refused
    | with_reducible apply keeps_serveAbsent
    | simp (zeta := false) only [keeps_mk_iff]
    | split
    | intro _

theorem keepsNext_execTidepoolFaultServiced (asid dva : Nat) (s : State) : KeepsNext s (execTidepoolFaultServiced asid dva s) := by
  unfold execTidepoolFaultServiced
  repeat' first
    | with_reducible exact keeps_refl _
    | with_reducible assumption
    | extract_lets
    | with_reducible apply keepsNext_occurs
    | exact keepsNext_refused
    | with_reducible apply keeps_refused
    | with_reducible apply keeps_servePooled
    | simp (zeta := false) only [keeps_mk_iff]
    | split
    | intro _

theorem keepsNext_execTidepoolFaultPageFreed (asid dva : Nat) (s : State) : KeepsNext s (execTidepoolFaultPageFreed asid dva s) := by
  unfold execTidepoolFaultPageFreed
  repeat' first
    | with_reducible exact keeps_refl _
    | with_reducible assumption
    | extract_lets
    | with_reducible apply keepsNext_occurs
    | exact keepsNext_refused
    | with_reducible apply keeps_refused
    | with_reducible apply keeps_updFault
    | simp (zeta := false) only [keeps_mk_iff]
    | split
    | intro _

theorem keepsNext_execStepFaultWaitTimeout (step ledger : Nat) (s : State) : KeepsNext s (execStepFaultWaitTimeout step ledger s) := by
  unfold execStepFaultWaitTimeout
  repeat' first
    | with_reducible exact keeps_refl _
    | with_reducible assumption
    | extract_lets
    | with_reducible apply keepsNext_occurs
    | with_reducible apply keeps_leaveStep
    | with_reducible apply keeps_updEntX
    | simp (zeta := false) only [keeps_mk_iff]
    | split
    | intro _

theorem keepsNext_execPreemptFaultWaitTimeout (asid dva : Nat) (s : State) : KeepsNext s (execPreemptFaultWaitTimeout asid dva s) := by
  unfold execPreemptFaultWaitTimeout
  repeat' first
    | with_reducible exact keeps_refl _
    | with_reducible assumption
    | extract_lets
    | with_reducible apply keepsNext_occurs
    | exact keepsNext_refused
    | exact keepsNext_fault
    | with_reducible apply keeps_refused
    | with_reducible apply keeps_abandon
    | simp (zeta := false) only [keeps_mk_iff]
    | split
    | intro _

theorem keepsNext_execShootdown (asid dva : Nat) (s : State) : KeepsNext s (execShootdown asid dva s) := by
  unfold execShootdown
  repeat' first
    | with_reducible exact keeps_refl _
    | with_reducible assumption
    | with_reducible apply keepsNext_done
    | with_reducible apply keeps_shoot
    | split
    | intro _

theorem keepsNext_execShootdownComplete (asid dva : Nat) (s : State) : KeepsNext s (execShootdownComplete asid dva s) := by
  unfold execShootdownComplete
  repeat' first
    | with_reducible exact keeps_refl _
    | with_reducible assumption
    | extract_lets
    | with_reducible apply keepsNext_occurs
    | with_reducible apply keeps_shoot
    | simp (zeta := false) only [keeps_mk_iff]
    | split
    | intro _

theorem keepsNext_execHoldStepTimeout (s : State) : KeepsNext s (execHoldStepTimeout s) := by
  unfold execHoldStepTimeout
  repeat' first
    | with_reducible exact keeps_refl _
    | with_reducible assumption
    | extract_lets
    | with_reducible apply keepsNext_occurs
    | with_reducible apply keeps_elapse
    | with_reducible apply keeps_updStep
    | simp (zeta := false) only [keeps_mk_iff]
    | with_reducible apply keeps_foldl
    | split
    | intro _

theorem keepsNext_execSlackTideStart (found : List LaneTest) (s : State) : KeepsNext s (execSlackTideStart found s) := by
  unfold execSlackTideStart
  repeat' first
    | with_reducible exact keeps_refl _
    | with_reducible assumption
    | with_reducible apply keepsNext_occurs
    | with_reducible apply keeps_slackStart
    | split
    | intro _

theorem keepsNext_execSlackTideEnd (durationUs : Nat) (s : State) : KeepsNext s (execSlackTideEnd durationUs s) := by
  unfold execSlackTideEnd
  repeat' first
    | with_reducible exact keeps_refl _
    | with_reducible assumption
    | with_reducible apply keepsNext_occurs
    | with_reducible apply keeps_slackEnd
    | split
    | intro _

theorem keepsNext_execGroupMovePrepared (model : Nat) (ok : Bool) (s : State) : KeepsNext s (execGroupMovePrepared model ok s) := by
  unfold execGroupMovePrepared
  repeat' first
    | with_reducible exact keeps_refl _
    | with_reducible assumption
    | with_reducible apply keepsNext_occurs
    | with_reducible apply keeps_movePrepared
    | split
    | intro _

theorem keepsNext_execCpWatchdogExpiry (s : State) : KeepsNext s (execCpWatchdogExpiry s) := by
  unfold execCpWatchdogExpiry
  repeat' first
    | with_reducible exact keeps_refl _
    | with_reducible assumption
    | with_reducible apply keepsNext_occurs
    | with_reducible apply keeps_watchdog
    | with_reducible apply keeps_stage
    | split
    | intro _

theorem keepsNext_execControlCoreFault (s : State) : KeepsNext s (execControlCoreFault s) := by
  unfold execControlCoreFault
  repeat' first
    | with_reducible exact keeps_refl _
    | with_reducible assumption
    | with_reducible apply keepsNext_occurs
    | with_reducible apply keeps_startRestart
    | split
    | intro _

theorem keepsNext_execCpRestartEnd (s : State) : KeepsNext s (execCpRestartEnd s) := by
  unfold execCpRestartEnd
  repeat' first
    | with_reducible exact keeps_refl _
    | with_reducible assumption
    | with_reducible apply keepsNext_occurs
    | with_reducible apply keeps_endRestart
    | split
    | intro _

theorem keepsNext_execCpRestartTimeout (badFw : Bool) (s : State) : KeepsNext s (execCpRestartTimeout badFw s) := by
  unfold execCpRestartTimeout
  repeat' first
    | with_reducible exact keeps_refl _
    | with_reducible assumption
    | with_reducible apply keepsNext_occurs
    | with_reducible apply keepsNext_ite
    | with_reducible apply keeps_deviceFatal
    | with_reducible apply keeps_ite
    | split
    | intro _

theorem keepsNext_execDieManagerWatchdog (d : Fin 4) (s : State) : KeepsNext s (execDieManagerWatchdog d s) := by
  unfold execDieManagerWatchdog
  repeat' first
    | with_reducible exact keeps_refl _
    | with_reducible assumption
    | extract_lets
    | with_reducible apply keepsNext_occurs
    | with_reducible apply keeps_updDie
    | simp (zeta := false) only [keeps_mk_iff]
    | split
    | intro _

theorem keepsNext_execDieManagerRestartDone (d : Fin 4) (ok : Bool) (s : State) : KeepsNext s (execDieManagerRestartDone d ok s) := by
  unfold execDieManagerRestartDone
  repeat' first
    | with_reducible exact keeps_refl _
    | with_reducible assumption
    | with_reducible apply keepsNext_occurs
    | with_reducible apply keeps_managerDone
    | split
    | intro _

theorem keepsNext_execDemandRead (addr : Nat) (ecc : EccSeen) (by_ : Consumer) (s : State) : KeepsNext s (execDemandRead addr ecc by_ s) := by
  unfold execDemandRead
  repeat' first
    | with_reducible exact keeps_refl _
    | with_reducible assumption
    | with_reducible apply keepsNext_done
    | exact keepsNext_fault
    | with_reducible apply keepsNext_ite
    | with_reducible apply keeps_demandRead
    | with_reducible apply keeps_ite
    | split
    | intro _

theorem keepsNext_execFullWrite (addr : Nat) (data : List Byte) (s : State) : KeepsNext s (execFullWrite addr data s) := by
  unfold execFullWrite
  repeat' first
    | with_reducible exact keeps_refl _
    | with_reducible assumption
    | with_reducible apply keepsNext_occurs
    | exact keepsNext_fault
    | with_reducible apply keepsNext_ite
    | with_reducible apply keeps_fullWrite
    | with_reducible apply keeps_ite
    | split
    | intro _

theorem keepsNext_execPartialWrite (addr : Nat) (data : List Byte) (ecc : EccSeen) (by_ : Writer) (s : State) : KeepsNext s (execPartialWrite addr data ecc by_ s) := by
  unfold execPartialWrite
  repeat' first
    | with_reducible exact keeps_refl _
    | with_reducible assumption
    | with_reducible apply keepsNext_occurs
    | exact keepsNext_fault
    | with_reducible apply keepsNext_ite
    | with_reducible apply keeps_partialWrite
    | with_reducible apply keeps_ite
    | split
    | intro _

theorem keepsNext_execPatrolRead (c : Fin 25) (ecc : EccSeen) (s : State) : KeepsNext s (execPatrolRead c ecc s) := by
  unfold execPatrolRead
  repeat' first
    | with_reducible exact keeps_refl _
    | with_reducible assumption
    | with_reducible apply keepsNext_occurs
    | with_reducible apply keeps_patrolRead
    | split
    | intro _

theorem keepsNext_execMigrationDone (page : Nat) (s : State) : KeepsNext s (execMigrationDone page s) := by
  unfold execMigrationDone
  repeat' first
    | with_reducible exact keeps_refl _
    | with_reducible assumption
    | extract_lets
    | with_reducible apply keepsNext_occurs
    | exact keepsNext_refused
    | with_reducible apply keeps_migrationDone
    | with_reducible apply keeps_refused
    | simp (zeta := false) only [keeps_mk_iff]
    | split
    | intro _

theorem keepsNext_execCeCountRetire (page : Nat) (s : State) : KeepsNext s (execCeCountRetire page s) := by
  unfold execCeCountRetire
  repeat' first
    | with_reducible exact keeps_refl _
    | with_reducible assumption
    | extract_lets
    | with_reducible apply keepsNext_occurs
    | with_reducible apply keeps_ceRetire
    | split
    | intro _

theorem keepsNext_execPageZeroed (page : Nat) (s : State) : KeepsNext s (execPageZeroed page s) := by
  unfold execPageZeroed
  repeat' first
    | with_reducible exact keeps_refl _
    | with_reducible assumption
    | with_reducible apply keepsNext_occurs
    | with_reducible apply keeps_pageZeroed
    | split
    | intro _

theorem keepsNext_execPoisonDisposition (addr source : Nat) (s : State) : KeepsNext s (execPoisonDisposition addr source s) := by
  unfold execPoisonDisposition
  repeat' first
    | with_reducible exact keeps_refl _
    | with_reducible assumption
    | extract_lets
    | with_reducible apply keepsNext_occurs
    | with_reducible apply keeps_dispose
    | split
    | intro _

theorem keepsNext_execRequestQuery (f : Fin 16) (slot : Fin 32) (s : State) : KeepsNext s (execRequestQuery f slot s) := by
  unfold execRequestQuery
  repeat' first
    | with_reducible exact keeps_refl _
    | with_reducible assumption
    | with_reducible apply keepsNext_runBegin
    | split
    | intro _

theorem keepsNext_execRingOpen (f : Fin 16) (slot : Fin 32) (s : State) : KeepsNext s (execRingOpen f slot s) := by
  unfold execRingOpen
  repeat' first
    | with_reducible exact keeps_refl _
    | with_reducible assumption
    | with_reducible apply keepsNext_runBegin
    | split
    | intro _

theorem keepsNext_execRingClose (f : Fin 16) (slot : Fin 32) (s : State) : KeepsNext s (execRingClose f slot s) := by
  unfold execRingClose
  repeat' first
    | with_reducible exact keeps_refl _
    | with_reducible assumption
    | with_reducible apply keepsNext_runBegin
    | split
    | intro _

theorem keepsNext_execStreamOpen (f : Fin 16) (slot : Fin 32) (s : State) : KeepsNext s (execStreamOpen f slot s) := by
  unfold execStreamOpen
  repeat' first
    | with_reducible exact keeps_refl _
    | with_reducible assumption
    | with_reducible apply keepsNext_runBegin
    | split
    | intro _

theorem keepsNext_execStreamClose (f : Fin 16) (slot : Fin 32) (s : State) : KeepsNext s (execStreamClose f slot s) := by
  unfold execStreamClose
  repeat' first
    | with_reducible exact keeps_refl _
    | with_reducible assumption
    | with_reducible apply keepsNext_runBegin
    | split
    | intro _

theorem keepsNext_execBmeClear (f : Fin 16) (s : State) : KeepsNext s (execBmeClear f s) := by
  unfold execBmeClear
  repeat' first
    | with_reducible exact keeps_refl _
    | with_reducible assumption
    | with_reducible apply keepsNext_done
    | with_reducible apply keeps_bmeClear
    | split
    | intro _

theorem keepsNext_execBmeSet (f : Fin 16) (s : State) : KeepsNext s (execBmeSet f s) := by
  unfold execBmeSet
  repeat' first
    | with_reducible exact keeps_refl _
    | with_reducible assumption
    | with_reducible apply keepsNext_done
    | with_reducible apply keeps_bmeSet
    | split
    | intro _

theorem keepsNext_execD3hotEntry (f : Fin 16) (s : State) : KeepsNext s (execD3hotEntry f s) := by
  unfold execD3hotEntry
  repeat' first
    | with_reducible exact keeps_refl _
    | with_reducible assumption
    | with_reducible apply keepsNext_done
    | with_reducible apply keeps_d3hotEntry
    | split
    | intro _

theorem keepsNext_execInitiateFlr (f : Fin 16) (s : State) : KeepsNext s (execInitiateFlr f s) := by
  unfold execInitiateFlr
  repeat' first
    | with_reducible exact keeps_refl _
    | with_reducible assumption
    | with_reducible apply keepsNext_done
    | with_reducible apply keeps_initiateFlr
    | split
    | intro _

theorem keepsNext_execFlrComplete (f : Fin 16) (s : State) : KeepsNext s (execFlrComplete f s) := by
  unfold execFlrComplete
  repeat' first
    | with_reducible exact keeps_refl _
    | with_reducible assumption
    | with_reducible apply keepsNext_occurs
    | with_reducible apply keeps_flrEnd
    | split
    | intro _

theorem keepsNext_execVfEnableClear (s : State) : KeepsNext s (execVfEnableClear s) := by
  unfold execVfEnableClear
  repeat' first
    | with_reducible exact keeps_refl _
    | with_reducible assumption
    | with_reducible apply keepsNext_done
    | with_reducible apply keeps_vfClear
    | split
    | intro _

theorem keepsNext_execVfEnableSet (numVfs : Nat) (s : State) : KeepsNext s (execVfEnableSet numVfs s) := by
  unfold execVfEnableSet
  repeat' first
    | with_reducible exact keeps_refl _
    | with_reducible assumption
    | with_reducible apply keepsNext_done
    | with_reducible apply keeps_vfSet
    | split
    | intro _

theorem keepsNext_execD0Return (f : Fin 16) (s : State) : KeepsNext s (execD0Return f s) := by
  unfold execD0Return
  repeat' first
    | with_reducible exact keeps_refl _
    | with_reducible assumption
    | with_reducible apply keepsNext_done
    | with_reducible apply keeps_d0Return
    | split
    | intro _

theorem keepsNext_execCompletionReceived (f : Fin 16) (tag : Nat) (st : CplStatus) (s : State) : KeepsNext s (execCompletionReceived f tag st s) := by
  unfold execCompletionReceived
  repeat' first
    | with_reducible exact keeps_refl _
    | with_reducible assumption
    | with_reducible apply keepsNext_occurs
    | with_reducible apply keeps_completion
    | split
    | intro _

theorem keepsNext_execCompletionTimeoutExpiry (f : Fin 16) (tag : Nat) (s : State) : KeepsNext s (execCompletionTimeoutExpiry f tag s) := by
  unfold execCompletionTimeoutExpiry
  repeat' first
    | with_reducible exact keeps_refl _
    | with_reducible assumption
    | extract_lets
    | with_reducible apply keepsNext_done
    | exact keepsNext_refused
    | with_reducible apply keeps_timeout
    | with_reducible apply keeps_refused
    | simp (zeta := false) only [keeps_mk_iff]
    | split
    | intro _

theorem keepsNext_execTagQuarantineExpiry (f : Fin 16) (tag : Nat) (s : State) : KeepsNext s (execTagQuarantineExpiry f tag s) := by
  unfold execTagQuarantineExpiry
  repeat' first
    | with_reducible exact keeps_refl _
    | with_reducible assumption
    | extract_lets
    | with_reducible apply keepsNext_done
    | exact keepsNext_refused
    | with_reducible apply keeps_quarantineEnd
    | with_reducible apply keeps_refused
    | simp (zeta := false) only [keeps_mk_iff]
    | split
    | intro _

theorem keepsNext_execAtomicopReceived (f : Fin 16) (s : State) : KeepsNext s (execAtomicopReceived f s) := by
  unfold execAtomicopReceived
  repeat' first
    | with_reducible exact keeps_refl _
    | with_reducible assumption
    | with_reducible apply keepsNext_done
    | with_reducible apply keeps_aer
    | with_reducible apply keeps_emit
    | split
    | intro _

theorem keepsNext_execBar2Read (f : Fin 16) (off len : Nat) (s : State) (seen : Seen := []) : KeepsNext s (execBar2Read f off len s seen) := by
  unfold execBar2Read
  repeat' first
    | with_reducible exact keeps_refl _
    | with_reducible assumption
    | with_reducible apply keepsNext_done
    | with_reducible apply keeps_bar2Read
    | split
    | intro _

theorem keepsNext_execBar2Write (f : Fin 16) (off : Nat) (data : List Byte) (poisonedTlp : Bool) (s : State) (seen : Seen := []) : KeepsNext s (execBar2Write f off data poisonedTlp s seen) := by
  unfold execBar2Write
  repeat' first
    | with_reducible exact keeps_refl _
    | with_reducible assumption
    | with_reducible apply keepsNext_done
    | with_reducible apply keeps_bar2Write
    | split
    | intro _

theorem keepsNext_execInvalidationRequest (f : Fin 16) (itag pasid page : Nat) (s : State) : KeepsNext s (execInvalidationRequest f itag pasid page s) := by
  unfold execInvalidationRequest
  repeat' first
    | with_reducible exact keeps_refl _
    | with_reducible assumption
    | with_reducible apply keepsNext_done
    | with_reducible apply keeps_invalidate
    | split
    | intro _

theorem keepsNext_execTranslationCompletion (f : Fin 16) (pasid page : Nat) (present : Bool) (s : State) : KeepsNext s (execTranslationCompletion f pasid page present s) := by
  unfold execTranslationCompletion
  repeat' first
    | with_reducible exact keeps_refl _
    | with_reducible assumption
    | extract_lets
    | with_reducible apply keepsNext_done
    | exact keepsNext_refused
    | with_reducible apply keeps_translation
    | with_reducible apply keeps_refused
    | simp (zeta := false) only [keeps_mk_iff]
    | split
    | intro _

theorem keepsNext_execPrgResponse (f : Fin 16) (pasid page : Nat) (code : PrgCode) (s : State) : KeepsNext s (execPrgResponse f pasid page code s) := by
  unfold execPrgResponse
  repeat' first
    | with_reducible exact keeps_refl _
    | with_reducible assumption
    | with_reducible apply keepsNext_occurs
    | with_reducible apply keeps_prgResponse
    | split
    | intro _

theorem keepsNext_execPrgResponseTimeout (f : Fin 16) (pasid page : Nat) (s : State) : KeepsNext s (execPrgResponseTimeout f pasid page s) := by
  unfold execPrgResponseTimeout
  repeat' first
    | with_reducible exact keeps_refl _
    | with_reducible assumption
    | with_reducible apply keepsNext_occurs
    | with_reducible apply keeps_sendPages
    | with_reducible apply keeps_fatalFault
    | with_reducible apply keeps_foldl
    | split
    | intro _

theorem keepsNext_execPcieLinkUp (speed width : Nat) (flit : Bool) (s : State) : KeepsNext s (execPcieLinkUp speed width flit s) := by
  unfold execPcieLinkUp
  repeat' first
    | with_reducible exact keeps_refl _
    | with_reducible assumption
    | extract_lets
    | with_reducible apply keepsNext_occurs
    | simp (zeta := false) only [keeps_mk_iff]
    | split
    | intro _

theorem keepsNext_execReceiverError (f : Fin 16) (err : RcvError) (s : State) : KeepsNext s (execReceiverError f err s) := by
  unfold execReceiverError
  repeat' first
    | with_reducible exact keeps_refl _
    | with_reducible assumption
    | with_reducible apply keepsNext_done
    | with_reducible apply keepsNext_ite
    | with_reducible apply keeps_aer
    | with_reducible apply keeps_ite
    | split
    | intro _

theorem keepsNext_execDescriptorFetch (f : Fin 16) (ring : Fin 64) (data : List Byte) (s : State) : KeepsNext s (execDescriptorFetch f ring data s) := by
  unfold execDescriptorFetch
  repeat' first
    | with_reducible exact keeps_refl _
    | with_reducible assumption
    | extract_lets
    | with_reducible apply keepsNext_occurs
    | with_reducible apply keeps_descriptorFetch
    | with_reducible apply keeps_running
    | split
    | intro _

theorem keepsNext_execSubmit (f : Fin 16) (ring : Fin 64) (stops : HostRead) (s : State) : KeepsNext s (execSubmit f ring stops s) := by
  unfold execSubmit
  repeat' first
    | with_reducible exact keeps_refl _
    | with_reducible assumption
    | extract_lets
    | with_reducible apply keepsNext_occurs
    | exact keepsNext_refused
    | with_reducible apply keeps_submit
    | with_reducible apply keeps_refused
    | simp (zeta := false) only [keeps_mk_iff]
    | split
    | intro _

theorem keepsNext_execAdmitHoldTimeout (f : Fin 16) (ring : Fin 64) (s : State) : KeepsNext s (execAdmitHoldTimeout f ring s) := by
  unfold execAdmitHoldTimeout
  repeat' first
    | with_reducible exact keeps_refl _
    | with_reducible assumption
    | extract_lets
    | with_reducible apply keepsNext_occurs
    | exact keepsNext_refused
    | with_reducible apply keeps_holdTimeout
    | with_reducible apply keeps_refused
    | simp (zeta := false) only [keeps_mk_iff]
    | split
    | intro _

theorem keepsNext_execCancel (f : Fin 16) (ring : Fin 64) (s : State) : KeepsNext s (execCancel f ring s) := by
  unfold execCancel
  repeat' first
    | with_reducible exact keeps_refl _
    | with_reducible assumption
    | with_reducible apply keepsNext_runControl
    | with_reducible apply keeps_cancelReq
    | split
    | intro _

theorem keepsNext_execPause (f : Fin 16) (ring : Fin 64) (s : State) : KeepsNext s (execPause f ring s) := by
  unfold execPause
  repeat' first
    | with_reducible exact keeps_refl _
    | with_reducible assumption
    | with_reducible apply keepsNext_runControl
    | with_reducible apply keeps_hostPause
    | split
    | intro _

theorem keepsNext_execResume (f : Fin 16) (ring : Fin 64) (s : State) : KeepsNext s (execResume f ring s) := by
  unfold execResume
  repeat' first
    | with_reducible exact keeps_refl _
    | with_reducible assumption
    | with_reducible apply keepsNext_runControl
    | with_reducible apply keeps_hostResume
    | split
    | intro _

theorem keepsNext_execClose (f : Fin 16) (ring : Fin 64) (s : State) : KeepsNext s (execClose f ring s) := by
  unfold execClose
  repeat' first
    | with_reducible exact keeps_refl _
    | with_reducible assumption
    | with_reducible apply keepsNext_runControl
    | with_reducible apply keeps_cancelReq
    | split
    | intro _

theorem keepsNext_execTextIn (f : Fin 16) (ring : Fin 64) (s : State) : KeepsNext s (execTextIn f ring s) := by
  unfold execTextIn
  repeat' first
    | with_reducible exact keeps_refl _
    | with_reducible assumption
    | with_reducible apply keepsNext_runStream
    | with_reducible apply keeps_inputTake
    | split
    | intro _

theorem keepsNext_execNumIn (f : Fin 16) (ring : Fin 64) (s : State) : KeepsNext s (execNumIn f ring s) := by
  unfold execNumIn
  repeat' first
    | with_reducible exact keeps_refl _
    | with_reducible assumption
    | with_reducible apply keepsNext_runStream
    | with_reducible apply keeps_inputTake
    | split
    | intro _

theorem keepsNext_execTextOut (f : Fin 16) (ring : Fin 64) (s : State) : KeepsNext s (execTextOut f ring s) := by
  unfold execTextOut
  repeat' first
    | with_reducible exact keeps_refl _
    | with_reducible assumption
    | with_reducible apply keepsNext_runStream
    | with_reducible apply keeps_outputTake
    | split
    | intro _

theorem keepsNext_execNumOut (f : Fin 16) (ring : Fin 64) (s : State) : KeepsNext s (execNumOut f ring s) := by
  unfold execNumOut
  repeat' first
    | with_reducible exact keeps_refl _
    | with_reducible assumption
    | with_reducible apply keepsNext_runStream
    | with_reducible apply keeps_outputTake
    | split
    | intro _

theorem keepsNext_execDbRingWrite (f : Fin 16) (ring : Fin 64) (value : Word) (s : State) : KeepsNext s (execDbRingWrite f ring value s) := by
  unfold execDbRingWrite
  repeat' first
    | with_reducible exact keeps_refl _
    | with_reducible assumption
    | with_reducible apply keepsNext_done
    | with_reducible apply keeps_ringDoorbell
    | split
    | intro _

theorem keepsNext_execEvqConsWrite (f : Fin 16) (value : Word) (s : State) : KeepsNext s (execEvqConsWrite f value s) := by
  unfold execEvqConsWrite
  repeat' first
    | with_reducible exact keeps_refl _
    | with_reducible assumption
    | with_reducible apply keepsNext_done
    | with_reducible apply keeps_evqCons
    | split
    | intro _

theorem keepsNext_execWritebackUpdate (f : Fin 16) (ring : Fin 64) (s : State) : KeepsNext s (execWritebackUpdate f ring s) := by
  unfold execWritebackUpdate
  repeat' first
    | with_reducible exact keeps_refl _
    | with_reducible assumption
    | with_reducible apply keepsNext_occurs
    | with_reducible apply keeps_writebackUpdate
    | split
    | intro _

theorem keepsNext_execMsixHoldoffExpiry (f : Fin 16) (ring : Fin 64) (s : State) : KeepsNext s (execMsixHoldoffExpiry f ring s) := by
  unfold execMsixHoldoffExpiry
  repeat' first
    | with_reducible exact keeps_refl _
    | with_reducible assumption
    | extract_lets
    | with_reducible apply keepsNext_occurs
    | with_reducible apply keeps_holdoffEnd
    | with_reducible apply keeps_record
    | split
    | intro _

theorem keepsNext_execBankAccess (die : Fin 5) (bank off : Nat) (data : Option (List Byte)) (len code : Nat) (by_ : Writer) (s : State) (seen : Seen := []) : KeepsNext s (execBankAccess die bank off data len code by_ s seen) := by
  unfold execBankAccess
  repeat' first
    | with_reducible exact keeps_refl _
    | with_reducible assumption
    | with_reducible apply keepsNext_occurs
    | with_reducible apply keeps_bankAccess
    | split
    | intro _

theorem keepsNext_execBankHandover (die : Fin 5) (bank : Nat) (next : BitVec 5) (s : State) : KeepsNext s (execBankHandover die bank next s) := by
  unfold execBankHandover
  repeat' first
    | with_reducible exact keeps_refl _
    | with_reducible assumption
    | with_reducible apply keepsNext_done
    | with_reducible apply keeps_bankHandover
    | split
    | intro _

theorem keepsNext_execHandoverDone (die : Fin 5) (bank : Nat) (s : State) : KeepsNext s (execHandoverDone die bank s) := by
  unfold execHandoverDone
  repeat' first
    | with_reducible exact keeps_refl _
    | with_reducible assumption
    | with_reducible apply keepsNext_occurs
    | with_reducible apply keeps_handoverDone
    | split
    | intro _

theorem keepsNext_execFirmwareBankReclaim (die : Fin 5) (bank : Nat) (s : State) : KeepsNext s (execFirmwareBankReclaim die bank s) := by
  unfold execFirmwareBankReclaim
  repeat' first
    | with_reducible exact keeps_refl _
    | with_reducible assumption
    | with_reducible apply keepsNext_occurs
    | with_reducible apply keeps_reclaim
    | split
    | intro _

theorem keepsNext_execSeizureDone (die : Fin 5) (bank : Nat) (failRow : Option Nat) (s : State) : KeepsNext s (execSeizureDone die bank failRow s) := by
  unfold execSeizureDone
  repeat' first
    | with_reducible exact keeps_refl _
    | with_reducible assumption
    | extract_lets
    | with_reducible apply keepsNext_occurs
    | with_reducible apply keeps_cleaned
    | split
    | intro _

theorem keepsNext_execMarchRun (f : Fin 16) (slot : Fin 32) (s : State) : KeepsNext s (execMarchRun f slot s) := by
  unfold execMarchRun
  repeat' first
    | with_reducible exact keeps_refl _
    | with_reducible assumption
    | with_reducible apply keepsNext_runCmd
    | exact keepsNext_refused
    | with_reducible apply keepsNext_ite
    | with_reducible apply keeps_marchRun
    | with_reducible apply keeps_refused
    | with_reducible apply keeps_ite
    | split
    | intro _

theorem keepsNext_execMarchDone (die : Fin 5) (bank : Nat) (failRow : Option Nat) (found : List (Nat × EccSeen)) (s : State) : KeepsNext s (execMarchDone die bank failRow found s) := by
  unfold execMarchDone
  repeat' first
    | with_reducible exact keeps_refl _
    | with_reducible assumption
    | extract_lets
    | with_reducible apply keepsNext_occurs
    | with_reducible apply keeps_marchDone
    | split
    | intro _

theorem keepsNext_execLinkTrained (l : Fin 8) (groups : Nat) (s : State) : KeepsNext s (execLinkTrained l groups s) := by
  unfold execLinkTrained
  repeat' first
    | with_reducible exact keeps_refl _
    | with_reducible assumption
    | with_reducible apply keepsNext_occurs
    | with_reducible apply keeps_trained
    | split
    | intro _

theorem keepsNext_execLinkTrainingTimeout (l : Fin 8) (s : State) : KeepsNext s (execLinkTrainingTimeout l s) := by
  unfold execLinkTrainingTimeout
  repeat' first
    | with_reducible exact keeps_refl _
    | with_reducible assumption
    | with_reducible apply keepsNext_occurs
    | with_reducible apply keeps_trainingTimeout
    | split
    | intro _

theorem keepsNext_execFlitReceived (l : Fin 8) (flit : Flit) (s : State) (atFirst : Bool := true) : KeepsNext s (execFlitReceived l flit s atFirst) := by
  unfold execFlitReceived
  repeat' first
    | with_reducible exact keeps_refl _
    | with_reducible assumption
    | with_reducible apply keepsNext_occurs
    | with_reducible apply keepsNext_ite
    | with_reducible apply keeps_flitBad
    | with_reducible apply keeps_flitGood
    | with_reducible apply keeps_ite
    | split
    | intro _

theorem keepsNext_execReplayRequest (l : Fin 8) (seq : Nat) (s : State) (fromFirst : Bool := true) : KeepsNext s (execReplayRequest l seq s fromFirst) := by
  unfold execReplayRequest
  repeat' first
    | with_reducible exact keeps_refl _
    | with_reducible assumption
    | with_reducible apply keepsNext_occurs
    | with_reducible apply keeps_replayFrom
    | split
    | intro _

theorem keepsNext_execAckTimeout (l : Fin 8) (s : State) (fromFirst : Bool := true) : KeepsNext s (execAckTimeout l s fromFirst) := by
  unfold execAckTimeout
  repeat' first
    | with_reducible exact keeps_refl _
    | with_reducible assumption
    | with_reducible apply keepsNext_occurs
    | with_reducible apply keeps_replayFrom
    | split
    | intro _

theorem keepsNext_execFlitRetryLimit (l : Fin 8) (s : State) : KeepsNext s (execFlitRetryLimit l s) := by
  unfold execFlitRetryLimit
  repeat' first
    | with_reducible exact keeps_refl _
    | with_reducible assumption
    | with_reducible apply keepsNext_occurs
    | with_reducible apply keeps_linkFailure
    | split
    | intro _

theorem keepsNext_execAuditMarker (l : Fin 8) (s : State) : KeepsNext s (execAuditMarker l s) := by
  unfold execAuditMarker
  repeat' first
    | with_reducible exact keeps_refl _
    | with_reducible assumption
    | with_reducible apply keepsNext_occurs
    | with_reducible apply keeps_auditMarker
    | split
    | intro _

theorem keepsNext_execRecentreDue (l : Fin 8) (marked : Nat) (closed : List Nat) (s : State) : KeepsNext s (execRecentreDue l marked closed s) := by
  unfold execRecentreDue
  repeat' first
    | with_reducible exact keeps_refl _
    | with_reducible assumption
    | with_reducible apply keepsNext_occurs
    | with_reducible apply keeps_recentre
    | split
    | intro _

theorem keepsNext_execRecentreGapForced (l : Fin 8) (s : State) : KeepsNext s (execRecentreGapForced l s) := by
  unfold execRecentreGapForced
  repeat' first
    | with_reducible exact keeps_refl _
    | with_reducible assumption
    | extract_lets
    | with_reducible apply keepsNext_occurs
    | with_reducible apply keeps_updLink
    | simp (zeta := false) only [keeps_mk_iff]
    | split
    | intro _

theorem keepsNext_execGroupDisable (l : Fin 8) (group : Nat) (s : State) : KeepsNext s (execGroupDisable l group s) := by
  unfold execGroupDisable
  repeat' first
    | with_reducible exact keeps_refl _
    | with_reducible assumption
    | with_reducible apply keepsNext_occurs
    | with_reducible apply keeps_disableGroup
    | split
    | intro _

theorem keepsNext_execPartnerClockStop (l : Fin 8) (atFirst : Bool) (s : State) (groups : List Nat := List.range 16) : KeepsNext s (execPartnerClockStop l atFirst s groups) := by
  unfold execPartnerClockStop
  repeat' first
    | with_reducible exact keeps_refl _
    | with_reducible assumption
    | with_reducible apply keepsNext_occurs
    | with_reducible apply keeps_clockStop
    | split
    | intro _

theorem keepsNext_execDieReset (f : Fin 16) (slot : Fin 32) (s : State) : KeepsNext s (execDieReset f slot s) := by
  unfold execDieReset
  repeat' first
    | with_reducible exact keeps_refl _
    | with_reducible assumption
    | with_reducible apply keepsNext_runCmd
    | with_reducible apply keeps_dieReset
    | split
    | intro _

theorem keepsNext_execDieRejoin (f : Fin 16) (slot : Fin 32) (s : State) : KeepsNext s (execDieRejoin f slot s) := by
  unfold execDieRejoin
  repeat' first
    | with_reducible exact keeps_refl _
    | with_reducible assumption
    | with_reducible apply keepsNext_runCmd
    | with_reducible apply keeps_dieRejoin
    | split
    | intro _

theorem keepsNext_execDrainStepTimeout (d : Fin 4) (s : State) : KeepsNext s (execDrainStepTimeout d s) := by
  unfold execDrainStepTimeout
  repeat' first
    | with_reducible exact keeps_refl _
    | with_reducible assumption
    | extract_lets
    | with_reducible apply keepsNext_occurs
    | with_reducible apply keeps_updStep
    | simp (zeta := false) only [keeps_mk_iff]
    | with_reducible apply keeps_foldl
    | split
    | intro _

theorem keepsNext_execDieLossPath (d : Fin 4) (s : State) : KeepsNext s (execDieLossPath d s) := by
  unfold execDieLossPath
  repeat' first
    | with_reducible exact keeps_refl _
    | with_reducible assumption
    | with_reducible apply keepsNext_occurs
    | with_reducible apply keeps_lossPath
    | split
    | intro _

theorem keepsNext_execDieResetApplied (d : Fin 4) (s : State) : KeepsNext s (execDieResetApplied d s) := by
  unfold execDieResetApplied
  repeat' first
    | with_reducible exact keeps_refl _
    | with_reducible assumption
    | with_reducible apply keepsNext_occurs
    | with_reducible apply keeps_resetDie
    | split
    | intro _

theorem keepsNext_execDieRejoinDone (d : Fin 4) (result : RejoinEnd) (s : State) : KeepsNext s (execDieRejoinDone d result s) := by
  unfold execDieRejoinDone
  repeat' first
    | with_reducible exact keeps_refl _
    | with_reducible assumption
    | extract_lets
    | with_reducible apply keepsNext_occurs
    | exact keepsNext_refused
    | with_reducible apply keeps_rejoinDone
    | with_reducible apply keeps_refused
    | simp (zeta := false) only [keeps_mk_iff]
    | split
    | intro _

theorem keepsNext_execGrammarCopyBuilt (handle : Nat) (d : Fin 4) (s : State) : KeepsNext s (execGrammarCopyBuilt handle d s) := by
  unfold execGrammarCopyBuilt
  repeat' first
    | with_reducible exact keeps_refl _
    | with_reducible assumption
    | extract_lets
    | with_reducible apply keepsNext_occurs
    | with_reducible apply keeps_buildCopy
    | split
    | intro _

theorem keepsNext_execMaskReady (ledger : Nat) (s : State) : KeepsNext s (execMaskReady ledger s) := by
  unfold execMaskReady
  repeat' first
    | with_reducible exact keeps_refl _
    | with_reducible assumption
    | extract_lets
    | with_reducible apply keepsNext_occurs
    | exact keepsNext_refused
    | with_reducible apply keeps_request
    | with_reducible apply keeps_maskDone
    | with_reducible apply keeps_refused
    | simp (zeta := false) only [keeps_mk_iff]
    | split
    | intro _

theorem keepsNext_execTideReport (dom : Fin 5) (msg : TideReportMsg) (s : State) : KeepsNext s (execTideReport dom msg s) := by
  unfold execTideReport
  repeat' first
    | with_reducible exact keeps_refl _
    | with_reducible assumption
    | extract_lets
    | with_reducible apply keepsNext_occurs
    | with_reducible apply keeps_planWhenIn
    | with_reducible apply keeps_updDom
    | simp (zeta := false) only [keeps_mk_iff]
    | split
    | intro _

theorem keepsNext_execTideReportTimeout (dom : Fin 5) (s : State) : KeepsNext s (execTideReportTimeout dom s) := by
  unfold execTideReportTimeout
  repeat' first
    | with_reducible exact keeps_refl _
    | with_reducible assumption
    | extract_lets
    | with_reducible apply keepsNext_occurs
    | with_reducible apply keeps_planWhenIn
    | with_reducible apply keeps_updDom
    | simp (zeta := false) only [keeps_mk_iff]
    | split
    | intro _

theorem keepsNext_execTideGrant (d : Fin 4) (s : State) : KeepsNext s (execTideGrant d s) := by
  unfold execTideGrant
  repeat' first
    | with_reducible exact keeps_refl _
    | with_reducible assumption
    | with_reducible apply keepsNext_occurs
    | with_reducible apply keeps_grantTide
    | split
    | intro _

theorem keepsNext_execAllowance97Reached (dom : Fin 5) (s : State) : KeepsNext s (execAllowance97Reached dom s) := by
  unfold execAllowance97Reached
  repeat' first
    | with_reducible exact keeps_refl _
    | with_reducible assumption
    | with_reducible apply keepsNext_occurs
    | with_reducible apply keeps_reach97
    | split
    | intro _

theorem keepsNext_execAllowanceExhausted (d : Fin 4) (s : State) : KeepsNext s (execAllowanceExhausted d s) := by
  unfold execAllowanceExhausted
  repeat' first
    | with_reducible exact keeps_refl _
    | with_reducible assumption
    | with_reducible apply keepsNext_occurs
    | with_reducible apply keeps_exhausted
    | split
    | intro _

theorem keepsNext_execEprNFall (s : State) : KeepsNext s (execEprNFall s) := by
  unfold execEprNFall
  repeat' first
    | with_reducible exact keeps_refl _
    | with_reducible assumption
    | with_reducible apply keepsNext_occursAlways
    | with_reducible apply keeps_fallEpr
    | with_reducible apply keeps_good
    | split
    | intro _

theorem keepsNext_execEprNRise (s : State) : KeepsNext s (execEprNRise s) := by
  unfold execEprNRise
  repeat' first
    | with_reducible exact keeps_refl _
    | with_reducible assumption
    | extract_lets
    | with_reducible apply keepsNext_occursAlways
    | with_reducible apply keeps_good
    | simp (zeta := false) only [keeps_mk_iff]
    | split
    | intro _

theorem keepsNext_execFastTripPower (d : Fin 4) (s : State) : KeepsNext s (execFastTripPower d s) := by
  unfold execFastTripPower
  repeat' first
    | with_reducible exact keeps_refl _
    | with_reducible assumption
    | extract_lets
    | with_reducible apply keepsNext_occurs
    | with_reducible apply keeps_startHalving
    | simp (zeta := false) only [keeps_mk_iff]
    | split
    | intro _

theorem keepsNext_execFastTripEnd (d : Fin 4) (s : State) : KeepsNext s (execFastTripEnd d s) := by
  unfold execFastTripEnd
  repeat' first
    | with_reducible exact keeps_refl _
    | with_reducible assumption
    | extract_lets
    | with_reducible apply keepsNext_occurs
    | with_reducible apply keeps_updDie
    | simp (zeta := false) only [keeps_mk_iff]
    | split
    | intro _

theorem keepsNext_execPreReadyMsMark (s : State) : KeepsNext s (execPreReadyMsMark s) := by
  unfold execPreReadyMsMark
  repeat' first
    | with_reducible exact keeps_refl _
    | with_reducible assumption
    | with_reducible apply keepsNext_occurs
    | with_reducible apply keeps_msMark
    | with_reducible apply keeps_endHalvings
    | with_reducible apply keeps_stage
    | with_reducible apply keeps_running
    | split
    | intro _

theorem keepsNext_execTempUpdate (dom : Fin 5) (temp : BitVec 12) (s : State) : KeepsNext s (execTempUpdate dom temp s) := by
  unfold execTempUpdate
  repeat' first
    | with_reducible exact keeps_refl _
    | with_reducible assumption
    | with_reducible apply keepsNext_occurs
    | with_reducible apply keeps_tempUpdate
    | split
    | intro _

theorem keepsNext_execDecodeStepForm (model : Nat) (tenantUj : List (Nat × Nat)) (s : State) : KeepsNext s (execDecodeStepForm model tenantUj s) := by
  unfold execDecodeStepForm
  repeat' first
    | with_reducible exact keeps_refl _
    | with_reducible assumption
    | with_reducible apply keepsNext_occurs
    | with_reducible apply keeps_formDecode
    | split
    | intro _

theorem keepsNext_execPrefillStepForm (model : Nat) (tenantUj : List (Nat × Nat)) (s : State) : KeepsNext s (execPrefillStepForm model tenantUj s) := by
  unfold execPrefillStepForm
  repeat' first
    | with_reducible exact keeps_refl _
    | with_reducible assumption
    | with_reducible apply keepsNext_occurs
    | with_reducible apply keeps_formPrefill
    | split
    | intro _

theorem keepsNext_execStepLayerBoundary (step : Nat) (last : Bool) (s : State) : KeepsNext s (execStepLayerBoundary step last s) := by
  unfold execStepLayerBoundary
  repeat' first
    | with_reducible exact keeps_refl _
    | with_reducible assumption
    | with_reducible apply keepsNext_occurs
    | with_reducible apply keeps_layerBoundary
    | split
    | intro _

theorem keepsNext_execStepCommit (step elapsedUs : Nat) (rows : List StepRow) (s : State) : KeepsNext s (execStepCommit step elapsedUs rows s) := by
  unfold execStepCommit
  repeat' first
    | with_reducible exact keeps_refl _
    | with_reducible assumption
    | with_reducible apply keepsNext_occurs
    | with_reducible apply keeps_stepCommits
    | split
    | intro _

theorem keepsNext_execTidepoolMoveDone (ledger : Nat) (s : State) : KeepsNext s (execTidepoolMoveDone ledger s) := by
  unfold execTidepoolMoveDone
  repeat' first
    | with_reducible exact keeps_refl _
    | with_reducible assumption
    | with_reducible apply keepsNext_occurs
    | with_reducible apply keeps_request
    | with_reducible apply keeps_moveEnds
    | split
    | intro _

theorem keepsNext_execTidepoolExpiry (ledger : Nat) (s : State) : KeepsNext s (execTidepoolExpiry ledger s) := by
  unfold execTidepoolExpiry
  repeat' first
    | with_reducible exact keeps_refl _
    | with_reducible assumption
    | with_reducible apply keepsNext_occurs
    | with_reducible apply keeps_request
    | with_reducible apply keeps_toExpired
    | split
    | intro _

theorem keepsNext_execTidepoolReturnDone (ledger : Nat) (s : State) : KeepsNext s (execTidepoolReturnDone ledger s) := by
  unfold execTidepoolReturnDone
  repeat' first
    | with_reducible exact keeps_refl _
    | with_reducible assumption
    | with_reducible apply keepsNext_occurs
    | with_reducible apply keeps_request
    | with_reducible apply keeps_returnEnds
    | split
    | intro _

theorem keepsNext_execLedgerEntryFreed (ledger : Nat) (s : State) : KeepsNext s (execLedgerEntryFreed ledger s) := by
  unfold execLedgerEntryFreed
  repeat' first
    | with_reducible exact keeps_refl _
    | with_reducible assumption
    | with_reducible apply keepsNext_occurs
    | with_reducible apply keeps_freeEntry
    | split
    | intro _

theorem keepsNext_execTideBoundary (meters : List DomainMeter) (s : State) : KeepsNext s (execTideBoundary meters s) := by
  unfold execTideBoundary
  repeat' first
    | with_reducible exact keeps_refl _
    | with_reducible assumption
    | with_reducible apply keepsNext_occurs
    | with_reducible apply keeps_tideTurns
    | split
    | intro _

theorem keepsNext_execCommandCommit (f : Fin 16) (slot : Fin 32) (s : State) : KeepsNext s (execCommandCommit f slot s) := by
  unfold execCommandCommit
  repeat' first
    | with_reducible exact keeps_refl _
    | with_reducible assumption
    | with_reducible apply keepsNext_occurs
    | with_reducible apply keeps_commitCmd
    | split
    | intro _

theorem keepsNext_execRegisterWrite (f : Fin 16) (bar : Bar) (off width : Nat) (value : DWord) (s : State) : KeepsNext s (execRegisterWrite f bar off width value s) := by
  unfold execRegisterWrite
  repeat' first
    | with_reducible exact keeps_refl _
    | with_reducible assumption
    | with_reducible apply keepsNext_done
    | with_reducible apply keeps_registerWrite
    | split
    | intro _

theorem keepsNext_execLowHalfRead (f : Fin 16) (bar : Bar) (off : Nat) (s : State) (width : Nat := 4) : KeepsNext s (execLowHalfRead f bar off s width) := by
  unfold execLowHalfRead
  repeat' first
    | with_reducible exact keeps_refl _
    | with_reducible assumption
    | with_reducible apply keepsNext_done
    | with_reducible apply keeps_lowHalfRead
    | split
    | intro _

theorem keepsNext_execSetEndpointId (op : BitVec 2) (eid : Byte) (s : State) : KeepsNext s (execSetEndpointId op eid s) := by
  unfold execSetEndpointId
  repeat' first
    | with_reducible exact keeps_refl _
    | with_reducible assumption
    | with_reducible apply keepsNext_managed
    | with_reducible apply keeps_setEid
    | split
    | intro _

theorem keepsNext_execGetEndpointId (s : State) : KeepsNext s (execGetEndpointId s) := by
  unfold execGetEndpointId
  repeat' first
    | with_reducible exact keeps_refl _
    | with_reducible assumption
    | with_reducible apply keepsNext_managed
    | with_reducible apply keeps_mctp
    | split
    | intro _

theorem keepsNext_execGetMctpVersionSupport (msgType : Byte) (s : State) : KeepsNext s (execGetMctpVersionSupport msgType s) := by
  unfold execGetMctpVersionSupport
  repeat' first
    | with_reducible exact keeps_refl _
    | with_reducible assumption
    | with_reducible apply keepsNext_managed
    | with_reducible apply keeps_mctpVersions
    | split
    | intro _

theorem keepsNext_execGetMessageTypeSupport (s : State) : KeepsNext s (execGetMessageTypeSupport s) := by
  unfold execGetMessageTypeSupport
  repeat' first
    | with_reducible exact keeps_refl _
    | with_reducible assumption
    | with_reducible apply keepsNext_managed
    | with_reducible apply keeps_mctp
    | split
    | intro _

theorem keepsNext_execMctpUnsupportedCmd (cmd : Byte) (s : State) : KeepsNext s (execMctpUnsupportedCmd cmd s) := by
  unfold execMctpUnsupportedCmd
  repeat' first
    | with_reducible exact keeps_refl _
    | with_reducible assumption
    | with_reducible apply keepsNext_occursAlways
    | with_reducible apply keeps_mctp
    | split
    | intro _

theorem keepsNext_execSmbusAlertResponse (s : State) : KeepsNext s (execSmbusAlertResponse s) := by
  unfold execSmbusAlertResponse
  repeat' first
    | with_reducible exact keeps_refl _
    | with_reducible assumption
    | extract_lets
    | with_reducible apply keepsNext_occursAlways
    | with_reducible apply keeps_emit
    | simp (zeta := false) only [keeps_mk_iff]
    | split
    | intro _

theorem keepsNext_execGetTid (s : State) : KeepsNext s (execGetTid s) := by
  unfold execGetTid
  repeat' first
    | with_reducible exact keeps_refl _
    | with_reducible assumption
    | with_reducible apply keepsNext_managed
    | with_reducible apply keeps_pldm
    | split
    | intro _

theorem keepsNext_execSetTid (tid : Byte) (s : State) : KeepsNext s (execSetTid tid s) := by
  unfold execSetTid
  repeat' first
    | with_reducible exact keeps_refl _
    | with_reducible assumption
    | with_reducible apply keepsNext_managed
    | with_reducible apply keeps_setTid
    | split
    | intro _

theorem keepsNext_execGetPldmVersion (typ : Byte) (s : State) : KeepsNext s (execGetPldmVersion typ s) := by
  unfold execGetPldmVersion
  repeat' first
    | with_reducible exact keeps_refl _
    | with_reducible assumption
    | with_reducible apply keepsNext_managed
    | with_reducible apply keeps_pldmVersion
    | split
    | intro _

theorem keepsNext_execGetPldmTypes (s : State) : KeepsNext s (execGetPldmTypes s) := by
  unfold execGetPldmTypes
  repeat' first
    | with_reducible exact keeps_refl _
    | with_reducible assumption
    | with_reducible apply keepsNext_managed
    | with_reducible apply keeps_pldm
    | split
    | intro _

theorem keepsNext_execGetPldmCommands (typ : Byte) (s : State) : KeepsNext s (execGetPldmCommands typ s) := by
  unfold execGetPldmCommands
  repeat' first
    | with_reducible exact keeps_refl _
    | with_reducible assumption
    | with_reducible apply keepsNext_managed
    | with_reducible apply keeps_pldmCmds
    | split
    | intro _

theorem keepsNext_execGetPdrRepositoryInfo (s : State) : KeepsNext s (execGetPdrRepositoryInfo s) := by
  unfold execGetPdrRepositoryInfo
  repeat' first
    | with_reducible exact keeps_refl _
    | with_reducible assumption
    | with_reducible apply keepsNext_managed
    | with_reducible apply keeps_pldm
    | split
    | intro _

theorem keepsNext_execGetPdr (record : Nat) (s : State) : KeepsNext s (execGetPdr record s) := by
  unfold execGetPdr
  repeat' first
    | with_reducible exact keeps_refl _
    | with_reducible assumption
    | with_reducible apply keepsNext_managed
    | with_reducible apply keeps_getPdr
    | with_reducible apply keeps_record
    | split
    | intro _

theorem keepsNext_execGetSensorReading (sensor : Nat) (s : State) : KeepsNext s (execGetSensorReading sensor s) := by
  unfold execGetSensorReading
  repeat' first
    | with_reducible exact keeps_refl _
    | with_reducible assumption
    | with_reducible apply keepsNext_managed
    | with_reducible apply keeps_sensorReading
    | split
    | intro _

theorem keepsNext_execGetStateSensorReadings (sensor : Nat) (s : State) : KeepsNext s (execGetStateSensorReadings sensor s) := by
  unfold execGetStateSensorReadings
  repeat' first
    | with_reducible exact keeps_refl _
    | with_reducible assumption
    | with_reducible apply keepsNext_managed
    | with_reducible apply keeps_stateSensor
    | split
    | intro _

theorem keepsNext_execSetNumericEffecterValue (effecter value : Nat) (s : State) : KeepsNext s (execSetNumericEffecterValue effecter value s) := by
  unfold execSetNumericEffecterValue
  repeat' first
    | with_reducible exact keeps_refl _
    | with_reducible assumption
    | with_reducible apply keepsNext_managed
    | with_reducible apply keeps_setEffecter
    | split
    | intro _

theorem keepsNext_execGetNumericEffecterValue (effecter : Nat) (s : State) : KeepsNext s (execGetNumericEffecterValue effecter s) := by
  unfold execGetNumericEffecterValue
  repeat' first
    | with_reducible exact keeps_refl _
    | with_reducible assumption
    | with_reducible apply keepsNext_managed
    | with_reducible apply keeps_getEffecter
    | split
    | intro _

theorem keepsNext_execTapReset (s : State) : KeepsNext s (execTapReset s) := by
  unfold execTapReset
  repeat' first
    | with_reducible exact keeps_refl _
    | with_reducible assumption
    | extract_lets
    | with_reducible apply keepsNext_occursAlways
    | simp (zeta := false) only [keeps_mk_iff]
    | split
    | intro _

theorem keepsNext_execExtest (s : State) : KeepsNext s (execExtest s) := by
  unfold execExtest
  repeat' first
    | with_reducible exact keeps_refl _
    | with_reducible assumption
    | with_reducible apply keepsNext_tap
    | with_reducible apply keepsNext_ite
    | with_reducible apply keeps_boundaryOut
    | with_reducible apply keeps_bypassed
    | with_reducible apply keeps_ite
    | split
    | intro _

theorem keepsNext_execSamplePreload (s : State) : KeepsNext s (execSamplePreload s) := by
  unfold execSamplePreload
  repeat' first
    | with_reducible exact keeps_refl _
    | with_reducible assumption
    | with_reducible apply keepsNext_tap
    | with_reducible apply keeps_boundaryOut
    | split
    | intro _

theorem keepsNext_execIdcode (s : State) : KeepsNext s (execIdcode s) := by
  unfold execIdcode
  repeat' first
    | with_reducible exact keeps_refl _
    | with_reducible assumption
    | with_reducible apply keepsNext_tap
    | with_reducible apply keepsNext_ite
    | with_reducible apply keeps_drawn
    | with_reducible apply keeps_emit
    | with_reducible apply keeps_ite
    | split
    | intro _

theorem keepsNext_execDbgChallenge (s : State) : KeepsNext s (execDbgChallenge s) := by
  unfold execDbgChallenge
  repeat' first
    | with_reducible exact keeps_refl _
    | with_reducible assumption
    | extract_lets
    | with_reducible apply keepsNext_tap
    | with_reducible apply keeps_drawn
    | with_reducible apply keeps_emit
    | simp (zeta := false) only [keeps_mk_iff]
    | split
    | intro _

theorem keepsNext_execDbgResponse (level : Nat) (sigOk : Bool) (s : State) : KeepsNext s (execDbgResponse level sigOk s) := by
  unfold execDbgResponse
  repeat' first
    | with_reducible exact keeps_refl _
    | with_reducible assumption
    | with_reducible apply keepsNext_tap
    | with_reducible apply keeps_dbgResponse
    | split
    | intro _

theorem keepsNext_execDieSelect (d : Fin 5) (s : State) : KeepsNext s (execDieSelect d s) := by
  unfold execDieSelect
  repeat' first
    | with_reducible exact keeps_refl _
    | with_reducible assumption
    | extract_lets
    | with_reducible apply keepsNext_occursAlways
    | with_reducible apply keepsNext_tap
    | with_reducible apply keepsNext_ite
    | with_reducible apply keeps_bypassed
    | with_reducible apply keeps_ite
    | simp (zeta := false) only [keeps_mk_iff]
    | split
    | intro _

theorem keepsNext_execTestAccess (op arg : Nat) (s : State) : KeepsNext s (execTestAccess op arg s) := by
  unfold execTestAccess
  repeat' first
    | with_reducible exact keeps_refl _
    | with_reducible assumption
    | with_reducible apply keepsNext_tap
    | with_reducible apply keeps_testAccess
    | split
    | intro _

theorem keepsNext_execFuseProg (die : Fin 5) (field : FuseField) (s : State) : KeepsNext s (execFuseProg die field s) := by
  unfold execFuseProg
  repeat' first
    | with_reducible exact keeps_refl _
    | with_reducible assumption
    | with_reducible apply keepsNext_tap
    | with_reducible apply keeps_fuseProg
    | split
    | intro _

theorem keepsNext_execRegRead (off : Nat) (s : State) : KeepsNext s (execRegRead off s) := by
  unfold execRegRead
  repeat' first
    | with_reducible exact keeps_refl _
    | with_reducible assumption
    | with_reducible apply keepsNext_tap
    | with_reducible apply keeps_regRead
    | split
    | intro _

theorem keepsNext_execBypass (s : State) : KeepsNext s (execBypass s) := by
  unfold execBypass
  repeat' first
    | with_reducible exact keeps_refl _
    | with_reducible assumption
    | with_reducible apply keepsNext_tap
    | with_reducible apply keeps_bypassed
    | split
    | intro _

theorem keepsNext_execRdReq (txn : Txn) (s : State) (seen : Seen := []) : KeepsNext s (execRdReq txn s seen) := by
  unfold execRdReq
  repeat' first
    | with_reducible exact keeps_refl _
    | with_reducible assumption
    | with_reducible apply keepsNext_occurs
    | with_reducible apply keeps_reach
    | with_reducible apply keeps_request
    | split
    | intro _

theorem keepsNext_execWrReq (txn : Txn) (s : State) (seen : Seen := []) : KeepsNext s (execWrReq txn s seen) := by
  unfold execWrReq
  repeat' first
    | with_reducible exact keeps_refl _
    | with_reducible assumption
    | with_reducible apply keepsNext_occurs
    | with_reducible apply keeps_reach
    | with_reducible apply keeps_request
    | split
    | intro _

theorem keepsNext_execRdRsp (tag : Nat) (src : Fin 5) (s : State) : KeepsNext s (execRdRsp tag src s) := by
  unfold execRdRsp
  repeat' first
    | with_reducible exact keeps_refl _
    | with_reducible assumption
    | with_reducible exact keepsNext_returnAnswer
    | split
    | intro _

theorem keepsNext_execWrAck (tag : Nat) (src : Fin 5) (s : State) : KeepsNext s (execWrAck tag src s) := by
  unfold execWrAck
  repeat' first
    | with_reducible exact keeps_refl _
    | with_reducible assumption
    | with_reducible exact keepsNext_returnAnswer
    | split
    | intro _

theorem keepsNext_execErrRsp (tag : Nat) (src : Fin 5) (code : Nat) (s : State) : KeepsNext s (execErrRsp tag src code s) := by
  unfold execErrRsp
  repeat' first
    | with_reducible exact keeps_refl _
    | with_reducible assumption
    | with_reducible exact keepsNext_returnAnswer
    | split
    | intro _

theorem keepsNext_execGetVersion (conn : Nat) (s : State) : KeepsNext s (execGetVersion conn s) := by
  unfold execGetVersion
  repeat' first
    | with_reducible exact keeps_refl _
    | with_reducible assumption
    | with_reducible apply keepsNext_asked
    | with_reducible apply keeps_getVersion
    | split
    | intro _

theorem keepsNext_execGetCapabilities (conn : Nat) (s : State) : KeepsNext s (execGetCapabilities conn s) := by
  unfold execGetCapabilities
  repeat' first
    | with_reducible exact keeps_refl _
    | with_reducible assumption
    | with_reducible apply keepsNext_asked
    | with_reducible apply keeps_getCapabilities
    | split
    | intro _

theorem keepsNext_execNegotiateAlgorithms (conn : Nat) (p384sha384 : Bool) (s : State) : KeepsNext s (execNegotiateAlgorithms conn p384sha384 s) := by
  unfold execNegotiateAlgorithms
  repeat' first
    | with_reducible exact keeps_refl _
    | with_reducible assumption
    | with_reducible apply keepsNext_asked
    | with_reducible apply keeps_negotiate
    | split
    | intro _

theorem keepsNext_execGetDigests (conn : Nat) (s : State) : KeepsNext s (execGetDigests conn s) := by
  unfold execGetDigests
  repeat' first
    | with_reducible exact keeps_refl _
    | with_reducible assumption
    | with_reducible apply keepsNext_asked
    | with_reducible apply keeps_atPhase
    | with_reducible apply keeps_emit
    | split
    | intro _

theorem keepsNext_execGetCertificate (conn slot off len : Nat) (s : State) : KeepsNext s (execGetCertificate conn slot off len s) := by
  unfold execGetCertificate
  repeat' first
    | with_reducible exact keeps_refl _
    | with_reducible assumption
    | with_reducible apply keepsNext_asked
    | with_reducible apply keeps_getCertificate
    | with_reducible apply keeps_atPhase
    | split
    | intro _

theorem keepsNext_execChallenge (conn slot : Nat) (s : State) : KeepsNext s (execChallenge conn slot s) := by
  unfold execChallenge
  repeat' first
    | with_reducible exact keeps_refl _
    | with_reducible assumption
    | with_reducible apply keepsNext_asked
    | with_reducible apply keeps_challengeReq
    | with_reducible apply keeps_atPhase
    | split
    | intro _

theorem keepsNext_execGetMeasurements (conn : Nat) (signed : Bool) (index : Nat) (s : State) : KeepsNext s (execGetMeasurements conn signed index s) := by
  unfold execGetMeasurements
  repeat' first
    | with_reducible exact keeps_refl _
    | with_reducible assumption
    | with_reducible apply keepsNext_asked
    | with_reducible apply keeps_getMeasurements
    | with_reducible apply keeps_atPhase
    | split
    | intro _

theorem keepsNext_execRespondIfReady (conn token : Nat) (s : State) : KeepsNext s (execRespondIfReady conn token s) := by
  unfold execRespondIfReady
  repeat' first
    | with_reducible exact keeps_refl _
    | with_reducible assumption
    | with_reducible apply keepsNext_asked
    | with_reducible apply keeps_respondIfReady
    | split
    | intro _

theorem keepsNext_execSigningDone (s : State) : KeepsNext s (execSigningDone s) := by
  unfold execSigningDone
  repeat' first
    | with_reducible exact keeps_refl _
    | with_reducible assumption
    | with_reducible apply keepsNext_occursAlways
    | with_reducible apply keeps_signingDone
    | split
    | intro _

theorem keepsNext_execRequestUpdate (s : State) : KeepsNext s (execRequestUpdate s) := by
  unfold execRequestUpdate
  repeat' first
    | with_reducible exact keeps_refl _
    | with_reducible assumption
    | with_reducible apply keepsNext_managed
    | with_reducible apply keeps_requestUpdate
    | split
    | intro _

theorem keepsNext_execPassComponentTable (comps : List Nat) (s : State) : KeepsNext s (execPassComponentTable comps s) := by
  unfold execPassComponentTable
  repeat' first
    | with_reducible exact keeps_refl _
    | with_reducible assumption
    | with_reducible apply keepsNext_managed
    | with_reducible apply keeps_passTable
    | split
    | intro _

theorem keepsNext_execUpdateComponent (comp size : Nat) (s : State) : KeepsNext s (execUpdateComponent comp size s) := by
  unfold execUpdateComponent
  repeat' first
    | with_reducible exact keeps_refl _
    | with_reducible assumption
    | with_reducible apply keepsNext_managed
    | with_reducible apply keeps_updateComponent
    | split
    | intro _

theorem keepsNext_execFirmwareDataReceived (data : List Byte) (s : State) : KeepsNext s (execFirmwareDataReceived data s) := by
  unfold execFirmwareDataReceived
  repeat' first
    | with_reducible exact keeps_refl _
    | with_reducible assumption
    | with_reducible apply keepsNext_occursAlways
    | with_reducible apply keeps_takeData
    | split
    | intro _

theorem keepsNext_execVerifyComplete (version : Word) (svn : Nat) (stepping : Byte) (sigOk : Bool) (s : State) : KeepsNext s (execVerifyComplete version svn stepping sigOk s) := by
  unfold execVerifyComplete
  repeat' first
    | with_reducible exact keeps_refl _
    | with_reducible assumption
    | with_reducible apply keepsNext_occursAlways
    | with_reducible apply keeps_verified
    | split
    | intro _

theorem keepsNext_execApplyComplete (s : State) : KeepsNext s (execApplyComplete s) := by
  unfold execApplyComplete
  repeat' first
    | with_reducible exact keeps_refl _
    | with_reducible assumption
    | with_reducible apply keepsNext_occursAlways
    | with_reducible apply keeps_applied
    | split
    | intro _

theorem keepsNext_execActivateFirmware (s : State) : KeepsNext s (execActivateFirmware s) := by
  unfold execActivateFirmware
  repeat' first
    | with_reducible exact keeps_refl _
    | with_reducible assumption
    | with_reducible apply keepsNext_managed
    | with_reducible apply keeps_activate
    | split
    | intro _

theorem keepsNext_execCancelUpdate (s : State) : KeepsNext s (execCancelUpdate s) := by
  unfold execCancelUpdate
  repeat' first
    | with_reducible exact keeps_refl _
    | with_reducible assumption
    | with_reducible apply keepsNext_managed
    | with_reducible apply keeps_cancelUpdate
    | split
    | intro _

theorem keepsNext_execUpdateIdleTimeout (s : State) : KeepsNext s (execUpdateIdleTimeout s) := by
  unfold execUpdateIdleTimeout
  repeat' first
    | with_reducible exact keeps_refl _
    | with_reducible assumption
    | with_reducible apply keepsNext_occursAlways
    | with_reducible apply keeps_idle
    | with_reducible apply keeps_abandonUpdate
    | split
    | intro _

/-- Every command's next state keeps what `Keeps` says. -/
theorem keepsNext_exec (c : Instr) (s : State) : KeepsNext s (exec c s) := by
  cases c
  · exact keepsNext_execPwrGoodInRise _ _
  · exact keepsNext_execPwrGoodInFall _
  · exact keepsNext_execPerstNAssert _
  · exact keepsNext_execPerstNDeassert _ _ _
  · exact keepsNext_execHotReset _ _
  · exact keepsNext_execRailFault _ _
  · exact keepsNext_execRefclkLoss _
  · exact keepsNext_execCrestPllLoss _ _
  · exact keepsNext_execEprNFall _
  · exact keepsNext_execEprNRise _
  · exact keepsNext_execPreReadyMsMark _
  · exact keepsNext_execHarbourPllLock _
  · exact keepsNext_execHarbourPllTimeout _
  · exact keepsNext_execFwVerifyDone _
  · exact keepsNext_execConfigSpaceReady _
  · exact keepsNext_execRollCallStart _
  · exact keepsNext_execRollCallAnswer _ _
  · exact keepsNext_execRollCallSilent _ _
  · exact keepsNext_execNeighbourExchange _ _ _ _
  · exact keepsNext_execNeighbourExchangeTimeout _ _
  · exact keepsNext_execDieFwLoaded _ _ _
  · exact keepsNext_execSelfCalDone _
  · exact keepsNext_execMemTrainingDone _ _ _
  · exact keepsNext_execMemoryInitDone _ _
  · exact keepsNext_execReadySet _
  · exact keepsNext_execBootTimeout _
  · exact keepsNext_execBmeClear _ _
  · exact keepsNext_execBmeSet _ _
  · exact keepsNext_execInitiateFlr _ _
  · exact keepsNext_execFlrComplete _ _
  · exact keepsNext_execVfEnableClear _
  · exact keepsNext_execVfEnableSet _ _
  · exact keepsNext_execD3hotEntry _ _
  · exact keepsNext_execD0Return _ _
  · exact keepsNext_execCompletionReceived _ _ _ _
  · exact keepsNext_execCompletionTimeoutExpiry _ _ _
  · exact keepsNext_execTagQuarantineExpiry _ _ _
  · exact keepsNext_execAtomicopReceived _ _
  · exact keepsNext_execBar2Read _ _ _ _ _
  · exact keepsNext_execBar2Write _ _ _ _ _ _
  · exact keepsNext_execInvalidationRequest _ _ _ _ _
  · exact keepsNext_execTranslationCompletion _ _ _ _ _
  · exact keepsNext_execPrgResponse _ _ _ _ _
  · exact keepsNext_execPrgResponseTimeout _ _ _ _
  · exact keepsNext_execMsixUnmask _ _ _
  · exact keepsNext_execRegisterWrite _ _ _ _ _ _
  · exact keepsNext_execLowHalfRead _ _ _ _ _
  · exact keepsNext_execSlotWrite _ _ _ _ _
  · exact keepsNext_execDbMboxWrite _ _ _
  · exact keepsNext_execCommandCommit _ _ _
  · exact keepsNext_execDeviceInfo _ _ _
  · exact keepsNext_execFunctionOpen _ _ _
  · exact keepsNext_execFunctionClose _ _ _
  · exact keepsNext_execEngineEnable _ _ _
  · exact keepsNext_execRegionCreate _ _ _
  · exact keepsNext_execRegionDestroy _ _ _
  · exact keepsNext_execBar2WindowSet _ _ _
  · exact keepsNext_execModelLoad _ _ _ _ _
  · exact keepsNext_execModelUnload _ _ _
  · exact keepsNext_execModelInfo _ _ _
  · exact keepsNext_execVocabLoad _ _ _ _
  · exact keepsNext_execVocabUnload _ _ _
  · exact keepsNext_execBintableLoad _ _ _ _
  · exact keepsNext_execBintableUnload _ _ _
  · exact keepsNext_execGrammarLoad _ _ _ _ _
  · exact keepsNext_execGrammarUnload _ _ _
  · exact keepsNext_execRequestQuery _ _ _
  · exact keepsNext_execRingOpen _ _ _
  · exact keepsNext_execRingClose _ _ _
  · exact keepsNext_execStreamOpen _ _ _
  · exact keepsNext_execStreamClose _ _ _
  · exact keepsNext_execConfigStage _ _ _ _
  · exact keepsNext_execConfigRead _ _ _
  · exact keepsNext_execCommitConfig _ _ _
  · exact keepsNext_execConfigDiscard _ _ _
  · exact keepsNext_execEnergyLimitSet _ _ _
  · exact keepsNext_execEnergyReport _ _ _
  · exact keepsNext_execDiagBootlog _ _ _
  · exact keepsNext_execBooksAudit _ _ _
  · exact keepsNext_execMarchRun _ _ _
  · exact keepsNext_execErrlogRead _ _ _
  · exact keepsNext_execDieReset _ _ _
  · exact keepsNext_execDieRejoin _ _ _
  · exact keepsNext_execDescriptorFetch _ _ _ _
  · exact keepsNext_execSubmit _ _ _ _
  · exact keepsNext_execCancel _ _ _
  · exact keepsNext_execPause _ _ _
  · exact keepsNext_execResume _ _ _
  · exact keepsNext_execClose _ _ _
  · exact keepsNext_execTextIn _ _ _
  · exact keepsNext_execNumIn _ _ _
  · exact keepsNext_execTextOut _ _ _
  · exact keepsNext_execNumOut _ _ _
  · exact keepsNext_execDbRingWrite _ _ _ _
  · exact keepsNext_execEvqConsWrite _ _ _
  · exact keepsNext_execWritebackUpdate _ _ _
  · exact keepsNext_execMsixHoldoffExpiry _ _ _
  · exact keepsNext_execCpWatchdogExpiry _
  · exact keepsNext_execControlCoreFault _
  · exact keepsNext_execCpRestartEnd _
  · exact keepsNext_execCpRestartTimeout _ _
  · exact keepsNext_execDieManagerWatchdog _ _
  · exact keepsNext_execDieManagerRestartDone _ _ _
  · exact keepsNext_execTideBoundary _ _
  · exact keepsNext_execTideReport _ _ _
  · exact keepsNext_execTideReportTimeout _ _
  · exact keepsNext_execTideGrant _ _
  · exact keepsNext_execAllowance97Reached _ _
  · exact keepsNext_execAllowanceExhausted _ _
  · exact keepsNext_execFastTripPower _ _
  · exact keepsNext_execFastTripEnd _ _
  · exact keepsNext_execTempUpdate _ _ _
  · exact keepsNext_execAdmitHoldTimeout _ _ _
  · exact keepsNext_execPrefillStepForm _ _ _
  · exact keepsNext_execDecodeStepForm _ _ _
  · exact keepsNext_execStepLayerBoundary _ _ _
  · exact keepsNext_execStepCommit _ _ _ _
  · exact keepsNext_execDrainStepTimeout _ _
  · exact keepsNext_execHoldStepTimeout _
  · exact keepsNext_execMaskReady _ _
  · exact keepsNext_execCardingLaneTake _ _ _ _
  · exact keepsNext_execCardingChunk _ _ _
  · exact keepsNext_execCarryStateSpill _ _
  · exact keepsNext_execBintableStaged _ _
  · exact keepsNext_execFeltingLaneTake _ _ _
  · exact keepsNext_execTidepoolMoveDone _ _
  · exact keepsNext_execTidepoolExpiry _ _
  · exact keepsNext_execTidepoolReturnDone _ _
  · exact keepsNext_execLedgerEntryFreed _ _
  · exact keepsNext_execDemandRead _ _ _ _
  · exact keepsNext_execFullWrite _ _ _
  · exact keepsNext_execPartialWrite _ _ _ _ _
  · exact keepsNext_execPatrolRead _ _ _
  · exact keepsNext_execPoisonDisposition _ _ _
  · exact keepsNext_execCeCountRetire _ _
  · exact keepsNext_execMigrationDone _ _
  · exact keepsNext_execPageZeroed _ _
  · exact keepsNext_execPageWalkDone _ _ _ _ _ _
  · exact keepsNext_execAbsentFaultServiced _ _ _
  · exact keepsNext_execTidepoolFaultServiced _ _ _
  · exact keepsNext_execTidepoolFaultPageFreed _ _ _
  · exact keepsNext_execStepFaultWaitTimeout _ _ _
  · exact keepsNext_execPreemptFaultWaitTimeout _ _ _
  · exact keepsNext_execTablePageRebuilt _ _ _
  · exact keepsNext_execShootdown _ _ _
  · exact keepsNext_execShootdownComplete _ _ _
  · exact keepsNext_execBankAccess _ _ _ _ _ _ _ _ _
  · exact keepsNext_execBankHandover _ _ _ _
  · exact keepsNext_execHandoverDone _ _ _
  · exact keepsNext_execSeizureDone _ _ _ _
  · exact keepsNext_execFirmwareBankReclaim _ _ _
  · exact keepsNext_execMarchDone _ _ _ _ _
  · exact keepsNext_execLinkTrained _ _ _
  · exact keepsNext_execLinkTrainingTimeout _ _
  · exact keepsNext_execFlitReceived _ _ _ _
  · exact keepsNext_execReplayRequest _ _ _ _
  · exact keepsNext_execAckTimeout _ _ _
  · exact keepsNext_execFlitRetryLimit _ _
  · exact keepsNext_execRdReq _ _ _
  · exact keepsNext_execWrReq _ _ _
  · exact keepsNext_execRdRsp _ _ _
  · exact keepsNext_execWrAck _ _ _
  · exact keepsNext_execErrRsp _ _ _ _
  · exact keepsNext_execAuditMarker _ _
  · exact keepsNext_execRecentreDue _ _ _ _
  · exact keepsNext_execRecentreGapForced _ _
  · exact keepsNext_execGroupDisable _ _ _
  · exact keepsNext_execPartnerClockStop _ _ _ _
  · exact keepsNext_execDieLossPath _ _
  · exact keepsNext_execDieResetApplied _ _
  · exact keepsNext_execDieRejoinDone _ _ _
  · exact keepsNext_execSlackTideStart _ _
  · exact keepsNext_execSlackTideEnd _ _
  · exact keepsNext_execGroupMovePrepared _ _ _
  · exact keepsNext_execAvsFrameAck _ _
  · exact keepsNext_execAvsNoAck _ _
  · exact keepsNext_execAvsStepSettled _ _
  · exact keepsNext_execSetEndpointId _ _ _
  · exact keepsNext_execGetEndpointId _
  · exact keepsNext_execGetMctpVersionSupport _ _
  · exact keepsNext_execGetMessageTypeSupport _
  · exact keepsNext_execMctpUnsupportedCmd _ _
  · exact keepsNext_execSmbusAlertResponse _
  · exact keepsNext_execGetTid _
  · exact keepsNext_execSetTid _ _
  · exact keepsNext_execGetPldmVersion _ _
  · exact keepsNext_execGetPldmTypes _
  · exact keepsNext_execGetPldmCommands _ _
  · exact keepsNext_execGetPdrRepositoryInfo _
  · exact keepsNext_execGetPdr _ _
  · exact keepsNext_execGetSensorReading _ _
  · exact keepsNext_execGetStateSensorReadings _ _
  · exact keepsNext_execSetNumericEffecterValue _ _ _
  · exact keepsNext_execGetNumericEffecterValue _ _
  · exact keepsNext_execRequestUpdate _
  · exact keepsNext_execPassComponentTable _ _
  · exact keepsNext_execUpdateComponent _ _ _
  · exact keepsNext_execFirmwareDataReceived _ _
  · exact keepsNext_execVerifyComplete _ _ _ _ _
  · exact keepsNext_execApplyComplete _
  · exact keepsNext_execActivateFirmware _
  · exact keepsNext_execCancelUpdate _
  · exact keepsNext_execUpdateIdleTimeout _
  · exact keepsNext_execGetVersion _ _
  · exact keepsNext_execGetCapabilities _ _
  · exact keepsNext_execNegotiateAlgorithms _ _ _
  · exact keepsNext_execGetDigests _ _
  · exact keepsNext_execGetCertificate _ _ _ _ _
  · exact keepsNext_execChallenge _ _ _
  · exact keepsNext_execGetMeasurements _ _ _ _
  · exact keepsNext_execRespondIfReady _ _ _
  · exact keepsNext_execSigningDone _
  · exact keepsNext_execTapReset _
  · exact keepsNext_execExtest _
  · exact keepsNext_execSamplePreload _
  · exact keepsNext_execIdcode _
  · exact keepsNext_execDbgChallenge _
  · exact keepsNext_execDbgResponse _ _ _
  · exact keepsNext_execDieSelect _ _
  · exact keepsNext_execTestAccess _ _ _
  · exact keepsNext_execFuseProg _ _ _
  · exact keepsNext_execRegRead _ _
  · exact keepsNext_execBypass _
  · exact keepsNext_execCrestRootPllLock _ _
  · exact keepsNext_execPcieLinkUp _ _ _ _
  · exact keepsNext_execReceiverError _ _ _
  · exact keepsNext_execRailReturn _
  · exact keepsNext_execPerstNDeassertionTaken _ _
  · exact keepsNext_execVocabImageReloaded _ _
  · exact keepsNext_execGrammarCopyBuilt _ _ _

end Sys2Proof.Machine
end

