-- ==== Sys2Proof/Laws/PerInstr.lean ====
section
/-! SUPPORT. Family Sender: every command comes from one of the block's senders. The management controller's commands, the
test port's, and those of the board's pins and rails do not overlap. One lemma per command. -/

namespace Sys2Proof.Laws.Sender

open Sys2Proof Sys2Proof.Machine

/-- The command is of at most one of three senders: management controller, test port, board. -/
def Statement (i : Instr) : Prop :=
  (mgmtCommand i && testPortCommand i) = false ∧ (mgmtCommand i && (pinCommand i || powerEvent i)) = false ∧
    (testPortCommand i && (pinCommand i || powerEvent i)) = false

theorem pwrGoodInRise (smbAddr : BitVec 2) : Statement (.pwrGoodInRise smbAddr) := ⟨rfl, rfl, rfl⟩
theorem pwrGoodInFall : Statement (.pwrGoodInFall) := ⟨rfl, rfl, rfl⟩
theorem perstNAssert : Statement (.perstNAssert) := ⟨rfl, rfl, rfl⟩
theorem perstNDeassert (straps : Straps) (early : Bool) : Statement (.perstNDeassert straps early) := ⟨rfl, rfl, rfl⟩
theorem hotReset (dlDown : Bool) : Statement (.hotReset dlDown) := ⟨rfl, rfl, rfl⟩
theorem railFault (rail : Rail) : Statement (.railFault rail) := by cases rail <;> exact ⟨rfl, rfl, rfl⟩
theorem refclkLoss : Statement (.refclkLoss) := ⟨rfl, rfl, rfl⟩
theorem crestPllLoss (d : Fin 4) : Statement (.crestPllLoss d) := ⟨rfl, rfl, rfl⟩
theorem eprNFall : Statement (.eprNFall) := ⟨rfl, rfl, rfl⟩
theorem eprNRise : Statement (.eprNRise) := ⟨rfl, rfl, rfl⟩
theorem preReadyMsMark : Statement (.preReadyMsMark) := ⟨rfl, rfl, rfl⟩
theorem harbourPllLock : Statement (.harbourPllLock) := ⟨rfl, rfl, rfl⟩
theorem harbourPllTimeout : Statement (.harbourPllTimeout) := ⟨rfl, rfl, rfl⟩
theorem fwVerifyDone : Statement (.fwVerifyDone) := ⟨rfl, rfl, rfl⟩
theorem configSpaceReady : Statement (.configSpaceReady) := ⟨rfl, rfl, rfl⟩
theorem rollCallStart : Statement (.rollCallStart) := ⟨rfl, rfl, rfl⟩
theorem rollCallAnswer (port : Fin 4) : Statement (.rollCallAnswer port) := ⟨rfl, rfl, rfl⟩
theorem rollCallSilent (port : Fin 4) : Statement (.rollCallSilent port) := ⟨rfl, rfl, rfl⟩
theorem neighbourExchange (l : Fin 4) (atFirst : Bool) (pos : BitVec 2) : Statement (.neighbourExchange l atFirst pos) := ⟨rfl, rfl, rfl⟩
theorem neighbourExchangeTimeout (l : Fin 4) : Statement (.neighbourExchangeTimeout l) := ⟨rfl, rfl, rfl⟩
theorem dieFwLoaded (d : Fin 4) (ok : Bool) : Statement (.dieFwLoaded d ok) := ⟨rfl, rfl, rfl⟩
theorem selfCalDone : Statement (.selfCalDone) := ⟨rfl, rfl, rfl⟩
theorem memTrainingDone (c : Fin 20) (ok : Bool) : Statement (.memTrainingDone c ok) := ⟨rfl, rfl, rfl⟩
theorem memoryInitDone (report : InitReport) : Statement (.memoryInitDone report) := ⟨rfl, rfl, rfl⟩
theorem readySet : Statement (.readySet) := ⟨rfl, rfl, rfl⟩
theorem bootTimeout : Statement (.bootTimeout) := ⟨rfl, rfl, rfl⟩
theorem bmeClear (f : Fin 16) : Statement (.bmeClear f) := ⟨rfl, rfl, rfl⟩
theorem bmeSet (f : Fin 16) : Statement (.bmeSet f) := ⟨rfl, rfl, rfl⟩
theorem initiateFlr (f : Fin 16) : Statement (.initiateFlr f) := ⟨rfl, rfl, rfl⟩
theorem flrComplete (f : Fin 16) : Statement (.flrComplete f) := ⟨rfl, rfl, rfl⟩
theorem vfEnableClear : Statement (.vfEnableClear) := ⟨rfl, rfl, rfl⟩
theorem vfEnableSet (numVfs : Nat) : Statement (.vfEnableSet numVfs) := ⟨rfl, rfl, rfl⟩
theorem d3hotEntry (f : Fin 16) : Statement (.d3hotEntry f) := ⟨rfl, rfl, rfl⟩
theorem d0Return (f : Fin 16) : Statement (.d0Return f) := ⟨rfl, rfl, rfl⟩
theorem completionReceived (f : Fin 16) (tag : Nat) (st : CplStatus) : Statement (.completionReceived f tag st) := ⟨rfl, rfl, rfl⟩
theorem completionTimeoutExpiry (f : Fin 16) (tag : Nat) : Statement (.completionTimeoutExpiry f tag) := ⟨rfl, rfl, rfl⟩
theorem tagQuarantineExpiry (f : Fin 16) (tag : Nat) : Statement (.tagQuarantineExpiry f tag) := ⟨rfl, rfl, rfl⟩
theorem atomicopReceived (f : Fin 16) : Statement (.atomicopReceived f) := ⟨rfl, rfl, rfl⟩
theorem bar2Read (f : Fin 16) (off len : Nat) (seen : Seen) : Statement (.bar2Read f off len seen) := ⟨rfl, rfl, rfl⟩
theorem bar2Write (f : Fin 16) (off : Nat) (data : List Byte) (poisonedTlp : Bool) (seen : Seen) : Statement (.bar2Write f off data poisonedTlp seen) := ⟨rfl, rfl, rfl⟩
theorem invalidationRequest (f : Fin 16) (itag pasid page : Nat) : Statement (.invalidationRequest f itag pasid page) := ⟨rfl, rfl, rfl⟩
theorem translationCompletion (f : Fin 16) (pasid page : Nat) (present : Bool) : Statement (.translationCompletion f pasid page present) := ⟨rfl, rfl, rfl⟩
theorem prgResponse (f : Fin 16) (pasid page : Nat) (code : PrgCode) : Statement (.prgResponse f pasid page code) := ⟨rfl, rfl, rfl⟩
theorem prgResponseTimeout (f : Fin 16) (pasid page : Nat) : Statement (.prgResponseTimeout f pasid page) := ⟨rfl, rfl, rfl⟩
theorem msixUnmask (f : Fin 16) (v : Fin 64) : Statement (.msixUnmask f v) := ⟨rfl, rfl, rfl⟩
theorem registerWrite (f : Fin 16) (bar : Bar) (off width : Nat) (value : DWord) : Statement (.registerWrite f bar off width value) := ⟨rfl, rfl, rfl⟩
theorem lowHalfRead (f : Fin 16) (bar : Bar) (off width : Nat) : Statement (.lowHalfRead f bar off width) := ⟨rfl, rfl, rfl⟩
theorem slotWrite (f : Fin 16) (off width : Nat) (value : DWord) : Statement (.slotWrite f off width value) := ⟨rfl, rfl, rfl⟩
theorem dbMboxWrite (f : Fin 16) (value : Word) : Statement (.dbMboxWrite f value) := ⟨rfl, rfl, rfl⟩
theorem commandCommit (f : Fin 16) (slot : Fin 32) : Statement (.commandCommit f slot) := ⟨rfl, rfl, rfl⟩
theorem deviceInfo (f : Fin 16) (slot : Fin 32) : Statement (.deviceInfo f slot) := ⟨rfl, rfl, rfl⟩
theorem functionOpen (f : Fin 16) (slot : Fin 32) : Statement (.functionOpen f slot) := ⟨rfl, rfl, rfl⟩
theorem functionClose (f : Fin 16) (slot : Fin 32) : Statement (.functionClose f slot) := ⟨rfl, rfl, rfl⟩
theorem engineEnable (f : Fin 16) (slot : Fin 32) : Statement (.engineEnable f slot) := ⟨rfl, rfl, rfl⟩
theorem regionCreate (f : Fin 16) (slot : Fin 32) : Statement (.regionCreate f slot) := ⟨rfl, rfl, rfl⟩
theorem regionDestroy (f : Fin 16) (slot : Fin 32) : Statement (.regionDestroy f slot) := ⟨rfl, rfl, rfl⟩
theorem bar2WindowSet (f : Fin 16) (slot : Fin 32) : Statement (.bar2WindowSet f slot) := ⟨rfl, rfl, rfl⟩
theorem modelLoad (f : Fin 16) (slot : Fin 32) (read : HostRead) (image : ModelImage) : Statement (.modelLoad f slot read image) := ⟨rfl, rfl, rfl⟩
theorem modelUnload (f : Fin 16) (slot : Fin 32) : Statement (.modelUnload f slot) := ⟨rfl, rfl, rfl⟩
theorem modelInfo (f : Fin 16) (slot : Fin 32) : Statement (.modelInfo f slot) := ⟨rfl, rfl, rfl⟩
theorem vocabLoad (f : Fin 16) (slot : Fin 32) (read : HostRead) : Statement (.vocabLoad f slot read) := ⟨rfl, rfl, rfl⟩
theorem vocabUnload (f : Fin 16) (slot : Fin 32) : Statement (.vocabUnload f slot) := ⟨rfl, rfl, rfl⟩
theorem bintableLoad (f : Fin 16) (slot : Fin 32) (read : HostRead) : Statement (.bintableLoad f slot read) := ⟨rfl, rfl, rfl⟩
theorem bintableUnload (f : Fin 16) (slot : Fin 32) : Statement (.bintableUnload f slot) := ⟨rfl, rfl, rfl⟩
theorem grammarLoad (f : Fin 16) (slot : Fin 32) (read : HostRead) (image : GrammarImage) : Statement (.grammarLoad f slot read image) := ⟨rfl, rfl, rfl⟩
theorem grammarUnload (f : Fin 16) (slot : Fin 32) : Statement (.grammarUnload f slot) := ⟨rfl, rfl, rfl⟩
theorem requestQuery (f : Fin 16) (slot : Fin 32) : Statement (.requestQuery f slot) := ⟨rfl, rfl, rfl⟩
theorem ringOpen (f : Fin 16) (slot : Fin 32) : Statement (.ringOpen f slot) := ⟨rfl, rfl, rfl⟩
theorem ringClose (f : Fin 16) (slot : Fin 32) : Statement (.ringClose f slot) := ⟨rfl, rfl, rfl⟩
theorem streamOpen (f : Fin 16) (slot : Fin 32) : Statement (.streamOpen f slot) := ⟨rfl, rfl, rfl⟩
theorem streamClose (f : Fin 16) (slot : Fin 32) : Statement (.streamClose f slot) := ⟨rfl, rfl, rfl⟩
theorem configStage (f : Fin 16) (slot : Fin 32) (read : HostRead) : Statement (.configStage f slot read) := ⟨rfl, rfl, rfl⟩
theorem configRead (f : Fin 16) (slot : Fin 32) : Statement (.configRead f slot) := ⟨rfl, rfl, rfl⟩
theorem commitConfig (f : Fin 16) (slot : Fin 32) : Statement (.commitConfig f slot) := ⟨rfl, rfl, rfl⟩
theorem configDiscard (f : Fin 16) (slot : Fin 32) : Statement (.configDiscard f slot) := ⟨rfl, rfl, rfl⟩
theorem energyLimitSet (f : Fin 16) (slot : Fin 32) : Statement (.energyLimitSet f slot) := ⟨rfl, rfl, rfl⟩
theorem energyReport (f : Fin 16) (slot : Fin 32) : Statement (.energyReport f slot) := ⟨rfl, rfl, rfl⟩
theorem diagBootlog (f : Fin 16) (slot : Fin 32) : Statement (.diagBootlog f slot) := ⟨rfl, rfl, rfl⟩
theorem booksAudit (f : Fin 16) (slot : Fin 32) : Statement (.booksAudit f slot) := ⟨rfl, rfl, rfl⟩
theorem marchRun (f : Fin 16) (slot : Fin 32) : Statement (.marchRun f slot) := ⟨rfl, rfl, rfl⟩
theorem errlogRead (f : Fin 16) (slot : Fin 32) : Statement (.errlogRead f slot) := ⟨rfl, rfl, rfl⟩
theorem dieReset (f : Fin 16) (slot : Fin 32) : Statement (.dieReset f slot) := ⟨rfl, rfl, rfl⟩
theorem dieRejoin (f : Fin 16) (slot : Fin 32) : Statement (.dieRejoin f slot) := ⟨rfl, rfl, rfl⟩
theorem descriptorFetch (f : Fin 16) (ring : Fin 64) (data : List Byte) : Statement (.descriptorFetch f ring data) := ⟨rfl, rfl, rfl⟩
theorem submit (f : Fin 16) (ring : Fin 64) (stops : HostRead) : Statement (.submit f ring stops) := ⟨rfl, rfl, rfl⟩
theorem cancel (f : Fin 16) (ring : Fin 64) : Statement (.cancel f ring) := ⟨rfl, rfl, rfl⟩
theorem pause (f : Fin 16) (ring : Fin 64) : Statement (.pause f ring) := ⟨rfl, rfl, rfl⟩
theorem resume (f : Fin 16) (ring : Fin 64) : Statement (.resume f ring) := ⟨rfl, rfl, rfl⟩
theorem close (f : Fin 16) (ring : Fin 64) : Statement (.close f ring) := ⟨rfl, rfl, rfl⟩
theorem textIn (f : Fin 16) (ring : Fin 64) : Statement (.textIn f ring) := ⟨rfl, rfl, rfl⟩
theorem numIn (f : Fin 16) (ring : Fin 64) : Statement (.numIn f ring) := ⟨rfl, rfl, rfl⟩
theorem textOut (f : Fin 16) (ring : Fin 64) : Statement (.textOut f ring) := ⟨rfl, rfl, rfl⟩
theorem numOut (f : Fin 16) (ring : Fin 64) : Statement (.numOut f ring) := ⟨rfl, rfl, rfl⟩
theorem dbRingWrite (f : Fin 16) (ring : Fin 64) (value : Word) : Statement (.dbRingWrite f ring value) := ⟨rfl, rfl, rfl⟩
theorem evqConsWrite (f : Fin 16) (value : Word) : Statement (.evqConsWrite f value) := ⟨rfl, rfl, rfl⟩
theorem writebackUpdate (f : Fin 16) (ring : Fin 64) : Statement (.writebackUpdate f ring) := ⟨rfl, rfl, rfl⟩
theorem msixHoldoffExpiry (f : Fin 16) (ring : Fin 64) : Statement (.msixHoldoffExpiry f ring) := ⟨rfl, rfl, rfl⟩
theorem cpWatchdogExpiry : Statement (.cpWatchdogExpiry) := ⟨rfl, rfl, rfl⟩
theorem controlCoreFault : Statement (.controlCoreFault) := ⟨rfl, rfl, rfl⟩
theorem cpRestartEnd : Statement (.cpRestartEnd) := ⟨rfl, rfl, rfl⟩
theorem cpRestartTimeout (badFw : Bool) : Statement (.cpRestartTimeout badFw) := ⟨rfl, rfl, rfl⟩
theorem dieManagerWatchdog (d : Fin 4) : Statement (.dieManagerWatchdog d) := ⟨rfl, rfl, rfl⟩
theorem dieManagerRestartDone (d : Fin 4) (ok : Bool) : Statement (.dieManagerRestartDone d ok) := ⟨rfl, rfl, rfl⟩
theorem tideBoundary (meters : List DomainMeter) : Statement (.tideBoundary meters) := ⟨rfl, rfl, rfl⟩
theorem tideReport (dom : Fin 5) (msg : TideReportMsg) : Statement (.tideReport dom msg) := ⟨rfl, rfl, rfl⟩
theorem tideReportTimeout (dom : Fin 5) : Statement (.tideReportTimeout dom) := ⟨rfl, rfl, rfl⟩
theorem tideGrant (d : Fin 4) : Statement (.tideGrant d) := ⟨rfl, rfl, rfl⟩
theorem allowance97Reached (dom : Fin 5) : Statement (.allowance97Reached dom) := ⟨rfl, rfl, rfl⟩
theorem allowanceExhausted (d : Fin 4) : Statement (.allowanceExhausted d) := ⟨rfl, rfl, rfl⟩
theorem fastTripPower (d : Fin 4) : Statement (.fastTripPower d) := ⟨rfl, rfl, rfl⟩
theorem fastTripEnd (d : Fin 4) : Statement (.fastTripEnd d) := ⟨rfl, rfl, rfl⟩
theorem tempUpdate (dom : Fin 5) (temp : BitVec 12) : Statement (.tempUpdate dom temp) := ⟨rfl, rfl, rfl⟩
theorem admitHoldTimeout (f : Fin 16) (ring : Fin 64) : Statement (.admitHoldTimeout f ring) := ⟨rfl, rfl, rfl⟩
theorem prefillStepForm (model : Nat) (tenantUj : List (Nat × Nat)) : Statement (.prefillStepForm model tenantUj) := ⟨rfl, rfl, rfl⟩
theorem decodeStepForm (model : Nat) (tenantUj : List (Nat × Nat)) : Statement (.decodeStepForm model tenantUj) := ⟨rfl, rfl, rfl⟩
theorem stepLayerBoundary (step : Nat) (last : Bool) : Statement (.stepLayerBoundary step last) := ⟨rfl, rfl, rfl⟩
theorem stepCommit (step : Nat) (elapsedUs : Nat) (rows : List StepRow) : Statement (.stepCommit step elapsedUs rows) := ⟨rfl, rfl, rfl⟩
theorem drainStepTimeout (d : Fin 4) : Statement (.drainStepTimeout d) := ⟨rfl, rfl, rfl⟩
theorem holdStepTimeout : Statement (.holdStepTimeout) := ⟨rfl, rfl, rfl⟩
theorem maskReady (ledger : Nat) : Statement (.maskReady ledger) := ⟨rfl, rfl, rfl⟩
theorem cardingLaneTake (lane : Fin 16) (f : Fin 16) (stream : Nat) : Statement (.cardingLaneTake lane f stream) := ⟨rfl, rfl, rfl⟩
theorem cardingChunk (lane : Fin 16) (read : HostRead) : Statement (.cardingChunk lane read) := ⟨rfl, rfl, rfl⟩
theorem carryStateSpill (lane : Fin 16) : Statement (.carryStateSpill lane) := ⟨rfl, rfl, rfl⟩
theorem bintableStaged (handle : Nat) : Statement (.bintableStaged handle) := ⟨rfl, rfl, rfl⟩
theorem feltingLaneTake (lane : Fin 16) (ledger : Nat) : Statement (.feltingLaneTake lane ledger) := ⟨rfl, rfl, rfl⟩
theorem tidepoolMoveDone (ledger : Nat) : Statement (.tidepoolMoveDone ledger) := ⟨rfl, rfl, rfl⟩
theorem tidepoolExpiry (ledger : Nat) : Statement (.tidepoolExpiry ledger) := ⟨rfl, rfl, rfl⟩
theorem tidepoolReturnDone (ledger : Nat) : Statement (.tidepoolReturnDone ledger) := ⟨rfl, rfl, rfl⟩
theorem ledgerEntryFreed (ledger : Nat) : Statement (.ledgerEntryFreed ledger) := ⟨rfl, rfl, rfl⟩
theorem demandRead (addr : Nat) (ecc : EccSeen) (by_ : Consumer) : Statement (.demandRead addr ecc by_) := ⟨rfl, rfl, rfl⟩
theorem fullWrite (addr : Nat) (data : List Byte) : Statement (.fullWrite addr data) := ⟨rfl, rfl, rfl⟩
theorem partialWrite (addr : Nat) (data : List Byte) (ecc : EccSeen) (by_ : Writer) : Statement (.partialWrite addr data ecc by_) := ⟨rfl, rfl, rfl⟩
theorem patrolRead (c : Fin 25) (ecc : EccSeen) : Statement (.patrolRead c ecc) := ⟨rfl, rfl, rfl⟩
theorem poisonDisposition (addr : Nat) (source : Nat) : Statement (.poisonDisposition addr source) := ⟨rfl, rfl, rfl⟩
theorem ceCountRetire (page : Nat) : Statement (.ceCountRetire page) := ⟨rfl, rfl, rfl⟩
theorem migrationDone (page : Nat) : Statement (.migrationDone page) := ⟨rfl, rfl, rfl⟩
theorem pageZeroed (page : Nat) : Statement (.pageZeroed page) := ⟨rfl, rfl, rfl⟩
theorem pageWalkDone (die : Fin 5) (asid dva : Nat) (write : Bool) (work : WalkWork) : Statement (.pageWalkDone die asid dva write work) := ⟨rfl, rfl, rfl⟩
theorem absentFaultServiced (asid dva : Nat) : Statement (.absentFaultServiced asid dva) := ⟨rfl, rfl, rfl⟩
theorem tidepoolFaultServiced (asid dva : Nat) : Statement (.tidepoolFaultServiced asid dva) := ⟨rfl, rfl, rfl⟩
theorem tidepoolFaultPageFreed (asid dva : Nat) : Statement (.tidepoolFaultPageFreed asid dva) := ⟨rfl, rfl, rfl⟩
theorem stepFaultWaitTimeout (step ledger : Nat) : Statement (.stepFaultWaitTimeout step ledger) := ⟨rfl, rfl, rfl⟩
theorem preemptFaultWaitTimeout (asid dva : Nat) : Statement (.preemptFaultWaitTimeout asid dva) := ⟨rfl, rfl, rfl⟩
theorem tablePageRebuilt (asid dva : Nat) : Statement (.tablePageRebuilt asid dva) := ⟨rfl, rfl, rfl⟩
theorem shootdown (asid dva : Nat) : Statement (.shootdown asid dva) := ⟨rfl, rfl, rfl⟩
theorem shootdownComplete (asid dva : Nat) : Statement (.shootdownComplete asid dva) := ⟨rfl, rfl, rfl⟩
theorem bankAccess (die : Fin 5) (bank off : Nat) (data : Option (List Byte)) (len code : Nat) (by_ : Writer) (seen : Seen) : Statement (.bankAccess die bank off data len code by_ seen) := ⟨rfl, rfl, rfl⟩
theorem bankHandover (die : Fin 5) (bank : Nat) (next : BitVec 5) : Statement (.bankHandover die bank next) := ⟨rfl, rfl, rfl⟩
theorem handoverDone (die : Fin 5) (bank : Nat) : Statement (.handoverDone die bank) := ⟨rfl, rfl, rfl⟩
theorem seizureDone (die : Fin 5) (bank : Nat) (failRow : Option Nat) : Statement (.seizureDone die bank failRow) := ⟨rfl, rfl, rfl⟩
theorem firmwareBankReclaim (die : Fin 5) (bank : Nat) : Statement (.firmwareBankReclaim die bank) := ⟨rfl, rfl, rfl⟩
theorem marchDone (die : Fin 5) (bank : Nat) (failRow : Option Nat) (found : List (Nat × EccSeen)) : Statement (.marchDone die bank failRow found) := ⟨rfl, rfl, rfl⟩
theorem linkTrained (l : Fin 8) (groups : Nat) : Statement (.linkTrained l groups) := ⟨rfl, rfl, rfl⟩
theorem linkTrainingTimeout (l : Fin 8) : Statement (.linkTrainingTimeout l) := ⟨rfl, rfl, rfl⟩
theorem flitReceived (l : Fin 8) (flit : Flit) (atFirst : Bool) : Statement (.flitReceived l flit atFirst) := ⟨rfl, rfl, rfl⟩
theorem replayRequest (l : Fin 8) (seq : Nat) (fromFirst : Bool) : Statement (.replayRequest l seq fromFirst) := ⟨rfl, rfl, rfl⟩
theorem ackTimeout (l : Fin 8) (fromFirst : Bool) : Statement (.ackTimeout l fromFirst) := ⟨rfl, rfl, rfl⟩
theorem flitRetryLimit (l : Fin 8) : Statement (.flitRetryLimit l) := ⟨rfl, rfl, rfl⟩
theorem rdReq (txn : Txn) (seen : Seen) : Statement (.rdReq txn seen) := ⟨rfl, rfl, rfl⟩
theorem wrReq (txn : Txn) (seen : Seen) : Statement (.wrReq txn seen) := ⟨rfl, rfl, rfl⟩
theorem rdRsp (tag : Nat) (src : Fin 5) : Statement (.rdRsp tag src) := ⟨rfl, rfl, rfl⟩
theorem wrAck (tag : Nat) (src : Fin 5) : Statement (.wrAck tag src) := ⟨rfl, rfl, rfl⟩
theorem errRsp (tag : Nat) (src : Fin 5) (code : Nat) : Statement (.errRsp tag src code) := ⟨rfl, rfl, rfl⟩
theorem auditMarker (l : Fin 8) : Statement (.auditMarker l) := ⟨rfl, rfl, rfl⟩
theorem recentreDue (l : Fin 8) (marked : Nat) (closed : List Nat) : Statement (.recentreDue l marked closed) := ⟨rfl, rfl, rfl⟩
theorem recentreGapForced (l : Fin 8) : Statement (.recentreGapForced l) := ⟨rfl, rfl, rfl⟩
theorem groupDisable (l : Fin 8) (group : Nat) : Statement (.groupDisable l group) := ⟨rfl, rfl, rfl⟩
theorem partnerClockStop (l : Fin 8) (atFirst : Bool) (groups : List Nat) : Statement (.partnerClockStop l atFirst groups) := ⟨rfl, rfl, rfl⟩
theorem dieLossPath (d : Fin 4) : Statement (.dieLossPath d) := ⟨rfl, rfl, rfl⟩
theorem dieResetApplied (d : Fin 4) : Statement (.dieResetApplied d) := ⟨rfl, rfl, rfl⟩
theorem dieRejoinDone (d : Fin 4) (result : RejoinEnd) : Statement (.dieRejoinDone d result) := ⟨rfl, rfl, rfl⟩
theorem slackTideStart (found : List LaneTest) : Statement (.slackTideStart found) := ⟨rfl, rfl, rfl⟩
theorem slackTideEnd (durationUs : Nat) : Statement (.slackTideEnd durationUs) := ⟨rfl, rfl, rfl⟩
theorem groupMovePrepared (model : Nat) (ok : Bool) : Statement (.groupMovePrepared model ok) := ⟨rfl, rfl, rfl⟩
theorem avsFrameAck (d : Fin 4) : Statement (.avsFrameAck d) := ⟨rfl, rfl, rfl⟩
theorem avsNoAck (d : Fin 4) : Statement (.avsNoAck d) := ⟨rfl, rfl, rfl⟩
theorem avsStepSettled (d : Fin 4) : Statement (.avsStepSettled d) := ⟨rfl, rfl, rfl⟩
theorem setEndpointId (op : BitVec 2) (eid : Byte) : Statement (.setEndpointId op eid) := ⟨rfl, rfl, rfl⟩
theorem getEndpointId : Statement (.getEndpointId) := ⟨rfl, rfl, rfl⟩
theorem getMctpVersionSupport (msgType : Byte) : Statement (.getMctpVersionSupport msgType) := ⟨rfl, rfl, rfl⟩
theorem getMessageTypeSupport : Statement (.getMessageTypeSupport) := ⟨rfl, rfl, rfl⟩
theorem mctpUnsupportedCmd (cmd : Byte) : Statement (.mctpUnsupportedCmd cmd) := ⟨rfl, rfl, rfl⟩
theorem smbusAlertResponse : Statement (.smbusAlertResponse) := ⟨rfl, rfl, rfl⟩
theorem getTid : Statement (.getTid) := ⟨rfl, rfl, rfl⟩
theorem setTid (tid : Byte) : Statement (.setTid tid) := ⟨rfl, rfl, rfl⟩
theorem getPldmVersion (typ : Byte) : Statement (.getPldmVersion typ) := ⟨rfl, rfl, rfl⟩
theorem getPldmTypes : Statement (.getPldmTypes) := ⟨rfl, rfl, rfl⟩
theorem getPldmCommands (typ : Byte) : Statement (.getPldmCommands typ) := ⟨rfl, rfl, rfl⟩
theorem getPdrRepositoryInfo : Statement (.getPdrRepositoryInfo) := ⟨rfl, rfl, rfl⟩
theorem getPdr (record : Nat) : Statement (.getPdr record) := ⟨rfl, rfl, rfl⟩
theorem getSensorReading (sensor : Nat) : Statement (.getSensorReading sensor) := ⟨rfl, rfl, rfl⟩
theorem getStateSensorReadings (sensor : Nat) : Statement (.getStateSensorReadings sensor) := ⟨rfl, rfl, rfl⟩
theorem setNumericEffecterValue (effecter value : Nat) : Statement (.setNumericEffecterValue effecter value) := ⟨rfl, rfl, rfl⟩
theorem getNumericEffecterValue (effecter : Nat) : Statement (.getNumericEffecterValue effecter) := ⟨rfl, rfl, rfl⟩
theorem requestUpdate : Statement (.requestUpdate) := ⟨rfl, rfl, rfl⟩
theorem passComponentTable (comps : List Nat) : Statement (.passComponentTable comps) := ⟨rfl, rfl, rfl⟩
theorem updateComponent (comp size : Nat) : Statement (.updateComponent comp size) := ⟨rfl, rfl, rfl⟩
theorem firmwareDataReceived (data : List Byte) : Statement (.firmwareDataReceived data) := ⟨rfl, rfl, rfl⟩
theorem verifyComplete (version : Word) (svn : Nat) (stepping : Byte) (sigOk : Bool) : Statement (.verifyComplete version svn stepping sigOk) := ⟨rfl, rfl, rfl⟩
theorem applyComplete : Statement (.applyComplete) := ⟨rfl, rfl, rfl⟩
theorem activateFirmware : Statement (.activateFirmware) := ⟨rfl, rfl, rfl⟩
theorem cancelUpdate : Statement (.cancelUpdate) := ⟨rfl, rfl, rfl⟩
theorem updateIdleTimeout : Statement (.updateIdleTimeout) := ⟨rfl, rfl, rfl⟩
theorem getVersion (conn : Nat) : Statement (.getVersion conn) := ⟨rfl, rfl, rfl⟩
theorem getCapabilities (conn : Nat) : Statement (.getCapabilities conn) := ⟨rfl, rfl, rfl⟩
theorem negotiateAlgorithms (conn : Nat) (p384sha384 : Bool) : Statement (.negotiateAlgorithms conn p384sha384) := ⟨rfl, rfl, rfl⟩
theorem getDigests (conn : Nat) : Statement (.getDigests conn) := ⟨rfl, rfl, rfl⟩
theorem getCertificate (conn : Nat) (slot off len : Nat) : Statement (.getCertificate conn slot off len) := ⟨rfl, rfl, rfl⟩
theorem challenge (conn : Nat) (slot : Nat) : Statement (.challenge conn slot) := ⟨rfl, rfl, rfl⟩
theorem getMeasurements (conn : Nat) (signed : Bool) (index : Nat) : Statement (.getMeasurements conn signed index) := ⟨rfl, rfl, rfl⟩
theorem respondIfReady (conn : Nat) (token : Nat) : Statement (.respondIfReady conn token) := ⟨rfl, rfl, rfl⟩
theorem signingDone : Statement (.signingDone) := ⟨rfl, rfl, rfl⟩
theorem tapReset : Statement (.tapReset) := ⟨rfl, rfl, rfl⟩
theorem extest : Statement (.extest) := ⟨rfl, rfl, rfl⟩
theorem samplePreload : Statement (.samplePreload) := ⟨rfl, rfl, rfl⟩
theorem idcode : Statement (.idcode) := ⟨rfl, rfl, rfl⟩
theorem dbgChallenge : Statement (.dbgChallenge) := ⟨rfl, rfl, rfl⟩
theorem dbgResponse (level : Nat) (sigOk : Bool) : Statement (.dbgResponse level sigOk) := ⟨rfl, rfl, rfl⟩
theorem dieSelect (d : Fin 5) : Statement (.dieSelect d) := ⟨rfl, rfl, rfl⟩
theorem testAccess (op : Nat) (arg : Nat) : Statement (.testAccess op arg) := ⟨rfl, rfl, rfl⟩
theorem fuseProg (die : Fin 5) (field : FuseField) : Statement (.fuseProg die field) := ⟨rfl, rfl, rfl⟩
theorem regRead (off : Nat) : Statement (.regRead off) := ⟨rfl, rfl, rfl⟩
theorem bypass : Statement (.bypass) := ⟨rfl, rfl, rfl⟩
theorem crestRootPllLock (d : Fin 4) : Statement (.crestRootPllLock d) := ⟨rfl, rfl, rfl⟩
theorem pcieLinkUp (speed width : Nat) (flit : Bool) : Statement (.pcieLinkUp speed width flit) := ⟨rfl, rfl, rfl⟩
theorem receiverError (f : Fin 16) (err : RcvError) : Statement (.receiverError f err) := ⟨rfl, rfl, rfl⟩
theorem railReturn : Statement (.railReturn) := ⟨rfl, rfl, rfl⟩
theorem perstNDeassertionTaken (straps : Straps) : Statement (.perstNDeassertionTaken straps) := ⟨rfl, rfl, rfl⟩
theorem vocabImageReloaded (handle : Nat) : Statement (.vocabImageReloaded handle) := ⟨rfl, rfl, rfl⟩
theorem grammarCopyBuilt (handle : Nat) (d : Fin 4) : Statement (.grammarCopyBuilt handle d) := ⟨rfl, rfl, rfl⟩

end Sys2Proof.Laws.Sender
end

