-- ==== Sys2Proof/Laws/State.lean ====
section
/-! SUPPORT. What each named update of the state does to each field: one lemma per field and update. -/

namespace Sys2Proof.Machine

open Sys2Proof

/-! ### updFn -/

@[simp] theorem updFn_pins (s : State) (f : Nat) (g : Fn → Fn) : (updFn s f g).pins = s.pins := rfl
@[simp] theorem updFn_boot (s : State) (f : Nat) (g : Fn → Fn) : (updFn s f g).boot = s.boot := rfl
@[simp] theorem updFn_hbFuses (s : State) (f : Nat) (g : Fn → Fn) : (updFn s f g).hbFuses = s.hbFuses := rfl
@[simp] theorem updFn_dies (s : State) (f : Nat) (g : Fn → Fn) : (updFn s f g).dies = s.dies := rfl
@[simp] theorem updFn_thermal (s : State) (f : Nat) (g : Fn → Fn) : (updFn s f g).thermal = s.thermal := rfl
@[simp] theorem updFn_training (s : State) (f : Nat) (g : Fn → Fn) : (updFn s f g).training = s.training := rfl
@[simp] theorem updFn_fns (s : State) (f : Nat) (g : Fn → Fn) :
    (updFn s f g).fns = tmod ({} : Fn) s.fns f g := rfl
@[simp] theorem updFn_sriov (s : State) (f : Nat) (g : Fn → Fn) : (updFn s f g).sriov = s.sriov := rfl
@[simp] theorem updFn_vfMse (s : State) (f : Nat) (g : Fn → Fn) : (updFn s f g).vfMse = s.vfMse := rfl
@[simp] theorem updFn_ari (s : State) (f : Nat) (g : Fn → Fn) : (updFn s f g).ari = s.ari := rfl
@[simp] theorem updFn_numVfs (s : State) (f : Nat) (g : Fn → Fn) : (updFn s f g).numVfs = s.numVfs := rfl
@[simp] theorem updFn_pcie (s : State) (f : Nat) (g : Fn → Fn) : (updFn s f g).pcie = s.pcie := rfl
@[simp] theorem updFn_atc (s : State) (f : Nat) (g : Fn → Fn) : (updFn s f g).atc = s.atc := rfl
@[simp] theorem updFn_pfHeld (s : State) (f : Nat) (g : Fn → Fn) : (updFn s f g).pfHeld = s.pfHeld := rfl
@[simp] theorem updFn_cp (s : State) (f : Nat) (g : Fn → Fn) : (updFn s f g).cp = s.cp := rfl
@[simp] theorem updFn_regions (s : State) (f : Nat) (g : Fn → Fn) : (updFn s f g).regions = s.regions := rfl
@[simp] theorem updFn_models (s : State) (f : Nat) (g : Fn → Fn) : (updFn s f g).models = s.models := rfl
@[simp] theorem updFn_vocabs (s : State) (f : Nat) (g : Fn → Fn) : (updFn s f g).vocabs = s.vocabs := rfl
@[simp] theorem updFn_bins (s : State) (f : Nat) (g : Fn → Fn) : (updFn s f g).bins = s.bins := rfl
@[simp] theorem updFn_grammars (s : State) (f : Nat) (g : Fn → Fn) : (updFn s f g).grammars = s.grammars := rfl
@[simp] theorem updFn_serials (s : State) (f : Nat) (g : Fn → Fn) : (updFn s f g).serials = s.serials := rfl
@[simp] theorem updFn_uncommitted (s : State) (f : Nat) (g : Fn → Fn) : (updFn s f g).uncommitted = s.uncommitted := rfl
@[simp] theorem updFn_ledger (s : State) (f : Nat) (g : Fn → Fn) : (updFn s f g).ledger = s.ledger := rfl
@[simp] theorem updFn_ledgerX (s : State) (f : Nat) (g : Fn → Fn) : (updFn s f g).ledgerX = s.ledgerX := rfl
@[simp] theorem updFn_steps (s : State) (f : Nat) (g : Fn → Fn) : (updFn s f g).steps = s.steps := rfl
@[simp] theorem updFn_nextStep (s : State) (f : Nat) (g : Fn → Fn) : (updFn s f g).nextStep = s.nextStep := rfl
@[simp] theorem updFn_lanesIn (s : State) (f : Nat) (g : Fn → Fn) : (updFn s f g).lanesIn = s.lanesIn := rfl
@[simp] theorem updFn_lanesOut (s : State) (f : Nat) (g : Fn → Fn) : (updFn s f g).lanesOut = s.lanesOut := rfl
@[simp] theorem updFn_turnIn (s : State) (f : Nat) (g : Fn → Fn) : (updFn s f g).turnIn = s.turnIn := rfl
@[simp] theorem updFn_turnOut (s : State) (f : Nat) (g : Fn → Fn) : (updFn s f g).turnOut = s.turnOut := rfl
@[simp] theorem updFn_mem (s : State) (f : Nat) (g : Fn → Fn) : (updFn s f g).mem = s.mem := rfl
@[simp] theorem updFn_poison (s : State) (f : Nat) (g : Fn → Fn) : (updFn s f g).poison = s.poison := rfl
@[simp] theorem updFn_pages (s : State) (f : Nat) (g : Fn → Fn) : (updFn s f g).pages = s.pages := rfl
@[simp] theorem updFn_shooting (s : State) (f : Nat) (g : Fn → Fn) : (updFn s f g).shooting = s.shooting := rfl
@[simp] theorem updFn_tlbs (s : State) (f : Nat) (g : Fn → Fn) : (updFn s f g).tlbs = s.tlbs := rfl
@[simp] theorem updFn_stale (s : State) (f : Nat) (g : Fn → Fn) : (updFn s f g).stale = s.stale := rfl
@[simp] theorem updFn_faults (s : State) (f : Nat) (g : Fn → Fn) : (updFn s f g).faults = s.faults := rfl
@[simp] theorem updFn_scrubs (s : State) (f : Nat) (g : Fn → Fn) : (updFn s f g).scrubs = s.scrubs := rfl
@[simp] theorem updFn_banks (s : State) (f : Nat) (g : Fn → Fn) : (updFn s f g).banks = s.banks := rfl
@[simp] theorem updFn_bankRefused (s : State) (f : Nat) (g : Fn → Fn) : (updFn s f g).bankRefused = s.bankRefused := rfl
@[simp] theorem updFn_links (s : State) (f : Nat) (g : Fn → Fn) : (updFn s f g).links = s.links := rfl
@[simp] theorem updFn_txns (s : State) (f : Nat) (g : Fn → Fn) : (updFn s f g).txns = s.txns := rfl
@[simp] theorem updFn_energy (s : State) (f : Nat) (g : Fn → Fn) : (updFn s f g).energy = s.energy := rfl
@[simp] theorem updFn_conf (s : State) (f : Nat) (g : Fn → Fn) : (updFn s f g).conf = s.conf := rfl
@[simp] theorem updFn_errlog (s : State) (f : Nat) (g : Fn → Fn) : (updFn s f g).errlog = s.errlog := rfl
@[simp] theorem updFn_errNext (s : State) (f : Nat) (g : Fn → Fn) : (updFn s f g).errNext = s.errNext := rfl
@[simp] theorem updFn_books (s : State) (f : Nat) (g : Fn → Fn) : (updFn s f g).books = s.books := rfl
@[simp] theorem updFn_mgmt (s : State) (f : Nat) (g : Fn → Fn) : (updFn s f g).mgmt = s.mgmt := rfl
@[simp] theorem updFn_now (s : State) (f : Nat) (g : Fn → Fn) : (updFn s f g).now = s.now := rfl
@[simp] theorem updFn_freeCtr (s : State) (f : Nat) (g : Fn → Fn) : (updFn s f g).freeCtr = s.freeCtr := rfl
@[simp] theorem updFn_out (s : State) (f : Nat) (g : Fn → Fn) : (updFn s f g).out = s.out := rfl
@[simp] theorem updFn_pending (s : State) (f : Nat) (g : Fn → Fn) : (updFn s f g).pending = s.pending := rfl

/-! ### updDie -/

@[simp] theorem updDie_pins (s : State) (d : Nat) (g : Die → Die) : (updDie s d g).pins = s.pins := rfl
@[simp] theorem updDie_boot (s : State) (d : Nat) (g : Die → Die) : (updDie s d g).boot = s.boot := rfl
@[simp] theorem updDie_hbFuses (s : State) (d : Nat) (g : Die → Die) : (updDie s d g).hbFuses = s.hbFuses := rfl
@[simp] theorem updDie_dies (s : State) (d : Nat) (g : Die → Die) :
    (updDie s d g).dies = tmod ({} : Die) s.dies d g := rfl
@[simp] theorem updDie_thermal (s : State) (d : Nat) (g : Die → Die) : (updDie s d g).thermal = s.thermal := rfl
@[simp] theorem updDie_training (s : State) (d : Nat) (g : Die → Die) : (updDie s d g).training = s.training := rfl
@[simp] theorem updDie_fns (s : State) (d : Nat) (g : Die → Die) : (updDie s d g).fns = s.fns := rfl
@[simp] theorem updDie_sriov (s : State) (d : Nat) (g : Die → Die) : (updDie s d g).sriov = s.sriov := rfl
@[simp] theorem updDie_vfMse (s : State) (d : Nat) (g : Die → Die) : (updDie s d g).vfMse = s.vfMse := rfl
@[simp] theorem updDie_ari (s : State) (d : Nat) (g : Die → Die) : (updDie s d g).ari = s.ari := rfl
@[simp] theorem updDie_numVfs (s : State) (d : Nat) (g : Die → Die) : (updDie s d g).numVfs = s.numVfs := rfl
@[simp] theorem updDie_pcie (s : State) (d : Nat) (g : Die → Die) : (updDie s d g).pcie = s.pcie := rfl
@[simp] theorem updDie_atc (s : State) (d : Nat) (g : Die → Die) : (updDie s d g).atc = s.atc := rfl
@[simp] theorem updDie_pfHeld (s : State) (d : Nat) (g : Die → Die) : (updDie s d g).pfHeld = s.pfHeld := rfl
@[simp] theorem updDie_cp (s : State) (d : Nat) (g : Die → Die) : (updDie s d g).cp = s.cp := rfl
@[simp] theorem updDie_regions (s : State) (d : Nat) (g : Die → Die) : (updDie s d g).regions = s.regions := rfl
@[simp] theorem updDie_models (s : State) (d : Nat) (g : Die → Die) : (updDie s d g).models = s.models := rfl
@[simp] theorem updDie_vocabs (s : State) (d : Nat) (g : Die → Die) : (updDie s d g).vocabs = s.vocabs := rfl
@[simp] theorem updDie_bins (s : State) (d : Nat) (g : Die → Die) : (updDie s d g).bins = s.bins := rfl
@[simp] theorem updDie_grammars (s : State) (d : Nat) (g : Die → Die) : (updDie s d g).grammars = s.grammars := rfl
@[simp] theorem updDie_serials (s : State) (d : Nat) (g : Die → Die) : (updDie s d g).serials = s.serials := rfl
@[simp] theorem updDie_uncommitted (s : State) (d : Nat) (g : Die → Die) : (updDie s d g).uncommitted = s.uncommitted := rfl
@[simp] theorem updDie_ledger (s : State) (d : Nat) (g : Die → Die) : (updDie s d g).ledger = s.ledger := rfl
@[simp] theorem updDie_ledgerX (s : State) (d : Nat) (g : Die → Die) : (updDie s d g).ledgerX = s.ledgerX := rfl
@[simp] theorem updDie_steps (s : State) (d : Nat) (g : Die → Die) : (updDie s d g).steps = s.steps := rfl
@[simp] theorem updDie_nextStep (s : State) (d : Nat) (g : Die → Die) : (updDie s d g).nextStep = s.nextStep := rfl
@[simp] theorem updDie_lanesIn (s : State) (d : Nat) (g : Die → Die) : (updDie s d g).lanesIn = s.lanesIn := rfl
@[simp] theorem updDie_lanesOut (s : State) (d : Nat) (g : Die → Die) : (updDie s d g).lanesOut = s.lanesOut := rfl
@[simp] theorem updDie_turnIn (s : State) (d : Nat) (g : Die → Die) : (updDie s d g).turnIn = s.turnIn := rfl
@[simp] theorem updDie_turnOut (s : State) (d : Nat) (g : Die → Die) : (updDie s d g).turnOut = s.turnOut := rfl
@[simp] theorem updDie_mem (s : State) (d : Nat) (g : Die → Die) : (updDie s d g).mem = s.mem := rfl
@[simp] theorem updDie_poison (s : State) (d : Nat) (g : Die → Die) : (updDie s d g).poison = s.poison := rfl
@[simp] theorem updDie_pages (s : State) (d : Nat) (g : Die → Die) : (updDie s d g).pages = s.pages := rfl
@[simp] theorem updDie_shooting (s : State) (d : Nat) (g : Die → Die) : (updDie s d g).shooting = s.shooting := rfl
@[simp] theorem updDie_tlbs (s : State) (d : Nat) (g : Die → Die) : (updDie s d g).tlbs = s.tlbs := rfl
@[simp] theorem updDie_stale (s : State) (d : Nat) (g : Die → Die) : (updDie s d g).stale = s.stale := rfl
@[simp] theorem updDie_faults (s : State) (d : Nat) (g : Die → Die) : (updDie s d g).faults = s.faults := rfl
@[simp] theorem updDie_scrubs (s : State) (d : Nat) (g : Die → Die) : (updDie s d g).scrubs = s.scrubs := rfl
@[simp] theorem updDie_banks (s : State) (d : Nat) (g : Die → Die) : (updDie s d g).banks = s.banks := rfl
@[simp] theorem updDie_bankRefused (s : State) (d : Nat) (g : Die → Die) : (updDie s d g).bankRefused = s.bankRefused := rfl
@[simp] theorem updDie_links (s : State) (d : Nat) (g : Die → Die) : (updDie s d g).links = s.links := rfl
@[simp] theorem updDie_txns (s : State) (d : Nat) (g : Die → Die) : (updDie s d g).txns = s.txns := rfl
@[simp] theorem updDie_energy (s : State) (d : Nat) (g : Die → Die) : (updDie s d g).energy = s.energy := rfl
@[simp] theorem updDie_conf (s : State) (d : Nat) (g : Die → Die) : (updDie s d g).conf = s.conf := rfl
@[simp] theorem updDie_errlog (s : State) (d : Nat) (g : Die → Die) : (updDie s d g).errlog = s.errlog := rfl
@[simp] theorem updDie_errNext (s : State) (d : Nat) (g : Die → Die) : (updDie s d g).errNext = s.errNext := rfl
@[simp] theorem updDie_books (s : State) (d : Nat) (g : Die → Die) : (updDie s d g).books = s.books := rfl
@[simp] theorem updDie_mgmt (s : State) (d : Nat) (g : Die → Die) : (updDie s d g).mgmt = s.mgmt := rfl
@[simp] theorem updDie_now (s : State) (d : Nat) (g : Die → Die) : (updDie s d g).now = s.now := rfl
@[simp] theorem updDie_freeCtr (s : State) (d : Nat) (g : Die → Die) : (updDie s d g).freeCtr = s.freeCtr := rfl
@[simp] theorem updDie_out (s : State) (d : Nat) (g : Die → Die) : (updDie s d g).out = s.out := rfl
@[simp] theorem updDie_pending (s : State) (d : Nat) (g : Die → Die) : (updDie s d g).pending = s.pending := rfl

/-! ### updLink -/

@[simp] theorem updLink_pins (s : State) (l : Nat) (g : Link → Link) : (updLink s l g).pins = s.pins := rfl
@[simp] theorem updLink_boot (s : State) (l : Nat) (g : Link → Link) : (updLink s l g).boot = s.boot := rfl
@[simp] theorem updLink_hbFuses (s : State) (l : Nat) (g : Link → Link) : (updLink s l g).hbFuses = s.hbFuses := rfl
@[simp] theorem updLink_dies (s : State) (l : Nat) (g : Link → Link) : (updLink s l g).dies = s.dies := rfl
@[simp] theorem updLink_thermal (s : State) (l : Nat) (g : Link → Link) : (updLink s l g).thermal = s.thermal := rfl
@[simp] theorem updLink_training (s : State) (l : Nat) (g : Link → Link) : (updLink s l g).training = s.training := rfl
@[simp] theorem updLink_fns (s : State) (l : Nat) (g : Link → Link) : (updLink s l g).fns = s.fns := rfl
@[simp] theorem updLink_sriov (s : State) (l : Nat) (g : Link → Link) : (updLink s l g).sriov = s.sriov := rfl
@[simp] theorem updLink_vfMse (s : State) (l : Nat) (g : Link → Link) : (updLink s l g).vfMse = s.vfMse := rfl
@[simp] theorem updLink_ari (s : State) (l : Nat) (g : Link → Link) : (updLink s l g).ari = s.ari := rfl
@[simp] theorem updLink_numVfs (s : State) (l : Nat) (g : Link → Link) : (updLink s l g).numVfs = s.numVfs := rfl
@[simp] theorem updLink_pcie (s : State) (l : Nat) (g : Link → Link) : (updLink s l g).pcie = s.pcie := rfl
@[simp] theorem updLink_atc (s : State) (l : Nat) (g : Link → Link) : (updLink s l g).atc = s.atc := rfl
@[simp] theorem updLink_pfHeld (s : State) (l : Nat) (g : Link → Link) : (updLink s l g).pfHeld = s.pfHeld := rfl
@[simp] theorem updLink_cp (s : State) (l : Nat) (g : Link → Link) : (updLink s l g).cp = s.cp := rfl
@[simp] theorem updLink_regions (s : State) (l : Nat) (g : Link → Link) : (updLink s l g).regions = s.regions := rfl
@[simp] theorem updLink_models (s : State) (l : Nat) (g : Link → Link) : (updLink s l g).models = s.models := rfl
@[simp] theorem updLink_vocabs (s : State) (l : Nat) (g : Link → Link) : (updLink s l g).vocabs = s.vocabs := rfl
@[simp] theorem updLink_bins (s : State) (l : Nat) (g : Link → Link) : (updLink s l g).bins = s.bins := rfl
@[simp] theorem updLink_grammars (s : State) (l : Nat) (g : Link → Link) : (updLink s l g).grammars = s.grammars := rfl
@[simp] theorem updLink_serials (s : State) (l : Nat) (g : Link → Link) : (updLink s l g).serials = s.serials := rfl
@[simp] theorem updLink_uncommitted (s : State) (l : Nat) (g : Link → Link) : (updLink s l g).uncommitted = s.uncommitted := rfl
@[simp] theorem updLink_ledger (s : State) (l : Nat) (g : Link → Link) : (updLink s l g).ledger = s.ledger := rfl
@[simp] theorem updLink_ledgerX (s : State) (l : Nat) (g : Link → Link) : (updLink s l g).ledgerX = s.ledgerX := rfl
@[simp] theorem updLink_steps (s : State) (l : Nat) (g : Link → Link) : (updLink s l g).steps = s.steps := rfl
@[simp] theorem updLink_nextStep (s : State) (l : Nat) (g : Link → Link) : (updLink s l g).nextStep = s.nextStep := rfl
@[simp] theorem updLink_lanesIn (s : State) (l : Nat) (g : Link → Link) : (updLink s l g).lanesIn = s.lanesIn := rfl
@[simp] theorem updLink_lanesOut (s : State) (l : Nat) (g : Link → Link) : (updLink s l g).lanesOut = s.lanesOut := rfl
@[simp] theorem updLink_turnIn (s : State) (l : Nat) (g : Link → Link) : (updLink s l g).turnIn = s.turnIn := rfl
@[simp] theorem updLink_turnOut (s : State) (l : Nat) (g : Link → Link) : (updLink s l g).turnOut = s.turnOut := rfl
@[simp] theorem updLink_mem (s : State) (l : Nat) (g : Link → Link) : (updLink s l g).mem = s.mem := rfl
@[simp] theorem updLink_poison (s : State) (l : Nat) (g : Link → Link) : (updLink s l g).poison = s.poison := rfl
@[simp] theorem updLink_pages (s : State) (l : Nat) (g : Link → Link) : (updLink s l g).pages = s.pages := rfl
@[simp] theorem updLink_shooting (s : State) (l : Nat) (g : Link → Link) : (updLink s l g).shooting = s.shooting := rfl
@[simp] theorem updLink_tlbs (s : State) (l : Nat) (g : Link → Link) : (updLink s l g).tlbs = s.tlbs := rfl
@[simp] theorem updLink_stale (s : State) (l : Nat) (g : Link → Link) : (updLink s l g).stale = s.stale := rfl
@[simp] theorem updLink_faults (s : State) (l : Nat) (g : Link → Link) : (updLink s l g).faults = s.faults := rfl
@[simp] theorem updLink_scrubs (s : State) (l : Nat) (g : Link → Link) : (updLink s l g).scrubs = s.scrubs := rfl
@[simp] theorem updLink_banks (s : State) (l : Nat) (g : Link → Link) : (updLink s l g).banks = s.banks := rfl
@[simp] theorem updLink_bankRefused (s : State) (l : Nat) (g : Link → Link) : (updLink s l g).bankRefused = s.bankRefused := rfl
@[simp] theorem updLink_links (s : State) (l : Nat) (g : Link → Link) :
    (updLink s l g).links = tmod ({} : Link) s.links l g := rfl
@[simp] theorem updLink_txns (s : State) (l : Nat) (g : Link → Link) : (updLink s l g).txns = s.txns := rfl
@[simp] theorem updLink_energy (s : State) (l : Nat) (g : Link → Link) : (updLink s l g).energy = s.energy := rfl
@[simp] theorem updLink_conf (s : State) (l : Nat) (g : Link → Link) : (updLink s l g).conf = s.conf := rfl
@[simp] theorem updLink_errlog (s : State) (l : Nat) (g : Link → Link) : (updLink s l g).errlog = s.errlog := rfl
@[simp] theorem updLink_errNext (s : State) (l : Nat) (g : Link → Link) : (updLink s l g).errNext = s.errNext := rfl
@[simp] theorem updLink_books (s : State) (l : Nat) (g : Link → Link) : (updLink s l g).books = s.books := rfl
@[simp] theorem updLink_mgmt (s : State) (l : Nat) (g : Link → Link) : (updLink s l g).mgmt = s.mgmt := rfl
@[simp] theorem updLink_now (s : State) (l : Nat) (g : Link → Link) : (updLink s l g).now = s.now := rfl
@[simp] theorem updLink_freeCtr (s : State) (l : Nat) (g : Link → Link) : (updLink s l g).freeCtr = s.freeCtr := rfl
@[simp] theorem updLink_out (s : State) (l : Nat) (g : Link → Link) : (updLink s l g).out = s.out := rfl
@[simp] theorem updLink_pending (s : State) (l : Nat) (g : Link → Link) : (updLink s l g).pending = s.pending := rfl

/-! ### updTherm -/

@[simp] theorem updTherm_pins (s : State) (d : Nat) (g : Thermal → Thermal) : (updTherm s d g).pins = s.pins := rfl
@[simp] theorem updTherm_boot (s : State) (d : Nat) (g : Thermal → Thermal) : (updTherm s d g).boot = s.boot := rfl
@[simp] theorem updTherm_hbFuses (s : State) (d : Nat) (g : Thermal → Thermal) : (updTherm s d g).hbFuses = s.hbFuses := rfl
@[simp] theorem updTherm_dies (s : State) (d : Nat) (g : Thermal → Thermal) : (updTherm s d g).dies = s.dies := rfl
@[simp] theorem updTherm_thermal (s : State) (d : Nat) (g : Thermal → Thermal) :
    (updTherm s d g).thermal = tmod ({} : Thermal) s.thermal d g := rfl
@[simp] theorem updTherm_training (s : State) (d : Nat) (g : Thermal → Thermal) : (updTherm s d g).training = s.training := rfl
@[simp] theorem updTherm_fns (s : State) (d : Nat) (g : Thermal → Thermal) : (updTherm s d g).fns = s.fns := rfl
@[simp] theorem updTherm_sriov (s : State) (d : Nat) (g : Thermal → Thermal) : (updTherm s d g).sriov = s.sriov := rfl
@[simp] theorem updTherm_vfMse (s : State) (d : Nat) (g : Thermal → Thermal) : (updTherm s d g).vfMse = s.vfMse := rfl
@[simp] theorem updTherm_ari (s : State) (d : Nat) (g : Thermal → Thermal) : (updTherm s d g).ari = s.ari := rfl
@[simp] theorem updTherm_numVfs (s : State) (d : Nat) (g : Thermal → Thermal) : (updTherm s d g).numVfs = s.numVfs := rfl
@[simp] theorem updTherm_pcie (s : State) (d : Nat) (g : Thermal → Thermal) : (updTherm s d g).pcie = s.pcie := rfl
@[simp] theorem updTherm_atc (s : State) (d : Nat) (g : Thermal → Thermal) : (updTherm s d g).atc = s.atc := rfl
@[simp] theorem updTherm_pfHeld (s : State) (d : Nat) (g : Thermal → Thermal) : (updTherm s d g).pfHeld = s.pfHeld := rfl
@[simp] theorem updTherm_cp (s : State) (d : Nat) (g : Thermal → Thermal) : (updTherm s d g).cp = s.cp := rfl
@[simp] theorem updTherm_regions (s : State) (d : Nat) (g : Thermal → Thermal) : (updTherm s d g).regions = s.regions := rfl
@[simp] theorem updTherm_models (s : State) (d : Nat) (g : Thermal → Thermal) : (updTherm s d g).models = s.models := rfl
@[simp] theorem updTherm_vocabs (s : State) (d : Nat) (g : Thermal → Thermal) : (updTherm s d g).vocabs = s.vocabs := rfl
@[simp] theorem updTherm_bins (s : State) (d : Nat) (g : Thermal → Thermal) : (updTherm s d g).bins = s.bins := rfl
@[simp] theorem updTherm_grammars (s : State) (d : Nat) (g : Thermal → Thermal) : (updTherm s d g).grammars = s.grammars := rfl
@[simp] theorem updTherm_serials (s : State) (d : Nat) (g : Thermal → Thermal) : (updTherm s d g).serials = s.serials := rfl
@[simp] theorem updTherm_uncommitted (s : State) (d : Nat) (g : Thermal → Thermal) : (updTherm s d g).uncommitted = s.uncommitted := rfl
@[simp] theorem updTherm_ledger (s : State) (d : Nat) (g : Thermal → Thermal) : (updTherm s d g).ledger = s.ledger := rfl
@[simp] theorem updTherm_ledgerX (s : State) (d : Nat) (g : Thermal → Thermal) : (updTherm s d g).ledgerX = s.ledgerX := rfl
@[simp] theorem updTherm_steps (s : State) (d : Nat) (g : Thermal → Thermal) : (updTherm s d g).steps = s.steps := rfl
@[simp] theorem updTherm_nextStep (s : State) (d : Nat) (g : Thermal → Thermal) : (updTherm s d g).nextStep = s.nextStep := rfl
@[simp] theorem updTherm_lanesIn (s : State) (d : Nat) (g : Thermal → Thermal) : (updTherm s d g).lanesIn = s.lanesIn := rfl
@[simp] theorem updTherm_lanesOut (s : State) (d : Nat) (g : Thermal → Thermal) : (updTherm s d g).lanesOut = s.lanesOut := rfl
@[simp] theorem updTherm_turnIn (s : State) (d : Nat) (g : Thermal → Thermal) : (updTherm s d g).turnIn = s.turnIn := rfl
@[simp] theorem updTherm_turnOut (s : State) (d : Nat) (g : Thermal → Thermal) : (updTherm s d g).turnOut = s.turnOut := rfl
@[simp] theorem updTherm_mem (s : State) (d : Nat) (g : Thermal → Thermal) : (updTherm s d g).mem = s.mem := rfl
@[simp] theorem updTherm_poison (s : State) (d : Nat) (g : Thermal → Thermal) : (updTherm s d g).poison = s.poison := rfl
@[simp] theorem updTherm_pages (s : State) (d : Nat) (g : Thermal → Thermal) : (updTherm s d g).pages = s.pages := rfl
@[simp] theorem updTherm_shooting (s : State) (d : Nat) (g : Thermal → Thermal) : (updTherm s d g).shooting = s.shooting := rfl
@[simp] theorem updTherm_tlbs (s : State) (d : Nat) (g : Thermal → Thermal) : (updTherm s d g).tlbs = s.tlbs := rfl
@[simp] theorem updTherm_stale (s : State) (d : Nat) (g : Thermal → Thermal) : (updTherm s d g).stale = s.stale := rfl
@[simp] theorem updTherm_faults (s : State) (d : Nat) (g : Thermal → Thermal) : (updTherm s d g).faults = s.faults := rfl
@[simp] theorem updTherm_scrubs (s : State) (d : Nat) (g : Thermal → Thermal) : (updTherm s d g).scrubs = s.scrubs := rfl
@[simp] theorem updTherm_banks (s : State) (d : Nat) (g : Thermal → Thermal) : (updTherm s d g).banks = s.banks := rfl
@[simp] theorem updTherm_bankRefused (s : State) (d : Nat) (g : Thermal → Thermal) : (updTherm s d g).bankRefused = s.bankRefused := rfl
@[simp] theorem updTherm_links (s : State) (d : Nat) (g : Thermal → Thermal) : (updTherm s d g).links = s.links := rfl
@[simp] theorem updTherm_txns (s : State) (d : Nat) (g : Thermal → Thermal) : (updTherm s d g).txns = s.txns := rfl
@[simp] theorem updTherm_energy (s : State) (d : Nat) (g : Thermal → Thermal) : (updTherm s d g).energy = s.energy := rfl
@[simp] theorem updTherm_conf (s : State) (d : Nat) (g : Thermal → Thermal) : (updTherm s d g).conf = s.conf := rfl
@[simp] theorem updTherm_errlog (s : State) (d : Nat) (g : Thermal → Thermal) : (updTherm s d g).errlog = s.errlog := rfl
@[simp] theorem updTherm_errNext (s : State) (d : Nat) (g : Thermal → Thermal) : (updTherm s d g).errNext = s.errNext := rfl
@[simp] theorem updTherm_books (s : State) (d : Nat) (g : Thermal → Thermal) : (updTherm s d g).books = s.books := rfl
@[simp] theorem updTherm_mgmt (s : State) (d : Nat) (g : Thermal → Thermal) : (updTherm s d g).mgmt = s.mgmt := rfl
@[simp] theorem updTherm_now (s : State) (d : Nat) (g : Thermal → Thermal) : (updTherm s d g).now = s.now := rfl
@[simp] theorem updTherm_freeCtr (s : State) (d : Nat) (g : Thermal → Thermal) : (updTherm s d g).freeCtr = s.freeCtr := rfl
@[simp] theorem updTherm_out (s : State) (d : Nat) (g : Thermal → Thermal) : (updTherm s d g).out = s.out := rfl
@[simp] theorem updTherm_pending (s : State) (d : Nat) (g : Thermal → Thermal) : (updTherm s d g).pending = s.pending := rfl

/-! ### updDom -/

@[simp] theorem updDom_pins (s : State) (d : Nat) (g : Domain → Domain) : (updDom s d g).pins = s.pins := rfl
@[simp] theorem updDom_boot (s : State) (d : Nat) (g : Domain → Domain) : (updDom s d g).boot = s.boot := rfl
@[simp] theorem updDom_hbFuses (s : State) (d : Nat) (g : Domain → Domain) : (updDom s d g).hbFuses = s.hbFuses := rfl
@[simp] theorem updDom_dies (s : State) (d : Nat) (g : Domain → Domain) : (updDom s d g).dies = s.dies := rfl
@[simp] theorem updDom_thermal (s : State) (d : Nat) (g : Domain → Domain) : (updDom s d g).thermal = s.thermal := rfl
@[simp] theorem updDom_training (s : State) (d : Nat) (g : Domain → Domain) : (updDom s d g).training = s.training := rfl
@[simp] theorem updDom_fns (s : State) (d : Nat) (g : Domain → Domain) : (updDom s d g).fns = s.fns := rfl
@[simp] theorem updDom_sriov (s : State) (d : Nat) (g : Domain → Domain) : (updDom s d g).sriov = s.sriov := rfl
@[simp] theorem updDom_vfMse (s : State) (d : Nat) (g : Domain → Domain) : (updDom s d g).vfMse = s.vfMse := rfl
@[simp] theorem updDom_ari (s : State) (d : Nat) (g : Domain → Domain) : (updDom s d g).ari = s.ari := rfl
@[simp] theorem updDom_numVfs (s : State) (d : Nat) (g : Domain → Domain) : (updDom s d g).numVfs = s.numVfs := rfl
@[simp] theorem updDom_pcie (s : State) (d : Nat) (g : Domain → Domain) : (updDom s d g).pcie = s.pcie := rfl
@[simp] theorem updDom_atc (s : State) (d : Nat) (g : Domain → Domain) : (updDom s d g).atc = s.atc := rfl
@[simp] theorem updDom_pfHeld (s : State) (d : Nat) (g : Domain → Domain) : (updDom s d g).pfHeld = s.pfHeld := rfl
@[simp] theorem updDom_cp (s : State) (d : Nat) (g : Domain → Domain) : (updDom s d g).cp = s.cp := rfl
@[simp] theorem updDom_regions (s : State) (d : Nat) (g : Domain → Domain) : (updDom s d g).regions = s.regions := rfl
@[simp] theorem updDom_models (s : State) (d : Nat) (g : Domain → Domain) : (updDom s d g).models = s.models := rfl
@[simp] theorem updDom_vocabs (s : State) (d : Nat) (g : Domain → Domain) : (updDom s d g).vocabs = s.vocabs := rfl
@[simp] theorem updDom_bins (s : State) (d : Nat) (g : Domain → Domain) : (updDom s d g).bins = s.bins := rfl
@[simp] theorem updDom_grammars (s : State) (d : Nat) (g : Domain → Domain) : (updDom s d g).grammars = s.grammars := rfl
@[simp] theorem updDom_serials (s : State) (d : Nat) (g : Domain → Domain) : (updDom s d g).serials = s.serials := rfl
@[simp] theorem updDom_uncommitted (s : State) (d : Nat) (g : Domain → Domain) : (updDom s d g).uncommitted = s.uncommitted := rfl
@[simp] theorem updDom_ledger (s : State) (d : Nat) (g : Domain → Domain) : (updDom s d g).ledger = s.ledger := rfl
@[simp] theorem updDom_ledgerX (s : State) (d : Nat) (g : Domain → Domain) : (updDom s d g).ledgerX = s.ledgerX := rfl
@[simp] theorem updDom_steps (s : State) (d : Nat) (g : Domain → Domain) : (updDom s d g).steps = s.steps := rfl
@[simp] theorem updDom_nextStep (s : State) (d : Nat) (g : Domain → Domain) : (updDom s d g).nextStep = s.nextStep := rfl
@[simp] theorem updDom_lanesIn (s : State) (d : Nat) (g : Domain → Domain) : (updDom s d g).lanesIn = s.lanesIn := rfl
@[simp] theorem updDom_lanesOut (s : State) (d : Nat) (g : Domain → Domain) : (updDom s d g).lanesOut = s.lanesOut := rfl
@[simp] theorem updDom_turnIn (s : State) (d : Nat) (g : Domain → Domain) : (updDom s d g).turnIn = s.turnIn := rfl
@[simp] theorem updDom_turnOut (s : State) (d : Nat) (g : Domain → Domain) : (updDom s d g).turnOut = s.turnOut := rfl
@[simp] theorem updDom_mem (s : State) (d : Nat) (g : Domain → Domain) : (updDom s d g).mem = s.mem := rfl
@[simp] theorem updDom_poison (s : State) (d : Nat) (g : Domain → Domain) : (updDom s d g).poison = s.poison := rfl
@[simp] theorem updDom_pages (s : State) (d : Nat) (g : Domain → Domain) : (updDom s d g).pages = s.pages := rfl
@[simp] theorem updDom_shooting (s : State) (d : Nat) (g : Domain → Domain) : (updDom s d g).shooting = s.shooting := rfl
@[simp] theorem updDom_tlbs (s : State) (d : Nat) (g : Domain → Domain) : (updDom s d g).tlbs = s.tlbs := rfl
@[simp] theorem updDom_stale (s : State) (d : Nat) (g : Domain → Domain) : (updDom s d g).stale = s.stale := rfl
@[simp] theorem updDom_faults (s : State) (d : Nat) (g : Domain → Domain) : (updDom s d g).faults = s.faults := rfl
@[simp] theorem updDom_scrubs (s : State) (d : Nat) (g : Domain → Domain) : (updDom s d g).scrubs = s.scrubs := rfl
@[simp] theorem updDom_banks (s : State) (d : Nat) (g : Domain → Domain) : (updDom s d g).banks = s.banks := rfl
@[simp] theorem updDom_bankRefused (s : State) (d : Nat) (g : Domain → Domain) : (updDom s d g).bankRefused = s.bankRefused := rfl
@[simp] theorem updDom_links (s : State) (d : Nat) (g : Domain → Domain) : (updDom s d g).links = s.links := rfl
@[simp] theorem updDom_txns (s : State) (d : Nat) (g : Domain → Domain) : (updDom s d g).txns = s.txns := rfl
@[simp] theorem updDom_energy (s : State) (d : Nat) (g : Domain → Domain) :
    (updDom s d g).energy = { s.energy with doms := tmod ({} : Domain) s.energy.doms d g } := rfl
@[simp] theorem updDom_conf (s : State) (d : Nat) (g : Domain → Domain) : (updDom s d g).conf = s.conf := rfl
@[simp] theorem updDom_errlog (s : State) (d : Nat) (g : Domain → Domain) : (updDom s d g).errlog = s.errlog := rfl
@[simp] theorem updDom_errNext (s : State) (d : Nat) (g : Domain → Domain) : (updDom s d g).errNext = s.errNext := rfl
@[simp] theorem updDom_books (s : State) (d : Nat) (g : Domain → Domain) : (updDom s d g).books = s.books := rfl
@[simp] theorem updDom_mgmt (s : State) (d : Nat) (g : Domain → Domain) : (updDom s d g).mgmt = s.mgmt := rfl
@[simp] theorem updDom_now (s : State) (d : Nat) (g : Domain → Domain) : (updDom s d g).now = s.now := rfl
@[simp] theorem updDom_freeCtr (s : State) (d : Nat) (g : Domain → Domain) : (updDom s d g).freeCtr = s.freeCtr := rfl
@[simp] theorem updDom_out (s : State) (d : Nat) (g : Domain → Domain) : (updDom s d g).out = s.out := rfl
@[simp] theorem updDom_pending (s : State) (d : Nat) (g : Domain → Domain) : (updDom s d g).pending = s.pending := rfl

/-! ### updEnt -/

@[simp] theorem updEnt_pins (s : State) (i : Nat) (g : Entry → Entry) : (updEnt s i g).pins = s.pins := rfl
@[simp] theorem updEnt_boot (s : State) (i : Nat) (g : Entry → Entry) : (updEnt s i g).boot = s.boot := rfl
@[simp] theorem updEnt_hbFuses (s : State) (i : Nat) (g : Entry → Entry) : (updEnt s i g).hbFuses = s.hbFuses := rfl
@[simp] theorem updEnt_dies (s : State) (i : Nat) (g : Entry → Entry) : (updEnt s i g).dies = s.dies := rfl
@[simp] theorem updEnt_thermal (s : State) (i : Nat) (g : Entry → Entry) : (updEnt s i g).thermal = s.thermal := rfl
@[simp] theorem updEnt_training (s : State) (i : Nat) (g : Entry → Entry) : (updEnt s i g).training = s.training := rfl
@[simp] theorem updEnt_fns (s : State) (i : Nat) (g : Entry → Entry) : (updEnt s i g).fns = s.fns := rfl
@[simp] theorem updEnt_sriov (s : State) (i : Nat) (g : Entry → Entry) : (updEnt s i g).sriov = s.sriov := rfl
@[simp] theorem updEnt_vfMse (s : State) (i : Nat) (g : Entry → Entry) : (updEnt s i g).vfMse = s.vfMse := rfl
@[simp] theorem updEnt_ari (s : State) (i : Nat) (g : Entry → Entry) : (updEnt s i g).ari = s.ari := rfl
@[simp] theorem updEnt_numVfs (s : State) (i : Nat) (g : Entry → Entry) : (updEnt s i g).numVfs = s.numVfs := rfl
@[simp] theorem updEnt_pcie (s : State) (i : Nat) (g : Entry → Entry) : (updEnt s i g).pcie = s.pcie := rfl
@[simp] theorem updEnt_atc (s : State) (i : Nat) (g : Entry → Entry) : (updEnt s i g).atc = s.atc := rfl
@[simp] theorem updEnt_pfHeld (s : State) (i : Nat) (g : Entry → Entry) : (updEnt s i g).pfHeld = s.pfHeld := rfl
@[simp] theorem updEnt_cp (s : State) (i : Nat) (g : Entry → Entry) : (updEnt s i g).cp = s.cp := rfl
@[simp] theorem updEnt_regions (s : State) (i : Nat) (g : Entry → Entry) : (updEnt s i g).regions = s.regions := rfl
@[simp] theorem updEnt_models (s : State) (i : Nat) (g : Entry → Entry) : (updEnt s i g).models = s.models := rfl
@[simp] theorem updEnt_vocabs (s : State) (i : Nat) (g : Entry → Entry) : (updEnt s i g).vocabs = s.vocabs := rfl
@[simp] theorem updEnt_bins (s : State) (i : Nat) (g : Entry → Entry) : (updEnt s i g).bins = s.bins := rfl
@[simp] theorem updEnt_grammars (s : State) (i : Nat) (g : Entry → Entry) : (updEnt s i g).grammars = s.grammars := rfl
@[simp] theorem updEnt_serials (s : State) (i : Nat) (g : Entry → Entry) : (updEnt s i g).serials = s.serials := rfl
@[simp] theorem updEnt_uncommitted (s : State) (i : Nat) (g : Entry → Entry) : (updEnt s i g).uncommitted = s.uncommitted := rfl
@[simp] theorem updEnt_ledger (s : State) (i : Nat) (g : Entry → Entry) :
    (updEnt s i g).ledger = tmod ({} : Entry) s.ledger i g := rfl
@[simp] theorem updEnt_ledgerX (s : State) (i : Nat) (g : Entry → Entry) : (updEnt s i g).ledgerX = s.ledgerX := rfl
@[simp] theorem updEnt_steps (s : State) (i : Nat) (g : Entry → Entry) : (updEnt s i g).steps = s.steps := rfl
@[simp] theorem updEnt_nextStep (s : State) (i : Nat) (g : Entry → Entry) : (updEnt s i g).nextStep = s.nextStep := rfl
@[simp] theorem updEnt_lanesIn (s : State) (i : Nat) (g : Entry → Entry) : (updEnt s i g).lanesIn = s.lanesIn := rfl
@[simp] theorem updEnt_lanesOut (s : State) (i : Nat) (g : Entry → Entry) : (updEnt s i g).lanesOut = s.lanesOut := rfl
@[simp] theorem updEnt_turnIn (s : State) (i : Nat) (g : Entry → Entry) : (updEnt s i g).turnIn = s.turnIn := rfl
@[simp] theorem updEnt_turnOut (s : State) (i : Nat) (g : Entry → Entry) : (updEnt s i g).turnOut = s.turnOut := rfl
@[simp] theorem updEnt_mem (s : State) (i : Nat) (g : Entry → Entry) : (updEnt s i g).mem = s.mem := rfl
@[simp] theorem updEnt_poison (s : State) (i : Nat) (g : Entry → Entry) : (updEnt s i g).poison = s.poison := rfl
@[simp] theorem updEnt_pages (s : State) (i : Nat) (g : Entry → Entry) : (updEnt s i g).pages = s.pages := rfl
@[simp] theorem updEnt_shooting (s : State) (i : Nat) (g : Entry → Entry) : (updEnt s i g).shooting = s.shooting := rfl
@[simp] theorem updEnt_tlbs (s : State) (i : Nat) (g : Entry → Entry) : (updEnt s i g).tlbs = s.tlbs := rfl
@[simp] theorem updEnt_stale (s : State) (i : Nat) (g : Entry → Entry) : (updEnt s i g).stale = s.stale := rfl
@[simp] theorem updEnt_faults (s : State) (i : Nat) (g : Entry → Entry) : (updEnt s i g).faults = s.faults := rfl
@[simp] theorem updEnt_scrubs (s : State) (i : Nat) (g : Entry → Entry) : (updEnt s i g).scrubs = s.scrubs := rfl
@[simp] theorem updEnt_banks (s : State) (i : Nat) (g : Entry → Entry) : (updEnt s i g).banks = s.banks := rfl
@[simp] theorem updEnt_bankRefused (s : State) (i : Nat) (g : Entry → Entry) : (updEnt s i g).bankRefused = s.bankRefused := rfl
@[simp] theorem updEnt_links (s : State) (i : Nat) (g : Entry → Entry) : (updEnt s i g).links = s.links := rfl
@[simp] theorem updEnt_txns (s : State) (i : Nat) (g : Entry → Entry) : (updEnt s i g).txns = s.txns := rfl
@[simp] theorem updEnt_energy (s : State) (i : Nat) (g : Entry → Entry) : (updEnt s i g).energy = s.energy := rfl
@[simp] theorem updEnt_conf (s : State) (i : Nat) (g : Entry → Entry) : (updEnt s i g).conf = s.conf := rfl
@[simp] theorem updEnt_errlog (s : State) (i : Nat) (g : Entry → Entry) : (updEnt s i g).errlog = s.errlog := rfl
@[simp] theorem updEnt_errNext (s : State) (i : Nat) (g : Entry → Entry) : (updEnt s i g).errNext = s.errNext := rfl
@[simp] theorem updEnt_books (s : State) (i : Nat) (g : Entry → Entry) : (updEnt s i g).books = s.books := rfl
@[simp] theorem updEnt_mgmt (s : State) (i : Nat) (g : Entry → Entry) : (updEnt s i g).mgmt = s.mgmt := rfl
@[simp] theorem updEnt_now (s : State) (i : Nat) (g : Entry → Entry) : (updEnt s i g).now = s.now := rfl
@[simp] theorem updEnt_freeCtr (s : State) (i : Nat) (g : Entry → Entry) : (updEnt s i g).freeCtr = s.freeCtr := rfl
@[simp] theorem updEnt_out (s : State) (i : Nat) (g : Entry → Entry) : (updEnt s i g).out = s.out := rfl
@[simp] theorem updEnt_pending (s : State) (i : Nat) (g : Entry → Entry) : (updEnt s i g).pending = s.pending := rfl

/-! ### updEntX -/

@[simp] theorem updEntX_pins (s : State) (i : Nat) (g : EntryX → EntryX) : (updEntX s i g).pins = s.pins := rfl
@[simp] theorem updEntX_boot (s : State) (i : Nat) (g : EntryX → EntryX) : (updEntX s i g).boot = s.boot := rfl
@[simp] theorem updEntX_hbFuses (s : State) (i : Nat) (g : EntryX → EntryX) : (updEntX s i g).hbFuses = s.hbFuses := rfl
@[simp] theorem updEntX_dies (s : State) (i : Nat) (g : EntryX → EntryX) : (updEntX s i g).dies = s.dies := rfl
@[simp] theorem updEntX_thermal (s : State) (i : Nat) (g : EntryX → EntryX) : (updEntX s i g).thermal = s.thermal := rfl
@[simp] theorem updEntX_training (s : State) (i : Nat) (g : EntryX → EntryX) : (updEntX s i g).training = s.training := rfl
@[simp] theorem updEntX_fns (s : State) (i : Nat) (g : EntryX → EntryX) : (updEntX s i g).fns = s.fns := rfl
@[simp] theorem updEntX_sriov (s : State) (i : Nat) (g : EntryX → EntryX) : (updEntX s i g).sriov = s.sriov := rfl
@[simp] theorem updEntX_vfMse (s : State) (i : Nat) (g : EntryX → EntryX) : (updEntX s i g).vfMse = s.vfMse := rfl
@[simp] theorem updEntX_ari (s : State) (i : Nat) (g : EntryX → EntryX) : (updEntX s i g).ari = s.ari := rfl
@[simp] theorem updEntX_numVfs (s : State) (i : Nat) (g : EntryX → EntryX) : (updEntX s i g).numVfs = s.numVfs := rfl
@[simp] theorem updEntX_pcie (s : State) (i : Nat) (g : EntryX → EntryX) : (updEntX s i g).pcie = s.pcie := rfl
@[simp] theorem updEntX_atc (s : State) (i : Nat) (g : EntryX → EntryX) : (updEntX s i g).atc = s.atc := rfl
@[simp] theorem updEntX_pfHeld (s : State) (i : Nat) (g : EntryX → EntryX) : (updEntX s i g).pfHeld = s.pfHeld := rfl
@[simp] theorem updEntX_cp (s : State) (i : Nat) (g : EntryX → EntryX) : (updEntX s i g).cp = s.cp := rfl
@[simp] theorem updEntX_regions (s : State) (i : Nat) (g : EntryX → EntryX) : (updEntX s i g).regions = s.regions := rfl
@[simp] theorem updEntX_models (s : State) (i : Nat) (g : EntryX → EntryX) : (updEntX s i g).models = s.models := rfl
@[simp] theorem updEntX_vocabs (s : State) (i : Nat) (g : EntryX → EntryX) : (updEntX s i g).vocabs = s.vocabs := rfl
@[simp] theorem updEntX_bins (s : State) (i : Nat) (g : EntryX → EntryX) : (updEntX s i g).bins = s.bins := rfl
@[simp] theorem updEntX_grammars (s : State) (i : Nat) (g : EntryX → EntryX) : (updEntX s i g).grammars = s.grammars := rfl
@[simp] theorem updEntX_serials (s : State) (i : Nat) (g : EntryX → EntryX) : (updEntX s i g).serials = s.serials := rfl
@[simp] theorem updEntX_uncommitted (s : State) (i : Nat) (g : EntryX → EntryX) : (updEntX s i g).uncommitted = s.uncommitted := rfl
@[simp] theorem updEntX_ledger (s : State) (i : Nat) (g : EntryX → EntryX) : (updEntX s i g).ledger = s.ledger := rfl
@[simp] theorem updEntX_ledgerX (s : State) (i : Nat) (g : EntryX → EntryX) :
    (updEntX s i g).ledgerX = tmod ({} : EntryX) s.ledgerX i g := rfl
@[simp] theorem updEntX_steps (s : State) (i : Nat) (g : EntryX → EntryX) : (updEntX s i g).steps = s.steps := rfl
@[simp] theorem updEntX_nextStep (s : State) (i : Nat) (g : EntryX → EntryX) : (updEntX s i g).nextStep = s.nextStep := rfl
@[simp] theorem updEntX_lanesIn (s : State) (i : Nat) (g : EntryX → EntryX) : (updEntX s i g).lanesIn = s.lanesIn := rfl
@[simp] theorem updEntX_lanesOut (s : State) (i : Nat) (g : EntryX → EntryX) : (updEntX s i g).lanesOut = s.lanesOut := rfl
@[simp] theorem updEntX_turnIn (s : State) (i : Nat) (g : EntryX → EntryX) : (updEntX s i g).turnIn = s.turnIn := rfl
@[simp] theorem updEntX_turnOut (s : State) (i : Nat) (g : EntryX → EntryX) : (updEntX s i g).turnOut = s.turnOut := rfl
@[simp] theorem updEntX_mem (s : State) (i : Nat) (g : EntryX → EntryX) : (updEntX s i g).mem = s.mem := rfl
@[simp] theorem updEntX_poison (s : State) (i : Nat) (g : EntryX → EntryX) : (updEntX s i g).poison = s.poison := rfl
@[simp] theorem updEntX_pages (s : State) (i : Nat) (g : EntryX → EntryX) : (updEntX s i g).pages = s.pages := rfl
@[simp] theorem updEntX_shooting (s : State) (i : Nat) (g : EntryX → EntryX) : (updEntX s i g).shooting = s.shooting := rfl
@[simp] theorem updEntX_tlbs (s : State) (i : Nat) (g : EntryX → EntryX) : (updEntX s i g).tlbs = s.tlbs := rfl
@[simp] theorem updEntX_stale (s : State) (i : Nat) (g : EntryX → EntryX) : (updEntX s i g).stale = s.stale := rfl
@[simp] theorem updEntX_faults (s : State) (i : Nat) (g : EntryX → EntryX) : (updEntX s i g).faults = s.faults := rfl
@[simp] theorem updEntX_scrubs (s : State) (i : Nat) (g : EntryX → EntryX) : (updEntX s i g).scrubs = s.scrubs := rfl
@[simp] theorem updEntX_banks (s : State) (i : Nat) (g : EntryX → EntryX) : (updEntX s i g).banks = s.banks := rfl
@[simp] theorem updEntX_bankRefused (s : State) (i : Nat) (g : EntryX → EntryX) : (updEntX s i g).bankRefused = s.bankRefused := rfl
@[simp] theorem updEntX_links (s : State) (i : Nat) (g : EntryX → EntryX) : (updEntX s i g).links = s.links := rfl
@[simp] theorem updEntX_txns (s : State) (i : Nat) (g : EntryX → EntryX) : (updEntX s i g).txns = s.txns := rfl
@[simp] theorem updEntX_energy (s : State) (i : Nat) (g : EntryX → EntryX) : (updEntX s i g).energy = s.energy := rfl
@[simp] theorem updEntX_conf (s : State) (i : Nat) (g : EntryX → EntryX) : (updEntX s i g).conf = s.conf := rfl
@[simp] theorem updEntX_errlog (s : State) (i : Nat) (g : EntryX → EntryX) : (updEntX s i g).errlog = s.errlog := rfl
@[simp] theorem updEntX_errNext (s : State) (i : Nat) (g : EntryX → EntryX) : (updEntX s i g).errNext = s.errNext := rfl
@[simp] theorem updEntX_books (s : State) (i : Nat) (g : EntryX → EntryX) : (updEntX s i g).books = s.books := rfl
@[simp] theorem updEntX_mgmt (s : State) (i : Nat) (g : EntryX → EntryX) : (updEntX s i g).mgmt = s.mgmt := rfl
@[simp] theorem updEntX_now (s : State) (i : Nat) (g : EntryX → EntryX) : (updEntX s i g).now = s.now := rfl
@[simp] theorem updEntX_freeCtr (s : State) (i : Nat) (g : EntryX → EntryX) : (updEntX s i g).freeCtr = s.freeCtr := rfl
@[simp] theorem updEntX_out (s : State) (i : Nat) (g : EntryX → EntryX) : (updEntX s i g).out = s.out := rfl
@[simp] theorem updEntX_pending (s : State) (i : Nat) (g : EntryX → EntryX) : (updEntX s i g).pending = s.pending := rfl

/-! ### updRing -/

@[simp] theorem updRing_pins (s : State) (f r : Nat) (g : Ring → Ring) : (updRing s f r g).pins = s.pins := rfl
@[simp] theorem updRing_boot (s : State) (f r : Nat) (g : Ring → Ring) : (updRing s f r g).boot = s.boot := rfl
@[simp] theorem updRing_hbFuses (s : State) (f r : Nat) (g : Ring → Ring) : (updRing s f r g).hbFuses = s.hbFuses := rfl
@[simp] theorem updRing_dies (s : State) (f r : Nat) (g : Ring → Ring) : (updRing s f r g).dies = s.dies := rfl
@[simp] theorem updRing_thermal (s : State) (f r : Nat) (g : Ring → Ring) : (updRing s f r g).thermal = s.thermal := rfl
@[simp] theorem updRing_training (s : State) (f r : Nat) (g : Ring → Ring) : (updRing s f r g).training = s.training := rfl
@[simp] theorem updRing_fns (s : State) (f r : Nat) (g : Ring → Ring) :
    (updRing s f r g).fns = tmod ({} : Fn) s.fns f (fun x => { x with rings := tmod ({} : Ring) x.rings r g }) := rfl
@[simp] theorem updRing_sriov (s : State) (f r : Nat) (g : Ring → Ring) : (updRing s f r g).sriov = s.sriov := rfl
@[simp] theorem updRing_vfMse (s : State) (f r : Nat) (g : Ring → Ring) : (updRing s f r g).vfMse = s.vfMse := rfl
@[simp] theorem updRing_ari (s : State) (f r : Nat) (g : Ring → Ring) : (updRing s f r g).ari = s.ari := rfl
@[simp] theorem updRing_numVfs (s : State) (f r : Nat) (g : Ring → Ring) : (updRing s f r g).numVfs = s.numVfs := rfl
@[simp] theorem updRing_pcie (s : State) (f r : Nat) (g : Ring → Ring) : (updRing s f r g).pcie = s.pcie := rfl
@[simp] theorem updRing_atc (s : State) (f r : Nat) (g : Ring → Ring) : (updRing s f r g).atc = s.atc := rfl
@[simp] theorem updRing_pfHeld (s : State) (f r : Nat) (g : Ring → Ring) : (updRing s f r g).pfHeld = s.pfHeld := rfl
@[simp] theorem updRing_cp (s : State) (f r : Nat) (g : Ring → Ring) : (updRing s f r g).cp = s.cp := rfl
@[simp] theorem updRing_regions (s : State) (f r : Nat) (g : Ring → Ring) : (updRing s f r g).regions = s.regions := rfl
@[simp] theorem updRing_models (s : State) (f r : Nat) (g : Ring → Ring) : (updRing s f r g).models = s.models := rfl
@[simp] theorem updRing_vocabs (s : State) (f r : Nat) (g : Ring → Ring) : (updRing s f r g).vocabs = s.vocabs := rfl
@[simp] theorem updRing_bins (s : State) (f r : Nat) (g : Ring → Ring) : (updRing s f r g).bins = s.bins := rfl
@[simp] theorem updRing_grammars (s : State) (f r : Nat) (g : Ring → Ring) : (updRing s f r g).grammars = s.grammars := rfl
@[simp] theorem updRing_serials (s : State) (f r : Nat) (g : Ring → Ring) : (updRing s f r g).serials = s.serials := rfl
@[simp] theorem updRing_uncommitted (s : State) (f r : Nat) (g : Ring → Ring) : (updRing s f r g).uncommitted = s.uncommitted := rfl
@[simp] theorem updRing_ledger (s : State) (f r : Nat) (g : Ring → Ring) : (updRing s f r g).ledger = s.ledger := rfl
@[simp] theorem updRing_ledgerX (s : State) (f r : Nat) (g : Ring → Ring) : (updRing s f r g).ledgerX = s.ledgerX := rfl
@[simp] theorem updRing_steps (s : State) (f r : Nat) (g : Ring → Ring) : (updRing s f r g).steps = s.steps := rfl
@[simp] theorem updRing_nextStep (s : State) (f r : Nat) (g : Ring → Ring) : (updRing s f r g).nextStep = s.nextStep := rfl
@[simp] theorem updRing_lanesIn (s : State) (f r : Nat) (g : Ring → Ring) : (updRing s f r g).lanesIn = s.lanesIn := rfl
@[simp] theorem updRing_lanesOut (s : State) (f r : Nat) (g : Ring → Ring) : (updRing s f r g).lanesOut = s.lanesOut := rfl
@[simp] theorem updRing_turnIn (s : State) (f r : Nat) (g : Ring → Ring) : (updRing s f r g).turnIn = s.turnIn := rfl
@[simp] theorem updRing_turnOut (s : State) (f r : Nat) (g : Ring → Ring) : (updRing s f r g).turnOut = s.turnOut := rfl
@[simp] theorem updRing_mem (s : State) (f r : Nat) (g : Ring → Ring) : (updRing s f r g).mem = s.mem := rfl
@[simp] theorem updRing_poison (s : State) (f r : Nat) (g : Ring → Ring) : (updRing s f r g).poison = s.poison := rfl
@[simp] theorem updRing_pages (s : State) (f r : Nat) (g : Ring → Ring) : (updRing s f r g).pages = s.pages := rfl
@[simp] theorem updRing_shooting (s : State) (f r : Nat) (g : Ring → Ring) : (updRing s f r g).shooting = s.shooting := rfl
@[simp] theorem updRing_tlbs (s : State) (f r : Nat) (g : Ring → Ring) : (updRing s f r g).tlbs = s.tlbs := rfl
@[simp] theorem updRing_stale (s : State) (f r : Nat) (g : Ring → Ring) : (updRing s f r g).stale = s.stale := rfl
@[simp] theorem updRing_faults (s : State) (f r : Nat) (g : Ring → Ring) : (updRing s f r g).faults = s.faults := rfl
@[simp] theorem updRing_scrubs (s : State) (f r : Nat) (g : Ring → Ring) : (updRing s f r g).scrubs = s.scrubs := rfl
@[simp] theorem updRing_banks (s : State) (f r : Nat) (g : Ring → Ring) : (updRing s f r g).banks = s.banks := rfl
@[simp] theorem updRing_bankRefused (s : State) (f r : Nat) (g : Ring → Ring) : (updRing s f r g).bankRefused = s.bankRefused := rfl
@[simp] theorem updRing_links (s : State) (f r : Nat) (g : Ring → Ring) : (updRing s f r g).links = s.links := rfl
@[simp] theorem updRing_txns (s : State) (f r : Nat) (g : Ring → Ring) : (updRing s f r g).txns = s.txns := rfl
@[simp] theorem updRing_energy (s : State) (f r : Nat) (g : Ring → Ring) : (updRing s f r g).energy = s.energy := rfl
@[simp] theorem updRing_conf (s : State) (f r : Nat) (g : Ring → Ring) : (updRing s f r g).conf = s.conf := rfl
@[simp] theorem updRing_errlog (s : State) (f r : Nat) (g : Ring → Ring) : (updRing s f r g).errlog = s.errlog := rfl
@[simp] theorem updRing_errNext (s : State) (f r : Nat) (g : Ring → Ring) : (updRing s f r g).errNext = s.errNext := rfl
@[simp] theorem updRing_books (s : State) (f r : Nat) (g : Ring → Ring) : (updRing s f r g).books = s.books := rfl
@[simp] theorem updRing_mgmt (s : State) (f r : Nat) (g : Ring → Ring) : (updRing s f r g).mgmt = s.mgmt := rfl
@[simp] theorem updRing_now (s : State) (f r : Nat) (g : Ring → Ring) : (updRing s f r g).now = s.now := rfl
@[simp] theorem updRing_freeCtr (s : State) (f r : Nat) (g : Ring → Ring) : (updRing s f r g).freeCtr = s.freeCtr := rfl
@[simp] theorem updRing_out (s : State) (f r : Nat) (g : Ring → Ring) : (updRing s f r g).out = s.out := rfl
@[simp] theorem updRing_pending (s : State) (f r : Nat) (g : Ring → Ring) : (updRing s f r g).pending = s.pending := rfl

/-! ### updPci -/

@[simp] theorem updPci_pins (s : State) (f : Nat) (g : Pci → Pci) : (updPci s f g).pins = s.pins := rfl
@[simp] theorem updPci_boot (s : State) (f : Nat) (g : Pci → Pci) : (updPci s f g).boot = s.boot := rfl
@[simp] theorem updPci_hbFuses (s : State) (f : Nat) (g : Pci → Pci) : (updPci s f g).hbFuses = s.hbFuses := rfl
@[simp] theorem updPci_dies (s : State) (f : Nat) (g : Pci → Pci) : (updPci s f g).dies = s.dies := rfl
@[simp] theorem updPci_thermal (s : State) (f : Nat) (g : Pci → Pci) : (updPci s f g).thermal = s.thermal := rfl
@[simp] theorem updPci_training (s : State) (f : Nat) (g : Pci → Pci) : (updPci s f g).training = s.training := rfl
@[simp] theorem updPci_fns (s : State) (f : Nat) (g : Pci → Pci) :
    (updPci s f g).fns = tmod ({} : Fn) s.fns f (fun x => { x with pci := g x.pci }) := rfl
@[simp] theorem updPci_sriov (s : State) (f : Nat) (g : Pci → Pci) : (updPci s f g).sriov = s.sriov := rfl
@[simp] theorem updPci_vfMse (s : State) (f : Nat) (g : Pci → Pci) : (updPci s f g).vfMse = s.vfMse := rfl
@[simp] theorem updPci_ari (s : State) (f : Nat) (g : Pci → Pci) : (updPci s f g).ari = s.ari := rfl
@[simp] theorem updPci_numVfs (s : State) (f : Nat) (g : Pci → Pci) : (updPci s f g).numVfs = s.numVfs := rfl
@[simp] theorem updPci_pcie (s : State) (f : Nat) (g : Pci → Pci) : (updPci s f g).pcie = s.pcie := rfl
@[simp] theorem updPci_atc (s : State) (f : Nat) (g : Pci → Pci) : (updPci s f g).atc = s.atc := rfl
@[simp] theorem updPci_pfHeld (s : State) (f : Nat) (g : Pci → Pci) : (updPci s f g).pfHeld = s.pfHeld := rfl
@[simp] theorem updPci_cp (s : State) (f : Nat) (g : Pci → Pci) : (updPci s f g).cp = s.cp := rfl
@[simp] theorem updPci_regions (s : State) (f : Nat) (g : Pci → Pci) : (updPci s f g).regions = s.regions := rfl
@[simp] theorem updPci_models (s : State) (f : Nat) (g : Pci → Pci) : (updPci s f g).models = s.models := rfl
@[simp] theorem updPci_vocabs (s : State) (f : Nat) (g : Pci → Pci) : (updPci s f g).vocabs = s.vocabs := rfl
@[simp] theorem updPci_bins (s : State) (f : Nat) (g : Pci → Pci) : (updPci s f g).bins = s.bins := rfl
@[simp] theorem updPci_grammars (s : State) (f : Nat) (g : Pci → Pci) : (updPci s f g).grammars = s.grammars := rfl
@[simp] theorem updPci_serials (s : State) (f : Nat) (g : Pci → Pci) : (updPci s f g).serials = s.serials := rfl
@[simp] theorem updPci_uncommitted (s : State) (f : Nat) (g : Pci → Pci) : (updPci s f g).uncommitted = s.uncommitted := rfl
@[simp] theorem updPci_ledger (s : State) (f : Nat) (g : Pci → Pci) : (updPci s f g).ledger = s.ledger := rfl
@[simp] theorem updPci_ledgerX (s : State) (f : Nat) (g : Pci → Pci) : (updPci s f g).ledgerX = s.ledgerX := rfl
@[simp] theorem updPci_steps (s : State) (f : Nat) (g : Pci → Pci) : (updPci s f g).steps = s.steps := rfl
@[simp] theorem updPci_nextStep (s : State) (f : Nat) (g : Pci → Pci) : (updPci s f g).nextStep = s.nextStep := rfl
@[simp] theorem updPci_lanesIn (s : State) (f : Nat) (g : Pci → Pci) : (updPci s f g).lanesIn = s.lanesIn := rfl
@[simp] theorem updPci_lanesOut (s : State) (f : Nat) (g : Pci → Pci) : (updPci s f g).lanesOut = s.lanesOut := rfl
@[simp] theorem updPci_turnIn (s : State) (f : Nat) (g : Pci → Pci) : (updPci s f g).turnIn = s.turnIn := rfl
@[simp] theorem updPci_turnOut (s : State) (f : Nat) (g : Pci → Pci) : (updPci s f g).turnOut = s.turnOut := rfl
@[simp] theorem updPci_mem (s : State) (f : Nat) (g : Pci → Pci) : (updPci s f g).mem = s.mem := rfl
@[simp] theorem updPci_poison (s : State) (f : Nat) (g : Pci → Pci) : (updPci s f g).poison = s.poison := rfl
@[simp] theorem updPci_pages (s : State) (f : Nat) (g : Pci → Pci) : (updPci s f g).pages = s.pages := rfl
@[simp] theorem updPci_shooting (s : State) (f : Nat) (g : Pci → Pci) : (updPci s f g).shooting = s.shooting := rfl
@[simp] theorem updPci_tlbs (s : State) (f : Nat) (g : Pci → Pci) : (updPci s f g).tlbs = s.tlbs := rfl
@[simp] theorem updPci_stale (s : State) (f : Nat) (g : Pci → Pci) : (updPci s f g).stale = s.stale := rfl
@[simp] theorem updPci_faults (s : State) (f : Nat) (g : Pci → Pci) : (updPci s f g).faults = s.faults := rfl
@[simp] theorem updPci_scrubs (s : State) (f : Nat) (g : Pci → Pci) : (updPci s f g).scrubs = s.scrubs := rfl
@[simp] theorem updPci_banks (s : State) (f : Nat) (g : Pci → Pci) : (updPci s f g).banks = s.banks := rfl
@[simp] theorem updPci_bankRefused (s : State) (f : Nat) (g : Pci → Pci) : (updPci s f g).bankRefused = s.bankRefused := rfl
@[simp] theorem updPci_links (s : State) (f : Nat) (g : Pci → Pci) : (updPci s f g).links = s.links := rfl
@[simp] theorem updPci_txns (s : State) (f : Nat) (g : Pci → Pci) : (updPci s f g).txns = s.txns := rfl
@[simp] theorem updPci_energy (s : State) (f : Nat) (g : Pci → Pci) : (updPci s f g).energy = s.energy := rfl
@[simp] theorem updPci_conf (s : State) (f : Nat) (g : Pci → Pci) : (updPci s f g).conf = s.conf := rfl
@[simp] theorem updPci_errlog (s : State) (f : Nat) (g : Pci → Pci) : (updPci s f g).errlog = s.errlog := rfl
@[simp] theorem updPci_errNext (s : State) (f : Nat) (g : Pci → Pci) : (updPci s f g).errNext = s.errNext := rfl
@[simp] theorem updPci_books (s : State) (f : Nat) (g : Pci → Pci) : (updPci s f g).books = s.books := rfl
@[simp] theorem updPci_mgmt (s : State) (f : Nat) (g : Pci → Pci) : (updPci s f g).mgmt = s.mgmt := rfl
@[simp] theorem updPci_now (s : State) (f : Nat) (g : Pci → Pci) : (updPci s f g).now = s.now := rfl
@[simp] theorem updPci_freeCtr (s : State) (f : Nat) (g : Pci → Pci) : (updPci s f g).freeCtr = s.freeCtr := rfl
@[simp] theorem updPci_out (s : State) (f : Nat) (g : Pci → Pci) : (updPci s f g).out = s.out := rfl
@[simp] theorem updPci_pending (s : State) (f : Nat) (g : Pci → Pci) : (updPci s f g).pending = s.pending := rfl

/-! ### updScrub -/

@[simp] theorem updScrub_pins (s : State) (c : Nat) (g : Scrub → Scrub) : (updScrub s c g).pins = s.pins := rfl
@[simp] theorem updScrub_boot (s : State) (c : Nat) (g : Scrub → Scrub) : (updScrub s c g).boot = s.boot := rfl
@[simp] theorem updScrub_hbFuses (s : State) (c : Nat) (g : Scrub → Scrub) : (updScrub s c g).hbFuses = s.hbFuses := rfl
@[simp] theorem updScrub_dies (s : State) (c : Nat) (g : Scrub → Scrub) : (updScrub s c g).dies = s.dies := rfl
@[simp] theorem updScrub_thermal (s : State) (c : Nat) (g : Scrub → Scrub) : (updScrub s c g).thermal = s.thermal := rfl
@[simp] theorem updScrub_training (s : State) (c : Nat) (g : Scrub → Scrub) : (updScrub s c g).training = s.training := rfl
@[simp] theorem updScrub_fns (s : State) (c : Nat) (g : Scrub → Scrub) : (updScrub s c g).fns = s.fns := rfl
@[simp] theorem updScrub_sriov (s : State) (c : Nat) (g : Scrub → Scrub) : (updScrub s c g).sriov = s.sriov := rfl
@[simp] theorem updScrub_vfMse (s : State) (c : Nat) (g : Scrub → Scrub) : (updScrub s c g).vfMse = s.vfMse := rfl
@[simp] theorem updScrub_ari (s : State) (c : Nat) (g : Scrub → Scrub) : (updScrub s c g).ari = s.ari := rfl
@[simp] theorem updScrub_numVfs (s : State) (c : Nat) (g : Scrub → Scrub) : (updScrub s c g).numVfs = s.numVfs := rfl
@[simp] theorem updScrub_pcie (s : State) (c : Nat) (g : Scrub → Scrub) : (updScrub s c g).pcie = s.pcie := rfl
@[simp] theorem updScrub_atc (s : State) (c : Nat) (g : Scrub → Scrub) : (updScrub s c g).atc = s.atc := rfl
@[simp] theorem updScrub_pfHeld (s : State) (c : Nat) (g : Scrub → Scrub) : (updScrub s c g).pfHeld = s.pfHeld := rfl
@[simp] theorem updScrub_cp (s : State) (c : Nat) (g : Scrub → Scrub) : (updScrub s c g).cp = s.cp := rfl
@[simp] theorem updScrub_regions (s : State) (c : Nat) (g : Scrub → Scrub) : (updScrub s c g).regions = s.regions := rfl
@[simp] theorem updScrub_models (s : State) (c : Nat) (g : Scrub → Scrub) : (updScrub s c g).models = s.models := rfl
@[simp] theorem updScrub_vocabs (s : State) (c : Nat) (g : Scrub → Scrub) : (updScrub s c g).vocabs = s.vocabs := rfl
@[simp] theorem updScrub_bins (s : State) (c : Nat) (g : Scrub → Scrub) : (updScrub s c g).bins = s.bins := rfl
@[simp] theorem updScrub_grammars (s : State) (c : Nat) (g : Scrub → Scrub) : (updScrub s c g).grammars = s.grammars := rfl
@[simp] theorem updScrub_serials (s : State) (c : Nat) (g : Scrub → Scrub) : (updScrub s c g).serials = s.serials := rfl
@[simp] theorem updScrub_uncommitted (s : State) (c : Nat) (g : Scrub → Scrub) : (updScrub s c g).uncommitted = s.uncommitted := rfl
@[simp] theorem updScrub_ledger (s : State) (c : Nat) (g : Scrub → Scrub) : (updScrub s c g).ledger = s.ledger := rfl
@[simp] theorem updScrub_ledgerX (s : State) (c : Nat) (g : Scrub → Scrub) : (updScrub s c g).ledgerX = s.ledgerX := rfl
@[simp] theorem updScrub_steps (s : State) (c : Nat) (g : Scrub → Scrub) : (updScrub s c g).steps = s.steps := rfl
@[simp] theorem updScrub_nextStep (s : State) (c : Nat) (g : Scrub → Scrub) : (updScrub s c g).nextStep = s.nextStep := rfl
@[simp] theorem updScrub_lanesIn (s : State) (c : Nat) (g : Scrub → Scrub) : (updScrub s c g).lanesIn = s.lanesIn := rfl
@[simp] theorem updScrub_lanesOut (s : State) (c : Nat) (g : Scrub → Scrub) : (updScrub s c g).lanesOut = s.lanesOut := rfl
@[simp] theorem updScrub_turnIn (s : State) (c : Nat) (g : Scrub → Scrub) : (updScrub s c g).turnIn = s.turnIn := rfl
@[simp] theorem updScrub_turnOut (s : State) (c : Nat) (g : Scrub → Scrub) : (updScrub s c g).turnOut = s.turnOut := rfl
@[simp] theorem updScrub_mem (s : State) (c : Nat) (g : Scrub → Scrub) : (updScrub s c g).mem = s.mem := rfl
@[simp] theorem updScrub_poison (s : State) (c : Nat) (g : Scrub → Scrub) : (updScrub s c g).poison = s.poison := rfl
@[simp] theorem updScrub_pages (s : State) (c : Nat) (g : Scrub → Scrub) : (updScrub s c g).pages = s.pages := rfl
@[simp] theorem updScrub_shooting (s : State) (c : Nat) (g : Scrub → Scrub) : (updScrub s c g).shooting = s.shooting := rfl
@[simp] theorem updScrub_tlbs (s : State) (c : Nat) (g : Scrub → Scrub) : (updScrub s c g).tlbs = s.tlbs := rfl
@[simp] theorem updScrub_stale (s : State) (c : Nat) (g : Scrub → Scrub) : (updScrub s c g).stale = s.stale := rfl
@[simp] theorem updScrub_faults (s : State) (c : Nat) (g : Scrub → Scrub) : (updScrub s c g).faults = s.faults := rfl
@[simp] theorem updScrub_scrubs (s : State) (c : Nat) (g : Scrub → Scrub) :
    (updScrub s c g).scrubs = tmod (scrubDefault c) s.scrubs c g := rfl
@[simp] theorem updScrub_banks (s : State) (c : Nat) (g : Scrub → Scrub) : (updScrub s c g).banks = s.banks := rfl
@[simp] theorem updScrub_bankRefused (s : State) (c : Nat) (g : Scrub → Scrub) : (updScrub s c g).bankRefused = s.bankRefused := rfl
@[simp] theorem updScrub_links (s : State) (c : Nat) (g : Scrub → Scrub) : (updScrub s c g).links = s.links := rfl
@[simp] theorem updScrub_txns (s : State) (c : Nat) (g : Scrub → Scrub) : (updScrub s c g).txns = s.txns := rfl
@[simp] theorem updScrub_energy (s : State) (c : Nat) (g : Scrub → Scrub) : (updScrub s c g).energy = s.energy := rfl
@[simp] theorem updScrub_conf (s : State) (c : Nat) (g : Scrub → Scrub) : (updScrub s c g).conf = s.conf := rfl
@[simp] theorem updScrub_errlog (s : State) (c : Nat) (g : Scrub → Scrub) : (updScrub s c g).errlog = s.errlog := rfl
@[simp] theorem updScrub_errNext (s : State) (c : Nat) (g : Scrub → Scrub) : (updScrub s c g).errNext = s.errNext := rfl
@[simp] theorem updScrub_books (s : State) (c : Nat) (g : Scrub → Scrub) : (updScrub s c g).books = s.books := rfl
@[simp] theorem updScrub_mgmt (s : State) (c : Nat) (g : Scrub → Scrub) : (updScrub s c g).mgmt = s.mgmt := rfl
@[simp] theorem updScrub_now (s : State) (c : Nat) (g : Scrub → Scrub) : (updScrub s c g).now = s.now := rfl
@[simp] theorem updScrub_freeCtr (s : State) (c : Nat) (g : Scrub → Scrub) : (updScrub s c g).freeCtr = s.freeCtr := rfl
@[simp] theorem updScrub_out (s : State) (c : Nat) (g : Scrub → Scrub) : (updScrub s c g).out = s.out := rfl
@[simp] theorem updScrub_pending (s : State) (c : Nat) (g : Scrub → Scrub) : (updScrub s c g).pending = s.pending := rfl

/-! ### updBank -/

@[simp] theorem updBank_pins (s : State) (d b : Nat) (g : Bank → Bank) : (updBank s d b g).pins = s.pins := rfl
@[simp] theorem updBank_boot (s : State) (d b : Nat) (g : Bank → Bank) : (updBank s d b g).boot = s.boot := rfl
@[simp] theorem updBank_hbFuses (s : State) (d b : Nat) (g : Bank → Bank) : (updBank s d b g).hbFuses = s.hbFuses := rfl
@[simp] theorem updBank_dies (s : State) (d b : Nat) (g : Bank → Bank) : (updBank s d b g).dies = s.dies := rfl
@[simp] theorem updBank_thermal (s : State) (d b : Nat) (g : Bank → Bank) : (updBank s d b g).thermal = s.thermal := rfl
@[simp] theorem updBank_training (s : State) (d b : Nat) (g : Bank → Bank) : (updBank s d b g).training = s.training := rfl
@[simp] theorem updBank_fns (s : State) (d b : Nat) (g : Bank → Bank) : (updBank s d b g).fns = s.fns := rfl
@[simp] theorem updBank_sriov (s : State) (d b : Nat) (g : Bank → Bank) : (updBank s d b g).sriov = s.sriov := rfl
@[simp] theorem updBank_vfMse (s : State) (d b : Nat) (g : Bank → Bank) : (updBank s d b g).vfMse = s.vfMse := rfl
@[simp] theorem updBank_ari (s : State) (d b : Nat) (g : Bank → Bank) : (updBank s d b g).ari = s.ari := rfl
@[simp] theorem updBank_numVfs (s : State) (d b : Nat) (g : Bank → Bank) : (updBank s d b g).numVfs = s.numVfs := rfl
@[simp] theorem updBank_pcie (s : State) (d b : Nat) (g : Bank → Bank) : (updBank s d b g).pcie = s.pcie := rfl
@[simp] theorem updBank_atc (s : State) (d b : Nat) (g : Bank → Bank) : (updBank s d b g).atc = s.atc := rfl
@[simp] theorem updBank_pfHeld (s : State) (d b : Nat) (g : Bank → Bank) : (updBank s d b g).pfHeld = s.pfHeld := rfl
@[simp] theorem updBank_cp (s : State) (d b : Nat) (g : Bank → Bank) : (updBank s d b g).cp = s.cp := rfl
@[simp] theorem updBank_regions (s : State) (d b : Nat) (g : Bank → Bank) : (updBank s d b g).regions = s.regions := rfl
@[simp] theorem updBank_models (s : State) (d b : Nat) (g : Bank → Bank) : (updBank s d b g).models = s.models := rfl
@[simp] theorem updBank_vocabs (s : State) (d b : Nat) (g : Bank → Bank) : (updBank s d b g).vocabs = s.vocabs := rfl
@[simp] theorem updBank_bins (s : State) (d b : Nat) (g : Bank → Bank) : (updBank s d b g).bins = s.bins := rfl
@[simp] theorem updBank_grammars (s : State) (d b : Nat) (g : Bank → Bank) : (updBank s d b g).grammars = s.grammars := rfl
@[simp] theorem updBank_serials (s : State) (d b : Nat) (g : Bank → Bank) : (updBank s d b g).serials = s.serials := rfl
@[simp] theorem updBank_uncommitted (s : State) (d b : Nat) (g : Bank → Bank) : (updBank s d b g).uncommitted = s.uncommitted := rfl
@[simp] theorem updBank_ledger (s : State) (d b : Nat) (g : Bank → Bank) : (updBank s d b g).ledger = s.ledger := rfl
@[simp] theorem updBank_ledgerX (s : State) (d b : Nat) (g : Bank → Bank) : (updBank s d b g).ledgerX = s.ledgerX := rfl
@[simp] theorem updBank_steps (s : State) (d b : Nat) (g : Bank → Bank) : (updBank s d b g).steps = s.steps := rfl
@[simp] theorem updBank_nextStep (s : State) (d b : Nat) (g : Bank → Bank) : (updBank s d b g).nextStep = s.nextStep := rfl
@[simp] theorem updBank_lanesIn (s : State) (d b : Nat) (g : Bank → Bank) : (updBank s d b g).lanesIn = s.lanesIn := rfl
@[simp] theorem updBank_lanesOut (s : State) (d b : Nat) (g : Bank → Bank) : (updBank s d b g).lanesOut = s.lanesOut := rfl
@[simp] theorem updBank_turnIn (s : State) (d b : Nat) (g : Bank → Bank) : (updBank s d b g).turnIn = s.turnIn := rfl
@[simp] theorem updBank_turnOut (s : State) (d b : Nat) (g : Bank → Bank) : (updBank s d b g).turnOut = s.turnOut := rfl
@[simp] theorem updBank_mem (s : State) (d b : Nat) (g : Bank → Bank) : (updBank s d b g).mem = s.mem := rfl
@[simp] theorem updBank_poison (s : State) (d b : Nat) (g : Bank → Bank) : (updBank s d b g).poison = s.poison := rfl
@[simp] theorem updBank_pages (s : State) (d b : Nat) (g : Bank → Bank) : (updBank s d b g).pages = s.pages := rfl
@[simp] theorem updBank_shooting (s : State) (d b : Nat) (g : Bank → Bank) : (updBank s d b g).shooting = s.shooting := rfl
@[simp] theorem updBank_tlbs (s : State) (d b : Nat) (g : Bank → Bank) : (updBank s d b g).tlbs = s.tlbs := rfl
@[simp] theorem updBank_stale (s : State) (d b : Nat) (g : Bank → Bank) : (updBank s d b g).stale = s.stale := rfl
@[simp] theorem updBank_faults (s : State) (d b : Nat) (g : Bank → Bank) : (updBank s d b g).faults = s.faults := rfl
@[simp] theorem updBank_scrubs (s : State) (d b : Nat) (g : Bank → Bank) : (updBank s d b g).scrubs = s.scrubs := rfl
@[simp] theorem updBank_banks (s : State) (d b : Nat) (g : Bank → Bank) :
    (updBank s d b g).banks = tmod ({} : Bank) s.banks (64 * d + b) g := rfl
@[simp] theorem updBank_bankRefused (s : State) (d b : Nat) (g : Bank → Bank) : (updBank s d b g).bankRefused = s.bankRefused := rfl
@[simp] theorem updBank_links (s : State) (d b : Nat) (g : Bank → Bank) : (updBank s d b g).links = s.links := rfl
@[simp] theorem updBank_txns (s : State) (d b : Nat) (g : Bank → Bank) : (updBank s d b g).txns = s.txns := rfl
@[simp] theorem updBank_energy (s : State) (d b : Nat) (g : Bank → Bank) : (updBank s d b g).energy = s.energy := rfl
@[simp] theorem updBank_conf (s : State) (d b : Nat) (g : Bank → Bank) : (updBank s d b g).conf = s.conf := rfl
@[simp] theorem updBank_errlog (s : State) (d b : Nat) (g : Bank → Bank) : (updBank s d b g).errlog = s.errlog := rfl
@[simp] theorem updBank_errNext (s : State) (d b : Nat) (g : Bank → Bank) : (updBank s d b g).errNext = s.errNext := rfl
@[simp] theorem updBank_books (s : State) (d b : Nat) (g : Bank → Bank) : (updBank s d b g).books = s.books := rfl
@[simp] theorem updBank_mgmt (s : State) (d b : Nat) (g : Bank → Bank) : (updBank s d b g).mgmt = s.mgmt := rfl
@[simp] theorem updBank_now (s : State) (d b : Nat) (g : Bank → Bank) : (updBank s d b g).now = s.now := rfl
@[simp] theorem updBank_freeCtr (s : State) (d b : Nat) (g : Bank → Bank) : (updBank s d b g).freeCtr = s.freeCtr := rfl
@[simp] theorem updBank_out (s : State) (d b : Nat) (g : Bank → Bank) : (updBank s d b g).out = s.out := rfl
@[simp] theorem updBank_pending (s : State) (d b : Nat) (g : Bank → Bank) : (updBank s d b g).pending = s.pending := rfl

/-! ### updPage -/

@[simp] theorem updPage_pins (s : State) (p : Nat) (g : Page → Page) : (updPage s p g).pins = s.pins := rfl
@[simp] theorem updPage_boot (s : State) (p : Nat) (g : Page → Page) : (updPage s p g).boot = s.boot := rfl
@[simp] theorem updPage_hbFuses (s : State) (p : Nat) (g : Page → Page) : (updPage s p g).hbFuses = s.hbFuses := rfl
@[simp] theorem updPage_dies (s : State) (p : Nat) (g : Page → Page) : (updPage s p g).dies = s.dies := rfl
@[simp] theorem updPage_thermal (s : State) (p : Nat) (g : Page → Page) : (updPage s p g).thermal = s.thermal := rfl
@[simp] theorem updPage_training (s : State) (p : Nat) (g : Page → Page) : (updPage s p g).training = s.training := rfl
@[simp] theorem updPage_fns (s : State) (p : Nat) (g : Page → Page) : (updPage s p g).fns = s.fns := rfl
@[simp] theorem updPage_sriov (s : State) (p : Nat) (g : Page → Page) : (updPage s p g).sriov = s.sriov := rfl
@[simp] theorem updPage_vfMse (s : State) (p : Nat) (g : Page → Page) : (updPage s p g).vfMse = s.vfMse := rfl
@[simp] theorem updPage_ari (s : State) (p : Nat) (g : Page → Page) : (updPage s p g).ari = s.ari := rfl
@[simp] theorem updPage_numVfs (s : State) (p : Nat) (g : Page → Page) : (updPage s p g).numVfs = s.numVfs := rfl
@[simp] theorem updPage_pcie (s : State) (p : Nat) (g : Page → Page) : (updPage s p g).pcie = s.pcie := rfl
@[simp] theorem updPage_atc (s : State) (p : Nat) (g : Page → Page) : (updPage s p g).atc = s.atc := rfl
@[simp] theorem updPage_pfHeld (s : State) (p : Nat) (g : Page → Page) : (updPage s p g).pfHeld = s.pfHeld := rfl
@[simp] theorem updPage_cp (s : State) (p : Nat) (g : Page → Page) : (updPage s p g).cp = s.cp := rfl
@[simp] theorem updPage_regions (s : State) (p : Nat) (g : Page → Page) : (updPage s p g).regions = s.regions := rfl
@[simp] theorem updPage_models (s : State) (p : Nat) (g : Page → Page) : (updPage s p g).models = s.models := rfl
@[simp] theorem updPage_vocabs (s : State) (p : Nat) (g : Page → Page) : (updPage s p g).vocabs = s.vocabs := rfl
@[simp] theorem updPage_bins (s : State) (p : Nat) (g : Page → Page) : (updPage s p g).bins = s.bins := rfl
@[simp] theorem updPage_grammars (s : State) (p : Nat) (g : Page → Page) : (updPage s p g).grammars = s.grammars := rfl
@[simp] theorem updPage_serials (s : State) (p : Nat) (g : Page → Page) : (updPage s p g).serials = s.serials := rfl
@[simp] theorem updPage_uncommitted (s : State) (p : Nat) (g : Page → Page) : (updPage s p g).uncommitted = s.uncommitted := rfl
@[simp] theorem updPage_ledger (s : State) (p : Nat) (g : Page → Page) : (updPage s p g).ledger = s.ledger := rfl
@[simp] theorem updPage_ledgerX (s : State) (p : Nat) (g : Page → Page) : (updPage s p g).ledgerX = s.ledgerX := rfl
@[simp] theorem updPage_steps (s : State) (p : Nat) (g : Page → Page) : (updPage s p g).steps = s.steps := rfl
@[simp] theorem updPage_nextStep (s : State) (p : Nat) (g : Page → Page) : (updPage s p g).nextStep = s.nextStep := rfl
@[simp] theorem updPage_lanesIn (s : State) (p : Nat) (g : Page → Page) : (updPage s p g).lanesIn = s.lanesIn := rfl
@[simp] theorem updPage_lanesOut (s : State) (p : Nat) (g : Page → Page) : (updPage s p g).lanesOut = s.lanesOut := rfl
@[simp] theorem updPage_turnIn (s : State) (p : Nat) (g : Page → Page) : (updPage s p g).turnIn = s.turnIn := rfl
@[simp] theorem updPage_turnOut (s : State) (p : Nat) (g : Page → Page) : (updPage s p g).turnOut = s.turnOut := rfl
@[simp] theorem updPage_mem (s : State) (p : Nat) (g : Page → Page) : (updPage s p g).mem = s.mem := rfl
@[simp] theorem updPage_poison (s : State) (p : Nat) (g : Page → Page) : (updPage s p g).poison = s.poison := rfl
@[simp] theorem updPage_pages (s : State) (p : Nat) (g : Page → Page) :
    (updPage s p g).pages = tmod ({} : Page) s.pages p g := rfl
@[simp] theorem updPage_shooting (s : State) (p : Nat) (g : Page → Page) : (updPage s p g).shooting = s.shooting := rfl
@[simp] theorem updPage_tlbs (s : State) (p : Nat) (g : Page → Page) : (updPage s p g).tlbs = s.tlbs := rfl
@[simp] theorem updPage_stale (s : State) (p : Nat) (g : Page → Page) : (updPage s p g).stale = s.stale := rfl
@[simp] theorem updPage_faults (s : State) (p : Nat) (g : Page → Page) : (updPage s p g).faults = s.faults := rfl
@[simp] theorem updPage_scrubs (s : State) (p : Nat) (g : Page → Page) : (updPage s p g).scrubs = s.scrubs := rfl
@[simp] theorem updPage_banks (s : State) (p : Nat) (g : Page → Page) : (updPage s p g).banks = s.banks := rfl
@[simp] theorem updPage_bankRefused (s : State) (p : Nat) (g : Page → Page) : (updPage s p g).bankRefused = s.bankRefused := rfl
@[simp] theorem updPage_links (s : State) (p : Nat) (g : Page → Page) : (updPage s p g).links = s.links := rfl
@[simp] theorem updPage_txns (s : State) (p : Nat) (g : Page → Page) : (updPage s p g).txns = s.txns := rfl
@[simp] theorem updPage_energy (s : State) (p : Nat) (g : Page → Page) : (updPage s p g).energy = s.energy := rfl
@[simp] theorem updPage_conf (s : State) (p : Nat) (g : Page → Page) : (updPage s p g).conf = s.conf := rfl
@[simp] theorem updPage_errlog (s : State) (p : Nat) (g : Page → Page) : (updPage s p g).errlog = s.errlog := rfl
@[simp] theorem updPage_errNext (s : State) (p : Nat) (g : Page → Page) : (updPage s p g).errNext = s.errNext := rfl
@[simp] theorem updPage_books (s : State) (p : Nat) (g : Page → Page) : (updPage s p g).books = s.books := rfl
@[simp] theorem updPage_mgmt (s : State) (p : Nat) (g : Page → Page) : (updPage s p g).mgmt = s.mgmt := rfl
@[simp] theorem updPage_now (s : State) (p : Nat) (g : Page → Page) : (updPage s p g).now = s.now := rfl
@[simp] theorem updPage_freeCtr (s : State) (p : Nat) (g : Page → Page) : (updPage s p g).freeCtr = s.freeCtr := rfl
@[simp] theorem updPage_out (s : State) (p : Nat) (g : Page → Page) : (updPage s p g).out = s.out := rfl
@[simp] theorem updPage_pending (s : State) (p : Nat) (g : Page → Page) : (updPage s p g).pending = s.pending := rfl

/-! ### emit -/

@[simp] theorem emit_pins (s : State) (o : Output) : (emit s o).pins = s.pins := rfl
@[simp] theorem emit_boot (s : State) (o : Output) : (emit s o).boot = s.boot := rfl
@[simp] theorem emit_hbFuses (s : State) (o : Output) : (emit s o).hbFuses = s.hbFuses := rfl
@[simp] theorem emit_dies (s : State) (o : Output) : (emit s o).dies = s.dies := rfl
@[simp] theorem emit_thermal (s : State) (o : Output) : (emit s o).thermal = s.thermal := rfl
@[simp] theorem emit_training (s : State) (o : Output) : (emit s o).training = s.training := rfl
@[simp] theorem emit_fns (s : State) (o : Output) : (emit s o).fns = s.fns := rfl
@[simp] theorem emit_sriov (s : State) (o : Output) : (emit s o).sriov = s.sriov := rfl
@[simp] theorem emit_vfMse (s : State) (o : Output) : (emit s o).vfMse = s.vfMse := rfl
@[simp] theorem emit_ari (s : State) (o : Output) : (emit s o).ari = s.ari := rfl
@[simp] theorem emit_numVfs (s : State) (o : Output) : (emit s o).numVfs = s.numVfs := rfl
@[simp] theorem emit_pcie (s : State) (o : Output) : (emit s o).pcie = s.pcie := rfl
@[simp] theorem emit_atc (s : State) (o : Output) : (emit s o).atc = s.atc := rfl
@[simp] theorem emit_pfHeld (s : State) (o : Output) : (emit s o).pfHeld = s.pfHeld := rfl
@[simp] theorem emit_cp (s : State) (o : Output) : (emit s o).cp = s.cp := rfl
@[simp] theorem emit_regions (s : State) (o : Output) : (emit s o).regions = s.regions := rfl
@[simp] theorem emit_models (s : State) (o : Output) : (emit s o).models = s.models := rfl
@[simp] theorem emit_vocabs (s : State) (o : Output) : (emit s o).vocabs = s.vocabs := rfl
@[simp] theorem emit_bins (s : State) (o : Output) : (emit s o).bins = s.bins := rfl
@[simp] theorem emit_grammars (s : State) (o : Output) : (emit s o).grammars = s.grammars := rfl
@[simp] theorem emit_serials (s : State) (o : Output) : (emit s o).serials = s.serials := rfl
@[simp] theorem emit_uncommitted (s : State) (o : Output) : (emit s o).uncommitted = s.uncommitted := rfl
@[simp] theorem emit_ledger (s : State) (o : Output) : (emit s o).ledger = s.ledger := rfl
@[simp] theorem emit_ledgerX (s : State) (o : Output) : (emit s o).ledgerX = s.ledgerX := rfl
@[simp] theorem emit_steps (s : State) (o : Output) : (emit s o).steps = s.steps := rfl
@[simp] theorem emit_nextStep (s : State) (o : Output) : (emit s o).nextStep = s.nextStep := rfl
@[simp] theorem emit_lanesIn (s : State) (o : Output) : (emit s o).lanesIn = s.lanesIn := rfl
@[simp] theorem emit_lanesOut (s : State) (o : Output) : (emit s o).lanesOut = s.lanesOut := rfl
@[simp] theorem emit_turnIn (s : State) (o : Output) : (emit s o).turnIn = s.turnIn := rfl
@[simp] theorem emit_turnOut (s : State) (o : Output) : (emit s o).turnOut = s.turnOut := rfl
@[simp] theorem emit_mem (s : State) (o : Output) : (emit s o).mem = s.mem := rfl
@[simp] theorem emit_poison (s : State) (o : Output) : (emit s o).poison = s.poison := rfl
@[simp] theorem emit_pages (s : State) (o : Output) : (emit s o).pages = s.pages := rfl
@[simp] theorem emit_shooting (s : State) (o : Output) : (emit s o).shooting = s.shooting := rfl
@[simp] theorem emit_tlbs (s : State) (o : Output) : (emit s o).tlbs = s.tlbs := rfl
@[simp] theorem emit_stale (s : State) (o : Output) : (emit s o).stale = s.stale := rfl
@[simp] theorem emit_faults (s : State) (o : Output) : (emit s o).faults = s.faults := rfl
@[simp] theorem emit_scrubs (s : State) (o : Output) : (emit s o).scrubs = s.scrubs := rfl
@[simp] theorem emit_banks (s : State) (o : Output) : (emit s o).banks = s.banks := rfl
@[simp] theorem emit_bankRefused (s : State) (o : Output) : (emit s o).bankRefused = s.bankRefused := rfl
@[simp] theorem emit_links (s : State) (o : Output) : (emit s o).links = s.links := rfl
@[simp] theorem emit_txns (s : State) (o : Output) : (emit s o).txns = s.txns := rfl
@[simp] theorem emit_energy (s : State) (o : Output) : (emit s o).energy = s.energy := rfl
@[simp] theorem emit_conf (s : State) (o : Output) : (emit s o).conf = s.conf := rfl
@[simp] theorem emit_errlog (s : State) (o : Output) : (emit s o).errlog = s.errlog := rfl
@[simp] theorem emit_errNext (s : State) (o : Output) : (emit s o).errNext = s.errNext := rfl
@[simp] theorem emit_books (s : State) (o : Output) : (emit s o).books = s.books := rfl
@[simp] theorem emit_mgmt (s : State) (o : Output) : (emit s o).mgmt = s.mgmt := rfl
@[simp] theorem emit_now (s : State) (o : Output) : (emit s o).now = s.now := rfl
@[simp] theorem emit_freeCtr (s : State) (o : Output) : (emit s o).freeCtr = s.freeCtr := rfl
@[simp] theorem emit_out (s : State) (o : Output) :
    (emit s o).out = s.out ++ [o] := rfl
@[simp] theorem emit_pending (s : State) (o : Output) : (emit s o).pending = s.pending := rfl

/-! ### drawn -/

@[simp] theorem drawn_pins (s : State) : (drawn s).pins = s.pins := rfl
@[simp] theorem drawn_boot (s : State) : (drawn s).boot = s.boot := rfl
@[simp] theorem drawn_hbFuses (s : State) : (drawn s).hbFuses = s.hbFuses := rfl
@[simp] theorem drawn_dies (s : State) : (drawn s).dies = s.dies := rfl
@[simp] theorem drawn_thermal (s : State) : (drawn s).thermal = s.thermal := rfl
@[simp] theorem drawn_training (s : State) : (drawn s).training = s.training := rfl
@[simp] theorem drawn_fns (s : State) : (drawn s).fns = s.fns := rfl
@[simp] theorem drawn_sriov (s : State) : (drawn s).sriov = s.sriov := rfl
@[simp] theorem drawn_vfMse (s : State) : (drawn s).vfMse = s.vfMse := rfl
@[simp] theorem drawn_ari (s : State) : (drawn s).ari = s.ari := rfl
@[simp] theorem drawn_numVfs (s : State) : (drawn s).numVfs = s.numVfs := rfl
@[simp] theorem drawn_pcie (s : State) : (drawn s).pcie = s.pcie := rfl
@[simp] theorem drawn_atc (s : State) : (drawn s).atc = s.atc := rfl
@[simp] theorem drawn_pfHeld (s : State) : (drawn s).pfHeld = s.pfHeld := rfl
@[simp] theorem drawn_cp (s : State) : (drawn s).cp = s.cp := rfl
@[simp] theorem drawn_regions (s : State) : (drawn s).regions = s.regions := rfl
@[simp] theorem drawn_models (s : State) : (drawn s).models = s.models := rfl
@[simp] theorem drawn_vocabs (s : State) : (drawn s).vocabs = s.vocabs := rfl
@[simp] theorem drawn_bins (s : State) : (drawn s).bins = s.bins := rfl
@[simp] theorem drawn_grammars (s : State) : (drawn s).grammars = s.grammars := rfl
@[simp] theorem drawn_serials (s : State) : (drawn s).serials = s.serials := rfl
@[simp] theorem drawn_uncommitted (s : State) : (drawn s).uncommitted = s.uncommitted := rfl
@[simp] theorem drawn_ledger (s : State) : (drawn s).ledger = s.ledger := rfl
@[simp] theorem drawn_ledgerX (s : State) : (drawn s).ledgerX = s.ledgerX := rfl
@[simp] theorem drawn_steps (s : State) : (drawn s).steps = s.steps := rfl
@[simp] theorem drawn_nextStep (s : State) : (drawn s).nextStep = s.nextStep := rfl
@[simp] theorem drawn_lanesIn (s : State) : (drawn s).lanesIn = s.lanesIn := rfl
@[simp] theorem drawn_lanesOut (s : State) : (drawn s).lanesOut = s.lanesOut := rfl
@[simp] theorem drawn_turnIn (s : State) : (drawn s).turnIn = s.turnIn := rfl
@[simp] theorem drawn_turnOut (s : State) : (drawn s).turnOut = s.turnOut := rfl
@[simp] theorem drawn_mem (s : State) : (drawn s).mem = s.mem := rfl
@[simp] theorem drawn_poison (s : State) : (drawn s).poison = s.poison := rfl
@[simp] theorem drawn_pages (s : State) : (drawn s).pages = s.pages := rfl
@[simp] theorem drawn_shooting (s : State) : (drawn s).shooting = s.shooting := rfl
@[simp] theorem drawn_tlbs (s : State) : (drawn s).tlbs = s.tlbs := rfl
@[simp] theorem drawn_stale (s : State) : (drawn s).stale = s.stale := rfl
@[simp] theorem drawn_faults (s : State) : (drawn s).faults = s.faults := rfl
@[simp] theorem drawn_scrubs (s : State) : (drawn s).scrubs = s.scrubs := rfl
@[simp] theorem drawn_banks (s : State) : (drawn s).banks = s.banks := rfl
@[simp] theorem drawn_bankRefused (s : State) : (drawn s).bankRefused = s.bankRefused := rfl
@[simp] theorem drawn_links (s : State) : (drawn s).links = s.links := rfl
@[simp] theorem drawn_txns (s : State) : (drawn s).txns = s.txns := rfl
@[simp] theorem drawn_energy (s : State) : (drawn s).energy = s.energy := rfl
@[simp] theorem drawn_conf (s : State) : (drawn s).conf = s.conf := rfl
@[simp] theorem drawn_errlog (s : State) : (drawn s).errlog = s.errlog := rfl
@[simp] theorem drawn_errNext (s : State) : (drawn s).errNext = s.errNext := rfl
@[simp] theorem drawn_books (s : State) : (drawn s).books = s.books := rfl
@[simp] theorem drawn_mgmt (s : State) : (drawn s).mgmt = s.mgmt := rfl
@[simp] theorem drawn_now (s : State) : (drawn s).now = s.now := rfl
@[simp] theorem drawn_freeCtr (s : State) :
    (drawn s).freeCtr = s.freeCtr + 1 := rfl
@[simp] theorem drawn_out (s : State) : (drawn s).out = s.out := rfl
@[simp] theorem drawn_pending (s : State) : (drawn s).pending = s.pending := rfl

/-! ### cnt -/

@[simp] theorem cnt_pins (s : State) (f off n : Nat) : (cnt s f off n).pins = s.pins := rfl
@[simp] theorem cnt_boot (s : State) (f off n : Nat) : (cnt s f off n).boot = s.boot := rfl
@[simp] theorem cnt_hbFuses (s : State) (f off n : Nat) : (cnt s f off n).hbFuses = s.hbFuses := rfl
@[simp] theorem cnt_dies (s : State) (f off n : Nat) : (cnt s f off n).dies = s.dies := rfl
@[simp] theorem cnt_thermal (s : State) (f off n : Nat) : (cnt s f off n).thermal = s.thermal := rfl
@[simp] theorem cnt_training (s : State) (f off n : Nat) : (cnt s f off n).training = s.training := rfl
@[simp] theorem cnt_sriov (s : State) (f off n : Nat) : (cnt s f off n).sriov = s.sriov := rfl
@[simp] theorem cnt_vfMse (s : State) (f off n : Nat) : (cnt s f off n).vfMse = s.vfMse := rfl
@[simp] theorem cnt_ari (s : State) (f off n : Nat) : (cnt s f off n).ari = s.ari := rfl
@[simp] theorem cnt_numVfs (s : State) (f off n : Nat) : (cnt s f off n).numVfs = s.numVfs := rfl
@[simp] theorem cnt_pcie (s : State) (f off n : Nat) : (cnt s f off n).pcie = s.pcie := rfl
@[simp] theorem cnt_atc (s : State) (f off n : Nat) : (cnt s f off n).atc = s.atc := rfl
@[simp] theorem cnt_pfHeld (s : State) (f off n : Nat) : (cnt s f off n).pfHeld = s.pfHeld := rfl
@[simp] theorem cnt_cp (s : State) (f off n : Nat) : (cnt s f off n).cp = s.cp := rfl
@[simp] theorem cnt_regions (s : State) (f off n : Nat) : (cnt s f off n).regions = s.regions := rfl
@[simp] theorem cnt_models (s : State) (f off n : Nat) : (cnt s f off n).models = s.models := rfl
@[simp] theorem cnt_vocabs (s : State) (f off n : Nat) : (cnt s f off n).vocabs = s.vocabs := rfl
@[simp] theorem cnt_bins (s : State) (f off n : Nat) : (cnt s f off n).bins = s.bins := rfl
@[simp] theorem cnt_grammars (s : State) (f off n : Nat) : (cnt s f off n).grammars = s.grammars := rfl
@[simp] theorem cnt_serials (s : State) (f off n : Nat) : (cnt s f off n).serials = s.serials := rfl
@[simp] theorem cnt_uncommitted (s : State) (f off n : Nat) : (cnt s f off n).uncommitted = s.uncommitted := rfl
@[simp] theorem cnt_ledger (s : State) (f off n : Nat) : (cnt s f off n).ledger = s.ledger := rfl
@[simp] theorem cnt_ledgerX (s : State) (f off n : Nat) : (cnt s f off n).ledgerX = s.ledgerX := rfl
@[simp] theorem cnt_steps (s : State) (f off n : Nat) : (cnt s f off n).steps = s.steps := rfl
@[simp] theorem cnt_nextStep (s : State) (f off n : Nat) : (cnt s f off n).nextStep = s.nextStep := rfl
@[simp] theorem cnt_lanesIn (s : State) (f off n : Nat) : (cnt s f off n).lanesIn = s.lanesIn := rfl
@[simp] theorem cnt_lanesOut (s : State) (f off n : Nat) : (cnt s f off n).lanesOut = s.lanesOut := rfl
@[simp] theorem cnt_turnIn (s : State) (f off n : Nat) : (cnt s f off n).turnIn = s.turnIn := rfl
@[simp] theorem cnt_turnOut (s : State) (f off n : Nat) : (cnt s f off n).turnOut = s.turnOut := rfl
@[simp] theorem cnt_mem (s : State) (f off n : Nat) : (cnt s f off n).mem = s.mem := rfl
@[simp] theorem cnt_poison (s : State) (f off n : Nat) : (cnt s f off n).poison = s.poison := rfl
@[simp] theorem cnt_pages (s : State) (f off n : Nat) : (cnt s f off n).pages = s.pages := rfl
@[simp] theorem cnt_shooting (s : State) (f off n : Nat) : (cnt s f off n).shooting = s.shooting := rfl
@[simp] theorem cnt_tlbs (s : State) (f off n : Nat) : (cnt s f off n).tlbs = s.tlbs := rfl
@[simp] theorem cnt_stale (s : State) (f off n : Nat) : (cnt s f off n).stale = s.stale := rfl
@[simp] theorem cnt_faults (s : State) (f off n : Nat) : (cnt s f off n).faults = s.faults := rfl
@[simp] theorem cnt_scrubs (s : State) (f off n : Nat) : (cnt s f off n).scrubs = s.scrubs := rfl
@[simp] theorem cnt_banks (s : State) (f off n : Nat) : (cnt s f off n).banks = s.banks := rfl
@[simp] theorem cnt_bankRefused (s : State) (f off n : Nat) : (cnt s f off n).bankRefused = s.bankRefused := rfl
@[simp] theorem cnt_links (s : State) (f off n : Nat) : (cnt s f off n).links = s.links := rfl
@[simp] theorem cnt_txns (s : State) (f off n : Nat) : (cnt s f off n).txns = s.txns := rfl
@[simp] theorem cnt_energy (s : State) (f off n : Nat) : (cnt s f off n).energy = s.energy := rfl
@[simp] theorem cnt_conf (s : State) (f off n : Nat) : (cnt s f off n).conf = s.conf := rfl
@[simp] theorem cnt_errlog (s : State) (f off n : Nat) : (cnt s f off n).errlog = s.errlog := rfl
@[simp] theorem cnt_errNext (s : State) (f off n : Nat) : (cnt s f off n).errNext = s.errNext := rfl
@[simp] theorem cnt_books (s : State) (f off n : Nat) : (cnt s f off n).books = s.books := rfl
@[simp] theorem cnt_mgmt (s : State) (f off n : Nat) : (cnt s f off n).mgmt = s.mgmt := rfl
@[simp] theorem cnt_now (s : State) (f off n : Nat) : (cnt s f off n).now = s.now := rfl
@[simp] theorem cnt_freeCtr (s : State) (f off n : Nat) : (cnt s f off n).freeCtr = s.freeCtr := rfl
@[simp] theorem cnt_out (s : State) (f off n : Nat) : (cnt s f off n).out = s.out := rfl
@[simp] theorem cnt_pending (s : State) (f off n : Nat) : (cnt s f off n).pending = s.pending := rfl

/-! ### bootLog -/

@[simp] theorem bootLog_pins (s : State) (kind arg : Nat) : (bootLog s kind arg).pins = s.pins := rfl
@[simp] theorem bootLog_hbFuses (s : State) (kind arg : Nat) : (bootLog s kind arg).hbFuses = s.hbFuses := rfl
@[simp] theorem bootLog_dies (s : State) (kind arg : Nat) : (bootLog s kind arg).dies = s.dies := rfl
@[simp] theorem bootLog_thermal (s : State) (kind arg : Nat) : (bootLog s kind arg).thermal = s.thermal := rfl
@[simp] theorem bootLog_training (s : State) (kind arg : Nat) : (bootLog s kind arg).training = s.training := rfl
@[simp] theorem bootLog_fns (s : State) (kind arg : Nat) : (bootLog s kind arg).fns = s.fns := rfl
@[simp] theorem bootLog_sriov (s : State) (kind arg : Nat) : (bootLog s kind arg).sriov = s.sriov := rfl
@[simp] theorem bootLog_vfMse (s : State) (kind arg : Nat) : (bootLog s kind arg).vfMse = s.vfMse := rfl
@[simp] theorem bootLog_ari (s : State) (kind arg : Nat) : (bootLog s kind arg).ari = s.ari := rfl
@[simp] theorem bootLog_numVfs (s : State) (kind arg : Nat) : (bootLog s kind arg).numVfs = s.numVfs := rfl
@[simp] theorem bootLog_pcie (s : State) (kind arg : Nat) : (bootLog s kind arg).pcie = s.pcie := rfl
@[simp] theorem bootLog_atc (s : State) (kind arg : Nat) : (bootLog s kind arg).atc = s.atc := rfl
@[simp] theorem bootLog_pfHeld (s : State) (kind arg : Nat) : (bootLog s kind arg).pfHeld = s.pfHeld := rfl
@[simp] theorem bootLog_cp (s : State) (kind arg : Nat) : (bootLog s kind arg).cp = s.cp := rfl
@[simp] theorem bootLog_regions (s : State) (kind arg : Nat) : (bootLog s kind arg).regions = s.regions := rfl
@[simp] theorem bootLog_models (s : State) (kind arg : Nat) : (bootLog s kind arg).models = s.models := rfl
@[simp] theorem bootLog_vocabs (s : State) (kind arg : Nat) : (bootLog s kind arg).vocabs = s.vocabs := rfl
@[simp] theorem bootLog_bins (s : State) (kind arg : Nat) : (bootLog s kind arg).bins = s.bins := rfl
@[simp] theorem bootLog_grammars (s : State) (kind arg : Nat) : (bootLog s kind arg).grammars = s.grammars := rfl
@[simp] theorem bootLog_serials (s : State) (kind arg : Nat) : (bootLog s kind arg).serials = s.serials := rfl
@[simp] theorem bootLog_uncommitted (s : State) (kind arg : Nat) : (bootLog s kind arg).uncommitted = s.uncommitted := rfl
@[simp] theorem bootLog_ledger (s : State) (kind arg : Nat) : (bootLog s kind arg).ledger = s.ledger := rfl
@[simp] theorem bootLog_ledgerX (s : State) (kind arg : Nat) : (bootLog s kind arg).ledgerX = s.ledgerX := rfl
@[simp] theorem bootLog_steps (s : State) (kind arg : Nat) : (bootLog s kind arg).steps = s.steps := rfl
@[simp] theorem bootLog_nextStep (s : State) (kind arg : Nat) : (bootLog s kind arg).nextStep = s.nextStep := rfl
@[simp] theorem bootLog_lanesIn (s : State) (kind arg : Nat) : (bootLog s kind arg).lanesIn = s.lanesIn := rfl
@[simp] theorem bootLog_lanesOut (s : State) (kind arg : Nat) : (bootLog s kind arg).lanesOut = s.lanesOut := rfl
@[simp] theorem bootLog_turnIn (s : State) (kind arg : Nat) : (bootLog s kind arg).turnIn = s.turnIn := rfl
@[simp] theorem bootLog_turnOut (s : State) (kind arg : Nat) : (bootLog s kind arg).turnOut = s.turnOut := rfl
@[simp] theorem bootLog_mem (s : State) (kind arg : Nat) : (bootLog s kind arg).mem = s.mem := rfl
@[simp] theorem bootLog_poison (s : State) (kind arg : Nat) : (bootLog s kind arg).poison = s.poison := rfl
@[simp] theorem bootLog_pages (s : State) (kind arg : Nat) : (bootLog s kind arg).pages = s.pages := rfl
@[simp] theorem bootLog_shooting (s : State) (kind arg : Nat) : (bootLog s kind arg).shooting = s.shooting := rfl
@[simp] theorem bootLog_tlbs (s : State) (kind arg : Nat) : (bootLog s kind arg).tlbs = s.tlbs := rfl
@[simp] theorem bootLog_stale (s : State) (kind arg : Nat) : (bootLog s kind arg).stale = s.stale := rfl
@[simp] theorem bootLog_faults (s : State) (kind arg : Nat) : (bootLog s kind arg).faults = s.faults := rfl
@[simp] theorem bootLog_scrubs (s : State) (kind arg : Nat) : (bootLog s kind arg).scrubs = s.scrubs := rfl
@[simp] theorem bootLog_banks (s : State) (kind arg : Nat) : (bootLog s kind arg).banks = s.banks := rfl
@[simp] theorem bootLog_bankRefused (s : State) (kind arg : Nat) : (bootLog s kind arg).bankRefused = s.bankRefused := rfl
@[simp] theorem bootLog_links (s : State) (kind arg : Nat) : (bootLog s kind arg).links = s.links := rfl
@[simp] theorem bootLog_txns (s : State) (kind arg : Nat) : (bootLog s kind arg).txns = s.txns := rfl
@[simp] theorem bootLog_energy (s : State) (kind arg : Nat) : (bootLog s kind arg).energy = s.energy := rfl
@[simp] theorem bootLog_conf (s : State) (kind arg : Nat) : (bootLog s kind arg).conf = s.conf := rfl
@[simp] theorem bootLog_errlog (s : State) (kind arg : Nat) : (bootLog s kind arg).errlog = s.errlog := rfl
@[simp] theorem bootLog_errNext (s : State) (kind arg : Nat) : (bootLog s kind arg).errNext = s.errNext := rfl
@[simp] theorem bootLog_books (s : State) (kind arg : Nat) : (bootLog s kind arg).books = s.books := rfl
@[simp] theorem bootLog_mgmt (s : State) (kind arg : Nat) : (bootLog s kind arg).mgmt = s.mgmt := rfl
@[simp] theorem bootLog_now (s : State) (kind arg : Nat) : (bootLog s kind arg).now = s.now := rfl
@[simp] theorem bootLog_freeCtr (s : State) (kind arg : Nat) : (bootLog s kind arg).freeCtr = s.freeCtr := rfl
@[simp] theorem bootLog_out (s : State) (kind arg : Nat) :
    (bootLog s kind arg).out = s.out ++ [.uart (entryText { ms := s.now / 1000, kind := kind, arg := arg })] := rfl
@[simp] theorem bootLog_pending (s : State) (kind arg : Nat) : (bootLog s kind arg).pending = s.pending := rfl

/-! ### setStage -/

@[simp] theorem setStage_pins (s : State) (n : Nat) : (setStage s n).pins = s.pins := rfl
@[simp] theorem setStage_hbFuses (s : State) (n : Nat) : (setStage s n).hbFuses = s.hbFuses := rfl
@[simp] theorem setStage_dies (s : State) (n : Nat) : (setStage s n).dies = s.dies := rfl
@[simp] theorem setStage_thermal (s : State) (n : Nat) : (setStage s n).thermal = s.thermal := rfl
@[simp] theorem setStage_training (s : State) (n : Nat) : (setStage s n).training = s.training := rfl
@[simp] theorem setStage_fns (s : State) (n : Nat) : (setStage s n).fns = s.fns := rfl
@[simp] theorem setStage_sriov (s : State) (n : Nat) : (setStage s n).sriov = s.sriov := rfl
@[simp] theorem setStage_vfMse (s : State) (n : Nat) : (setStage s n).vfMse = s.vfMse := rfl
@[simp] theorem setStage_ari (s : State) (n : Nat) : (setStage s n).ari = s.ari := rfl
@[simp] theorem setStage_numVfs (s : State) (n : Nat) : (setStage s n).numVfs = s.numVfs := rfl
@[simp] theorem setStage_pcie (s : State) (n : Nat) : (setStage s n).pcie = s.pcie := rfl
@[simp] theorem setStage_atc (s : State) (n : Nat) : (setStage s n).atc = s.atc := rfl
@[simp] theorem setStage_pfHeld (s : State) (n : Nat) : (setStage s n).pfHeld = s.pfHeld := rfl
@[simp] theorem setStage_cp (s : State) (n : Nat) : (setStage s n).cp = s.cp := rfl
@[simp] theorem setStage_regions (s : State) (n : Nat) : (setStage s n).regions = s.regions := rfl
@[simp] theorem setStage_models (s : State) (n : Nat) : (setStage s n).models = s.models := rfl
@[simp] theorem setStage_vocabs (s : State) (n : Nat) : (setStage s n).vocabs = s.vocabs := rfl
@[simp] theorem setStage_bins (s : State) (n : Nat) : (setStage s n).bins = s.bins := rfl
@[simp] theorem setStage_grammars (s : State) (n : Nat) : (setStage s n).grammars = s.grammars := rfl
@[simp] theorem setStage_serials (s : State) (n : Nat) : (setStage s n).serials = s.serials := rfl
@[simp] theorem setStage_uncommitted (s : State) (n : Nat) : (setStage s n).uncommitted = s.uncommitted := rfl
@[simp] theorem setStage_ledger (s : State) (n : Nat) : (setStage s n).ledger = s.ledger := rfl
@[simp] theorem setStage_ledgerX (s : State) (n : Nat) : (setStage s n).ledgerX = s.ledgerX := rfl
@[simp] theorem setStage_steps (s : State) (n : Nat) : (setStage s n).steps = s.steps := rfl
@[simp] theorem setStage_nextStep (s : State) (n : Nat) : (setStage s n).nextStep = s.nextStep := rfl
@[simp] theorem setStage_lanesIn (s : State) (n : Nat) : (setStage s n).lanesIn = s.lanesIn := rfl
@[simp] theorem setStage_lanesOut (s : State) (n : Nat) : (setStage s n).lanesOut = s.lanesOut := rfl
@[simp] theorem setStage_turnIn (s : State) (n : Nat) : (setStage s n).turnIn = s.turnIn := rfl
@[simp] theorem setStage_turnOut (s : State) (n : Nat) : (setStage s n).turnOut = s.turnOut := rfl
@[simp] theorem setStage_mem (s : State) (n : Nat) : (setStage s n).mem = s.mem := rfl
@[simp] theorem setStage_poison (s : State) (n : Nat) : (setStage s n).poison = s.poison := rfl
@[simp] theorem setStage_pages (s : State) (n : Nat) : (setStage s n).pages = s.pages := rfl
@[simp] theorem setStage_shooting (s : State) (n : Nat) : (setStage s n).shooting = s.shooting := rfl
@[simp] theorem setStage_tlbs (s : State) (n : Nat) : (setStage s n).tlbs = s.tlbs := rfl
@[simp] theorem setStage_stale (s : State) (n : Nat) : (setStage s n).stale = s.stale := rfl
@[simp] theorem setStage_faults (s : State) (n : Nat) : (setStage s n).faults = s.faults := rfl
@[simp] theorem setStage_scrubs (s : State) (n : Nat) : (setStage s n).scrubs = s.scrubs := rfl
@[simp] theorem setStage_banks (s : State) (n : Nat) : (setStage s n).banks = s.banks := rfl
@[simp] theorem setStage_bankRefused (s : State) (n : Nat) : (setStage s n).bankRefused = s.bankRefused := rfl
@[simp] theorem setStage_links (s : State) (n : Nat) : (setStage s n).links = s.links := rfl
@[simp] theorem setStage_txns (s : State) (n : Nat) : (setStage s n).txns = s.txns := rfl
@[simp] theorem setStage_energy (s : State) (n : Nat) : (setStage s n).energy = s.energy := rfl
@[simp] theorem setStage_conf (s : State) (n : Nat) : (setStage s n).conf = s.conf := rfl
@[simp] theorem setStage_errlog (s : State) (n : Nat) : (setStage s n).errlog = s.errlog := rfl
@[simp] theorem setStage_errNext (s : State) (n : Nat) : (setStage s n).errNext = s.errNext := rfl
@[simp] theorem setStage_books (s : State) (n : Nat) : (setStage s n).books = s.books := rfl
@[simp] theorem setStage_mgmt (s : State) (n : Nat) : (setStage s n).mgmt = s.mgmt := rfl
@[simp] theorem setStage_now (s : State) (n : Nat) : (setStage s n).now = s.now := rfl
@[simp] theorem setStage_freeCtr (s : State) (n : Nat) : (setStage s n).freeCtr = s.freeCtr := rfl
@[simp] theorem setStage_out (s : State) (n : Nat) :
    (setStage s n).out = s.out ++ [.uart (entryText { ms := s.now / 1000, kind := logStage, arg := n })] := rfl
@[simp] theorem setStage_pending (s : State) (n : Nat) : (setStage s n).pending = s.pending := rfl

/-! ### logErr -/

@[simp] theorem logErr_pins (s : State) (e : LogEntry) : (logErr s e).pins = s.pins := rfl
@[simp] theorem logErr_boot (s : State) (e : LogEntry) : (logErr s e).boot = s.boot := rfl
@[simp] theorem logErr_hbFuses (s : State) (e : LogEntry) : (logErr s e).hbFuses = s.hbFuses := rfl
@[simp] theorem logErr_dies (s : State) (e : LogEntry) : (logErr s e).dies = s.dies := rfl
@[simp] theorem logErr_thermal (s : State) (e : LogEntry) : (logErr s e).thermal = s.thermal := rfl
@[simp] theorem logErr_training (s : State) (e : LogEntry) : (logErr s e).training = s.training := rfl
@[simp] theorem logErr_fns (s : State) (e : LogEntry) : (logErr s e).fns = s.fns := rfl
@[simp] theorem logErr_sriov (s : State) (e : LogEntry) : (logErr s e).sriov = s.sriov := rfl
@[simp] theorem logErr_vfMse (s : State) (e : LogEntry) : (logErr s e).vfMse = s.vfMse := rfl
@[simp] theorem logErr_ari (s : State) (e : LogEntry) : (logErr s e).ari = s.ari := rfl
@[simp] theorem logErr_numVfs (s : State) (e : LogEntry) : (logErr s e).numVfs = s.numVfs := rfl
@[simp] theorem logErr_pcie (s : State) (e : LogEntry) : (logErr s e).pcie = s.pcie := rfl
@[simp] theorem logErr_atc (s : State) (e : LogEntry) : (logErr s e).atc = s.atc := rfl
@[simp] theorem logErr_pfHeld (s : State) (e : LogEntry) : (logErr s e).pfHeld = s.pfHeld := rfl
@[simp] theorem logErr_cp (s : State) (e : LogEntry) : (logErr s e).cp = s.cp := rfl
@[simp] theorem logErr_regions (s : State) (e : LogEntry) : (logErr s e).regions = s.regions := rfl
@[simp] theorem logErr_models (s : State) (e : LogEntry) : (logErr s e).models = s.models := rfl
@[simp] theorem logErr_vocabs (s : State) (e : LogEntry) : (logErr s e).vocabs = s.vocabs := rfl
@[simp] theorem logErr_bins (s : State) (e : LogEntry) : (logErr s e).bins = s.bins := rfl
@[simp] theorem logErr_grammars (s : State) (e : LogEntry) : (logErr s e).grammars = s.grammars := rfl
@[simp] theorem logErr_serials (s : State) (e : LogEntry) : (logErr s e).serials = s.serials := rfl
@[simp] theorem logErr_uncommitted (s : State) (e : LogEntry) : (logErr s e).uncommitted = s.uncommitted := rfl
@[simp] theorem logErr_ledger (s : State) (e : LogEntry) : (logErr s e).ledger = s.ledger := rfl
@[simp] theorem logErr_ledgerX (s : State) (e : LogEntry) : (logErr s e).ledgerX = s.ledgerX := rfl
@[simp] theorem logErr_steps (s : State) (e : LogEntry) : (logErr s e).steps = s.steps := rfl
@[simp] theorem logErr_nextStep (s : State) (e : LogEntry) : (logErr s e).nextStep = s.nextStep := rfl
@[simp] theorem logErr_lanesIn (s : State) (e : LogEntry) : (logErr s e).lanesIn = s.lanesIn := rfl
@[simp] theorem logErr_lanesOut (s : State) (e : LogEntry) : (logErr s e).lanesOut = s.lanesOut := rfl
@[simp] theorem logErr_turnIn (s : State) (e : LogEntry) : (logErr s e).turnIn = s.turnIn := rfl
@[simp] theorem logErr_turnOut (s : State) (e : LogEntry) : (logErr s e).turnOut = s.turnOut := rfl
@[simp] theorem logErr_mem (s : State) (e : LogEntry) : (logErr s e).mem = s.mem := rfl
@[simp] theorem logErr_poison (s : State) (e : LogEntry) : (logErr s e).poison = s.poison := rfl
@[simp] theorem logErr_pages (s : State) (e : LogEntry) : (logErr s e).pages = s.pages := rfl
@[simp] theorem logErr_shooting (s : State) (e : LogEntry) : (logErr s e).shooting = s.shooting := rfl
@[simp] theorem logErr_tlbs (s : State) (e : LogEntry) : (logErr s e).tlbs = s.tlbs := rfl
@[simp] theorem logErr_stale (s : State) (e : LogEntry) : (logErr s e).stale = s.stale := rfl
@[simp] theorem logErr_faults (s : State) (e : LogEntry) : (logErr s e).faults = s.faults := rfl
@[simp] theorem logErr_scrubs (s : State) (e : LogEntry) : (logErr s e).scrubs = s.scrubs := rfl
@[simp] theorem logErr_banks (s : State) (e : LogEntry) : (logErr s e).banks = s.banks := rfl
@[simp] theorem logErr_bankRefused (s : State) (e : LogEntry) : (logErr s e).bankRefused = s.bankRefused := rfl
@[simp] theorem logErr_links (s : State) (e : LogEntry) : (logErr s e).links = s.links := rfl
@[simp] theorem logErr_txns (s : State) (e : LogEntry) : (logErr s e).txns = s.txns := rfl
@[simp] theorem logErr_energy (s : State) (e : LogEntry) : (logErr s e).energy = s.energy := rfl
@[simp] theorem logErr_conf (s : State) (e : LogEntry) : (logErr s e).conf = s.conf := rfl
@[simp] theorem logErr_errNext (s : State) (e : LogEntry) :
    (logErr s e).errNext = s.errNext + 1 := rfl
@[simp] theorem logErr_books (s : State) (e : LogEntry) : (logErr s e).books = s.books := rfl
@[simp] theorem logErr_mgmt (s : State) (e : LogEntry) : (logErr s e).mgmt = s.mgmt := rfl
@[simp] theorem logErr_now (s : State) (e : LogEntry) : (logErr s e).now = s.now := rfl
@[simp] theorem logErr_freeCtr (s : State) (e : LogEntry) : (logErr s e).freeCtr = s.freeCtr := rfl
@[simp] theorem logErr_out (s : State) (e : LogEntry) : (logErr s e).out = s.out := rfl
@[simp] theorem logErr_pending (s : State) (e : LogEntry) : (logErr s e).pending = s.pending := rfl

/-! ### updMgmt -/

@[simp] theorem updMgmt_pins (s : State) (g : Mgmt → Mgmt) : (updMgmt s g).pins = s.pins := rfl
@[simp] theorem updMgmt_boot (s : State) (g : Mgmt → Mgmt) : (updMgmt s g).boot = s.boot := rfl
@[simp] theorem updMgmt_hbFuses (s : State) (g : Mgmt → Mgmt) : (updMgmt s g).hbFuses = s.hbFuses := rfl
@[simp] theorem updMgmt_dies (s : State) (g : Mgmt → Mgmt) : (updMgmt s g).dies = s.dies := rfl
@[simp] theorem updMgmt_thermal (s : State) (g : Mgmt → Mgmt) : (updMgmt s g).thermal = s.thermal := rfl
@[simp] theorem updMgmt_training (s : State) (g : Mgmt → Mgmt) : (updMgmt s g).training = s.training := rfl
@[simp] theorem updMgmt_fns (s : State) (g : Mgmt → Mgmt) : (updMgmt s g).fns = s.fns := rfl
@[simp] theorem updMgmt_sriov (s : State) (g : Mgmt → Mgmt) : (updMgmt s g).sriov = s.sriov := rfl
@[simp] theorem updMgmt_vfMse (s : State) (g : Mgmt → Mgmt) : (updMgmt s g).vfMse = s.vfMse := rfl
@[simp] theorem updMgmt_ari (s : State) (g : Mgmt → Mgmt) : (updMgmt s g).ari = s.ari := rfl
@[simp] theorem updMgmt_numVfs (s : State) (g : Mgmt → Mgmt) : (updMgmt s g).numVfs = s.numVfs := rfl
@[simp] theorem updMgmt_pcie (s : State) (g : Mgmt → Mgmt) : (updMgmt s g).pcie = s.pcie := rfl
@[simp] theorem updMgmt_atc (s : State) (g : Mgmt → Mgmt) : (updMgmt s g).atc = s.atc := rfl
@[simp] theorem updMgmt_pfHeld (s : State) (g : Mgmt → Mgmt) : (updMgmt s g).pfHeld = s.pfHeld := rfl
@[simp] theorem updMgmt_cp (s : State) (g : Mgmt → Mgmt) : (updMgmt s g).cp = s.cp := rfl
@[simp] theorem updMgmt_regions (s : State) (g : Mgmt → Mgmt) : (updMgmt s g).regions = s.regions := rfl
@[simp] theorem updMgmt_models (s : State) (g : Mgmt → Mgmt) : (updMgmt s g).models = s.models := rfl
@[simp] theorem updMgmt_vocabs (s : State) (g : Mgmt → Mgmt) : (updMgmt s g).vocabs = s.vocabs := rfl
@[simp] theorem updMgmt_bins (s : State) (g : Mgmt → Mgmt) : (updMgmt s g).bins = s.bins := rfl
@[simp] theorem updMgmt_grammars (s : State) (g : Mgmt → Mgmt) : (updMgmt s g).grammars = s.grammars := rfl
@[simp] theorem updMgmt_serials (s : State) (g : Mgmt → Mgmt) : (updMgmt s g).serials = s.serials := rfl
@[simp] theorem updMgmt_uncommitted (s : State) (g : Mgmt → Mgmt) : (updMgmt s g).uncommitted = s.uncommitted := rfl
@[simp] theorem updMgmt_ledger (s : State) (g : Mgmt → Mgmt) : (updMgmt s g).ledger = s.ledger := rfl
@[simp] theorem updMgmt_ledgerX (s : State) (g : Mgmt → Mgmt) : (updMgmt s g).ledgerX = s.ledgerX := rfl
@[simp] theorem updMgmt_steps (s : State) (g : Mgmt → Mgmt) : (updMgmt s g).steps = s.steps := rfl
@[simp] theorem updMgmt_nextStep (s : State) (g : Mgmt → Mgmt) : (updMgmt s g).nextStep = s.nextStep := rfl
@[simp] theorem updMgmt_lanesIn (s : State) (g : Mgmt → Mgmt) : (updMgmt s g).lanesIn = s.lanesIn := rfl
@[simp] theorem updMgmt_lanesOut (s : State) (g : Mgmt → Mgmt) : (updMgmt s g).lanesOut = s.lanesOut := rfl
@[simp] theorem updMgmt_turnIn (s : State) (g : Mgmt → Mgmt) : (updMgmt s g).turnIn = s.turnIn := rfl
@[simp] theorem updMgmt_turnOut (s : State) (g : Mgmt → Mgmt) : (updMgmt s g).turnOut = s.turnOut := rfl
@[simp] theorem updMgmt_mem (s : State) (g : Mgmt → Mgmt) : (updMgmt s g).mem = s.mem := rfl
@[simp] theorem updMgmt_poison (s : State) (g : Mgmt → Mgmt) : (updMgmt s g).poison = s.poison := rfl
@[simp] theorem updMgmt_pages (s : State) (g : Mgmt → Mgmt) : (updMgmt s g).pages = s.pages := rfl
@[simp] theorem updMgmt_shooting (s : State) (g : Mgmt → Mgmt) : (updMgmt s g).shooting = s.shooting := rfl
@[simp] theorem updMgmt_tlbs (s : State) (g : Mgmt → Mgmt) : (updMgmt s g).tlbs = s.tlbs := rfl
@[simp] theorem updMgmt_stale (s : State) (g : Mgmt → Mgmt) : (updMgmt s g).stale = s.stale := rfl
@[simp] theorem updMgmt_faults (s : State) (g : Mgmt → Mgmt) : (updMgmt s g).faults = s.faults := rfl
@[simp] theorem updMgmt_scrubs (s : State) (g : Mgmt → Mgmt) : (updMgmt s g).scrubs = s.scrubs := rfl
@[simp] theorem updMgmt_banks (s : State) (g : Mgmt → Mgmt) : (updMgmt s g).banks = s.banks := rfl
@[simp] theorem updMgmt_bankRefused (s : State) (g : Mgmt → Mgmt) : (updMgmt s g).bankRefused = s.bankRefused := rfl
@[simp] theorem updMgmt_links (s : State) (g : Mgmt → Mgmt) : (updMgmt s g).links = s.links := rfl
@[simp] theorem updMgmt_txns (s : State) (g : Mgmt → Mgmt) : (updMgmt s g).txns = s.txns := rfl
@[simp] theorem updMgmt_energy (s : State) (g : Mgmt → Mgmt) : (updMgmt s g).energy = s.energy := rfl
@[simp] theorem updMgmt_conf (s : State) (g : Mgmt → Mgmt) : (updMgmt s g).conf = s.conf := rfl
@[simp] theorem updMgmt_errlog (s : State) (g : Mgmt → Mgmt) : (updMgmt s g).errlog = s.errlog := rfl
@[simp] theorem updMgmt_errNext (s : State) (g : Mgmt → Mgmt) : (updMgmt s g).errNext = s.errNext := rfl
@[simp] theorem updMgmt_books (s : State) (g : Mgmt → Mgmt) : (updMgmt s g).books = s.books := rfl
@[simp] theorem updMgmt_mgmt (s : State) (g : Mgmt → Mgmt) :
    (updMgmt s g).mgmt = g s.mgmt := rfl
@[simp] theorem updMgmt_now (s : State) (g : Mgmt → Mgmt) : (updMgmt s g).now = s.now := rfl
@[simp] theorem updMgmt_freeCtr (s : State) (g : Mgmt → Mgmt) : (updMgmt s g).freeCtr = s.freeCtr := rfl
@[simp] theorem updMgmt_out (s : State) (g : Mgmt → Mgmt) : (updMgmt s g).out = s.out := rfl
@[simp] theorem updMgmt_pending (s : State) (g : Mgmt → Mgmt) : (updMgmt s g).pending = s.pending := rfl

/-! ### updFw -/

@[simp] theorem updFw_pins (s : State) (c : Nat) (g : FwComp → FwComp) : (updFw s c g).pins = s.pins := rfl
@[simp] theorem updFw_boot (s : State) (c : Nat) (g : FwComp → FwComp) : (updFw s c g).boot = s.boot := rfl
@[simp] theorem updFw_hbFuses (s : State) (c : Nat) (g : FwComp → FwComp) : (updFw s c g).hbFuses = s.hbFuses := rfl
@[simp] theorem updFw_dies (s : State) (c : Nat) (g : FwComp → FwComp) : (updFw s c g).dies = s.dies := rfl
@[simp] theorem updFw_thermal (s : State) (c : Nat) (g : FwComp → FwComp) : (updFw s c g).thermal = s.thermal := rfl
@[simp] theorem updFw_training (s : State) (c : Nat) (g : FwComp → FwComp) : (updFw s c g).training = s.training := rfl
@[simp] theorem updFw_fns (s : State) (c : Nat) (g : FwComp → FwComp) : (updFw s c g).fns = s.fns := rfl
@[simp] theorem updFw_sriov (s : State) (c : Nat) (g : FwComp → FwComp) : (updFw s c g).sriov = s.sriov := rfl
@[simp] theorem updFw_vfMse (s : State) (c : Nat) (g : FwComp → FwComp) : (updFw s c g).vfMse = s.vfMse := rfl
@[simp] theorem updFw_ari (s : State) (c : Nat) (g : FwComp → FwComp) : (updFw s c g).ari = s.ari := rfl
@[simp] theorem updFw_numVfs (s : State) (c : Nat) (g : FwComp → FwComp) : (updFw s c g).numVfs = s.numVfs := rfl
@[simp] theorem updFw_pcie (s : State) (c : Nat) (g : FwComp → FwComp) : (updFw s c g).pcie = s.pcie := rfl
@[simp] theorem updFw_atc (s : State) (c : Nat) (g : FwComp → FwComp) : (updFw s c g).atc = s.atc := rfl
@[simp] theorem updFw_pfHeld (s : State) (c : Nat) (g : FwComp → FwComp) : (updFw s c g).pfHeld = s.pfHeld := rfl
@[simp] theorem updFw_cp (s : State) (c : Nat) (g : FwComp → FwComp) : (updFw s c g).cp = s.cp := rfl
@[simp] theorem updFw_regions (s : State) (c : Nat) (g : FwComp → FwComp) : (updFw s c g).regions = s.regions := rfl
@[simp] theorem updFw_models (s : State) (c : Nat) (g : FwComp → FwComp) : (updFw s c g).models = s.models := rfl
@[simp] theorem updFw_vocabs (s : State) (c : Nat) (g : FwComp → FwComp) : (updFw s c g).vocabs = s.vocabs := rfl
@[simp] theorem updFw_bins (s : State) (c : Nat) (g : FwComp → FwComp) : (updFw s c g).bins = s.bins := rfl
@[simp] theorem updFw_grammars (s : State) (c : Nat) (g : FwComp → FwComp) : (updFw s c g).grammars = s.grammars := rfl
@[simp] theorem updFw_serials (s : State) (c : Nat) (g : FwComp → FwComp) : (updFw s c g).serials = s.serials := rfl
@[simp] theorem updFw_uncommitted (s : State) (c : Nat) (g : FwComp → FwComp) : (updFw s c g).uncommitted = s.uncommitted := rfl
@[simp] theorem updFw_ledger (s : State) (c : Nat) (g : FwComp → FwComp) : (updFw s c g).ledger = s.ledger := rfl
@[simp] theorem updFw_ledgerX (s : State) (c : Nat) (g : FwComp → FwComp) : (updFw s c g).ledgerX = s.ledgerX := rfl
@[simp] theorem updFw_steps (s : State) (c : Nat) (g : FwComp → FwComp) : (updFw s c g).steps = s.steps := rfl
@[simp] theorem updFw_nextStep (s : State) (c : Nat) (g : FwComp → FwComp) : (updFw s c g).nextStep = s.nextStep := rfl
@[simp] theorem updFw_lanesIn (s : State) (c : Nat) (g : FwComp → FwComp) : (updFw s c g).lanesIn = s.lanesIn := rfl
@[simp] theorem updFw_lanesOut (s : State) (c : Nat) (g : FwComp → FwComp) : (updFw s c g).lanesOut = s.lanesOut := rfl
@[simp] theorem updFw_turnIn (s : State) (c : Nat) (g : FwComp → FwComp) : (updFw s c g).turnIn = s.turnIn := rfl
@[simp] theorem updFw_turnOut (s : State) (c : Nat) (g : FwComp → FwComp) : (updFw s c g).turnOut = s.turnOut := rfl
@[simp] theorem updFw_mem (s : State) (c : Nat) (g : FwComp → FwComp) : (updFw s c g).mem = s.mem := rfl
@[simp] theorem updFw_poison (s : State) (c : Nat) (g : FwComp → FwComp) : (updFw s c g).poison = s.poison := rfl
@[simp] theorem updFw_pages (s : State) (c : Nat) (g : FwComp → FwComp) : (updFw s c g).pages = s.pages := rfl
@[simp] theorem updFw_shooting (s : State) (c : Nat) (g : FwComp → FwComp) : (updFw s c g).shooting = s.shooting := rfl
@[simp] theorem updFw_tlbs (s : State) (c : Nat) (g : FwComp → FwComp) : (updFw s c g).tlbs = s.tlbs := rfl
@[simp] theorem updFw_stale (s : State) (c : Nat) (g : FwComp → FwComp) : (updFw s c g).stale = s.stale := rfl
@[simp] theorem updFw_faults (s : State) (c : Nat) (g : FwComp → FwComp) : (updFw s c g).faults = s.faults := rfl
@[simp] theorem updFw_scrubs (s : State) (c : Nat) (g : FwComp → FwComp) : (updFw s c g).scrubs = s.scrubs := rfl
@[simp] theorem updFw_banks (s : State) (c : Nat) (g : FwComp → FwComp) : (updFw s c g).banks = s.banks := rfl
@[simp] theorem updFw_bankRefused (s : State) (c : Nat) (g : FwComp → FwComp) : (updFw s c g).bankRefused = s.bankRefused := rfl
@[simp] theorem updFw_links (s : State) (c : Nat) (g : FwComp → FwComp) : (updFw s c g).links = s.links := rfl
@[simp] theorem updFw_txns (s : State) (c : Nat) (g : FwComp → FwComp) : (updFw s c g).txns = s.txns := rfl
@[simp] theorem updFw_energy (s : State) (c : Nat) (g : FwComp → FwComp) : (updFw s c g).energy = s.energy := rfl
@[simp] theorem updFw_conf (s : State) (c : Nat) (g : FwComp → FwComp) : (updFw s c g).conf = s.conf := rfl
@[simp] theorem updFw_errlog (s : State) (c : Nat) (g : FwComp → FwComp) : (updFw s c g).errlog = s.errlog := rfl
@[simp] theorem updFw_errNext (s : State) (c : Nat) (g : FwComp → FwComp) : (updFw s c g).errNext = s.errNext := rfl
@[simp] theorem updFw_books (s : State) (c : Nat) (g : FwComp → FwComp) : (updFw s c g).books = s.books := rfl
@[simp] theorem updFw_mgmt (s : State) (c : Nat) (g : FwComp → FwComp) :
    (updFw s c g).mgmt = { s.mgmt with fw := tmod ({} : FwComp) s.mgmt.fw c g } := rfl
@[simp] theorem updFw_now (s : State) (c : Nat) (g : FwComp → FwComp) : (updFw s c g).now = s.now := rfl
@[simp] theorem updFw_freeCtr (s : State) (c : Nat) (g : FwComp → FwComp) : (updFw s c g).freeCtr = s.freeCtr := rfl
@[simp] theorem updFw_out (s : State) (c : Nat) (g : FwComp → FwComp) : (updFw s c g).out = s.out := rfl
@[simp] theorem updFw_pending (s : State) (c : Nat) (g : FwComp → FwComp) : (updFw s c g).pending = s.pending := rfl

/-! ### updSpdm -/

@[simp] theorem updSpdm_pins (s : State) (conn : Nat) (g : Spdm → Spdm) : (updSpdm s conn g).pins = s.pins := rfl
@[simp] theorem updSpdm_boot (s : State) (conn : Nat) (g : Spdm → Spdm) : (updSpdm s conn g).boot = s.boot := rfl
@[simp] theorem updSpdm_hbFuses (s : State) (conn : Nat) (g : Spdm → Spdm) : (updSpdm s conn g).hbFuses = s.hbFuses := rfl
@[simp] theorem updSpdm_dies (s : State) (conn : Nat) (g : Spdm → Spdm) : (updSpdm s conn g).dies = s.dies := rfl
@[simp] theorem updSpdm_thermal (s : State) (conn : Nat) (g : Spdm → Spdm) : (updSpdm s conn g).thermal = s.thermal := rfl
@[simp] theorem updSpdm_training (s : State) (conn : Nat) (g : Spdm → Spdm) : (updSpdm s conn g).training = s.training := rfl
@[simp] theorem updSpdm_fns (s : State) (conn : Nat) (g : Spdm → Spdm) : (updSpdm s conn g).fns = s.fns := rfl
@[simp] theorem updSpdm_sriov (s : State) (conn : Nat) (g : Spdm → Spdm) : (updSpdm s conn g).sriov = s.sriov := rfl
@[simp] theorem updSpdm_vfMse (s : State) (conn : Nat) (g : Spdm → Spdm) : (updSpdm s conn g).vfMse = s.vfMse := rfl
@[simp] theorem updSpdm_ari (s : State) (conn : Nat) (g : Spdm → Spdm) : (updSpdm s conn g).ari = s.ari := rfl
@[simp] theorem updSpdm_numVfs (s : State) (conn : Nat) (g : Spdm → Spdm) : (updSpdm s conn g).numVfs = s.numVfs := rfl
@[simp] theorem updSpdm_pcie (s : State) (conn : Nat) (g : Spdm → Spdm) : (updSpdm s conn g).pcie = s.pcie := rfl
@[simp] theorem updSpdm_atc (s : State) (conn : Nat) (g : Spdm → Spdm) : (updSpdm s conn g).atc = s.atc := rfl
@[simp] theorem updSpdm_pfHeld (s : State) (conn : Nat) (g : Spdm → Spdm) : (updSpdm s conn g).pfHeld = s.pfHeld := rfl
@[simp] theorem updSpdm_cp (s : State) (conn : Nat) (g : Spdm → Spdm) : (updSpdm s conn g).cp = s.cp := rfl
@[simp] theorem updSpdm_regions (s : State) (conn : Nat) (g : Spdm → Spdm) : (updSpdm s conn g).regions = s.regions := rfl
@[simp] theorem updSpdm_models (s : State) (conn : Nat) (g : Spdm → Spdm) : (updSpdm s conn g).models = s.models := rfl
@[simp] theorem updSpdm_vocabs (s : State) (conn : Nat) (g : Spdm → Spdm) : (updSpdm s conn g).vocabs = s.vocabs := rfl
@[simp] theorem updSpdm_bins (s : State) (conn : Nat) (g : Spdm → Spdm) : (updSpdm s conn g).bins = s.bins := rfl
@[simp] theorem updSpdm_grammars (s : State) (conn : Nat) (g : Spdm → Spdm) : (updSpdm s conn g).grammars = s.grammars := rfl
@[simp] theorem updSpdm_serials (s : State) (conn : Nat) (g : Spdm → Spdm) : (updSpdm s conn g).serials = s.serials := rfl
@[simp] theorem updSpdm_uncommitted (s : State) (conn : Nat) (g : Spdm → Spdm) : (updSpdm s conn g).uncommitted = s.uncommitted := rfl
@[simp] theorem updSpdm_ledger (s : State) (conn : Nat) (g : Spdm → Spdm) : (updSpdm s conn g).ledger = s.ledger := rfl
@[simp] theorem updSpdm_ledgerX (s : State) (conn : Nat) (g : Spdm → Spdm) : (updSpdm s conn g).ledgerX = s.ledgerX := rfl
@[simp] theorem updSpdm_steps (s : State) (conn : Nat) (g : Spdm → Spdm) : (updSpdm s conn g).steps = s.steps := rfl
@[simp] theorem updSpdm_nextStep (s : State) (conn : Nat) (g : Spdm → Spdm) : (updSpdm s conn g).nextStep = s.nextStep := rfl
@[simp] theorem updSpdm_lanesIn (s : State) (conn : Nat) (g : Spdm → Spdm) : (updSpdm s conn g).lanesIn = s.lanesIn := rfl
@[simp] theorem updSpdm_lanesOut (s : State) (conn : Nat) (g : Spdm → Spdm) : (updSpdm s conn g).lanesOut = s.lanesOut := rfl
@[simp] theorem updSpdm_turnIn (s : State) (conn : Nat) (g : Spdm → Spdm) : (updSpdm s conn g).turnIn = s.turnIn := rfl
@[simp] theorem updSpdm_turnOut (s : State) (conn : Nat) (g : Spdm → Spdm) : (updSpdm s conn g).turnOut = s.turnOut := rfl
@[simp] theorem updSpdm_mem (s : State) (conn : Nat) (g : Spdm → Spdm) : (updSpdm s conn g).mem = s.mem := rfl
@[simp] theorem updSpdm_poison (s : State) (conn : Nat) (g : Spdm → Spdm) : (updSpdm s conn g).poison = s.poison := rfl
@[simp] theorem updSpdm_pages (s : State) (conn : Nat) (g : Spdm → Spdm) : (updSpdm s conn g).pages = s.pages := rfl
@[simp] theorem updSpdm_shooting (s : State) (conn : Nat) (g : Spdm → Spdm) : (updSpdm s conn g).shooting = s.shooting := rfl
@[simp] theorem updSpdm_tlbs (s : State) (conn : Nat) (g : Spdm → Spdm) : (updSpdm s conn g).tlbs = s.tlbs := rfl
@[simp] theorem updSpdm_stale (s : State) (conn : Nat) (g : Spdm → Spdm) : (updSpdm s conn g).stale = s.stale := rfl
@[simp] theorem updSpdm_faults (s : State) (conn : Nat) (g : Spdm → Spdm) : (updSpdm s conn g).faults = s.faults := rfl
@[simp] theorem updSpdm_scrubs (s : State) (conn : Nat) (g : Spdm → Spdm) : (updSpdm s conn g).scrubs = s.scrubs := rfl
@[simp] theorem updSpdm_banks (s : State) (conn : Nat) (g : Spdm → Spdm) : (updSpdm s conn g).banks = s.banks := rfl
@[simp] theorem updSpdm_bankRefused (s : State) (conn : Nat) (g : Spdm → Spdm) : (updSpdm s conn g).bankRefused = s.bankRefused := rfl
@[simp] theorem updSpdm_links (s : State) (conn : Nat) (g : Spdm → Spdm) : (updSpdm s conn g).links = s.links := rfl
@[simp] theorem updSpdm_txns (s : State) (conn : Nat) (g : Spdm → Spdm) : (updSpdm s conn g).txns = s.txns := rfl
@[simp] theorem updSpdm_energy (s : State) (conn : Nat) (g : Spdm → Spdm) : (updSpdm s conn g).energy = s.energy := rfl
@[simp] theorem updSpdm_conf (s : State) (conn : Nat) (g : Spdm → Spdm) : (updSpdm s conn g).conf = s.conf := rfl
@[simp] theorem updSpdm_errlog (s : State) (conn : Nat) (g : Spdm → Spdm) : (updSpdm s conn g).errlog = s.errlog := rfl
@[simp] theorem updSpdm_errNext (s : State) (conn : Nat) (g : Spdm → Spdm) : (updSpdm s conn g).errNext = s.errNext := rfl
@[simp] theorem updSpdm_books (s : State) (conn : Nat) (g : Spdm → Spdm) : (updSpdm s conn g).books = s.books := rfl
@[simp] theorem updSpdm_mgmt (s : State) (conn : Nat) (g : Spdm → Spdm) :
    (updSpdm s conn g).mgmt = { s.mgmt with spdm := tmod ({} : Spdm) s.mgmt.spdm conn g } := rfl
@[simp] theorem updSpdm_now (s : State) (conn : Nat) (g : Spdm → Spdm) : (updSpdm s conn g).now = s.now := rfl
@[simp] theorem updSpdm_freeCtr (s : State) (conn : Nat) (g : Spdm → Spdm) : (updSpdm s conn g).freeCtr = s.freeCtr := rfl
@[simp] theorem updSpdm_out (s : State) (conn : Nat) (g : Spdm → Spdm) : (updSpdm s conn g).out = s.out := rfl
@[simp] theorem updSpdm_pending (s : State) (conn : Nat) (g : Spdm → Spdm) : (updSpdm s conn g).pending = s.pending := rfl

/-! ### updCmd -/

@[simp] theorem updCmd_pins (s : State) (f slot : Nat) (g : Cmd → Cmd) : (updCmd s f slot g).pins = s.pins := rfl
@[simp] theorem updCmd_boot (s : State) (f slot : Nat) (g : Cmd → Cmd) : (updCmd s f slot g).boot = s.boot := rfl
@[simp] theorem updCmd_hbFuses (s : State) (f slot : Nat) (g : Cmd → Cmd) : (updCmd s f slot g).hbFuses = s.hbFuses := rfl
@[simp] theorem updCmd_dies (s : State) (f slot : Nat) (g : Cmd → Cmd) : (updCmd s f slot g).dies = s.dies := rfl
@[simp] theorem updCmd_thermal (s : State) (f slot : Nat) (g : Cmd → Cmd) : (updCmd s f slot g).thermal = s.thermal := rfl
@[simp] theorem updCmd_training (s : State) (f slot : Nat) (g : Cmd → Cmd) : (updCmd s f slot g).training = s.training := rfl
@[simp] theorem updCmd_sriov (s : State) (f slot : Nat) (g : Cmd → Cmd) : (updCmd s f slot g).sriov = s.sriov := rfl
@[simp] theorem updCmd_vfMse (s : State) (f slot : Nat) (g : Cmd → Cmd) : (updCmd s f slot g).vfMse = s.vfMse := rfl
@[simp] theorem updCmd_ari (s : State) (f slot : Nat) (g : Cmd → Cmd) : (updCmd s f slot g).ari = s.ari := rfl
@[simp] theorem updCmd_numVfs (s : State) (f slot : Nat) (g : Cmd → Cmd) : (updCmd s f slot g).numVfs = s.numVfs := rfl
@[simp] theorem updCmd_pcie (s : State) (f slot : Nat) (g : Cmd → Cmd) : (updCmd s f slot g).pcie = s.pcie := rfl
@[simp] theorem updCmd_atc (s : State) (f slot : Nat) (g : Cmd → Cmd) : (updCmd s f slot g).atc = s.atc := rfl
@[simp] theorem updCmd_pfHeld (s : State) (f slot : Nat) (g : Cmd → Cmd) : (updCmd s f slot g).pfHeld = s.pfHeld := rfl
@[simp] theorem updCmd_cp (s : State) (f slot : Nat) (g : Cmd → Cmd) : (updCmd s f slot g).cp = s.cp := rfl
@[simp] theorem updCmd_regions (s : State) (f slot : Nat) (g : Cmd → Cmd) : (updCmd s f slot g).regions = s.regions := rfl
@[simp] theorem updCmd_models (s : State) (f slot : Nat) (g : Cmd → Cmd) : (updCmd s f slot g).models = s.models := rfl
@[simp] theorem updCmd_vocabs (s : State) (f slot : Nat) (g : Cmd → Cmd) : (updCmd s f slot g).vocabs = s.vocabs := rfl
@[simp] theorem updCmd_bins (s : State) (f slot : Nat) (g : Cmd → Cmd) : (updCmd s f slot g).bins = s.bins := rfl
@[simp] theorem updCmd_grammars (s : State) (f slot : Nat) (g : Cmd → Cmd) : (updCmd s f slot g).grammars = s.grammars := rfl
@[simp] theorem updCmd_serials (s : State) (f slot : Nat) (g : Cmd → Cmd) : (updCmd s f slot g).serials = s.serials := rfl
@[simp] theorem updCmd_uncommitted (s : State) (f slot : Nat) (g : Cmd → Cmd) : (updCmd s f slot g).uncommitted = s.uncommitted := rfl
@[simp] theorem updCmd_ledger (s : State) (f slot : Nat) (g : Cmd → Cmd) : (updCmd s f slot g).ledger = s.ledger := rfl
@[simp] theorem updCmd_ledgerX (s : State) (f slot : Nat) (g : Cmd → Cmd) : (updCmd s f slot g).ledgerX = s.ledgerX := rfl
@[simp] theorem updCmd_steps (s : State) (f slot : Nat) (g : Cmd → Cmd) : (updCmd s f slot g).steps = s.steps := rfl
@[simp] theorem updCmd_nextStep (s : State) (f slot : Nat) (g : Cmd → Cmd) : (updCmd s f slot g).nextStep = s.nextStep := rfl
@[simp] theorem updCmd_lanesIn (s : State) (f slot : Nat) (g : Cmd → Cmd) : (updCmd s f slot g).lanesIn = s.lanesIn := rfl
@[simp] theorem updCmd_lanesOut (s : State) (f slot : Nat) (g : Cmd → Cmd) : (updCmd s f slot g).lanesOut = s.lanesOut := rfl
@[simp] theorem updCmd_turnIn (s : State) (f slot : Nat) (g : Cmd → Cmd) : (updCmd s f slot g).turnIn = s.turnIn := rfl
@[simp] theorem updCmd_turnOut (s : State) (f slot : Nat) (g : Cmd → Cmd) : (updCmd s f slot g).turnOut = s.turnOut := rfl
@[simp] theorem updCmd_mem (s : State) (f slot : Nat) (g : Cmd → Cmd) : (updCmd s f slot g).mem = s.mem := rfl
@[simp] theorem updCmd_poison (s : State) (f slot : Nat) (g : Cmd → Cmd) : (updCmd s f slot g).poison = s.poison := rfl
@[simp] theorem updCmd_pages (s : State) (f slot : Nat) (g : Cmd → Cmd) : (updCmd s f slot g).pages = s.pages := rfl
@[simp] theorem updCmd_shooting (s : State) (f slot : Nat) (g : Cmd → Cmd) : (updCmd s f slot g).shooting = s.shooting := rfl
@[simp] theorem updCmd_tlbs (s : State) (f slot : Nat) (g : Cmd → Cmd) : (updCmd s f slot g).tlbs = s.tlbs := rfl
@[simp] theorem updCmd_stale (s : State) (f slot : Nat) (g : Cmd → Cmd) : (updCmd s f slot g).stale = s.stale := rfl
@[simp] theorem updCmd_faults (s : State) (f slot : Nat) (g : Cmd → Cmd) : (updCmd s f slot g).faults = s.faults := rfl
@[simp] theorem updCmd_scrubs (s : State) (f slot : Nat) (g : Cmd → Cmd) : (updCmd s f slot g).scrubs = s.scrubs := rfl
@[simp] theorem updCmd_banks (s : State) (f slot : Nat) (g : Cmd → Cmd) : (updCmd s f slot g).banks = s.banks := rfl
@[simp] theorem updCmd_bankRefused (s : State) (f slot : Nat) (g : Cmd → Cmd) : (updCmd s f slot g).bankRefused = s.bankRefused := rfl
@[simp] theorem updCmd_links (s : State) (f slot : Nat) (g : Cmd → Cmd) : (updCmd s f slot g).links = s.links := rfl
@[simp] theorem updCmd_txns (s : State) (f slot : Nat) (g : Cmd → Cmd) : (updCmd s f slot g).txns = s.txns := rfl
@[simp] theorem updCmd_energy (s : State) (f slot : Nat) (g : Cmd → Cmd) : (updCmd s f slot g).energy = s.energy := rfl
@[simp] theorem updCmd_conf (s : State) (f slot : Nat) (g : Cmd → Cmd) : (updCmd s f slot g).conf = s.conf := rfl
@[simp] theorem updCmd_errlog (s : State) (f slot : Nat) (g : Cmd → Cmd) : (updCmd s f slot g).errlog = s.errlog := rfl
@[simp] theorem updCmd_errNext (s : State) (f slot : Nat) (g : Cmd → Cmd) : (updCmd s f slot g).errNext = s.errNext := rfl
@[simp] theorem updCmd_books (s : State) (f slot : Nat) (g : Cmd → Cmd) : (updCmd s f slot g).books = s.books := rfl
@[simp] theorem updCmd_mgmt (s : State) (f slot : Nat) (g : Cmd → Cmd) : (updCmd s f slot g).mgmt = s.mgmt := rfl
@[simp] theorem updCmd_now (s : State) (f slot : Nat) (g : Cmd → Cmd) : (updCmd s f slot g).now = s.now := rfl
@[simp] theorem updCmd_freeCtr (s : State) (f slot : Nat) (g : Cmd → Cmd) : (updCmd s f slot g).freeCtr = s.freeCtr := rfl
@[simp] theorem updCmd_out (s : State) (f slot : Nat) (g : Cmd → Cmd) : (updCmd s f slot g).out = s.out := rfl
@[simp] theorem updCmd_pending (s : State) (f slot : Nat) (g : Cmd → Cmd) : (updCmd s f slot g).pending = s.pending := rfl

end Sys2Proof.Machine
end

