-- ==== Sys2Proof/Machine/BallMap.lean ====
section
/-! DEFINITION. The ball grid, the rails and their order, the straps and the limits of the package (26 R674 to R693). -/

namespace Sys2Proof.Machine

open Sys2Proof

/-! ### Grid (R674) -/

/-- The letters of rows, in order. -/
def rowLetters : List Char :=
  ['A', 'B', 'C', 'D', 'E', 'F', 'G', 'H', 'J', 'K', 'L', 'M', 'N', 'P', 'T', 'U', 'V', 'W', 'Y']

/-- The name of a row by its index from 1; none outside the grid. -/
def rowName (i : Nat) : Option (List Char) :=
  if i = 0 || 70 < i then none
  else
    let last := rowLetters.getD ((i - 1) % 19) 'A'
    some (if i ≤ 19 then [last] else [rowLetters.getD ((i - 1) / 19 - 1) 'A', last])

/-- The index of a row by its name. -/
def rowIndex (name : List Char) : Option Nat := ((List.range 70).map (· + 1)).find? (fun i => rowName i == some name)

/-- A ball: its row's index and its column. -/
structure Ball where
  row : Nat
  col : Nat
  deriving DecidableEq, Repr

/-- The rows and columns whose crossings are absent. -/
def cornerLines : List Nat := [1, 2, 69, 70]

/-- A ball that the package carries. -/
def present (b : Ball) : Bool :=
  decide (1 ≤ b.row) && decide (b.row ≤ 70) && decide (1 ≤ b.col) && decide (b.col ≤ 70) &&
    !(cornerLines.contains b.row && cornerLines.contains b.col)

/-- Balls of the package. -/
def ballCount : Nat := 70 * 70 - cornerLines.length * cornerLines.length

/-! ### Signals (R675) -/

/-- The signals of the low-speed rows by their row, in the order of their balls, with the first column of each run. -/
def signalRuns : List (List Char × Nat × List String) :=
  [(['C', 'L'], 6, ["AVS_CLK_0", "AVS_MDATA_0", "AVS_SDATA_0"]),
   (['C', 'L'], 10, ["AVS_CLK_1", "AVS_MDATA_1", "AVS_SDATA_1"]),
   (['C', 'L'], 34, ["REFCLK_P", "REFCLK_N"]),
   (['C', 'L'], 40, ["SYS_REFCLK_P", "SYS_REFCLK_N"]),
   (['C', 'L'], 50, ["VSENSE_HARB_P", "VSENSE_HARB_N"]),
   (['C', 'M'], 6, ["PERST_N", "PWR_GOOD_IN", "EPR_N", "READY_OUT", "FAULT_N", "THERMTRIP_N"]),
   (['C', 'M'], 13, ["SMB_SCL", "SMB_SDA", "SMB_ALERT_N", "SMB_ADDR_0", "SMB_ADDR_1"]),
   (['C', 'M'], 19, ["JTAG_TCK", "JTAG_TMS", "JTAG_TDI", "JTAG_TDO", "JTAG_TRST_N"]),
   (['C', 'M'], 25, ["UART_TX", "UART_RX"]),
   (['C', 'M'], 28, ["CFG_BOOT_0", "CFG_BOOT_1", "CFG_BOOT_2", "TEST_MODE_0", "TEST_MODE_1", "PCIE_CLKMODE"]),
   (['A'], 20, ["VSENSE_CREST_0_P", "VSENSE_CREST_0_N"]),
   (['A'], 50, ["VSENSE_CREST_1_P", "VSENSE_CREST_1_N"]),
   (['A', 'U'], 1, ["VSENSE_CREST_2_P", "VSENSE_CREST_2_N"]),
   (['A', 'U'], 69, ["VSENSE_CREST_3_P", "VSENSE_CREST_3_N"])]

/-- The ball of a named signal. -/
def signalBall (name : String) : Option Ball :=
  signalRuns.findSome? (fun r =>
    match rowIndex r.1, r.2.2.findIdx? (· = name) with
    | some i, some k => some { row := i, col := r.2.1 + k }
    | _, _ => none)

/-- The balls of a PCIe lane: transmit or receive, positive then negative. -/
def laneBall (receive negative : Bool) (lane : Fin 16) : Ball :=
  { row := (rowIndex ['C', if receive then 'H' else 'E']).getD 0, col := 4 * lane.val + 6 + (if negative then 1 else 0) }

/-- A lane's ball. -/
def isLane (b : Ball) : Bool :=
  [true, false].any (fun r => [true, false].any (fun n => (List.finRange 16).any (fun l => laneBall r n l = b)))

/-- The rows of the PCIe field. -/
def pcieRows : List (List Char) := [['C', 'D'], ['C', 'E'], ['C', 'F'], ['C', 'G'], ['C', 'H'], ['C', 'J']]

/-- A ball that R675 makes ground. -/
def guardGround (b : Ball) : Bool :=
  let name := (rowName b.row).getD []
  (pcieRows.contains name && decide (4 ≤ b.col) && decide (b.col ≤ 69) && !isLane b) ||
    (name = ['C', 'L'] && [33, 36, 39, 42].contains b.col)

/-- A ball that must be left unconnected (R676). -/
def reservedBall (b : Ball) : Bool :=
  let name := (rowName b.row).getD []
  (name = ['C', 'L'] || name = ['C', 'M']) && decide (60 ≤ b.col) && decide (b.col ≤ 67)

/-! ### Rails (R676, R679, R684, R691) -/

/-- The rails that the board supplies. -/
inductive Supply where
  | aon | io18 | harb | crest (d : Fin 4) | hbmC | hbmQ | hbmPp | lp1 | lp2h | lp2l | lpQ | pcieA | pcieH
  deriving DecidableEq, Repr

/-- Every rail. -/
def supplies : List Supply :=
  [.aon, .io18, .harb, .crest 0, .crest 1, .crest 2, .crest 3, .hbmC, .hbmQ, .hbmPp, .lp1, .lp2h, .lp2l, .lpQ, .pcieA, .pcieH]

/-- What the tables say of a rail: balls, nominal voltage in mV, operating range in percent, continuous and peak current in
mA, the stage in which it rises, and its absolute maximum in mV. -/
structure RailRow where
  balls  : Nat
  mv     : Nat
  pct    : Nat
  maxMa  : Nat
  peakMa : Nat
  stage  : Nat
  absMv  : Nat
  deriving DecidableEq, Repr

/-- The row of a rail; a Crest rail's nominal voltage is that at which it comes up, before its die requests another by AVS
(R682). -/
def railRow : Supply → RailRow
  | .aon     => { balls := 8,   mv := 800,  pct := 3, maxMa := 500,    peakMa := 800,    stage := 1, absMv := 950 }
  | .io18    => { balls := 12,  mv := 1800, pct := 5, maxMa := 600,    peakMa := 1000,   stage := 2, absMv := 2100 }
  | .harb    => { balls := 160, mv := 800,  pct := 3, maxMa := 40000,  peakMa := 55000,  stage := 5, absMv := 950 }
  | .crest _ => { balls := 360, mv := 750,  pct := 3, maxMa := 100000, peakMa := 135000, stage := 6, absMv := 950 }
  | .hbmC    => { balls := 96,  mv := 1100, pct := 3, maxMa := 24000,  peakMa := 32000,  stage := 4, absMv := 1300 }
  | .hbmQ    => { balls := 48,  mv := 400,  pct := 3, maxMa := 12000,  peakMa := 16000,  stage := 7, absMv := 650 }
  | .hbmPp   => { balls := 16,  mv := 1800, pct := 5, maxMa := 2000,   peakMa := 3000,   stage := 3, absMv := 2100 }
  | .lp1     => { balls := 16,  mv := 1800, pct := 5, maxMa := 1500,   peakMa := 2500,   stage := 3, absMv := 2100 }
  | .lp2h    => { balls := 96,  mv := 1050, pct := 3, maxMa := 18000,  peakMa := 26000,  stage := 4, absMv := 1200 }
  | .lp2l    => { balls := 64,  mv := 900,  pct := 3, maxMa := 10000,  peakMa := 14000,  stage := 4, absMv := 1050 }
  | .lpQ     => { balls := 48,  mv := 500,  pct := 3, maxMa := 8000,   peakMa := 12000,  stage := 7, absMv := 650 }
  | .pcieA   => { balls := 32,  mv := 900,  pct := 3, maxMa := 6000,   peakMa := 8000,   stage := 5, absMv := 1050 }
  | .pcieH   => { balls := 16,  mv := 1200, pct := 3, maxMa := 2000,   peakMa := 3000,   stage := 5, absMv := 1400 }

/-- Ground, sense, reserved and signal balls. -/
def groundBalls : Nat := 2708
def senseBalls : Nat := 10
def reservedBalls : Nat := 16
def signalBalls : Nat := 98

/-- A voltage in mV lies in a rail's operating range around a nominal or requested one (R679). -/
def inRange (r : Supply) (nominal mv : Nat) : Bool :=
  decide (nominal * (100 - (railRow r).pct) ≤ 100 * mv) && decide (100 * mv ≤ nominal * (100 + (railRow r).pct))

/-- The monitor of a Crest rail while a voltage step goes on: the wider of the ranges around both requests (R687). -/
def inStepRange (r : Supply) (old new mv : Nat) : Bool :=
  decide (min old new * (100 - (railRow r).pct) ≤ 100 * mv) && decide (100 * mv ≤ max old new * (100 + (railRow r).pct))

/-- A rail out of its range, as the monitors see it: the Crest die that goes with it, or the whole package (R687). A plane of
an HBM rail is that of one stack (R680). -/
def faultOf : Supply → Option (Fin 4) → Rail
  | .crest d, _ => .crest d
  | .hbmC, some d => .hbmPlane d
  | .hbmQ, some d => .hbmPlane d
  | .hbmPp, some d => .hbmPlane d
  | _, _ => .other

/-- An order of rails rises stage by stage (R684). -/
def risesInOrder (l : List Supply) : Bool := decide (l.Pairwise (fun a b => (railRow a).stage ≤ (railRow b).stage))
/-- An order of rails falls in the reverse of the stages (R686). -/
def fallsInOrder (l : List Supply) : Bool := risesInOrder l.reverse

/-! ### Straps and inputs (R677, R678, R689, R690) -/

/-- What a strap ball reads: the pull-down's 0 where it is left open (R677). -/
def strapReads (tied : Option Bool) : Bool := tied.getD false

/-- What a strap's sample can be when its level changes about its edge: `at_` is the time of the change against the sampling
edge in µs, from `old` to `new`, and within 1 µs before or 10 µs after either level can be sampled (R678). -/
def strapSamples (at_ : Int) (old new : Bool) : List Bool :=
  if at_ < -1 then [new] else if 10 < at_ then [old] else [old, new]

/-- What an EPR_N low pulse does by its length in ns: ignored below 20, taken from 100 on, either between (R690). -/
def eprTakes (ns : Nat) : List Bool := if ns < 20 then [false] else if 100 ≤ ns then [true] else [true, false]

/-- The level that a pull gives an input left open: up, down, or none (R689). -/
def inputPull : String → Option Bool
  | "EPR_N" => some true
  | "JTAG_TMS" => some true
  | "JTAG_TDI" => some true
  | "JTAG_TRST_N" => some true
  | "UART_RX" => some true
  | "AVS_SDATA_0" => some true
  | "AVS_SDATA_1" => some true
  | "JTAG_TCK" => some false
  | "SMB_ADDR_0" => some false
  | "SMB_ADDR_1" => some false
  | "CFG_BOOT_0" => some false
  | "CFG_BOOT_1" => some false
  | "CFG_BOOT_2" => some false
  | "TEST_MODE_0" => some false
  | "TEST_MODE_1" => some false
  | "PCIE_CLKMODE" => some false
  | _ => none

/-- What an input of the low-speed balls reads at a level in mV over a VIO_18 in mV; between VIL and VIH, either (R689). -/
def inputLevel (vio mv : Nat) : List Bool :=
  if 100 * mv ≤ 35 * vio then [false] else if 65 * vio ≤ 100 * mv then [true] else [false, true]

/-! ### Limits and heat (R691, R692) -/

/-- A rail's voltage in mV within its absolute maximum. -/
def survives (r : Supply) (mv : Int) : Bool := decide (-300 ≤ mv) && decide (mv ≤ (railRow r).absMv)
/-- A low-speed signal ball's voltage within its absolute maximum, `vio` the VIO_18 that is up. -/
def signalSurvives (vio : Option Nat) (mv : Int) : Bool :=
  decide (-300 ≤ mv) && decide (mv ≤ 2100) && (vio.map (fun v => decide (mv ≤ v + 300))).getD true
/-- A junction in its operating range in °C. -/
def junctionOperates (t : Int) : Bool := decide (0 ≤ t) && decide (t ≤ 100)
/-- The rise from a die's lid to its junction in thousandths of a °C at a power in W; 4 is the Harbour die. -/
def lidRise (d watts : Nat) : Nat := watts * (if d = 4 then 160 else 90)

end Sys2Proof.Machine
end

