-- ==== Sys2Proof/Machine/Package.lean ====
section
/-! DEFINITION. What the package is built of and the rates that follow: cores, clusters, links, banks, carding lanes and
the energy windows (00 R3, 01, 09 R295, R296, 10 R319, R321, R341, 11 R354 to R356, 13 R425, R426, 19 R572). No operator's
result reads any of these (R356). -/

namespace Sys2Proof.Machine

open Sys2Proof

/-! ### Clocks (R39, R40) -/

/-- CCLK in Hz without pulse swallowing. -/
def cclkHz : Nat := 1500000000
/-- CCLK pulses a second of a die: KEEP_EFF of every 16 (R40, R356). -/
def pulses (x : Die) : Nat := cclkHz * keepEff x / 16
/-- LCLK, which swallowing leaves as it is (R39, R321). -/
def lclkHz : Nat := 2000000000
/-- FCLK, which swallowing leaves as it is (R39, R296). -/
def fclkHz : Nat := 1000000000

/-! ### Cores and clusters (R354 to R356) -/

/-- The kinds of core. -/
inductive CoreKind where
  | dense | stream
  deriving DecidableEq, Repr

/-- The rate classes of operand pairs (R367). -/
inductive RateClass where
  | narrow | half | single
  deriving DecidableEq, Repr

/-- The rate class of two operand formats, for the pairs that the MAC arrays accept. -/
def rateClass (a b : Nat) : Option RateClass :=
  if !macPair a b then none
  else if a = 6 then some .single
  else if a = 4 || a = 5 || b = 4 || b = 5 then some .half
  else some .narrow

/-- Rows, and columns, of a core's MAC array. -/
def macSide : CoreKind → Nat
  | .dense => 32
  | .stream => 16

/-- Local SRAM of a core in bytes. -/
def coreSram : CoreKind → Nat
  | .dense => 0x10000
  | .stream => 0x8000

/-- Cores of a cluster. -/
def clusterCores : CoreKind → Nat
  | .dense => 16
  | .stream => 8

/-- Clusters of a kind on a Crest die; each stream cluster has a selection unit. -/
def clustersPerDie : Nat := 16

/-- Operations of a core in a CCLK cycle, a multiply-accumulate counting as two: the whole array for the narrow formats, half
of it for the 16-bit ones, a sixteenth for FP32. -/
def opsPerCclk (k : CoreKind) (c : RateClass) : Nat :=
  2 * macSide k * macSide k / (match c with
    | .narrow => 1
    | .half => 2
    | .single => 16)

/-- Operations of a stream core's vector unit in a CCLK cycle. -/
def vectorOps : Nat := 2 * 128

/-- Operations a second of a cluster whose die keeps `keep` of 16 pulses. -/
def clusterOps (k : CoreKind) (c : RateClass) (keep : Nat) : Nat := clusterCores k * opsPerCclk k c * cclkHz * keep / 16

/-- Operations a second of a Crest die. -/
def dieOps (c : RateClass) (keep : Nat) : Nat := clustersPerDie * (clusterOps .dense c keep + clusterOps .stream c keep)

/-- Operations a second of the dies that run, each at its own keep. -/
def packageOps (s : State) (c : RateClass) : Nat := (((List.range 4).filter (dieUsable s)).map (fun d => dieOps c (keepEff (dieOf s d)))).sum

/-- SRAM of a Crest die in bytes: local SRAM of its cores, scratchpad and state cache. -/
def crestSram : Nat :=
  clustersPerDie * (clusterCores .dense * coreSram .dense + clusterCores .stream * coreSram .stream) + 64 * 0x20000 + 0x200000

/-! ### Banks and links (R295, R319, R341) -/

/-- Bytes a second that a die's bank ports carry, one row of 64 bytes a bank and cycle. -/
def bankRate (d : Nat) : Nat := bankCount d * 64 * fclkHz

/-- Wires of a group: data, clock, valid and spares. -/
def groupWires : List Nat := [32, 1, 1, 2]

/-- Data wires of a link in each direction. -/
def dataWires (l : Nat) : Nat := 32 * groupCount l

/-- Bytes a second of a group: 32 wires, both edges of LCLK. -/
def groupRate : Nat := 32 * 2 * lclkHz / 8

/-- Bytes a second of a link in each direction, over the groups that work. -/
def linkRate (s : State) (l : Nat) : Nat := if linkUp s l then groupsUp s l * groupRate else 0

/-- Farthest reach of a link in millimetres. -/
def linkReach (l : Nat) : Nat := if isBLink l then 2 else 38

/-! ### Carding lanes (R425, R426) -/

/-- What a carding lane works on. -/
inductive LaneWork where
  | bpe | greedy | unigram | numeric
  deriving DecidableEq, Repr

/-- Bytes a second of a lane under the conditions of the table. -/
def laneTable : LaneWork → Nat
  | .bpe => 4000000000
  | .greedy => 4000000000
  | .unigram => 1500000000
  | .numeric => 8000000000

/-- Bytes a second of a text lane on `bytes` of input with `lookups` vocabulary lookups, `slow` where its code points need
decomposition or composition, its reads arriving at `input`. -/
def textLane (w : LaneWork) (bytes lookups : Nat) (slow : Bool) (input : Nat) : Nat :=
  let a := min (laneTable w) input
  let b := if lookups = 0 then a else min a (8000000000 * bytes / lookups)
  if slow then min b 1000000000 else b

/-- Values a second of a numeric lane that reads `line` bytes of 64-byte lines for each element, its reads arriving at
`input` values a second. -/
def numericLane (line input : Nat) : Nat :=
  let a := min 1000000000 input
  if line = 0 then a else min a (16000000000 / line)

/-! ### Energy windows (R572) -/

/-- Energy in µJ that the package spends at most over any 10 ms at a limit in W. -/
def window10ms (limit : Nat) : Nat := limit * 10000
/-- Energy in µJ that the package spends at most over any 100 µs at a limit in W. -/
def window100us (limit : Nat) : Nat := limit * 120

end Sys2Proof.Machine
end

