-- ==== Sys2Proof/WellFormed.lean ====
section
/-! DEFINITION. Which commands are well formed: the ranges that an interface gives its operands and that their types do
not. -/

namespace Sys2Proof

/-- Size of BAR2 in bytes (R79). -/
def bar2Size : Nat := 64 * 2 ^ 30
/-- Scratchpad banks of a die code (R297). -/
def bankLimit (d : Nat) : Nat := if d < 4 then 64 else 16
/-- Wire groups of a link: a B-link has 32, an S-link 16 (R320). -/
def groupLimit (l : Nat) : Nat := if l < 4 then 32 else 16

/-- The operands of a command lie in their ranges. -/
def Instr.wf : Instr → Bool
  | .pwrGoodInRise .. => true
  | .pwrGoodInFall => true
  | .perstNAssert => true
  | .perstNDeassert .. => true
  | .hotReset .. => true
  | .railFault .. => true
  | .refclkLoss => true
  | .crestPllLoss .. => true
  | .eprNFall => true
  | .eprNRise => true
  | .preReadyMsMark => true
  | .harbourPllLock => true
  | .harbourPllTimeout => true
  | .fwVerifyDone => true
  | .configSpaceReady => true
  | .rollCallStart => true
  | .rollCallAnswer .. => true
  | .rollCallSilent .. => true
  | .neighbourExchange .. => true
  | .neighbourExchangeTimeout .. => true
  | .dieFwLoaded .. => true
  | .selfCalDone => true
  | .memTrainingDone .. => true
  | .memoryInitDone report =>
      report.hbmPages.all (fun x => decide (x.1 < 4) && decide (x.2 < 589824)) &&
      report.banks.all (fun x => decide (x.1 < 5) && decide (x.2 < bankLimit x.1))
  | .readySet => true
  | .bootTimeout => true
  | .bmeClear .. => true
  | .bmeSet .. => true
  | .initiateFlr .. => true
  | .flrComplete .. => true
  | .vfEnableClear => true
  | .vfEnableSet numVfs => decide (numVfs ≤ 15)
  | .d3hotEntry .. => true
  | .d0Return .. => true
  | .completionReceived _ tag _ => decide (tag < 1024)
  | .completionTimeoutExpiry _ tag => decide (tag < 1024)
  | .tagQuarantineExpiry _ tag => decide (tag < 1024)
  | .atomicopReceived .. => true
  | .bar2Read _ off len _ => decide (0 < len) && decide (off + len ≤ bar2Size)
  | .bar2Write _ off data _ _ => !data.isEmpty && decide (off + data.length ≤ bar2Size)
  | .invalidationRequest _ itag pasid page =>
      decide (itag < 32) && decide (pasid < 2 ^ 20) && decide (page < 2 ^ 40)
  | .translationCompletion _ pasid page _ => decide (pasid < 2 ^ 20) && decide (page < 2 ^ 40)
  | .prgResponse _ pasid page _ => decide (pasid < 2 ^ 20) && decide (page < 2 ^ 40)
  | .prgResponseTimeout _ pasid page => decide (pasid < 2 ^ 20) && decide (page < 2 ^ 40)
  | .msixUnmask .. => true
  | .registerWrite _ bar off width _ =>
      match bar with
      | .config => decide (off < 50) && width = 4
      | _ => decide (0 < width) && decide (width ≤ 8)
  | .lowHalfRead _ bar off width =>
      match bar with
      | .config => decide (off < 50) && width = 4
      | _ => decide (0 < width) && decide (width ≤ 8)
  | .slotWrite _ off width _ => decide (0 < width) && decide (width ≤ 8) && decide (off + width ≤ 8192)
  | .dbMboxWrite .. => true
  | .commandCommit .. => true
  | .deviceInfo .. => true
  | .functionOpen .. => true
  | .functionClose .. => true
  | .engineEnable .. => true
  | .regionCreate .. => true
  | .regionDestroy .. => true
  | .bar2WindowSet .. => true
  | .modelLoad .. => true
  | .modelUnload .. => true
  | .modelInfo .. => true
  | .vocabLoad .. => true
  | .vocabUnload .. => true
  | .bintableLoad .. => true
  | .bintableUnload .. => true
  | .grammarLoad .. => true
  | .grammarUnload .. => true
  | .requestQuery .. => true
  | .ringOpen .. => true
  | .ringClose .. => true
  | .streamOpen .. => true
  | .streamClose .. => true
  | .configStage .. => true
  | .configRead .. => true
  | .commitConfig .. => true
  | .configDiscard .. => true
  | .energyLimitSet .. => true
  | .energyReport .. => true
  | .diagBootlog .. => true
  | .booksAudit .. => true
  | .marchRun .. => true
  | .errlogRead .. => true
  | .dieReset .. => true
  | .dieRejoin .. => true
  | .descriptorFetch _ _ data => !data.isEmpty && decide (data.length % 64 = 0)
  | .submit .. => true
  | .cancel .. => true
  | .pause .. => true
  | .resume .. => true
  | .close .. => true
  | .textIn .. => true
  | .numIn .. => true
  | .textOut .. => true
  | .numOut .. => true
  | .dbRingWrite .. => true
  | .evqConsWrite .. => true
  | .writebackUpdate .. => true
  | .msixHoldoffExpiry .. => true
  | .cpWatchdogExpiry => true
  | .controlCoreFault => true
  | .cpRestartEnd => true
  | .cpRestartTimeout .. => true
  | .dieManagerWatchdog .. => true
  | .dieManagerRestartDone .. => true
  | .tideBoundary meters =>
      decide (meters.length = 5) && meters.all (fun m => decide (4 ≤ m.keep) && decide (m.keep ≤ 16) && decide (m.clusters ≤ 16))
  | .tideReport .. => true
  | .tideReportTimeout .. => true
  | .tideGrant .. => true
  | .allowance97Reached .. => true
  | .allowanceExhausted .. => true
  | .fastTripPower .. => true
  | .fastTripEnd .. => true
  | .tempUpdate .. => true
  | .admitHoldTimeout .. => true
  | .prefillStepForm .. => true
  | .decodeStepForm .. => true
  | .stepLayerBoundary .. => true
  | .stepCommit _ _ rows => rows.all (fun r => decide (r.ledger < 8192))
  | .drainStepTimeout .. => true
  | .holdStepTimeout => true
  | .maskReady ledger => decide (ledger < 8192)
  | .cardingLaneTake _ _ stream => decide (stream < 65536)
  | .cardingChunk .. => true
  | .carryStateSpill .. => true
  | .bintableStaged .. => true
  | .feltingLaneTake _ ledger => decide (ledger < 8192)
  | .tidepoolMoveDone ledger => decide (ledger < 8192)
  | .tidepoolExpiry ledger => decide (ledger < 8192)
  | .tidepoolReturnDone ledger => decide (ledger < 8192)
  | .ledgerEntryFreed ledger => decide (ledger < 8192)
  | .demandRead .. => true
  | .fullWrite addr data =>
      decide (data.length ∣ addr) && (data.length = 64 || data.length = 32 || data.length = 16 || data.length = 8)
  | .partialWrite _ data _ _ => !data.isEmpty && decide (data.length < 64)
  | .patrolRead .. => true
  | .poisonDisposition _ source => decide (source ≤ 1)
  | .ceCountRetire .. => true
  | .migrationDone .. => true
  | .pageZeroed .. => true
  | .pageWalkDone .. => true
  | .absentFaultServiced .. => true
  | .tidepoolFaultServiced .. => true
  | .tidepoolFaultPageFreed .. => true
  | .stepFaultWaitTimeout _ ledger => decide (ledger < 8192)
  | .preemptFaultWaitTimeout .. => true
  | .tablePageRebuilt .. => true
  | .shootdown .. => true
  | .shootdownComplete .. => true
  | .bankAccess die bank off data len code _ _ =>
      decide (bank < bankLimit die.val) && decide (0 < len) && decide (off + len ≤ 0x20000) && decide (code < 32) &&
      (data.map (fun l => decide (l.length = len))).getD true
  | .bankHandover die bank _ => decide (bank < bankLimit die.val)
  | .handoverDone die bank => decide (bank < bankLimit die.val)
  | .seizureDone die bank _ => decide (bank < bankLimit die.val)
  | .firmwareBankReclaim die bank => decide (bank < bankLimit die.val)
  | .marchDone die bank _ _ => decide (bank < bankLimit die.val)
  | .linkTrained l groups => decide (groups ≤ groupLimit l.val)
  | .linkTrainingTimeout .. => true
  | .flitReceived l flit _ => decide (flit.data.length = 256) && decide (flit.group < groupLimit l.val)
  | .replayRequest _ seq _ => decide (seq < 256)
  | .ackTimeout .. => true
  | .flitRetryLimit .. => true
  | .rdReq txn _ => decide (txn.tag < 65536) && decide (0 < txn.len) && decide (txn.len < 65536)
  | .wrReq txn _ => decide (txn.tag < 65536) && !txn.data.isEmpty
  | .rdRsp .. => true
  | .wrAck .. => true
  | .errRsp _ _ code => decide (code < 16)
  | .auditMarker .. => true
  | .recentreDue l marked closed =>
      decide (marked ≤ groupLimit l.val) && closed.all (fun g => decide (g < groupLimit l.val))
  | .recentreGapForced .. => true
  | .groupDisable l group => decide (group < groupLimit l.val)
  | .partnerClockStop l _ groups => !groups.isEmpty && groups.all (fun g => decide (g < groupLimit l.val))
  | .dieLossPath .. => true
  | .dieResetApplied .. => true
  | .dieRejoinDone .. => true
  | .slackTideStart found => found.all (fun t => decide (t.link < 8) && decide (t.group < groupLimit t.link))
  | .slackTideEnd durationUs => decide (durationUs ≤ 5000)
  | .groupMovePrepared .. => true
  | .avsFrameAck .. => true
  | .avsNoAck .. => true
  | .avsStepSettled .. => true
  | .setEndpointId .. => true
  | .getEndpointId => true
  | .getMctpVersionSupport .. => true
  | .getMessageTypeSupport => true
  | .mctpUnsupportedCmd .. => true
  | .smbusAlertResponse => true
  | .getTid => true
  | .setTid .. => true
  | .getPldmVersion .. => true
  | .getPldmTypes => true
  | .getPldmCommands .. => true
  | .getPdrRepositoryInfo => true
  | .getPdr record => decide (record < 2 ^ 32)
  | .getSensorReading sensor => decide (sensor < 65536)
  | .getStateSensorReadings sensor => decide (sensor < 65536)
  | .setNumericEffecterValue effecter _ => decide (effecter < 65536)
  | .getNumericEffecterValue effecter => decide (effecter < 65536)
  | .requestUpdate => true
  | .passComponentTable comps => comps.all (fun c => decide (c < 65536))
  | .updateComponent comp size => decide (comp < 65536) && decide (size < 2 ^ 32)
  | .firmwareDataReceived data => decide (data.length ≤ 1024)
  | .verifyComplete .. => true
  | .applyComplete => true
  | .activateFirmware => true
  | .cancelUpdate => true
  | .updateIdleTimeout => true
  | .getVersion conn => decide (conn ≤ 16)
  | .getCapabilities conn => decide (conn ≤ 16)
  | .negotiateAlgorithms conn _ => decide (conn ≤ 16)
  | .getDigests conn => decide (conn ≤ 16)
  | .getCertificate conn slot off len =>
      decide (conn ≤ 16) && decide (slot < 8) && decide (off < 65536) && decide (len < 65536)
  | .challenge conn slot => decide (conn ≤ 16) && decide (slot < 8)
  | .getMeasurements conn _ index => decide (conn ≤ 16) && decide (index < 256)
  | .respondIfReady conn _ => decide (conn ≤ 16)
  | .signingDone => true
  | .tapReset => true
  | .extest => true
  | .samplePreload => true
  | .idcode => true
  | .dbgChallenge => true
  | .dbgResponse .. => true
  | .dieSelect .. => true
  | .testAccess .. => true
  | .fuseProg .. => true
  | .regRead .. => true
  | .bypass => true
  | .crestRootPllLock .. => true
  | .pcieLinkUp speed width _ =>
      decide (1 ≤ speed) && decide (speed ≤ 6) && (width = 1 || width = 2 || width = 4 || width = 8 || width = 16)
  | .receiverError .. => true
  | .railReturn => true
  | .perstNDeassertionTaken .. => true
  | .vocabImageReloaded .. => true
  | .grammarCopyBuilt .. => true

end Sys2Proof
end

