-- ==== Sys2Proof/Tests/Slice0.lean ====
section
/-! SUPPORT. Tests: a witness for the hypotheses of every clause of the statements, ill-formed commands that
`Instr.wf` refuses, and single commands with results from the spec's text. -/

set_option Elab.async false

namespace Sys2Proof.Tests

open Sys2Proof Sys2Proof.Machine

/-! ### Small states -/

/-- A usable Crest die. -/
def dieUp : Die := { state := .usable, rootLock := true, answered := true }

/-- The PF, open, with every engine enabled and memory requests allowed. -/
def pf : Fn := { pci := { enabled := true, bme := true, mse := true }, opened := true, engines := 0x1F }

/-- READY with four usable dies and the PF open. -/
def up : State :=
  { State.reset with
    pins := { pwrGood := true, perstN := true, readyOut := true }
    boot := { stage := 0x0B, cfgReady := true, dieUsable := 0xF, diePresent := 0xF }
    fns := [(0, pf)]
    dies := [(0, dieUp), (1, dieUp), (2, dieUp), (3, dieUp)] }

/-- The same at another start-up stage. -/
def atStage (n : Nat) : State := { up with boot := { up.boot with stage := n } }

/-- `up` with the PF changed. -/
def withPf (g : Fn → Fn) : State := updFn up 0 g

/-- A slot's bytes: opcode, payload and DIE_MASK. -/
def slotOf (op : Nat) (payload : List Byte) (mask : Nat := 0) : List Byte :=
  le 2 op ++ le 2 0 ++ le 4 0 ++ le 2 payload.length ++ le 1 mask ++ le 5 0 ++ payload

/-- `s` with a command queued in slot 0 of the PF. -/
def queued (s : State) (op : Nat) (payload : List Byte) (mask : Nat := 0) : State :=
  updFn s 0 (fun x => { x with owner := 1, slots := [(0, padTo 256 (slotOf op payload mask))], cmds := [{ slot := 0, opcode := op }] })

/-- The PF's region of tier X: DVA 0 to 2^30, writable, at I/O address 0. -/
def hostRegion : Region := { asid := 1, dva := 0, size := 2 ^ 30, tier := 2, dies := 0x10, writable := true }

/-- `up` with that region. -/
def hosted : State := { up with regions := [(0x1000001, hostRegion)] }

/-- A completion ring 0 and a ring 1 of a type. -/
def ringed (t : RingType) (fetched : List Desc) : State :=
  updFn hosted 0 (fun x => { x with rings := [(0, { state := .running, typ := .cpl, sizeLog2 := 6, wb := 64 }),
    (1, { state := .running, typ := t, sizeLog2 := 6, prod := 1, fetched := fetched })] })

/-- A text output stream 2 on ring 1. -/
def streamed (s : State) (kind : Nat) (queue : List (Nat × StrDesc)) : State :=
  updFn s 0 (fun x => { x with streams := [(2, { kind := kind, ring := 1, queue := queue, vocab := if kind ≤ 2 then 6 else 0 })] })

/-- A model of one die with nothing in it. -/
def modelOne : Model := { owner := 0, placement := 1, dense := 4, stream := 4, image := { dies := 1, kvBytes := 64, layers := 32, vocabSize := 4 } }

/-- `s` with the model under handle 5. -/
def modelled (s : State) : State := { s with models := [(5, modelOne)] }

/-- A ledger entry 0 of the PF on the model. -/
def entered (s : State) (e : Entry) : State :=
  { modelled s with ledger := [(0, { e with b := { e.b with model := 5, userTag := 7 } })], ledgerX := [(0, { runsOn := 5 })] }

/-- A bin table of one boundary, 0.0. -/
def tableImage : List Byte :=
  le 4 0x54425856 ++ le 2 1 ++ le 2 0 ++ le 4 1 ++ le 4 0 ++ le 4 1 ++ le 4 0xFFFFFFFF ++ le 4 0xFFFFFFFF ++ le 36 0 ++ le 8 0

/-- The front of a vocabulary image: 256 tokens, no EOS token. -/
def vocabStub : List Byte := le 8 0 ++ le 4 256 ++ le 4 0xFFFFFFFF ++ le 4 0xFFFFFFFF

/-- A grammar image's header for that vocabulary, with its sections of 64 bytes behind it. -/
def grammarImage : List Byte :=
  le 4 0x4D475856 ++ le 2 1 ++ [1, 0] ++ le 4 256 ++ le 4 0xFFFFFFFF ++ le 4 (crc32c vocabStub) ++ le 4 1 ++ le 4 1 ++ le 2 1 ++ le 2 1 ++
    le 4 0 ++ le 4 0 ++ le 4 1 ++ le 20 0 ++ ((List.range 5).map (fun i => le 8 (256 + 64 * i) ++ le 8 64)).flatten ++ le 112 0

/-- A SUBMIT that is admitted: model, vocabulary, streams and rings are there. -/
def submitDesc : ReqDesc :=
  { typ := 1, model := 5, vocab := 6, inRing := 1, outRing := 1, inStream := 3, outStream := 2, userTag := 7, maxNew := 1 }
def submitting : State :=
  { (modelled (updFn (ringed .req [.req 0 submitDesc]) 0 (fun x => { x with
      streams := [(2, { kind := 2, ring := 1 }), (3, { kind := 1, ring := 1 })] }))) with vocabs := [(6, { owner := 0 })] }

/-- A SUBMIT that the energy policy holds since 5 µs. -/
def holding : State :=
  let s := (updRing (entered (ringed .req [.req 0 { typ := 1, userTag := 7 }]) { state := .ready }) 0 1 (fun g => { g with submitAt := some 5 }))
  { s with
    ledgerX := [(0, { runsOn := 5, energyEst := 10 ^ 15 })], conf := { applied := [(itemKey idAdmitEnergy 0, 1)] } }

/-- Links up. -/
def linked (st : LinkState) : State :=
  { up with links := (List.range 8).map (fun l => (l,
      { state := st, version := 3, out := { unacked := [{ seq := 3, data := [], vc := 0 }], vcs := List.replicate 5 { initial := 8, held := 8 } },
        back := { vcs := List.replicate 5 { initial := 8, held := 8 } } })) }

/-- `s` with its command of slot 0 started. -/
def begunIn (s : State) (g : Cmd → Cmd := fun c => c) : State :=
  updCmd s (0 : Fin 16) (0 : Fin 32) (fun c => g { c with started := true })

/-- Both halves of `StartsThenCommits` meet their hypotheses: `s` starts the command, and the started command commits. -/
def StartsMet (op : Nat) (body : State → Nat → Nat → List Byte → Ran) (s : State) : Prop :=
  Clocked s ∧ starts s (0 : Fin 16) (0 : Fin 32) op = true ∧ Clocked (begunIn s) ∧
    committing (begunIn s) (0 : Fin 16) (0 : Fin 32) op = true ∧
    (body (begunIn s) (0 : Fin 16) (0 : Fin 32) (slotBytes (begunIn s) (0 : Fin 16) (0 : Fin 32))).2.isSome = true

/-- Both halves of `ReservesThenShows` meet their hypotheses: `s` starts the command, and the command that has built commits. -/
def ReservesMet (op : Nat) (body : State → Nat → Nat → List Byte → Ran) (s : State) : Prop :=
  (Clocked s ∧ starts s (0 : Fin 16) (0 : Fin 32) op = true ∧
    (body s (0 : Fin 16) (0 : Fin 32) (slotBytes s (0 : Fin 16) (0 : Fin 32))).2.map (·.status) = some 0) ∧
  Clocked (begunIn s (fun c => { c with ready := some {} })) ∧
    mayCommit (begunIn s (fun c => { c with ready := some {} })) (0 : Fin 16) (0 : Fin 32) = true ∧
    cmdOf (begunIn s (fun c => { c with ready := some {} })) (0 : Fin 16) (0 : Fin 32) =
      some { slot := 0, opcode := op, started := true, ready := some {} } ∧
    groupLost (begunIn s (fun c => { c with ready := some {} })) (0 : Fin 16) (0 : Fin 32) = 0

/-- Both halves of `RunsThenAnswers` meet their hypotheses: `s` starts the command, and the command with an answer commits. -/
def RunsMet (op : Nat) (s : State) : Prop :=
  (Clocked s ∧ starts s (0 : Fin 16) (0 : Fin 32) op = true ∧ marchBusy s (slotBytes s (0 : Fin 16) (0 : Fin 32)) = false) ∧
  Clocked (begunIn s (fun c => { c with outcome := some {} })) ∧
    mayCommit (begunIn s (fun c => { c with outcome := some {} })) (0 : Fin 16) (0 : Fin 32) = true ∧
    cmdOf (begunIn s (fun c => { c with outcome := some {} })) (0 : Fin 16) (0 : Fin 32) =
      some { slot := 0, opcode := op, started := true, outcome := some {} }

theorem wit_pwrGoodInRise : ∃ (s : State), (!s.pins.pwrGood) = true :=
  ⟨{ up with pins := {} }, by decide +kernel⟩

theorem wit_pwrGoodInFall : ∃ (s : State), s.pins.pwrGood = true :=
  ⟨up, by decide +kernel⟩

theorem wit_perstNAssert : ∃ (s : State), (s.pins.pwrGood && s.pins.perstN) = true :=
  ⟨up, by decide +kernel⟩

theorem wit_perstNDeassert : ∃ (s : State), (s.pins.pwrGood && !s.pins.perstN) = true :=
  ⟨State.reset, by decide +kernel⟩

theorem wit_perstNDeassertionTaken : ∃ (s : State), (s.pins.pwrGood && s.boot.earlyPerst) = true :=
  ⟨{ up with boot := { earlyPerst := true } }, by decide +kernel⟩

theorem wit_hotReset : ∃ (s : State), Clocked s ∧ (s.pins.pwrGood && s.pins.perstN) = true :=
  ⟨up, rfl, by decide +kernel⟩

theorem wit_railFault : ∃ (s : State), (s.pins.pwrGood && !s.pins.railHeld) = true :=
  ⟨up, by decide +kernel⟩

theorem wit_railReturn : ∃ (s : State), (s.pins.pwrGood && s.pins.railHeld) = true :=
  ⟨{ up with pins := { up.pins with railHeld := true } }, by decide +kernel⟩

theorem wit_eprNFall : ∃ (s : State), (s.pins.pwrGood && s.pins.eprN) = true :=
  ⟨up, by decide +kernel⟩

theorem wit_eprNRise : ∃ (s : State), (s.pins.pwrGood && !s.pins.eprN) = true :=
  ⟨{ up with pins := { up.pins with eprN := false } }, by decide +kernel⟩

theorem wit_preReadyMsMark : ∃ (s : State), Clocked s ∧ (s.pins.pwrGood && s.pins.perstN && decide
    (1 ≤ s.boot.stage) && decide (s.boot.stage < 0x0B)) = true :=
  ⟨(atStage 4), rfl, by decide +kernel⟩

theorem wit_refclkLoss : ∃ (s : State), Clocked s ∧ (isReady s) = true :=
  ⟨up, rfl, by decide +kernel⟩

theorem wit_crestPllLoss : ∃ (d : Fin 4) (s : State), Clocked s ∧
    ((dieOf s d.val).rootLock && !((dieOf s d.val).state == .lost)) = true :=
  ⟨0, up, rfl, by decide +kernel⟩

theorem wit_crestRootPllLock : ∃ (d : Fin 4) (s : State), Clocked s ∧
    (s.pins.perstN && !s.pins.railHeld && !s.pins.thermtrip && !(dieOf s d.val).rootLock &&
      !((dieOf s d.val).state == .lost)) = true :=
  ⟨0, { up with dies := [] }, rfl, by decide +kernel⟩

theorem wit_harbourPllLock : ∃ (s : State), Clocked s ∧ (s.boot.stage == 1 && !s.boot.pllLocked) = true :=
  ⟨(atStage 1), rfl, by decide +kernel⟩

theorem wit_harbourPllTimeout : ∃ (s : State), Clocked s ∧ (s.boot.stage == 1 && !s.boot.pllLocked) = true :=
  ⟨(atStage 1), rfl, by decide +kernel⟩

theorem wit_avsFrameAck : ∃ (d : Fin 4) (s : State), Clocked s ∧
    ((dieOf s d.val).avsBusy && !(dieOf s d.val).avsAcked) = true :=
  ⟨0, { up with dies := [(0, { dieUp with avsBusy := true, avsAcked := false })] }, rfl, by decide +kernel⟩

theorem wit_avsNoAck : ∃ (d : Fin 4) (s : State), Clocked s ∧
    ((dieOf s d.val).avsBusy && !(dieOf s d.val).avsAcked) = true :=
  ⟨0, { up with dies := [(0, { dieUp with avsBusy := true, avsAcked := false })] }, rfl, by decide +kernel⟩

theorem wit_avsStepSettled : ∃ (d : Fin 4) (s : State), Clocked s ∧ ((dieOf s d.val).avsBusy &&
    (dieOf s d.val).avsAcked) = true :=
  ⟨0, { up with dies := [(0, { dieUp with avsBusy := true, avsAcked := true })] }, rfl, by decide +kernel⟩

theorem wit_fwVerifyDone : ∃ (s : State), Clocked s ∧ (s.boot.stage == 2) = true :=
  ⟨(atStage 2), rfl, by decide +kernel⟩

theorem wit_configSpaceReady : ∃ (s : State), Clocked s ∧ (s.pins.perstN && !s.boot.cfgReady) = true :=
  ⟨{ up with boot := {} }, rfl, by decide +kernel⟩

theorem wit_rollCallStart : ∃ (s : State), Clocked s ∧ (s.boot.stage == 3 && s.boot.straps.testMode != 1) = true :=
  ⟨(atStage 3), rfl, by decide +kernel⟩

theorem wit_rollCallAnswer : ∃ (port : Fin 4) (s : State), Clocked s ∧ (s.boot.rollCall && !settledPort s port.val &&
    (linkOf s (4 + port.val)).state == .up && (dieOf s port.val).rootLock) = true :=
  ⟨0, { linked .up with boot := { stage := 4, rollCall := true } }, rfl, by decide +kernel⟩

theorem wit_rollCallSilent : ∃ (port : Fin 4) (s : State), Clocked s ∧
    (s.boot.rollCall && !settledPort s port.val) = true :=
  ⟨0, { linked .up with boot := { stage := 4, rollCall := true } }, rfl, by decide +kernel⟩

theorem wit_neighbourExchange : ∃ (l : Fin 4) (s : State), Clocked s ∧
    (s.boot.rollCall && !s.boot.exchOver.getLsbD l.val && (linkOf s l.val).state == .up &&
      (dieOf s (linkEnds l.val).1).answered && (dieOf s (linkEnds l.val).2).answered) = true :=
  ⟨0, { linked .up with boot := { stage := 4, rollCall := true } }, rfl, by decide +kernel⟩

theorem wit_neighbourExchangeTimeout : ∃ (l : Fin 4) (s : State), Clocked s ∧
    (s.boot.rollCall && !s.boot.exchOver.getLsbD l.val) = true :=
  ⟨0, { linked .up with boot := { stage := 4, rollCall := true } }, rfl, by decide +kernel⟩

theorem wit_dieFwLoaded : ∃ (d : Fin 4) (s : State), Clocked s ∧
    (s.boot.stage == 5 && s.boot.dieUsable.getLsbD d.val && !s.boot.dieFw.getLsbD d.val) = true :=
  ⟨0, (atStage 5), rfl, by decide +kernel⟩

theorem wit_selfCalDone : ∃ (s : State), Clocked s ∧ (s.boot.stage == 6) = true :=
  ⟨(atStage 6), rfl, by decide +kernel⟩

theorem wit_memTrainingDone : ∃ (c : Fin 20) (s : State), Clocked s ∧
    (s.boot.stage == 7 && c.val ∈ neededCtrls s && !s.boot.trained.contains c.val) = true :=
  ⟨0, (atStage 7), rfl, by decide +kernel⟩

theorem wit_memoryInitDone : ∃ (s : State), Clocked s ∧ (s.boot.stage == 8 || s.boot.stage == 9) = true :=
  ⟨(atStage 8), rfl, by decide +kernel⟩

theorem wit_readySet : ∃ (s : State), Clocked s ∧ (s.boot.stage == 0x0A && !s.boot.testMode) = true :=
  ⟨(atStage 0x0A), rfl, by decide +kernel⟩

theorem wit_bootTimeout : ∃ (s : State), Clocked s ∧ (decide (1 ≤ s.boot.stage) && decide (s.boot.stage < 0x0B)) = true :=
  ⟨(atStage 3), rfl, by decide +kernel⟩

theorem wit_flrComplete : ∃ (f : Fin 16) (s : State), Clocked s ∧ (fnOf s f.val).flrBusy = true :=
  ⟨0, (withPf (fun x => { x with flrBusy := true })), rfl, by decide +kernel⟩

theorem wit_pcieLinkUp : ∃ (speed : Nat) (width : Nat) (flit : Bool) (s : State), Clocked s ∧
    (s.pins.perstN && linkMode speed width flit) = true :=
  ⟨6, 16, true, up, rfl, by decide +kernel⟩

theorem wit_completionReceived : ∃ (f : Fin 16) (tag : Nat) (st : CplStatus) (s : State), Clocked s ∧
    (!(isTranslation s f.val tag && st == .ok)) = true :=
  ⟨0, 0, .ur, up, rfl, by decide +kernel⟩

theorem wit_completionTimeoutExpiry : ∃ (f : Fin 16) (tag : Nat) (s : State) (w : ReadFor) (cto : Nat) (stale : Bool)
    (page : Option (Nat × Nat)), Clocked s ∧ tfind (fnOf s f.val).pci.tags tag = some (.outstanding w cto stale page) :=
  ⟨0, 9, (withPf (fun x => { x with pci := { x.pci with tags := [(9, .outstanding (.bulk 0) 50000 false none)] } })),
    (.bulk 0), 50000, false, none, rfl, by decide +kernel⟩

theorem wit_tagQuarantineExpiry : ∃ (f : Fin 16) (tag : Nat) (s : State) (t : Nat), Clocked s ∧ tfind
    (fnOf s f.val).pci.tags tag = some (.quarantined t) :=
  ⟨0, 9, (withPf (fun x => { x with pci := { x.pci with tags := [(9, .quarantined 700)] } })), 700, rfl, by decide +kernel⟩

theorem wit_translationCompletion : ∃ (f : Fin 16) (pasid : Nat) (page : Nat) (s : State) (tag : Nat) (stale : Bool),
    Clocked s ∧ translationTag s f.val pasid page = some (tag, stale) :=
  ⟨0, 3, 4096, (withPf (fun x =>
    { x with pci := { x.pci with tags := [(9, .outstanding (.translation 3 4096) 50000 false none)] } })), 9, false, rfl,
    by decide +kernel⟩

theorem wit_prgResponse : ∃ (f : Fin 16) (pasid : Nat) (page : Nat) (s : State), Clocked s ∧
    (pageAsked s f.val pasid page) = true :=
  ⟨0, 0, 0, { hosted with faults := [{ die := 4, asid := 1, dva := 0, cls := 3, prSent := true }] }, rfl, by decide +kernel⟩

theorem wit_prgResponseTimeout : ∃ (f : Fin 16) (pasid : Nat) (page : Nat) (s : State), Clocked s ∧
    (pageAsked s f.val pasid page) = true :=
  ⟨0, 0, 0, { hosted with faults := [{ die := 4, asid := 1, dva := 0, cls := 3, prSent := true }] }, rfl, by decide +kernel⟩

theorem wit_commandCommit : ∃ (f : Fin 16) (slot : Fin 32) (s : State), Clocked s ∧ (mayCommit s f slot) = true :=
  ⟨0, 0, (withPf (fun x => { x with cmds := [{ slot := 0, opcode := 0x0202, started := true, outcome := some {} }] })),
    rfl, by decide +kernel⟩

theorem wit_writebackUpdate : ∃ (f : Fin 16) (ring : Fin 64) (s : State), Clocked s ∧
    ((ringOf s f.val ring.val).wbDue && !((ringOf s f.val ring.val).state == .closed)) = true :=
  ⟨0, 1, (withPf (fun x => { x with rings := [(1, { state := .running, typ := .req, wbDue := true })] })), rfl,
    by decide +kernel⟩

theorem wit_msixHoldoffExpiry : ∃ (f : Fin 16) (ring : Fin 64) (s : State),
    let g := ringOf s f.val ring.val;
    Clocked s ∧ (g.typ == .cpl && !(g.state == .closed) && decide (0 < g.unsig)) = true :=
  ⟨0, 1, (withPf (fun x => { x with rings := [(1, { state := .running, typ := .cpl, unsig := 2 })] })), ⟨rfl,
    by decide +kernel⟩⟩

theorem wit_deviceInfo : Clocked (queued up 0x0101 []) ∧ mayStart (queued up 0x0101 []) (0 : Fin 16) (0 : Fin 32) 0x0101 = true ∧
    slotOp (slotBytes (queued up 0x0101 []) (0 : Fin 16) (0 : Fin 32)) = 0x0101 ∧
    headerBad (slotBytes (queued up 0x0101 []) (0 : Fin 16) (0 : Fin 32)) = none ∧
    sharedChecks (queued up 0x0101 []) (0 : Fin 16) (slotBytes (queued up 0x0101 []) (0 : Fin 16) (0 : Fin 32)) = none :=
  ⟨rfl, by decide +kernel, by decide +kernel, by decide +kernel, by decide +kernel⟩

theorem wit_functionOpen : StartsMet 0x0201 (fun s f _ b => functionOpen s f b)
    (queued (updFn hosted 0 (fun x => { x with opened := false })) 0x0201 (le 8 4096 ++ le 1 6 ++ le 7 0)) :=
  ⟨rfl, by decide +kernel, rfl, by decide +kernel, by decide +kernel⟩

theorem wit_functionClose : StartsMet 0x0202 (fun s f _ _ => functionClose s f)
    (queued up 0x0202 []) :=
  ⟨rfl, by decide +kernel, rfl, by decide +kernel, by decide +kernel⟩

theorem wit_engineEnable : StartsMet 0x0203 (fun s f _ b => engineEnable s f b)
    (queued up 0x0203 [0x1F, 0, 0, 0]) :=
  ⟨rfl, by decide +kernel, rfl, by decide +kernel, by decide +kernel⟩

theorem wit_bar2WindowSet : StartsMet 0x0303 (fun s f _ b => bar2WindowSet s f b)
    (queued up 0x0303 (le 8 (2 ^ 36))) :=
  ⟨rfl, by decide +kernel, rfl, by decide +kernel, by decide +kernel⟩

/-- A CONFIG_STAGE of PREFILL_CHUNK. -/
def staging : State := queued up 0x0901 (le 2 idPrefillChunk ++ le 2 0 ++ le 2 2 ++ le 2 0 ++ padTo 32 (le 2 512))
theorem wit_configStage : (Clocked staging ∧ starts (updCmd staging (0 : Fin 16) (0 : Fin 32)
      (fun c => { c with read := some (.bytes []) })) (0 : Fin 16) (0 : Fin 32) 0x0901 = true) ∧
    committing (begunIn staging) (0 : Fin 16) (0 : Fin 32) 0x0901 = true ∧
    (configStage (begunIn staging) (0 : Fin 16) (0 : Fin 32) (slotBytes (begunIn staging) (0 : Fin 16) (0 : Fin 32))).2.isSome = true :=
  ⟨⟨rfl, by decide +kernel⟩, by decide +kernel, by decide +kernel⟩

theorem wit_configRead : StartsMet 0x0902 (fun s f _ b => configRead s f b)
    (queued up 0x0902 (le 2 idPrefillChunk ++ le 6 0)) :=
  ⟨rfl, by decide +kernel, rfl, by decide +kernel, by decide +kernel⟩

/-- COMMIT_CONFIG with something staged, and with nothing. -/
def committingConfig (shadow : Tbl Nat) : State := queued { up with conf := { shadow := shadow } } 0x0903 []
theorem wit_commitConfig : Clocked (committingConfig []) ∧ starts (committingConfig []) (0 : Fin 16) (0 : Fin 32) 0x0903 = true ∧
    committing (begunIn (committingConfig [(itemKey idPrefillChunk 0, 512)])) (0 : Fin 16) (0 : Fin 32) 0x0903 = true ∧
    (commitConfig (begunIn (committingConfig [(itemKey idPrefillChunk 0, 512)]))).2.map (·.status) = some 0 ∧
    committing (begunIn (committingConfig [])) (0 : Fin 16) (0 : Fin 32) 0x0903 = true ∧
    ((commitConfig (begunIn (committingConfig []))).2.map (·.status)).any (· ≠ 0) = true :=
  ⟨rfl, by decide +kernel, by decide +kernel, by decide +kernel, by decide +kernel, by decide +kernel⟩

theorem wit_configDiscard : StartsMet 0x0904 (fun s _ _ _ => good { s with conf := { s.conf with shadow := [] } } [])
    (queued up 0x0904 []) :=
  ⟨rfl, by decide +kernel, rfl, by decide +kernel, by decide +kernel⟩

theorem wit_energyLimitSet : StartsMet 0x0A01 (fun s _ _ b => energyLimitSet s b)
    (queued up 0x0A01 (le 2 200 ++ le 2 0)) :=
  ⟨rfl, by decide +kernel, rfl, by decide +kernel, by decide +kernel⟩

theorem wit_energyReport : StartsMet 0x0A02 (fun s f _ _ => good s (energyReport s f))
    (queued up 0x0A02 []) :=
  ⟨rfl, by decide +kernel, rfl, by decide +kernel, by decide +kernel⟩

theorem wit_regionCreate : ReservesMet 0x0301 (fun s f _ b => regionCreate s f b)
    (queued hosted 0x0301 (le 8 (2 ^ 30) ++ le 8 65536 ++ le 2 0x210 ++ le 2 1 ++ le 4 0 ++ le 8 0)) :=
  ⟨⟨rfl, by decide +kernel, by decide +kernel⟩, rfl, by decide +kernel, by decide +kernel, by decide +kernel⟩

theorem wit_regionDestroy : StartsMet 0x0302 (fun s f slot b => regionDestroy s f slot b)
    (queued hosted 0x0302 (le 4 0x1000001 ++ le 4 0)) :=
  ⟨rfl, by decide +kernel, rfl, by decide +kernel, by decide +kernel⟩

theorem wit_modelLoad : ReservesMet 0x0401 (fun s f slot b => modelLoad s f slot b (.bytes []) modelOne.image)
    (queued hosted 0x0401 (le 8 0 ++ le 8 4096 ++ le 2 1 ++ [4, 4] ++ le 2 0 ++ le 2 0)) :=
  ⟨⟨rfl, by decide +kernel, by decide +kernel⟩, rfl, by decide +kernel, by decide +kernel, by decide +kernel⟩

theorem wit_modelUnload : StartsMet 0x0402 (fun s f _ b => modelUnload s f b)
    (queued (modelled up) 0x0402 (le 4 5 ++ le 4 0)) :=
  ⟨rfl, by decide +kernel, rfl, by decide +kernel, by decide +kernel⟩

theorem wit_modelInfo : StartsMet 0x0403 (fun s f _ b => withObject s f b false (modelOwner s (pay b 0 4))
      (fun h => good s (modelInfo (tget (default : Model) s.models h))))
    (queued (modelled up) 0x0403 (le 4 5 ++ le 4 0)) :=
  ⟨rfl, by decide +kernel, rfl, by decide +kernel, by decide +kernel⟩

theorem wit_vocabUnload : StartsMet 0x0502 (fun s f _ b => vocabUnload s f b)
    (queued { up with vocabs := [(5, { owner := 0 })] } 0x0502 (le 4 5 ++ le 4 0)) :=
  ⟨rfl, by decide +kernel, rfl, by decide +kernel, by decide +kernel⟩

theorem wit_bintableLoad : ReservesMet 0x0503 (fun s f slot b => bintableLoad s f slot b (.bytes tableImage))
    (queued hosted 0x0503 (le 8 0 ++ le 4 72 ++ le 1 0 ++ le 3 0)) :=
  ⟨⟨rfl, by decide +kernel, by decide +kernel⟩, rfl, by decide +kernel, by decide +kernel, by decide +kernel⟩

theorem wit_bintableUnload : StartsMet 0x0504 (fun s f _ b => bintableUnload s f b)
    (queued { up with bins := [(5, { owner := 0 })] } 0x0504 (le 4 5 ++ le 4 0)) :=
  ⟨rfl, by decide +kernel, rfl, by decide +kernel, by decide +kernel⟩

theorem wit_grammarLoad : ReservesMet 0x0601 (fun s f slot b => grammarLoad s f slot b (.bytes grammarImage) {})
    (queued { hosted with vocabs := [(5, { owner := 0, bytes := vocabStub })] } 0x0601
      (le 8 0 ++ le 8 1024 ++ le 4 5 ++ [1, 0, 0, 0])) :=
  ⟨⟨rfl, by decide +kernel, by decide +kernel⟩, rfl, by decide +kernel, by decide +kernel, by decide +kernel⟩

theorem wit_grammarUnload : StartsMet 0x0602 (fun s f _ b => grammarUnload s f b)
    (queued { up with grammars := [(5, { owner := 0 })] } 0x0602 (le 4 5 ++ le 4 0)) :=
  ⟨rfl, by decide +kernel, rfl, by decide +kernel, by decide +kernel⟩

theorem wit_requestQuery : StartsMet 0x0701 (fun s f _ b => requestQuery s f b)
    (queued up 0x0701 (le 16 0)) :=
  ⟨rfl, by decide +kernel, rfl, by decide +kernel, by decide +kernel⟩

theorem wit_ringOpen : StartsMet 0x0801 (fun s f slot b => ringOpen s f slot b)
    (queued hosted 0x0801 ([0, 6, 6, 0, 0, 1] ++ le 2 0 ++ le 8 4096 ++ le 8 64 ++ le 8 0)) :=
  ⟨rfl, by decide +kernel, rfl, by decide +kernel, by decide +kernel⟩

theorem wit_ringClose : StartsMet 0x0802 (fun s f _ b => ringClose s f b)
    (queued (ringed .req []) 0x0802 [1, 0, 0, 0]) :=
  ⟨rfl, by decide +kernel, rfl, by decide +kernel, by decide +kernel⟩

theorem wit_streamOpen : StartsMet 0x0803 (fun s f slot b => streamOpen s f slot b)
    (queued (ringed .numIn []) 0x0803 (le 2 2 ++ [3, 1] ++ le 12 0)) :=
  ⟨rfl, by decide +kernel, rfl, by decide +kernel, by decide +kernel⟩

theorem wit_streamClose : StartsMet 0x0804 (fun s f _ b => streamClose s f b)
    (queued (streamed (ringed .numIn []) 3 []) 0x0804 (le 2 2 ++ le 2 0)) :=
  ⟨rfl, by decide +kernel, rfl, by decide +kernel, by decide +kernel⟩

theorem wit_diagBootlog : Clocked (queued up 0x0B01 (le 8 0)) ∧
    mayStart (queued up 0x0B01 (le 8 0)) (0 : Fin 16) (0 : Fin 32) 0x0B01 = true ∧
    headerBad (slotBytes (queued up 0x0B01 (le 8 0)) (0 : Fin 16) (0 : Fin 32)) = none ∧
    sharedChecks (queued up 0x0B01 (le 8 0)) (0 : Fin 16) (slotBytes (queued up 0x0B01 (le 8 0)) (0 : Fin 16) (0 : Fin 32)) = none ∧
    (resv (slotBytes (queued up 0x0B01 (le 8 0)) (0 : Fin 16) (0 : Fin 32)) 4 4).1 = false :=
  ⟨rfl, by decide +kernel, by decide +kernel, by decide +kernel, by decide +kernel⟩

theorem wit_booksAudit : RunsMet 0x0B02 (queued up 0x0B02 (le 8 0)) :=
  ⟨⟨rfl, by decide +kernel, by decide +kernel⟩, rfl, by decide +kernel, by decide +kernel⟩

theorem wit_marchRun : RunsMet 0x0B03 (queued up 0x0B03 ([0, 0, 0, 0] ++ le 4 0 ++ le 4 1)) :=
  ⟨⟨rfl, by decide +kernel, by decide +kernel⟩, rfl, by decide +kernel, by decide +kernel⟩

theorem wit_errlogRead : StartsMet 0x0B04 (fun s _ _ b => errlogRead s b)
    (queued up 0x0B04 (le 8 0)) :=
  ⟨rfl, by decide +kernel, rfl, by decide +kernel, by decide +kernel⟩

theorem wit_dieReset : RunsMet 0x0C01 (queued up 0x0C01 [] 1) :=
  ⟨⟨rfl, by decide +kernel, by decide +kernel⟩, rfl, by decide +kernel, by decide +kernel⟩

theorem wit_dieRejoin : RunsMet 0x0C02 (queued { up with dies := [(0, { state := .lost })] } 0x0C02 (le 4 0) 1) :=
  ⟨⟨rfl, by decide +kernel, by decide +kernel⟩, rfl, by decide +kernel, by decide +kernel⟩

theorem wit_descriptorFetch : ∃ (f : Fin 16) (ring : Fin 64) (data : List Byte) (s : State),
    let g := ringOf s f.val ring.val;
    Clocked s ∧ (g.fetching && g.state == .running && !fetchOut s f.val ring.val && decide
    (0 < fetchedCount g data)) = true :=
  ⟨0, 1, (List.replicate 64 0), (updRing (ringed .textIn []) 0 1 (fun g => { g with fetching := true })), ⟨rfl,
    by decide +kernel⟩⟩

theorem wit_submit : ∃ (f : Fin 16) (ring : Fin 64) (s : State) (idx : Nat) (d : ReqDesc), Clocked s
    ∧ frontReq s f.val (frontRing s f.val ring.val) = some (idx, d) ∧ d.typ = 1 :=
  ⟨0, 1, (ringed .req [.req 0 { typ := 1, userTag := 7 }]), 0, { typ := 1, userTag := 7 }, rfl, by decide +kernel,
    by decide +kernel⟩

theorem wit_submit2 : ∃ (f : Fin 16) (ring : Fin 64) (read : HostRead) (s : State) (idx : Nat) (i : Nat) (d : ReqDesc)
    (stops : List (List Byte)),
    let r := frontRing s f.val ring.val
    Clocked s ∧ frontReq s f.val r = some (idx, d) ∧ d.typ = 1 ∧ freeEntryIdx s = some i ∧ cplHeld s f.val r = false ∧
      stopsMayGo s f.val d = true ∧ outOk s f.val d = true ∧ readStops s f.val d read = some stops ∧ handlesOk s f.val d = true ∧
      policyHold s f.val d = false :=
  ⟨0, 1, (.bytes []), submitting, 0, 0, submitDesc, [], rfl, by decide +kernel, by decide +kernel, by decide +kernel,
    by decide +kernel, by decide +kernel, by decide +kernel, by decide +kernel, by decide +kernel, by decide +kernel⟩

theorem wit_cancel : ∃ (f : Fin 16) (ring : Fin 64) (s : State) (idx : Nat) (d : ReqDesc) (i : Nat), Clocked s
    ∧ frontReq s f.val (frontRing s f.val ring.val) = some (idx, d) ∧ d.typ = 2 ∧ cplHeld s f.val (frontRing s f.val ring.val) = false
    ∧ controlTarget s f.val d = some i :=
  ⟨0, 1, (entered (ringed .req [.req 0 { typ := 2, userTag := 7 }]) { state := .ready }), 0, { typ := 2, userTag := 7 },
    0, rfl, by decide +kernel, by decide +kernel, by decide +kernel, by decide +kernel⟩

theorem wit_pause : ∃ (f : Fin 16) (ring : Fin 64) (s : State) (idx : Nat) (d : ReqDesc) (i : Nat), Clocked s
    ∧ frontReq s f.val (frontRing s f.val ring.val) = some (idx, d) ∧ d.typ = 3 ∧ cplHeld s f.val (frontRing s f.val ring.val) = false
    ∧ controlTarget s f.val d = some i :=
  ⟨0, 1, (entered (ringed .req [.req 0 { typ := 3, userTag := 7 }]) { state := .ready }), 0, { typ := 3, userTag := 7 },
    0, rfl, by decide +kernel, by decide +kernel, by decide +kernel, by decide +kernel⟩

theorem wit_resume : ∃ (f : Fin 16) (ring : Fin 64) (s : State) (idx : Nat) (d : ReqDesc) (i : Nat), Clocked s
    ∧ frontReq s f.val (frontRing s f.val ring.val) = some (idx, d) ∧ d.typ = 4 ∧ cplHeld s f.val (frontRing s f.val ring.val) = false
    ∧ controlTarget s f.val d = some i :=
  ⟨0, 1, (entered (ringed .req [.req 0 { typ := 4, userTag := 7 }]) { state := .ready }), 0, { typ := 4, userTag := 7 },
    0, rfl, by decide +kernel, by decide +kernel, by decide +kernel, by decide +kernel⟩

theorem wit_close : ∃ (f : Fin 16) (ring : Fin 64) (s : State) (idx : Nat) (d : ReqDesc) (i : Nat), Clocked s
    ∧ frontReq s f.val (frontRing s f.val ring.val) = some (idx, d) ∧ d.typ = 5 ∧ cplHeld s f.val (frontRing s f.val ring.val) = false
    ∧ controlTarget s f.val d = some i :=
  ⟨0, 1, (entered (ringed .req [.req 0 { typ := 5, userTag := 7 }]) { state := .ready }), 0, { typ := 5, userTag := 7 },
    0, rfl, by decide +kernel, by decide +kernel, by decide +kernel, by decide +kernel⟩

theorem wit_textIn : ∃ (f : Fin 16) (ring : Fin 64) (s : State) (idx : Nat) (d : StrDesc) (x : Stream),
    let r := frontRing s f.val ring.val
    Clocked s ∧ frontStr s f.val r = some (idx, d) ∧ d.typ = 1 ∧ cplHeld s f.val r = false ∧
      streamOf s f.val d.stream = some x ∧ inputHeld x = false :=
  ⟨0, 1, streamed (ringed .textIn [.str 0 { typ := 1, stream := 2 }]) 1 [], 0, { typ := 1, stream := 2 }, { kind := 1, ring := 1, vocab := 6 },
    by unfold Clocked; rfl, by decide +kernel, by decide, by decide +kernel, by decide +kernel, by decide +kernel⟩

theorem wit_numIn : ∃ (f : Fin 16) (ring : Fin 64) (s : State) (idx : Nat) (d : StrDesc) (x : Stream),
    let r := frontRing s f.val ring.val
    Clocked s ∧ frontStr s f.val r = some (idx, d) ∧ d.typ = 3 ∧ cplHeld s f.val r = false ∧
      streamOf s f.val d.stream = some x ∧ inputHeld x = false :=
  ⟨0, 1, streamed (ringed .numIn [.str 0 { typ := 3, stream := 2 }]) 3 [], 0, { typ := 3, stream := 2 }, { kind := 3, ring := 1 },
    by unfold Clocked; rfl, by decide +kernel, by decide, by decide +kernel, by decide +kernel, by decide +kernel⟩

theorem wit_textOut : ∃ (f : Fin 16) (ring : Fin 64) (s : State) (idx : Nat) (d : StrDesc) (x : Stream),
    let r := frontRing s f.val ring.val
    Clocked s ∧ frontStr s f.val r = some (idx, d) ∧ d.typ = 2 ∧ cplHeld s f.val r = false ∧
      streamOf s f.val d.stream = some x ∧ x.queue.length < 16 :=
  ⟨0, 1, streamed (ringed .textOut [.str 0 { typ := 2, stream := 2 }]) 2 [], 0, { typ := 2, stream := 2 }, { kind := 2, ring := 1, vocab := 6 },
    by unfold Clocked; rfl, by decide +kernel, by decide, by decide +kernel, by decide +kernel, by decide +kernel⟩

theorem wit_numOut : ∃ (f : Fin 16) (ring : Fin 64) (s : State) (idx : Nat) (d : StrDesc) (x : Stream),
    let r := frontRing s f.val ring.val
    Clocked s ∧ frontStr s f.val r = some (idx, d) ∧ d.typ = 4 ∧ cplHeld s f.val r = false ∧
      streamOf s f.val d.stream = some x ∧ x.queue.length < 16 :=
  ⟨0, 1, streamed (ringed .numOut [.str 0 { typ := 4, stream := 2 }]) 4 [], 0, { typ := 4, stream := 2 }, { kind := 4, ring := 1 },
    by unfold Clocked; rfl, by decide +kernel, by decide, by decide +kernel, by decide +kernel, by decide +kernel⟩

theorem wit_admitHoldTimeout : ∃ (f : Fin 16) (ring : Fin 64) (s : State) (idx : Nat) (d : ReqDesc) (t : Nat), Clocked s
    ∧ frontReq s f.val (frontRing s f.val ring.val) = some (idx, d) ∧ (ringOf s f.val (frontRing s f.val ring.val)).submitAt = some t
    ∧ policyHold s f.val d = true ∧ cplHeld s f.val (frontRing s f.val ring.val) = false :=
  ⟨0, 1, holding, 0, { typ := 1, userTag := 7 }, 5, rfl, by decide +kernel, by decide +kernel, by decide +kernel,
    by decide +kernel⟩

theorem wit_cpWatchdogExpiry : ∃ (s : State), Clocked s ∧
    (isReady s || (decide (1 ≤ s.boot.stage) && decide (s.boot.stage < 0x0B))) = true :=
  ⟨up, rfl, by decide +kernel⟩

theorem wit_controlCoreFault : ∃ (s : State), Clocked s ∧ (isReady s) = true :=
  ⟨up, rfl, by decide +kernel⟩

theorem wit_cpRestartEnd : ∃ (s : State), Clocked s ∧ (s.cp.recovery && isReady s) = true :=
  ⟨{ up with cp := { recovery := true } }, rfl, by decide +kernel⟩

theorem wit_cpRestartTimeout : ∃ (s : State), Clocked s ∧ (s.cp.recovery && isReady s) = true :=
  ⟨{ up with cp := { recovery := true } }, rfl, by decide +kernel⟩

theorem wit_dieManagerWatchdog : ∃ (d : Fin 4) (s : State), Clocked s ∧
    ((dieUsable s d || (dieOf s d).state == .draining) && !(dieOf s d).mgrDown) = true :=
  ⟨0, up, rfl, by decide +kernel⟩

theorem wit_dieManagerRestartDone : ∃ (d : Fin 4) (s : State), Clocked s ∧ (dieOf s d).mgrDown = true :=
  ⟨0, { up with dies := [(0, { dieUp with mgrDown := true })] }, rfl, by decide +kernel⟩

theorem wit_dieLossPath : ∃ (d : Fin 4) (s : State), Clocked s ∧ (isReady s && !s.cp.recovery &&
    (dieOf s d.val).state == .lost && (dieOf s d.val).lossDue) = true :=
  ⟨0, { up with dies := [(0, { state := .lost, lossDue := true })] }, rfl, by decide +kernel⟩

theorem wit_dieResetApplied : ∃ (d : Fin 4) (s : State), Clocked s ∧ ((dieOf s d.val).state == .draining &&
    (stepsOn s d.val).isEmpty && !s.cp.recovery && (dieCmd s 0x0C01 d.val).isSome) = true :=
  ⟨0, (updFn { (queued up 0x0C01 (le 4 0) 1) with dies := [(0, { dieUp with state := .draining })] } 0 (fun x =>
    { x with cmds := [{ slot := 0, opcode := 0x0C01, started := true }] })), by unfold Clocked; rfl, by decide +kernel⟩

theorem wit_dieRejoinDone : ∃ (d : Fin 4) (result : RejoinEnd) (s : State) (b : List Byte), Clocked s
    ∧ dieCmd s 0x0C02 d.val = some b ∧ (dieOf s d.val).state = .rejoining ∧ s.cp.recovery = false ∧ mayRejoin s d.val
    (pay b 0 1) result = true :=
  ⟨0, (.failed 3), (updFn { (queued up 0x0C02 (le 4 0) 1) with dies := [(0, { dieUp with state := .rejoining })] } 0
    (fun x => { x with cmds := [{ slot := 0, opcode := 0x0C02, started := true }] })), (padTo 256 (slotOf 0x0C02
    (le 4 0) 1)), by unfold Clocked; rfl, by decide +kernel, by decide +kernel, by decide +kernel, by decide +kernel⟩

theorem wit_tideBoundary : ∃ (meters : List DomainMeter) (s : State), Clocked s ∧ (isReady s && meterOk s meters) = true :=
  ⟨(List.replicate 5 {}), up, rfl, by decide +kernel⟩

theorem wit_tideReport : ∃ (dom : Fin 5) (s : State), Clocked s ∧
    (isReady s && !s.energy.planned && domUsable s dom.val && !(domOf s dom.val).report && !(dieOf s dom.val).mgrDown) = true :=
  ⟨0, up, rfl, by decide +kernel⟩

theorem wit_tideReportTimeout : ∃ (dom : Fin 5) (s : State), Clocked s ∧ (isReady s && !s.energy.planned && domUsable s dom.val &&
    !(domOf s dom.val).report) = true :=
  ⟨0, up, rfl, by decide +kernel⟩

theorem wit_tideGrant : ∃ (d : Fin 4) (s : State), Clocked s ∧ (isReady s && domUsable s d.val &&
    (domOf s d.val).plan.isSome && !(dieOf s d.val).mgrDown) = true :=
  ⟨0, { up with energy := { doms := [(0, { plan := some [] })] } }, rfl, by decide +kernel⟩

theorem wit_allowance97Reached : ∃ (dom : Fin 5) (s : State), Clocked s ∧
    (isReady s && domUsable s dom.val && !(dieOf s dom.val).gated) = true :=
  ⟨0, up, rfl, by decide +kernel⟩

theorem wit_allowanceExhausted : ∃ (d : Fin 4) (s : State), Clocked s ∧
    (isReady s && domUsable s d.val && !(dieOf s d.val).gated) = true :=
  ⟨0, up, rfl, by decide +kernel⟩

theorem wit_fastTripPower : ∃ (d : Fin 4) (s : State), Clocked s ∧
    (isReady s && domUsable s d.val && !(dieOf s d.val).tripPower) = true :=
  ⟨0, up, rfl, by decide +kernel⟩

theorem wit_fastTripEnd : ∃ (d : Fin 4) (s : State), Clocked s ∧ (dieOf s d.val).tripPower = true :=
  ⟨0, { up with dies := [(0, { dieUp with tripPower := true })] }, rfl, by decide +kernel⟩

theorem wit_tempUpdate : ∃ (dom : Fin 5) (s : State), Clocked s ∧ (s.pins.pwrGood && sensed s dom.val) = true :=
  ⟨0, up, rfl, by decide +kernel⟩

theorem wit_prefillStepForm : ∃ (model : Nat) (s : State), Clocked s ∧ (mayFormPrefill s model) = true :=
  ⟨5, (modelled up), rfl, by decide +kernel⟩

theorem wit_decodeStepForm : ∃ (model : Nat) (s : State), Clocked s ∧ (mayFormDecode s model) = true :=
  ⟨5, (modelled up), rfl, by decide +kernel⟩

theorem wit_stepLayerBoundary : ∃ (step : Nat) (s : State), Clocked s ∧ (mayBoundary s step) = true :=
  ⟨0, { modelled up with steps := [(0, { model := 5, decode := true, members := [(0, 1)] })] }, rfl, by decide +kernel⟩

theorem wit_stepCommit : ∃ (step : Nat) (rows : List StepRow) (s : State), Clocked s ∧ (mayCommitStep s step rows) = true :=
  ⟨0, [], { modelled up with steps := [(0, { model := 5, decode := true, members := [] })] }, rfl, by decide +kernel⟩

theorem wit_drainStepTimeout : ∃ (d : Fin 4) (s : State), Clocked s ∧
    ((dieOf s d.val).state == .draining && !(stepsOn s d.val).isEmpty) = true :=
  ⟨0, { ({ modelled up with steps := [(0, { model := 5, decode := true, members := [(0, 1)] })] }) with dies := [(0, { dieUp with state := .draining })] }, by unfold Clocked; rfl, by decide +kernel⟩

theorem wit_holdStepTimeout : ∃ (s : State), Clocked s ∧ (s.conf.holding ≠ 0 && !(heldSteps s).isEmpty) = true :=
  ⟨{ ({ modelled up with steps := [(0, { model := 5, decode := true, members := [(0, 1)] })] }) with conf := { holding := 1 } }, by unfold Clocked; rfl, by decide +kernel⟩

theorem wit_maskReady : ∃ (ledger : Nat) (s : State) (n : Nat), Clocked s ∧ nextMask s ledger = some n
    ∧ maskable s ledger = true :=
  ⟨0, (entered up { state := .ready, b := { grammar := 9 } }), 0, rfl, by decide +kernel, by decide +kernel⟩

theorem wit_slackTideStart : ∃ (s : State), Clocked s ∧ (holdRuns s && !s.conf.slack &&
    (heldSteps s).isEmpty) = true :=
  ⟨{ up with conf := { holding := 1 } }, rfl, by decide +kernel⟩

theorem wit_slackTideEnd : ∃ (s : State), Clocked s ∧ s.conf.slack = true :=
  ⟨{ up with conf := { slack := true } }, rfl, by decide +kernel⟩

theorem wit_groupMovePrepared : ∃ (model : Nat) (s : State), Clocked s ∧ ((tget
    (default : Model) s.models model).moving.isSome && !(tget
    (default : Model) s.models model).moveReady && !s.cp.recovery) = true :=
  ⟨5, { up with models := [(5, { modelOne with moving := some (2, 1) })] }, rfl, by decide +kernel⟩

theorem wit_grammarCopyBuilt : ∃ (handle : Nat) (d : Fin 4) (s : State),
    let g := tget (default : Grammar) s.grammars handle;
    Clocked s ∧ (thas s.grammars handle && g.slowPath && (wantsCopy s handle).contains d.val && !s.cp.recovery && decide (gramPages g.header ≤ freeLess s d.val)) = true :=
  ⟨5, 0, { entered up { state := .ready, b := { grammar := 5 } } with grammars := [(5, { owner := 0, slowPath := true })] },
    ⟨by unfold Clocked; rfl, by decide +kernel⟩⟩

theorem wit_vocabImageReloaded : ∃ (handle : Nat) (s : State), Clocked s ∧ (tget
    (default : Vocab) s.vocabs handle).reloading = true :=
  ⟨5, { up with vocabs := [(5, { owner := 0, reloading := true })] }, rfl, by decide +kernel⟩

/-- After function 0's ring 5 the next function has its turn, and of function 0 ring 6 before ring 3 (R397). -/
theorem test_lane_turns : sooner (turned {} 0 5) 1 0 0 6 = true ∧ sooner (turned {} 0 5) 0 6 0 3 = true ∧
    sooner (turned {} 0 5) 0 5 0 3 = false := by decide +kernel

theorem wit_cardingLaneTake : ∃ (lane : Fin 16) (f : Fin 16) (stream : Nat) (s : State), Clocked s ∧
    (mayTakeIn s lane f stream) = true :=
  ⟨0, 0, 2, (streamed (ringed .textIn []) 1 [(0, { typ := 1, stream := 2 })]), rfl, by decide +kernel⟩

theorem wit_cardingChunk : ∃ (lane : Fin 16) (s : State), Clocked s ∧ (mayChunk s lane) = true :=
  ⟨0, { streamed (ringed .textIn []) 1 [(0, { typ := 1, stream := 2 })] with lanesIn := [(0, { stream := 2, busy := true })] }, rfl, by decide +kernel⟩

theorem wit_carryStateSpill : ∃ (lane : Fin 16) (s : State),
    let l := tget ({} : Lane) s.lanesIn lane;
    let held := match streamOf s l.fn l.stream with | some x => x.waiting || !engineOn s l.fn 1 | none => false;
    Clocked s ∧ (l.busy && held) = true :=
  ⟨0, { updFn up 0 (fun x => { x with streams := [(2, { kind := 1, waiting := true })] }) with lanesIn := [(0, { stream := 2, busy := true })] }, ⟨rfl, by decide +kernel⟩⟩

theorem wit_bintableStaged : ∃ (handle : Nat) (s : State), Clocked s ∧
    (thas s.bins handle && !tableReady s handle) = true :=
  ⟨5, { up with bins := [(5, { owner := 0 })] }, rfl, by decide +kernel⟩

theorem wit_feltingLaneTake : ∃ (ledger : Nat) (s : State), Clocked s ∧ (mayFelt s ledger) = true :=
  ⟨0, (entered up { state := .decode, tokens := [1, 2], promptLen := 1 }), rfl, by decide +kernel⟩

theorem wit_tidepoolMoveDone : ∃ (ledger : Nat) (s : State), Clocked s ∧ (mayEndMove s ledger) = true :=
  ⟨0, { entered up { state := .pausedHot } with ledgerX := [(0, { runsOn := 5, moving := true })] }, rfl, by decide +kernel⟩

theorem wit_tidepoolExpiry : ∃ (ledger : Nat) (s : State), Clocked s ∧ (mayExpire s ledger) = true :=
  ⟨0, (entered up { state := .pausedPool }), rfl, by decide +kernel⟩

theorem wit_tidepoolReturnDone : ∃ (ledger : Nat) (s : State), Clocked s ∧ (mayReturn s ledger) = true :=
  ⟨0, (entered up { state := .ready, kv := [{ pages := [], pooled := true }] }), rfl, by decide +kernel⟩

theorem wit_ledgerEntryFreed : ∃ (ledger : Nat) (s : State), Clocked s ∧ (mayFree s ledger) = true :=
  ⟨0, { entered up { state := .done } with ledgerX := [(0, { recWritten := true })] }, rfl, by decide +kernel⟩

theorem wit_demandRead : ∃ (addr : Nat) (s : State), Clocked s ∧ known addr = true :=
  ⟨0, up, rfl, by decide +kernel⟩

theorem wit_fullWrite : ∃ (addr : Nat) (data : List Byte) (s : State), Clocked s ∧ known addr = true
    ∧ addr % eccUnit addr = 0 ∧ data.length = eccUnit addr :=
  ⟨0, (List.replicate 64 1), up, rfl, by decide +kernel, by decide +kernel, by decide +kernel⟩

theorem wit_partialWrite : ∃ (addr : Nat) (data : List Byte) (s : State), Clocked s ∧ known addr = true ∧ data ≠ []
    ∧ addr % eccUnit addr + data.length ≤ eccUnit addr ∧ data.length < eccUnit addr :=
  ⟨0, [1], up, rfl, by decide +kernel, by decide, by decide +kernel, by decide +kernel⟩

theorem wit_patrolRead : ∃ (c : Fin 25) (s : State), Clocked s ∧ ((scrubOf s c.val).enable && isReady s &&
    (scrubDie c.val = 4 || dieUsable s (scrubDie c.val))) = true :=
  ⟨0, up, rfl, by decide +kernel⟩

theorem wit_poisonDisposition : ∃ (addr : Nat) (source : Nat) (s : State),
    let p := pageOf s (pageAt addr);
    Clocked s ∧ (isPoisoned s addr && known addr && decide (source ≤ 1) && !s.cp.recovery && !(isDram addr &&
    (p.state == .retired || p.state == .migrating))) = true :=
  ⟨0, 0, { up with poison := [0] }, ⟨rfl, by decide +kernel⟩⟩

theorem wit_ceCountRetire : ∃ (page : Nat) (s : State),
    let x := pageOf s page;
    Clocked s ∧ (decide (16 ≤ x.ce) && !(x.state == .retired) && !(x.state == .migrating) && !s.cp.recovery) = true :=
  ⟨7, { up with pages := [(7, { state := .allocated, ce := 16 })] }, ⟨rfl, by decide +kernel⟩⟩

theorem wit_migrationDone : ∃ (page : Nat) (s : State) (q : Nat), Clocked s ∧ (pageOf s page).dest = some q ∧
    (pageOf s page).state = .migrating ∧ s.cp.recovery = false :=
  ⟨7, { up with pages := [(7, { state := .migrating, dest := some 8 })] }, 8, rfl, by decide +kernel, by decide +kernel,
    by decide +kernel⟩

theorem wit_pageZeroed : ∃ (page : Nat) (s : State), Clocked s ∧ ((pageOf s page).state == .quarantined) = true :=
  ⟨7, { up with pages := [(7, { state := .quarantined })] }, rfl, by decide +kernel⟩

theorem wit_pageWalkDone : ∃ (die : Fin 5) (asid : Nat) (dva : Nat) (work : WalkWork) (s : State), Clocked s ∧
    (workThere s work && decide (asid = asidOf (workFn s work)) && !s.stale.contains (asid, pageBase dva) &&
      walksFor s die.val work) = true :=
  ⟨4, 1, 0, (.ring 0 1), (ringed .req []), rfl, by decide +kernel⟩

theorem wit_absentFaultServiced : ∃ (asid : Nat) (dva : Nat) (s : State) (r : FaultRec), Clocked s ∧ findFault s asid
    (pageBase dva) = some r ∧ r.cls ≤ 1 ∧ servicerUp s r = true :=
  ⟨1, 0, { up with faults := [{ die := 0, asid := 1, dva := 0, cls := 0 }] },
    { die := 0, asid := 1, dva := 0, cls := 0 }, rfl, by decide +kernel, by decide +kernel, by decide +kernel⟩

theorem wit_tidepoolFaultServiced : ∃ (asid : Nat) (dva : Nat) (s : State) (r : FaultRec), Clocked s ∧ findFault s asid
    (pageBase dva) = some r ∧ r.cls = 2 ∧ r.noPage = false ∧ servicerUp s r = true :=
  ⟨1, 0, { up with faults := [{ die := 0, asid := 1, dva := 0, cls := 2 }] },
    { die := 0, asid := 1, dva := 0, cls := 2 }, rfl, by decide +kernel, by decide +kernel, by decide +kernel,
    by decide +kernel⟩

theorem wit_tidepoolFaultPageFreed : ∃ (asid : Nat) (dva : Nat) (s : State) (r : FaultRec), Clocked s ∧ findFault s asid
    (pageBase dva) = some r ∧ r.cls = 2 ∧ r.noPage = true ∧ pageFreed s r = true :=
  ⟨1, 0, { up with faults := [{ die := 0, asid := 1, dva := 0, cls := 2, noPage := true }] },
    { die := 0, asid := 1, dva := 0, cls := 2, noPage := true }, rfl, by decide +kernel, by decide +kernel,
    by decide +kernel, by decide +kernel⟩

theorem wit_stepFaultWaitTimeout : ∃ (step : Nat) (ledger : Nat) (s : State), Clocked s ∧ ((tget
    (default : Step) s.steps step).waiting.contains ledger) = true :=
  ⟨0, 0, { modelled up with steps := [(0, { model := 5, decode := true, members := [(0, 1)], waiting := [0] })] }, rfl,
    by decide +kernel⟩

theorem wit_preemptFaultWaitTimeout : ∃ (asid : Nat) (dva : Nat) (s : State) (r : FaultRec), Clocked s ∧ s.faults.find?
    (fun r => decide (r.asid = asid) && (decide (r.dva = dva) || decide (r.dva = pageBase dva))) = some r ∧ r.works.any
    (preempted s) = true :=
  ⟨1, 0, { ({ modelled up with steps := [(0, { model := 5, decode := true, members := [(0, 1)], squashAll := true })] }) with faults := [{ die := 0, asid := 1, dva := 0, cls := 0, works := [.step 0 0] }] }, { die := 0, asid := 1, dva := 0, cls := 0, works := [.step 0 0] }, by unfold Clocked; rfl, by decide +kernel, by decide +kernel⟩

theorem wit_tablePageRebuilt : ∃ (asid : Nat) (dva : Nat) (s : State), Clocked s ∧ (s.stale.contains (asid,
    pageBase dva) && !s.cp.recovery) = true :=
  ⟨1, 0, { up with stale := [(1, 0)] }, rfl, by decide +kernel⟩

theorem wit_shootdownComplete : ∃ (asid : Nat) (dva : Nat) (s : State), Clocked s ∧ (s.shooting.contains (asid,
    pageBase dva)) = true :=
  ⟨1, 0, { up with shooting := [(1, 0)] }, rfl, by decide +kernel⟩

theorem wit_bankAccess : ∃ (die : Fin 5) (bank : Nat) (off : Nat) (data : Option (List Byte)) (len : Nat) (s : State),
    Clocked s ∧ (decide (bank < bankCount die.val) && decide (0 < len) && decide (off + len ≤ 0x20000) && (data.map
    (fun l => decide (l.length = len))).getD true) = true :=
  ⟨0, 0, 0, none, 8, up, rfl, by decide +kernel⟩

theorem wit_handoverDone : ∃ (die : Fin 5) (bank : Nat) (s : State), Clocked s ∧
    ((bankOf s die.val bank).state == .inHandover) = true :=
  ⟨0, 0, { up with banks := [(0, { state := .inHandover })] }, rfl, by decide +kernel⟩

theorem wit_seizureDone : ∃ (die : Fin 5) (bank : Nat) (failRow : Option Nat) (s : State),
    let x := bankOf s die.val bank;
    let marched := x.marching == some 2;
    Clocked s ∧ (x.state == .seized && (marched || (x.marching.isNone && x.zeroDue && failRow.isNone)) &&
    (die.val = 4 || dieUsable s die.val || (dieOf s die.val).state == .draining)) = true :=
  ⟨0, 0, none, { up with banks := [(0, { state := .seized, zeroDue := true })] }, ⟨rfl, by decide +kernel⟩⟩

theorem wit_firmwareBankReclaim : ∃ (die : Fin 5) (bank : Nat) (s : State), Clocked s ∧
    (isReady s && !s.cp.recovery && decide (bank < bankCount die.val) && takenAway s die.val bank) = true :=
  ⟨4, 0, up, rfl, by decide +kernel⟩

theorem wit_marchDone : ∃ (die : Fin 5) (bank : Nat) (s : State),
    let m := (bankOf s die.val bank).marching;
    Clocked s ∧ ((m == some 0 || m == some 1) && decide (bank < bankCount die.val) && inMarch s die.val bank) = true :=
  ⟨0, 0, { up with banks := [(0, { marching := some 0 })] }, ⟨rfl, by decide +kernel⟩⟩

theorem wit_linkTrained : ∃ (l : Fin 8) (groups : Nat) (s : State), Clocked s ∧
    ((linkOf s l.val).state == .training && decide (0 < groups) && decide (groups ≤ groupCount l.val)) = true :=
  ⟨0, 32, (linked .training), rfl, by decide +kernel⟩

theorem wit_linkTrainingTimeout : ∃ (l : Fin 8) (s : State), Clocked s ∧ ((linkOf s l.val).state == .training) = true :=
  ⟨0, (linked .training), rfl, by decide +kernel⟩

theorem wit_flitReceived : ∃ (l : Fin 8) (s : State), Clocked s ∧ (linkUp s l.val) = true :=
  ⟨0, (linked .up), rfl, by decide +kernel⟩

theorem wit_replayRequest : ∃ (l : Fin 8) (fromFirst : Bool) (seq : Nat) (s : State), Clocked s ∧ (linkUp s l.val &&
    (dirOf (linkOf s l.val) fromFirst).unacked.any (fun x => x.seq = seq)) = true :=
  ⟨0, true, 3, (linked .up), rfl, by decide +kernel⟩

theorem wit_ackTimeout : ∃ (l : Fin 8) (fromFirst : Bool) (s : State), Clocked s ∧
    (linkUp s l.val && !(dirOf (linkOf s l.val) fromFirst).unacked.isEmpty) = true :=
  ⟨0, true, (linked .up), rfl, by decide +kernel⟩

theorem wit_flitRetryLimit : ∃ (l : Fin 8) (s : State), Clocked s ∧ linkUp s l.val = true ∧
    (8 ≤ (linkOf s l.val).out.fails ∨ 8 ≤ (linkOf s l.val).back.fails) :=
  ⟨0, { up with links := [(0, { state := .up, version := 3, back := { fails := 8 } })] }, rfl, by decide +kernel, by decide +kernel⟩

theorem wit_rdReq : ∃ (txn : Txn) (s : State), Clocked s ∧ (hasArrived s txn false || canAsk s txn false) = true :=
  ⟨{ tag := 1, src := 0, dst := 4, addr := 0x010100000000 }, (linked .up), rfl, by decide +kernel⟩

theorem wit_wrReq : ∃ (txn : Txn) (s : State), Clocked s ∧ (hasArrived s txn true || canAsk s txn true) = true :=
  ⟨{ tag := 1, src := 0, dst := 4, addr := 0x010100000000, data := [7] }, (linked .up), rfl, by decide +kernel⟩

/-- A transaction with its answer. -/
def answered (write : Bool) (a : Answer) : OutTxn :=
  { txn := { tag := 1, src := 0, dst := 4, addr := 0 }, write := write, links := [4], phase := .answered a }
theorem wit_rdRsp : ∃ (tag : Nat) (src : Fin 5) (s : State) (t : OutTxn) (a : Answer), Clocked s ∧
    txnAnswer s tag src = some (t, a) ∧ t.write = false ∧ a.err = 0 :=
  ⟨1, 0, { up with txns := [answered false { err := 0 }] }, answered false { err := 0 }, { err := 0 }, rfl, by decide +kernel, by decide, by decide⟩

theorem wit_wrAck : ∃ (tag : Nat) (src : Fin 5) (s : State) (t : OutTxn) (a : Answer), Clocked s ∧
    txnAnswer s tag src = some (t, a) ∧ t.write = true ∧ a.err = 0 :=
  ⟨1, 0, { up with txns := [answered true { err := 0 }] }, answered true { err := 0 }, { err := 0 }, rfl, by decide +kernel, by decide, by decide⟩

theorem wit_errRsp : ∃ (tag : Nat) (src : Fin 5) (code : Nat) (s : State) (t : OutTxn) (a : Answer), Clocked s ∧
    txnAnswer s tag src = some (t, a) ∧ a.err ≠ 0 ∧ a.err = code :=
  ⟨1, 0, 1, { up with txns := [answered true { err := 1 }] }, answered true { err := 1 }, { err := 1 }, rfl, by decide +kernel, by decide, by decide⟩

theorem wit_auditMarker : ∃ (l : Fin 8) (s : State), Clocked s ∧ (linkUp s l.val) = true :=
  ⟨0, (linked .up), rfl, by decide +kernel⟩

theorem wit_recentreDue : ∃ (l : Fin 8) (closed : List Nat) (s : State), Clocked s ∧ (linkUp s l.val && closed.all
    (fun g => decide (g < groupCount l.val) && !(linkOf s l.val).disabled.contains g)) = true :=
  ⟨0, [], (linked .up), rfl, by decide +kernel⟩

theorem wit_recentreGapForced : ∃ (l : Fin 8) (s : State), Clocked s ∧ (linkUp s l.val) = true :=
  ⟨0, (linked .up), rfl, by decide +kernel⟩

theorem wit_groupDisable : ∃ (l : Fin 8) (group : Nat) (s : State), Clocked s ∧ (linkUp s l.val && decide (16 ≤ tget 0
    (linkOf s l.val).groupErr group) && decide
    (group < groupCount l.val) && !(linkOf s l.val).disabled.contains group) = true :=
  ⟨0, 2, { up with links := [(0, { state := .up, version := 3, groupErr := [(2, 16)] })] }, rfl, by decide +kernel⟩

theorem wit_partnerClockStop : ∃ (l : Fin 8) (groups : List Nat) (s : State), Clocked s ∧
    (linkUp s l.val && !groups.isEmpty && groups.all (fun g => decide (g < groupCount l.val))) = true :=
  ⟨0, [31], (linked .up), rfl, by decide +kernel⟩

theorem wit_mctpUnsupportedCmd : ∃ (cmd : Byte) (s : State), (mgmtUp s && !([1, 2, 4, 5].contains cmd.toNat)) = true :=
  ⟨3, up, by decide +kernel⟩

theorem wit_smbusAlertResponse : ∃ (s : State), (mgmtUp s && s.pins.smbAlert) = true :=
  ⟨{ up with pins := { up.pins with smbAlert := true } }, by decide +kernel⟩

theorem wit_firmwareDataReceived : ∃ (data : List Byte) (s : State), (mgmtUp s && s.mgmt.upd == .download && decide
    (data.length = updChunk s.mgmt)) = true :=
  ⟨[7], { up with mgmt := { alive := true, upd := .download, updSize := 1 } }, by decide +kernel⟩

theorem wit_verifyComplete : ∃ (s : State), (mgmtUp s && s.mgmt.upd == .verify) = true :=
  ⟨{ up with mgmt := { alive := true, upd := .verify } }, by decide +kernel⟩

theorem wit_applyComplete : ∃ (s : State), (mgmtUp s && s.mgmt.upd == .apply) = true :=
  ⟨{ up with mgmt := { alive := true, upd := .apply } }, by decide +kernel⟩

theorem wit_updateIdleTimeout : ∃ (s : State), (mgmtUp s && s.mgmt.upd != .idle) = true :=
  ⟨{ up with mgmt := { alive := true, upd := .learn } }, by decide +kernel⟩

theorem wit_getVersion : ∃ (conn : Nat) (s : State), connUp s conn = true :=
  ⟨16, up, by decide +kernel⟩

theorem wit_getCapabilities : ∃ (conn : Nat) (s : State), connUp s conn = true :=
  ⟨16, up, by decide +kernel⟩

theorem wit_negotiateAlgorithms : ∃ (conn : Nat) (s : State), connUp s conn = true :=
  ⟨16, up, by decide +kernel⟩

theorem wit_getDigests : ∃ (conn : Nat) (s : State), connUp s conn = true :=
  ⟨16, up, by decide +kernel⟩

theorem wit_getCertificate : ∃ (conn : Nat) (s : State), connUp s conn = true :=
  ⟨16, up, by decide +kernel⟩

theorem wit_challenge : ∃ (conn : Nat) (s : State), connUp s conn = true :=
  ⟨16, up, by decide +kernel⟩

theorem wit_getMeasurements : ∃ (conn : Nat) (s : State), connUp s conn = true :=
  ⟨16, up, by decide +kernel⟩

theorem wit_respondIfReady : ∃ (conn : Nat) (s : State), connUp s conn = true :=
  ⟨16, up, by decide +kernel⟩

theorem wit_signingDone : ∃ (s : State), (mgmtUp s && !s.mgmt.signing.isEmpty) = true :=
  ⟨{ up with mgmt := { alive := true, signing := [(16, reqChallenge)] } }, by decide +kernel⟩

theorem wit_dieSelect : ∃ (s : State), s.pins.pwrGood = true ∧ (1 ≤ s.mgmt.debug ∨ testMode s ≠ 0) :=
  ⟨{ up with mgmt := { alive := true, debug := 1 } }, by decide +kernel, by decide +kernel⟩

/-! ### VOCAB_LOAD's witness: an image of one token, all zeros behind its header -/

/-- The header: byte-pair model, one token, one character class, and sections 0, 1 and 3. -/
def vocHead : List Byte :=
  le 4 0x43565856 ++ le 2 1 ++ [2, 0] ++ le 4 1 ++ le 4 0xFFFFFFFF ++ le 4 0xFFFFFFFF ++ le 4 0xFFFFFFFF ++ le 2 0x0F01 ++
    le 2 16 ++ [1, 0] ++ le 2 0 ++ le 32 0 ++ le 8 256 ++ le 8 8960 ++ le 8 9216 ++ le 8 512 ++ le 16 0 ++ le 8 9728 ++ le 8 64 ++ le 128 0
def vocImage : List Byte := vocHead ++ List.replicate 9536 0

theorem fromLe_zeros (n : Nat) : fromLe (List.replicate n 0) = 0 := by
  induction n with
  | zero => rfl
  | succ n ih => rw [List.replicate_succ, fromLe, ih]; rfl
theorem voc_field {i : Nat} (n : Nat) (h : 256 ≤ i) : field vocImage i n = 0 := by
  have e : vocHead.length = 256 := by decide +kernel
  rw [field, vocImage, List.drop_append, List.drop_of_length_le (by omega), List.drop_replicate, List.nil_append, List.take_replicate,
    fromLe_zeros]
theorem voc_byte {i : Nat} (h : 256 ≤ i) : byteAt vocImage i = 0 := by
  have e : vocHead.length = 256 := by decide +kernel
  rw [byteAt, vocImage, List.getD_eq_getElem?_getD, List.getElem?_append_right (by omega), List.getElem?_replicate]
  split <;> rfl
theorem voc_length : vocImage.length = 9792 := by
  rw [vocImage, List.length_append, List.length_replicate]; decide +kernel
theorem voc_head : firstFailing (vocHeader vocImage) = none := by decide +kernel
theorem voc_sections : firstFailing (vocSections vocImage) = none := by
  unfold vocSections; rw [voc_length]; decide +kernel
theorem voc_contents : (vocContents vocImage).filter (·.1) = [] := by
  have o0 : secOff vocImage 0 = 256 := by decide +kernel
  have l0 : secLen vocImage 0 = 8960 := by decide +kernel
  have o3 : secOff vocImage 3 = 9728 := by decide +kernel
  have l3 : secLen vocImage 3 = 64 := by decide +kernel
  have l2 : secLen vocImage 2 = 0 := by decide +kernel
  have l4 : secLen vocImage 4 = 0 := by decide +kernel
  have h7 : secHas vocImage 7 = false := by decide +kernel
  have sz : vocSize vocImage = 1 := by decide +kernel
  have cl : vocClasses vocImage = 1 := by decide +kernel
  rw [List.filter_eq_nil_iff]
  intro x hx
  simp only [vocContents, o0, l0, o3, l3, l2, l4, h7, sz, cl, Bool.false_eq_true, if_false, List.mem_append, List.mem_map, List.mem_range,
    List.mem_flatten] at hx
  rcases hx with ((((hx | hx) | hx) | hx) | hx) | hx
  · obtain ⟨i, _, rfl⟩ := hx
    rw [voc_field 2 (by omega)]; simp
  · obtain ⟨i, _, rfl⟩ := hx
    rw [voc_byte (by omega)]; simp
  · obtain ⟨_, ⟨i, hi, _⟩, _⟩ := hx; omega
  · obtain ⟨l, ⟨t, ht, rfl⟩, hl⟩ := hx
    simp only [pieceLen, pieceKind, o3] at hl
    rw [voc_field 4 (by omega), voc_field 2 (by omega), voc_field 2 (by omega)] at hl
    simp at hl
    rcases hl with rfl | rfl <;> simp
  · obtain ⟨_, ⟨i, hi, _⟩, _⟩ := hx; omega
  · cases hx
theorem voc_check : vocabCheck vocImage = none := by
  have z : zeroAt vocImage 192 64 = true := by decide +kernel
  unfold vocabCheck
  rw [voc_length, voc_head, voc_sections, voc_contents, z]; rfl

/-- `hosted` with a VOCAB_LOAD of that image. -/
def vocLoading : State := queued hosted 0x0501 (le 8 0 ++ le 8 9792 ++ [0] ++ le 7 0)

theorem voc_bytes (img : List Byte) (l : img.length = 9792) : loadBytes vocLoading 0 0 9792 (.bytes img) = .ok img := by
  have e : img.take 9792 = img := List.take_of_length_le (by rw [l])
  have p : padTo 9792 img = img := by simp [padTo, l, e]
  have g : gather vocLoading 0 img (vocLoading.regions.length + 1) 0 (max 1 9792) = some img := by
    rw [gather, show regionAt vocLoading (asidOf 0) 0 = some (0x1000001, hostRegion) from by decide +kernel]
    simp [hostRegion, e, p]
  simp only [loadBytes, show rangePoisoned vocLoading 0 0 9792 = false from by decide +kernel, g, e]
  cases someHost vocLoading 0 0 9792 <;> rfl
/-- The state in which the image's reads are asked for. -/
def vocAsked : State := askImage vocLoading 0 0 0 9792
theorem voc_loads (img : List Byte) (h : vocabCheck img = none) (l : img.length = 9792) :
    (vocabLoad vocLoading 0 0 (slotBytes vocLoading 0 0) (.bytes img)).2.map (·.status) = some 0 := by
  have f := voc_bytes img l
  have d : pay (slotBytes vocLoading 0 0) 0 8 = 0 := by decide +kernel
  have n : pay (slotBytes vocLoading 0 0) 8 8 = 9792 := by decide +kernel
  have g : pay (slotBytes vocLoading 0 0) 16 1 = 0 := by decide +kernel
  have r : resv (slotBytes vocLoading 0 0) 17 7 = (false, 0) := by decide +kernel
  have k : engineOn vocLoading 0 0 = true := by decide +kernel
  have a : askImage vocLoading 0 0 0 9792 = vocAsked := rfl
  have b : firstBad [(false, 16), (false, 32), (false, 0)] = none := rfl
  have w : vocAsked.vocabs.length = 0 := by decide +kernel
  have v : serialLeft vocAsked 3 0 = true := by decide +kernel
  obtain ⟨ps, hp⟩ : ∃ ps, findFree vocAsked 4 (pagesFor 9792) = some ps := Option.isSome_iff_exists.1 (by decide +kernel)
  have z : bit 0 0 = false := rfl
  generalize vocLoading = s at *
  generalize vocAsked = u at *
  simp [vocabLoad, withImage, d, n, g, r, k, f, a, h, placeVocab, l, hp, fields, b, w, v, z, good]
theorem voc_met (img : List Byte) (h : vocabCheck img = none) (l : img.length = 9792) :
    ReservesMet 0x0501 (fun s f slot b => vocabLoad s f slot b (.bytes img)) vocLoading :=
  ⟨⟨rfl, by decide +kernel, voc_loads img h l⟩, rfl, by decide +kernel, by decide +kernel, by decide +kernel⟩
theorem wit_vocabLoad : ∃ img, ReservesMet 0x0501 (fun s f slot b => vocabLoad s f slot b (.bytes img)) vocLoading :=
  ⟨vocImage, voc_met vocImage voc_check voc_length⟩

/-! ### Witnesses of the other statements, clause by clause -/

theorem wit_EmptyQueueLetsTimePass : up.pending = [] ∧ up.pins.pwrGood = true ∧ up.pins.perstN = true ∧ Clocked up ∧
    State.reset.pending = [] ∧ State.reset.pins.perstN = false := ⟨rfl, rfl, rfl, rfl, rfl, rfl⟩
theorem wit_MemoryFormKept : MemoryCanonical { up with mem := [(3, 7)] } ∧
    ∃ t, step { up with mem := [(3, 7)], pending := [.refclkLoss] } = .next t := ⟨by unfold MemoryCanonical; decide, _, rfl⟩
theorem wit_HarbourFusesKept : HarbourFusesAre { fused := true } { up with hbFuses := { fused := true } } ∧
    ∃ t, step { up with hbFuses := { fused := true }, pending := [.perstNAssert] } = .next t := ⟨⟨rfl, rfl⟩, _, rfl⟩
/-- A latched thermal trip. -/
def tripped : State := { up with pins := { up.pins with thermtrip := true } }
theorem wit_TripKept : TripHeld { tripped with pending := [.perstNAssert] } ∧
    ∃ t, step { tripped with pending := [.perstNAssert] } = .next t :=
  ⟨⟨rfl, by intro c h; simp only [List.mem_singleton] at h; subst h; rfl⟩, _, rfl⟩
theorem wit_TripStopsClocksUntilPowerFalls : clockedCommand (.bmeSet 0) = true ∧ (∃ t, exec (.bmeSet 0) tripped = .next t) ∧
    tripped.pins.pwrGood = true ∧ tripped.pins.thermtrip = true := ⟨rfl, ⟨_, rfl⟩, rfl, rfl⟩
theorem wit_ExecKeepsQueue : ∃ t, exec .perstNAssert up = .next t := ⟨_, rfl⟩

/-- Tag 9 of the PF quarantined. -/
def quarantine : State := withPf (fun x => { x with pci := { x.pci with tags := [(9, .quarantined 700)] } })
theorem wit_LateCompletionIsCounted : Clocked quarantine ∧
    tfind (fnOf quarantine (0 : Fin 16)).pci.tags 9 = some (.quarantined 700) := ⟨rfl, by decide +kernel⟩
theorem wit_FlrWhileBusyHasNoEffect : (fnOf (withPf (fun x => { x with flrBusy := true })) (0 : Fin 16)).flrBusy = true := by
  decide +kernel
theorem wit_ConfigDiscardEmptiesShadow : Clocked (begunIn (queued up 0x0904 [])) ∧
    committing (begunIn (queued up 0x0904 [])) (0 : Fin 16) (0 : Fin 32) 0x0904 = true := ⟨rfl, by decide +kernel⟩

/-- FUNCTION_CLOSE at its commit point, with a ring open, with a ledger entry in use, and with neither. -/
def closing (s : State) : State := begunIn (queued s 0x0202 [])
theorem wit_FunctionCloseChecksThenCloses_ring : Clocked (closing (ringed .req [])) ∧
    committing (closing (ringed .req [])) (0 : Fin 16) (0 : Fin 32) 0x0202 = true ∧
    ∃ kv ∈ (fnOf (closing (ringed .req [])) (0 : Fin 16)).rings, kv.2.state ≠ .closed :=
  ⟨by unfold Clocked; rfl, by decide +kernel, (0, { state := .running, typ := .cpl, sizeLog2 := 6, wb := 64 }), by decide +kernel,
    by decide⟩
theorem wit_FunctionCloseChecksThenCloses_entry :
    committing (closing (entered up { state := .ready })) (0 : Fin 16) (0 : Fin 32) 0x0202 = true ∧
    ∃ i ∈ (closing (entered up { state := .ready })).ledger, i.2.state ≠ .free ∧ i.2.b.fn = (0 : Fin 16).val :=
  ⟨by decide +kernel, _, List.mem_singleton.2 rfl, by decide, rfl⟩
theorem wit_FunctionCloseChecksThenCloses_none :
    committing (closing up) (0 : Fin 16) (0 : Fin 32) 0x0202 = true ∧ (fnOf (closing up) (0 : Fin 16)).rings = [] ∧
    (closing up).ledger = [] := ⟨by decide +kernel, by decide +kernel, rfl⟩

/-- BAR2_WINDOW_SET and ENERGY_LIMIT_SET at their commit points, with an argument. -/
def windowing (w : Nat) : State := begunIn (queued up 0x0303 (le 8 w))
def limiting (w : Nat) : State := begunIn (queued up 0x0A01 (le 2 w ++ le 2 0))
theorem wit_RangesCheckedAtCommit :
    (∀ w ∈ [119, 120, 300, 301], committing (limiting w) (0 : Fin 16) (0 : Fin 32) 0x0A01 = true ∧
      pay (slotBytes (limiting w) (0 : Fin 16) (0 : Fin 32)) 0 2 = w ∧
      byteAt (slotBytes (limiting w) (0 : Fin 16) (0 : Fin 32)) 18 = 0 ∧
      byteAt (slotBytes (limiting w) (0 : Fin 16) (0 : Fin 32)) 19 = 0) ∧
    (∀ w ∈ [2 ^ 48 - 2 ^ 36, 2 ^ 48, 2 ^ 36 + 1], committing (windowing w) (0 : Fin 16) (0 : Fin 32) 0x0303 = true ∧
      pay (slotBytes (windowing w) (0 : Fin 16) (0 : Fin 32)) 0 8 = w) := by decide +kernel
theorem wit_ReadingCommandsChangeOnlyTheirSlot :
    ∀ op ∈ [0x0403, 0x0902, 0x0B04, 0x0A02], mayStart (queued up op (le 8 0)) (0 : Fin 16) (0 : Fin 32) op = true ∧
      committing (begunIn (queued up op (List.replicate (((cmdRow op).map (·.payload)).getD 0) 0))) (0 : Fin 16) (0 : Fin 32) op = true := by decide +kernel

/-- Ring 1 with PROD 1, CONS 0 and 64 entries: 1 is the current value, 64 the last valid one. -/
def stoppedRing : State := updRing (ringed .req []) 0 1 (fun g => { g with state := .stopped })
theorem wit_HostRingDoorbell :
    barOn up (0 : Fin 16) = true ∧ (ringOf up (0 : Fin 16) (1 : Fin 64)).state = .closed ∧
    barOn (ringed .req []) (0 : Fin 16) = true ∧ (fnOf (ringed .req []) (0 : Fin 16)).opened = true ∧
    (fnOf (ringed .req []) (0 : Fin 16)).flrBusy = false ∧
    (ringOf (ringed .req []) (0 : Fin 16) (1 : Fin 64)).state = .running ∧
    (ringOf (ringed .req []) (0 : Fin 16) (1 : Fin 64)).typ ≠ .cpl ∧ (ringOf (ringed .req []) (0 : Fin 16) (1 : Fin 64)).prod = 1 ∧
    sub32 64 1 ≤ 2 ^ (ringOf (ringed .req []) (0 : Fin 16) (1 : Fin 64)).sizeLog2 ∧
    sub32 64 (ringOf (ringed .req []) (0 : Fin 16) (1 : Fin 64)).cons ≤ 2 ^ 6 ∧ 2 ^ 6 < sub32 65 0 ∧
    barOn stoppedRing (0 : Fin 16) = true ∧ (fnOf stoppedRing (0 : Fin 16)).opened = true ∧
    (ringOf stoppedRing (0 : Fin 16) (1 : Fin 64)).state = .stopped ∧ (ringOf stoppedRing (0 : Fin 16) (1 : Fin 64)).prod = 1 ∧
    (ringOf stoppedRing (0 : Fin 16) (1 : Fin 64)).sizeLog2 = 6 ∧ (ringOf stoppedRing (0 : Fin 16) (1 : Fin 64)).cons = 0 := by
  decide +kernel
theorem wit_MailboxDoorbellSubmitsInSlotOrder : barOn up (0 : Fin 16) = true ∧
    (fnOf (withPf (fun x => { x with owner := 1 })) (0 : Fin 16)).owner.getLsbD 0 = true := by decide +kernel

/-- A CP restart, with an opcode in slot 0. -/
def restarting (op : Nat) (owner : Word) : State :=
  { updFn (queued up op []) 0 (fun x => { x with owner := owner }) with cp := { recovery := true } }
theorem wit_SlotSubmittedInRecovery :
    barOn (restarting 0x0101 0) (0 : Fin 16) = true ∧
    (fnOf (restarting 0x0101 0) (0 : Fin 16)).owner.getLsbD (0 : Fin 32) = false ∧
    (fnOf (restarting 0x0101 0) (0 : Fin 16)).flrBusy = false ∧ isReady (restarting 0x0101 0) = true ∧
    slotOp (slotBytes (restarting 0x0101 0) (0 : Fin 16) (0 : Fin 32)) = 0x0101 ∧
    slotOp (slotBytes (restarting 0x0B01 0) (0 : Fin 16) (0 : Fin 32)) = 0x0B01 ∧
    slotOp (slotBytes (restarting 0x0202 0) (0 : Fin 16) (0 : Fin 32)) = 0x0202 ∧
    mayStart (restarting 0x0101 1) (0 : Fin 16) (0 : Fin 32) 0x0101 = true ∧
    mayStart (restarting 0x0B01 1) (0 : Fin 16) (0 : Fin 32) 0x0B01 = true := by decide +kernel
theorem wit_SlotWriteNeedsTheHostsSlot : Clocked up ∧ barOn up (0 : Fin 16) = true ∧
    (fnOf (withPf (fun x => { x with owner := 2 ^ 31 })) (0 : Fin 16)).owner.getLsbD (8188 / 256) = true ∧
    (fnOf up (0 : Fin 16)).owner.getLsbD (8184 / 256) = false := ⟨rfl, by decide +kernel, by decide +kernel, by decide +kernel⟩
theorem wit_OtherWidthsDoNothing : barOn up (0 : Fin 16) = true ∧ ¬((2 = 4 ∨ 2 = 8) ∧ 0 % 2 = 0) ∧
    ¬((8 = 4 ∨ 8 = 8) ∧ 4 % 8 = 0) ∧ Bar.bar0 ≠ .config ∧ ¬((4 = 4 ∨ 4 = 8) ∧ 6 % 4 = 0) := by decide +kernel

/-- Vector 3 masked, with its PBA bit as given. -/
def masked (pending : Bool) : State :=
  withPf (fun x => { x with pci := { x.pci with msixEn := true, vecs := [(3, { addr := 64, data := 5, pending := pending })] } })
theorem wit_UnmaskSendsThePendingMessage : barOn (masked true) (0 : Fin 16) = true ∧
    (fnOf (masked true) (0 : Fin 16)).opened = true ∧ barOn (updFn up 0 (fun x => { x with opened := false })) (0 : Fin 16) = true ∧
    (fnOf (updFn up 0 (fun x => { x with opened := false })) (0 : Fin 16)).opened = false ∧
    (vecOf (masked false) (0 : Fin 16) (3 : Fin 64)).pending = false ∧ (vecOf (masked true) (0 : Fin 16) (3 : Fin 64)).pending = true ∧
    (fnOf (masked true) (0 : Fin 16)).pci.msixEn = true ∧ (fnOf (masked true) (0 : Fin 16)).pci.funcMask = false ∧
    busOn (masked true) (0 : Fin 16) = true ∧ isReady (masked true) = true := by decide +kernel
theorem wit_FullWriteStoresAndClearsPoison : Clocked up ∧ known 64 = true ∧ 64 % eccUnit 64 = 0 ∧
    (List.replicate 64 (5 : Byte)).length = eccUnit 64 ∧ answers up 64 = true ∧ MemoryCanonical up ∧
    isPoisoned { up with poison := [64] } 64 = true :=
  ⟨rfl, by decide +kernel, by decide, by decide, by decide +kernel, by unfold MemoryCanonical; decide, by decide⟩
theorem wit_PartialWriteActsOnTheWordsState : known 66 = true ∧ [(5 : Byte)] ≠ [] ∧ 66 % eccUnit 66 + 1 ≤ eccUnit 66 ∧
    1 < eccUnit 66 ∧ answers up 66 = true ∧ isPoisoned up 66 = false ∧ isPoisoned { up with poison := [64] } 66 = true ∧
    EccSeen.corrected ≠ .uncorrectable := by decide +kernel
theorem wit_QuarantinedPageIsZeroed : Clocked { up with pages := [(7, { state := .quarantined })] } ∧
    (pageOf { up with pages := [(7, { state := .quarantined })] } 7).state = .quarantined ∧
    MemoryCanonical { up with pages := [(7, { state := .quarantined })] } :=
  ⟨rfl, by decide, by unfold MemoryCanonical; decide⟩

/-- Bank 0 of die 0 in a state. -/
def banked (b : Bank) : State := { up with banks := [(0, b)] }
theorem wit_BankServesItsOwner : (0 : Nat) < bankCount (0 : Fin 5) ∧ 0x1FFF8 + 8 ≤ 0x20000 ∧
    (bankOf (banked { state := .owned, owner := 3 }) (0 : Fin 5) 0).state = .owned ∧
    (bankOf (banked { state := .owned, owner := 3 }) (0 : Fin 5) 0).owner = 3 ∧
    (bankOf (banked { state := .inHandover, next := 3 }) (0 : Fin 5) 0).state = .inHandover ∧
    (bankOf (banked { state := .inHandover, next := 3 }) (0 : Fin 5) 0).next = 3 ∧
    ¬((bankOf (banked {}) (0 : Fin 5) 0).state = .owned) := by decide +kernel
theorem wit_HandoverWriteAcceptedOrCounted : barOn up 0 = true ∧ isReady up = true ∧
    (bankOf up (0 : Fin 5) 0).state = .unowned ∧ (0x10#5).toNat ≤ 0x10 ∧ (0x10#5).toNat ≠ (bankOf up (0 : Fin 5) 0).owner ∧
    (0x1F#5).toNat = (bankOf up (0 : Fin 5) 0).owner := by decide +kernel
theorem wit_HandoverDoneZeroesAndPassesOn :
    (bankOf (banked { state := .inHandover, zeroDue := true }) (0 : Fin 5) 0).state = .inHandover ∧
    (bankOf (banked { state := .inHandover, zeroDue := true }) (0 : Fin 5) 0).waits = [] ∧
    (bankOf (banked { state := .inHandover, zeroDue := true }) (0 : Fin 5) 0).zeroDue = true ∧
    (bankOf (banked { state := .inHandover }) (0 : Fin 5) 0).zeroDue = false ∧
    Memory.wf (banked { state := .inHandover }).mem = true := by decide +kernel
theorem wit_AlertClearedByItsResponse : mgmtUp { up with pins := { up.pins with smbAlert := true } } = true ∧
    { up with pins := { up.pins with smbAlert := true } }.pins.smbAlert = true := by decide +kernel
theorem wit_BmcLimitTakesItsRange : mgmtUp up = true := by decide +kernel

/-- The management controller's debug state. -/
def debugging (g : Mgmt) : State := { up with mgmt := g }
theorem wit_DebugResponsesAreSingleUse : (debugging { nonce := some 4 }).pins.pwrGood = true ∧
    (debugging { nonce := some 4 }).mgmt.lockout = false ∧ (debugging { nonce := some 4 }).mgmt.nonce.isSome = true ∧
    (debugging {}).mgmt.nonce = none ∧ (debugging { lockout := true }).mgmt.lockout = true := by decide +kernel
theorem wit_PackageIdcodeIsShiftedOut : up.pins.pwrGood = true ∧ up.mgmt.dieSel = none ∧ up.mgmt.dieLeft = 0 := by decide +kernel

/-- A control descriptor next on ring 1. -/
def controlling (t : Nat) (e : Entry) : State := entered (ringed .req [.req 0 { typ := t, userTag := 7 }]) e
theorem wit_ControlOfNoRequest :
    (∀ t ∈ [2, 3, 4, 5], frontRing (controlling t { state := .free }) (0 : Fin 16) (1 : Fin 64) = 1 ∧
      frontReq (controlling t { state := .free }) (0 : Fin 16) (1 : Fin 64) = some (0, { typ := t, userTag := 7 }) ∧
      controlTarget (controlling t { state := .free }) (0 : Fin 16) { typ := t, userTag := 7 } = none) ∧
    frontRing (controlling 4 { state := .ready }) (0 : Fin 16) (1 : Fin 64) = 1 ∧
    cplHeld (controlling 4 { state := .ready }) (0 : Fin 16) (1 : Fin 64) = false ∧
    controlTarget (controlling 4 { state := .ready }) (0 : Fin 16) { typ := 4, userTag := 7 } = some 0 ∧
    (entOf (controlDone (controlling 4 { state := .ready }) (0 : Fin 16) (1 : Fin 64) 0 { typ := 4, userTag := 7 } 0) 0).hostPause = false := by
  decide +kernel

/-- A ledger whose 8,192 entries are all in use. -/
def fullLedger : Tbl Entry := (List.range' 0 8192).map (fun i => (i, { state := .ready }))
theorem tfind_range' {α : Type} (e : α) (n : Nat) : ∀ a k, a ≤ k → k < a + n →
    tfind ((List.range' a n).map (fun i => (i, e))) k = some e := by
  induction n with
  | zero => intro a k h1 h2; omega
  | succ n ih =>
    intro a k h1 h2
    rw [List.range'_succ, List.map_cons, tfind]
    split
    · rfl
    · exact ih (a + 1) k (by omega) (by omega)
theorem wit_SubmitWaitsForAFreeEntry : ∃ s : State, Clocked s ∧
    frontReq s (0 : Fin 16) (frontRing s (0 : Fin 16) (1 : Fin 64)) = some (0, { typ := 1 }) ∧ freeEntryIdx s = none := by
  refine ⟨{ (ringed .req [.req 0 { typ := 1 }]) with ledger := fullLedger }, by unfold Clocked; rfl, by decide +kernel, ?_⟩
  rw [freeEntryIdx, List.find?_eq_none]
  intro i hi
  have h : i < 8192 := by
    have := List.mem_range.1 hi
    omega
  simp only [entOf, tget, fullLedger, tfind_range' _ 8192 0 i (Nat.zero_le _) (by omega)]
  decide
theorem wit_ThrottleFollowsTemperature : Clocked up ∧ up.pins.pwrGood = true ∧ sensed up (0 : Fin 5) = true ∧
    (0x5F0#12).toInt = deg 95 ∧ (0x5BF#12).toInt < deg 92 ∧ deg 92 ≤ (0x5C0#12).toInt ∧ (0x72F#12).toInt < deg 115 :=
  ⟨rfl, rfl, by decide +kernel, by decide, by decide, by decide, by decide⟩
theorem wit_EprHalvesTheKeep : up.pins.pwrGood = true ∧ up.pins.eprN = true ∧ Clocked up ∧
    domUsable up (3 : Fin 4) = true ∧ (dieOf up (3 : Fin 4)).gated = false :=
  ⟨rfl, rfl, rfl, by decide +kernel, by decide +kernel⟩
theorem wit_LossOfReferenceClockIsFatal : Clocked up ∧ isReady up = true := ⟨rfl, by decide +kernel⟩
theorem wit_ManagementLeavesTenantsAlone : mgmtCommand .getTid = true ∧ ∃ t, exec .getTid up = .next t := ⟨rfl, _, rfl⟩
theorem wit_NoStepFormsOnHeldGroup : groupHeld { modelled up with conf := { holding := 1 } } 5 = true := by decide +kernel

theorem wit_ReadySetRaisesReady : Clocked (atStage 0x0A) ∧ (atStage 0x0A).boot.stage = 0x0A ∧
    (atStage 0x0A).boot.testMode = false ∧ (fnOf (atStage 0x0A) 0).evq.opened = false ∧
    (atStage 0x0A).boot.dieUsable.getLsbD (3 : Fin 4).val = true := ⟨rfl, rfl, rfl, by decide +kernel, by decide⟩

/-- An event queue of 64 entries, 2 not taken. -/
def eventing : State := withPf (fun x => { x with evq := { x.evq with opened := true, sizeLog2 := 6, cons := 3, prod := 5 } })
theorem wit_EventQueueConsumerIndex : Clocked eventing ∧ barOn eventing (0 : Fin 16).val = true ∧
    (fnOf eventing 0).evq.opened = true ∧ sub32 5 (fnOf eventing 0).evq.cons ≤ 2 ^ (fnOf eventing 0).evq.sizeLog2 ∧
    sub32 (fnOf eventing 0).evq.prod 5 ≤ 2 ^ (fnOf eventing 0).evq.sizeLog2 ∧
    ¬(sub32 (fnOf eventing 0).evq.prod 6 ≤ 2 ^ (fnOf eventing 0).evq.sizeLog2) ∧ (fnOf up 0).evq.opened = false :=
  ⟨rfl, by decide +kernel, by decide +kernel, by decide +kernel, by decide +kernel, by decide +kernel, by decide +kernel⟩

/-- VF 1 exists and may be accessed. -/
def virtual : State := updFn { up with sriov := 1, vfMse := true, numVfs := 1 } 1 (fun _ => pf)
theorem wit_BooksBitsClearedByWriting : Clocked up ∧ isReady up = true ∧ barOn up 0 = true ∧
    Clocked virtual ∧ isReady virtual = true ∧ (1 : Fin 16).val ≠ 0 ∧ barOn virtual (1 : Fin 16).val = true :=
  ⟨rfl, by decide +kernel, by decide +kernel, rfl, by decide +kernel, by decide, by decide +kernel⟩
theorem wit_ShootdownRemovesTranslations : Clocked hosted ∧ hostPage hosted 1 (pageBase 0x1FFFF) = some (0, 16) ∧
    hostPage hosted 2 (pageBase 0x1FFFF) = none := ⟨rfl, by decide +kernel, by decide +kernel⟩
theorem wit_BadFlitIsCountedAndDiscarded : Clocked (linked .up) ∧ linkUp (linked .up) (7 : Fin 8).val = true ∧
    flitClean { group := 7, data := [1], side := 0 } = false := ⟨rfl, by decide +kernel, by decide⟩
/-- The front of a flit with an audit marker, as its sender makes it. -/
def markerData : List Byte := [6, 0, 0, 0] ++ le 12 0 ++ [0x23]
def markerFlit : Flit := { group := 0, data := markerData, side := BitVec.ofNat 64 (flitSide 0 0 0 3 0 markerData) }
theorem wit_AuditMarkersLatchTheBooks : Clocked (linked .up) ∧ linkUp (linked .up) (7 : Fin 8).val = true ∧
    flitClean markerFlit = true ∧ (∀ kv ∈ (linked .up).links, kv.2.out.queue = [] ∧ kv.2.back.queue = []) ∧
    flitKind markerFlit = 0 ∧ flitSeq markerFlit = (dirOf (linkOf (linked .up) (7 : Fin 8).val) (!true)).rxSeq ∧
    byteAt markerFlit.data 0 = 6 ∧ byteAt markerFlit.data 16 = 0x23 :=
  ⟨rfl, by decide +kernel, by decide +kernel, by decide +kernel, by decide +kernel, by decide +kernel, by decide +kernel,
    by decide +kernel⟩
theorem wit_ExhaustedDieIsGated : Clocked up ∧ isReady up = true ∧ domUsable up (3 : Fin 4).val = true ∧
    (dieOf up (3 : Fin 4).val).gated = false := ⟨rfl, by decide +kernel, by decide +kernel, by decide +kernel⟩

/-- Component 2 under verification. -/
def verifying : State := debugging { up.mgmt with upd := .verify, updComp := 2 }
theorem wit_CancelledUpdateReturnsToIdle : mgmtUp verifying = true ∧ verifying.mgmt.upd ≠ .idle ∧ verifying.mgmt.updComp ≠ 0 ∧
    (fwOf verifying 2).runB = false ∧
    (fwOf (debugging { verifying.mgmt with fw := [(2, { runB := true })] }) 2).runB = true ∧
    mgmtUp up = true ∧ up.mgmt.upd = .idle := by decide +kernel
theorem wit_FreedEntryReadsReset : Clocked { entered up { state := .done } with ledgerX := [(0, { recWritten := true })] } ∧
    mayFree { entered up { state := .done } with ledgerX := [(0, { recWritten := true })] } 0 = true := ⟨rfl, by decide +kernel⟩

theorem wit_CommitCompletesTheSlot : Clocked (begunIn (queued up 0x0202 []) (fun c => { c with outcome := some {} })) ∧
    mayCommit (begunIn (queued up 0x0202 []) (fun c => { c with outcome := some {} })) (0 : Fin 16) (0 : Fin 32) = true ∧
    cmdOf (begunIn (queued up 0x0202 []) (fun c => { c with outcome := some {} })) (0 : Fin 16) (0 : Fin 32) =
      some { slot := 0, opcode := 0x0202, started := true, outcome := some {} } := ⟨rfl, by decide +kernel, by decide +kernel⟩
theorem wit_ConfigRequestsRetryBeforeReady : Clocked { up with boot := {} } ∧ { up with boot := {} }.boot.cfgReady = false ∧
    onLink { up with boot := {} } (0 : Fin 16).val = true := ⟨rfl, rfl, by decide +kernel⟩

/-- The greatest values that the fields of a leaf and of a flit's side-band hold. -/
theorem wit_LeafEntriesReadBack : 3 < 4 ∧ 1 < 2 ∧ 2 ^ 32 - 1 < 2 ^ 32 ∧ 2 ^ 20 - 1 < 2 ^ 20 ∧ 2 ^ 36 - 1 < 2 ^ 36 := by decide
theorem wit_FlitsReadBack : 7 < 8 ∧ 255 < 256 ∧ 3 < 4 ∧ 63 < 64 ∧ (0x8000 : BitVec 16) ≠ 0 := by decide

/-! ### Ill-formed commands are refused -/

theorem test_wf_hbm_page_out_of_die : Instr.wf (.memoryInitDone { hbmPages := [(0, 589824)] }) = false := by decide +kernel
theorem test_wf_hbm_die : Instr.wf (.memoryInitDone { hbmPages := [(4, 0)] }) = false := by decide +kernel
theorem test_wf_init_bank_of_harbour : Instr.wf (.memoryInitDone { banks := [(4, 16)] }) = false := by decide +kernel
theorem test_wf_num_vfs : Instr.wf (.vfEnableSet 16) = false := by decide +kernel
theorem test_wf_completion_tag : Instr.wf (.completionReceived 0 1024 .ok) = false := by decide +kernel
theorem test_wf_timeout_tag : Instr.wf (.completionTimeoutExpiry 0 1024) = false := by decide +kernel
theorem test_wf_quarantine_tag : Instr.wf (.tagQuarantineExpiry 0 1024) = false := by decide +kernel
theorem test_wf_bar2_read_empty : Instr.wf (.bar2Read 0 0 0 []) = false := by decide +kernel
theorem test_wf_bar2_read_past_end : Instr.wf (.bar2Read 0 (64 * 2 ^ 30 - 1) 2 []) = false := by decide +kernel
theorem test_wf_bar2_write_empty : Instr.wf (.bar2Write 0 0 [] false []) = false := by decide +kernel
theorem test_wf_bar2_write_past_end : Instr.wf (.bar2Write 0 (64 * 2 ^ 30) [1] false []) = false := by decide +kernel
theorem test_wf_invalidation_itag : Instr.wf (.invalidationRequest 0 32 0 0) = false := by decide +kernel
theorem test_wf_invalidation_pasid : Instr.wf (.invalidationRequest 0 0 (2 ^ 20) 0) = false := by decide +kernel
theorem test_wf_invalidation_page : Instr.wf (.invalidationRequest 0 0 0 (2 ^ 40)) = false := by decide +kernel
theorem test_wf_translation_page : Instr.wf (.translationCompletion 0 0 (2 ^ 40) true) = false := by decide +kernel
theorem test_wf_prg_page : Instr.wf (.prgResponse 0 0 (2 ^ 40) .success) = false := by decide +kernel
theorem test_wf_prg_timeout_page : Instr.wf (.prgResponseTimeout 0 0 (2 ^ 40)) = false := by decide +kernel
theorem test_wf_config_register : Instr.wf (.registerWrite 0 .config 50 4 0) = false := by decide +kernel
theorem test_wf_register_width : Instr.wf (.registerWrite 0 .bar0 0 16 0) = false := by decide +kernel
theorem test_wf_low_half_config : Instr.wf (.lowHalfRead 0 .config 50 4) = false := by decide +kernel
theorem test_wf_low_half_width : Instr.wf (.lowHalfRead 0 .bar0 0 0) = false := by decide +kernel
theorem test_wf_slot_width : Instr.wf (.slotWrite 0 0 0 0) = false := by decide +kernel
theorem test_wf_slot_past_end : Instr.wf (.slotWrite 0 8192 4 0) = false := by decide +kernel
theorem test_wf_fetch_empty : Instr.wf (.descriptorFetch 0 1 []) = false := by decide +kernel
theorem test_wf_fetch_part : Instr.wf (.descriptorFetch 0 1 (List.replicate 63 0)) = false := by decide +kernel
theorem test_wf_tide_meters : Instr.wf (.tideBoundary []) = false := by decide +kernel
theorem test_wf_tide_keep : Instr.wf (.tideBoundary [{ keep := 3 }, {}, {}, {}, {}]) = false := by decide +kernel
theorem test_wf_tide_keep_high : Instr.wf (.tideBoundary [{ keep := 17 }, {}, {}, {}, {}]) = false := by decide +kernel
theorem test_wf_tide_clusters : Instr.wf (.tideBoundary [{ clusters := 17 }, {}, {}, {}, {}]) = false := by decide +kernel
theorem test_wf_commit_ledger : Instr.wf (.stepCommit 0 0 [{ ledger := 8192 }]) = false := by decide +kernel
theorem test_wf_mask_ledger : Instr.wf (.maskReady 8192) = false := by decide +kernel
theorem test_wf_carding_stream : Instr.wf (.cardingLaneTake 0 0 65536) = false := by decide +kernel
theorem test_wf_felting_ledger : Instr.wf (.feltingLaneTake 0 8192) = false := by decide +kernel
theorem test_wf_tidepool_move_ledger : Instr.wf (.tidepoolMoveDone 8192) = false := by decide +kernel
theorem test_wf_tidepool_expiry_ledger : Instr.wf (.tidepoolExpiry 8192) = false := by decide +kernel
theorem test_wf_tidepool_return_ledger : Instr.wf (.tidepoolReturnDone 8192) = false := by decide +kernel
theorem test_wf_freed_ledger : Instr.wf (.ledgerEntryFreed 8192) = false := by decide +kernel
theorem test_wf_full_write_width : Instr.wf (.fullWrite 0 [1, 2, 3]) = false := by decide +kernel
theorem test_wf_full_write_alignment : Instr.wf (.fullWrite 4 (List.replicate 8 0)) = false := by decide +kernel
theorem test_wf_partial_write_empty : Instr.wf (.partialWrite 0 [] .clean .firmware) = false := by decide +kernel
theorem test_wf_partial_write_whole : Instr.wf (.partialWrite 0 (List.replicate 64 0) .clean .firmware) = false := by decide +kernel
theorem test_wf_poison_source : Instr.wf (.poisonDisposition 0 2) = false := by decide +kernel
theorem test_wf_fault_wait_ledger : Instr.wf (.stepFaultWaitTimeout 0 8192) = false := by decide +kernel
theorem test_wf_bank_of_crest : Instr.wf (.bankAccess 0 64 0 none 8 0 .firmware []) = false := by decide +kernel
theorem test_wf_bank_len : Instr.wf (.bankAccess 0 0 0 none 0 0 .firmware []) = false := by decide +kernel
theorem test_wf_bank_past_end : Instr.wf (.bankAccess 0 0 0x1FFF9 none 8 0 .firmware []) = false := by decide +kernel
theorem test_wf_bank_code : Instr.wf (.bankAccess 0 0 0 none 8 32 .firmware []) = false := by decide +kernel
theorem test_wf_bank_data : Instr.wf (.bankAccess 0 0 0 (some [1]) 8 0 .firmware []) = false := by decide +kernel
theorem test_wf_handover_bank : Instr.wf (.bankHandover 4 16 0) = false := by decide +kernel
theorem test_wf_handover_done_bank : Instr.wf (.handoverDone 4 16) = false := by decide +kernel
theorem test_wf_seizure_bank : Instr.wf (.seizureDone 0 64 none) = false := by decide +kernel
theorem test_wf_reclaim_bank : Instr.wf (.firmwareBankReclaim 0 64) = false := by decide +kernel
theorem test_wf_march_bank : Instr.wf (.marchDone 0 64 none []) = false := by decide +kernel
theorem test_wf_trained_groups : Instr.wf (.linkTrained 4 17) = false := by decide +kernel
theorem test_wf_flit_length : Instr.wf (.flitReceived 0 { group := 0, data := [1], side := 0 }) = false := by decide +kernel
theorem test_wf_flit_group : Instr.wf (.flitReceived 4 { group := 16, data := List.replicate 256 0, side := 0 }) = false := by
  decide +kernel
theorem test_wf_replay_seq : Instr.wf (.replayRequest 0 256) = false := by decide +kernel
theorem test_wf_read_tag : Instr.wf (.rdReq { tag := 65536, src := 0, dst := 4, addr := 0 } []) = false := by decide +kernel
theorem test_wf_read_empty : Instr.wf (.rdReq { tag := 0, src := 0, dst := 4, addr := 0, len := 0 } []) = false := by decide +kernel
theorem test_wf_read_long : Instr.wf (.rdReq { tag := 0, src := 0, dst := 4, addr := 0, len := 65536 } []) = false := by decide +kernel
theorem test_wf_write_tag : Instr.wf (.wrReq { tag := 65536, src := 0, dst := 4, addr := 0, data := [1] } []) = false := by decide +kernel
theorem test_wf_write_empty : Instr.wf (.wrReq { tag := 0, src := 0, dst := 4, addr := 0 } []) = false := by decide +kernel
theorem test_wf_clock_stop_empty : Instr.wf (.partnerClockStop 0 true []) = false := by decide +kernel
theorem test_wf_clock_stop_group : Instr.wf (.partnerClockStop 4 true [16]) = false := by decide +kernel
theorem test_wf_err_rsp_code : Instr.wf (.errRsp 0 0 16) = false := by decide +kernel
theorem test_wf_recentre_marked : Instr.wf (.recentreDue 0 33 []) = false := by decide +kernel
theorem test_wf_recentre_closed : Instr.wf (.recentreDue 0 0 [32]) = false := by decide +kernel
theorem test_wf_group_disable : Instr.wf (.groupDisable 4 16) = false := by decide +kernel
theorem test_wf_slack_group : Instr.wf (.slackTideStart [{ link := 0, group := 32 }]) = false := by decide +kernel
theorem test_wf_slack_link : Instr.wf (.slackTideStart [{ link := 8, group := 0 }]) = false := by decide +kernel
theorem test_wf_slack_length : Instr.wf (.slackTideEnd 5001) = false := by decide +kernel
theorem test_wf_pdr_record : Instr.wf (.getPdr (2 ^ 32)) = false := by decide +kernel
theorem test_wf_sensor : Instr.wf (.getSensorReading 65536) = false := by decide +kernel
theorem test_wf_state_sensor : Instr.wf (.getStateSensorReadings 65536) = false := by decide +kernel
theorem test_wf_effecter_set : Instr.wf (.setNumericEffecterValue 65536 0) = false := by decide +kernel
theorem test_wf_effecter_get : Instr.wf (.getNumericEffecterValue 65536) = false := by decide +kernel
theorem test_wf_component_table : Instr.wf (.passComponentTable [65536]) = false := by decide +kernel
theorem test_wf_component : Instr.wf (.updateComponent 65536 0) = false := by decide +kernel
theorem test_wf_component_size : Instr.wf (.updateComponent 0 (2 ^ 32)) = false := by decide +kernel
theorem test_wf_firmware_data : Instr.wf (.firmwareDataReceived (List.replicate 1025 0)) = false := by decide +kernel
theorem test_wf_version_conn : Instr.wf (.getVersion 17) = false := by decide +kernel
theorem test_wf_capabilities_conn : Instr.wf (.getCapabilities 17) = false := by decide +kernel
theorem test_wf_algorithms_conn : Instr.wf (.negotiateAlgorithms 17 true) = false := by decide +kernel
theorem test_wf_digests_conn : Instr.wf (.getDigests 17) = false := by decide +kernel
theorem test_wf_certificate_slot : Instr.wf (.getCertificate 0 8 0 0) = false := by decide +kernel
theorem test_wf_certificate_offset : Instr.wf (.getCertificate 0 0 65536 0) = false := by decide +kernel
theorem test_wf_challenge_slot : Instr.wf (.challenge 0 8) = false := by decide +kernel
theorem test_wf_measurement_index : Instr.wf (.getMeasurements 0 false 256) = false := by decide +kernel
theorem test_wf_respond_conn : Instr.wf (.respondIfReady 17 0) = false := by decide +kernel
theorem test_wf_pcie_speed : Instr.wf (.pcieLinkUp 7 16 true) = false := by decide +kernel
theorem test_wf_pcie_width : Instr.wf (.pcieLinkUp 6 3 true) = false := by decide +kernel

/-! ### Single results from the spec's worked examples and rules -/

/-- "FP8 conversions and a batch-invariant sum" (file 11): E4M3, then E5M2, both with SAT 1. The chapter
prints 0x84 for −2⁻¹⁰ in E5M2; the format table gives 0x94 (log entry 36). -/
theorem test_fp8_e4m3 : [0x43FA0000, 0x43E60000, 0x3E99999A, 0x3F880000, 0x3B449BA6, 0xBA800000].map
      (fun v => packFp8 e4m3 true (unpack fp32 v)) = [0x7E, 0x7E, 0x2A, 0x38, 0x02, 0x80] := by decide +kernel
theorem test_fp8_e5m2 : [0x43FA0000, 0x43E60000, 0x3E99999A, 0x3F880000, 0x3B449BA6, 0xBA800000].map
      (fun v => packFp8 e5m2 true (unpack fp32 v)) = [0x60, 0x5F, 0x35, 0x3C, 0x1A, 0x94] := by decide +kernel
/-- With SAT 0, 500 gives 0x7F in FP8-E4M3 and still 512 in FP8-E5M2. -/
theorem test_fp8_unsaturated : packFp8 e4m3 false (unpack fp32 0x43FA0000) = 0x7F ∧
    packFp8 e5m2 false (unpack fp32 0x43FA0000) = 0x60 := by decide +kernel

/-- Token and FP32 logit of the row of "sampling a bulletin token" (file 12), token 3 masked. -/
def bulletin : List (Nat × Nat) := [(0x3F800000, 19), (0x40200000, 77), (0x40400000, 812), (0x40200000, 5001)]
theorem test_topk_order : (topk 4 bulletin).map (·.2) = [812, 77, 5001, 19] := by decide +kernel
/-- Its draw: u = 0.625 picks 77 from the exponentials 1, 0.36787945 and 0.36787945. -/
theorem test_draw : fexp 0xBF800000 = 0x3EBC5AB2 ∧
    (fun l => scanDraw (fmul 0x3F200000 (expSum l)) 0 l) [(one32, 812), (0x3EBC5AB2, 77), (0x3EBC5AB2, 5001)] = some 77 := by
  decide +kernel
/-- The function of R392 at seed 0x0123_4567_89AB_CDEF and position 1,207, computed by hand from its pseudocode. -/
theorem test_draw_word : randWord 0x0123456789ABCDEF 1207 = 0x93073482 := by decide +kernel

/-- Two boundaries of the temperature table of file 13: 273.128662109375 and 273.165283203125. -/
def twoBins : List Byte := le 8 0 ++ le 4 2 ++ le 52 0 ++ le 8 0x4071120F00000000 ++ le 8 0x407112A500000000
/-- 273.15 lies between them, and a value equal to a boundary lies above it. -/
theorem test_bins : binOf twoBins 0x4071126666666666 = 1 ∧ binOf twoBins 0x407112A500000000 = 2 := by decide +kernel

/-- With BLINK_0 down, CREST_0 reaches CREST_1 over BLINK_3, BLINK_2 and BLINK_1 (file 01). -/
def chain : State := { up with
  boot := { up.boot with blinkUp := 0xE },
  links := (List.range 8).map (fun l => (l, { state := if l = 0 then .down else .up })) }
theorem test_route_of_chain : route chain 0 1 = some [3, 2, 1] := by decide +kernel

/-- The reports of "a BMC limit of 200 W under mixed load" (file 19): allowances and draws, then the Harbour's. -/
def reported (dec total res : Nat) : Domain := { lastReport := le 12 0 ++ le 4 dec ++ le 4 total ++ le 4 res ++ le 4 0 }
def mixedLoad : State :=
  { up with energy := { up.energy with
      effW := 200,
      doms := [(0, reported 40000 70000 0), (1, reported 40000 70000 0), (2, reported 9000 60000 20000),
        (3, reported 9000 60000 8000), (4, reported 0 52000 0)] } }
theorem test_plan_of_mixed_load : (planRows mixedLoad).map (fun x => (x.d, x.a, x.draw)) =
    [(0, 42812, 0), (1, 42812, 0), (2, 34625, 20000), (3, 23750, 8000), (4, 52000, 0)] ∧
    [52000, 42812, 34625, 23750].map fastLimit = [62400, 51374, 41550, 28500] := by decide +kernel

/-- The step model of "the split under PROPORTIONAL as the grant falls" (file 17), at a planned keep. -/
def splitting (keep : Nat) : State :=
  { up with
    dies := [(0, { dieUp with keepPlan := keep }), (1, { dieUp with keepPlan := keep })],
    models := [(1, { owner := 0, image := { wRow := 36000000000, tReadUs := 15500, tFixUs := 300 }, placement := 3,
                     dense := 16, stream := 16 })] }
/-- T_PRED is 17.88 ms for 240 rows at d 8; at keep 12 and d 11 it passes 18 ms for 240 rows and not for 235. -/
theorem test_step_prediction : 17870 < predUs (splitting 16) 1 240 8 ∧ predUs (splitting 16) 1 240 8 < 17890 ∧
    18000 < predUs (splitting 12) 1 240 11 ∧ predUs (splitting 12) 1 235 11 < 18000 ∧ roundDiv (16 * 12) 17 = 11 := by
  decide +kernel
/-- R569 in the same chapter: CREST_2 draws 20,000 and then banks the 525 µJ that it leaves unused. -/
theorem test_reservoir : reservoirAfter { allowance := 34625, draw := 20000, reservoir := 20000 } 34100 = 525 := by decide +kernel

/-- A sensor at 115 °C is a thermal trip (R47, R578). -/
theorem test_thermal_trip : ∃ t, exec (.tempUpdate 0 0x730) up = .next t ∧ t.pins.thermtrip = true := ⟨_, rfl, by decide +kernel⟩
/-- PERST_N falling ends READY (R67). -/
theorem test_perst : ∃ t, exec .perstNAssert up = .next t ∧ isReady t = false ∧ t.pins.perstN = false :=
  ⟨_, rfl, by decide +kernel, by decide +kernel⟩

/-! ### The package (26 R674 to R679, 11 R355, 10 R319) -/

/-- 4,884 balls: those of the rails and the ground, sense, reserved and signal balls. -/
theorem test_ball_count : ballCount = 4884 ∧
    (supplies.map (fun r => (railRow r).balls)).sum + groundBalls + senseBalls + reservedBalls + signalBalls = 4884 := by
  decide +kernel
/-- Rows 19, 20, 57, 58 and 70 are Y, AA, BY, CA and CN. -/
theorem test_row_names : [19, 20, 57, 58, 70].map rowName =
    [some ['Y'], some ['A', 'A'], some ['B', 'Y'], some ['C', 'A'], some ['C', 'N']] := by decide +kernel
/-- FAULT_N lies at CM 10; PCIE_RX_N_15 at CH 67. -/
theorem test_balls : signalBall "FAULT_N" = (rowIndex ['C', 'M']).map (fun r => { row := r, col := 10 }) ∧
    some (laneBall true true 15) = (rowIndex ['C', 'H']).map (fun r => { row := r, col := 67 }) := by decide +kernel
/-- The regulator of the worked example holds 785.7 to 834.3 mV around 810. -/
theorem test_rail_range : inRange (.crest 0) 810 786 = true ∧ inRange (.crest 0) 810 785 = false ∧
    inRange (.crest 0) 810 834 = true ∧ inRange (.crest 0) 810 835 = false := by decide +kernel
/-- A Crest die peaks at 0.885 POPS and holds 30 MiB; a dense cluster runs 3.07 TFLOPS of FP32. -/
theorem test_peak_rates : dieOps .narrow 16 = 884736000000000 ∧ crestSram = 30 * 0x100000 ∧
    clusterOps .dense .single 16 = 3072000000000 := by decide +kernel
/-- BLINK_0 runs at 496 GB/s with 31 groups working. -/
theorem test_link_rate : linkRate { up with links := [(0, { state := .repair, disabled := [13] })] } 0 = 496000000000 := by
  decide +kernel

end Sys2Proof.Tests
end

section
/-! SUPPORT. Sparse tables and the named updates of a function: what each reads back at the key it wrote and at another
key. -/

namespace Sys2Proof.Machine

open Sys2Proof

/-! ### Tables -/

@[simp] theorem tfind_tput_same {α : Type} (t : Tbl α) (key : Nat) (v : α) : tfind (tput t key v) key = some v := by
  induction t with
  | nil => simp [tput, tfind]
  | cons entry rest ih =>
    obtain ⟨k, w⟩ := entry
    rcases lt_trichotomy key k with hlt | rfl | hgt
    · simp [tput, tfind, hlt]
    · simp [tput, tfind]
    · simp [tput, tfind, hgt.not_gt, hgt.ne, hgt.ne', ih]

theorem tfind_tput_other {α : Type} (t : Tbl α) {key other : Nat} (v : α) (h : other ≠ key) :
    tfind (tput t key v) other = tfind t other := by
  induction t with
  | nil => simp [tput, tfind, h.symm]
  | cons entry rest ih =>
    obtain ⟨k, w⟩ := entry
    rcases lt_trichotomy key k with hlt | rfl | hgt
    · simp [tput, tfind, hlt, h.symm]
    · simp [tput, tfind, h.symm]
    · simp [tput, tfind, hgt.not_gt, hgt.ne', ih]

@[simp] theorem tget_tput_same {α : Type} (d : α) (t : Tbl α) (key : Nat) (v : α) : tget d (tput t key v) key = v := by
  simp [tget]

theorem tget_tput_other {α : Type} (d : α) (t : Tbl α) {key other : Nat} (v : α) (h : other ≠ key) :
    tget d (tput t key v) other = tget d t other := by
  simp [tget, tfind_tput_other t v h]

/-! ### A function's record -/

@[simp] theorem fnOf_updFn_same (s : State) (f : Nat) (g : Fn → Fn) : fnOf (updFn s f g) f = g (fnOf s f) := by
  simp [fnOf, tmod]

theorem fnOf_updFn_other (s : State) {f other : Nat} (g : Fn → Fn) (h : other ≠ f) :
    fnOf (updFn s f g) other = fnOf s other := by
  simp [fnOf, tmod, tget_tput_other _ _ _ h]

/-! ### The bytes of a mailbox slot -/

@[simp] theorem slotBytes_putSlot_same (s : State) (f slot : Nat) (b : List Byte) :
    slotBytes (putSlot s f slot b) f slot = padTo 256 b := by
  rw [slotBytes, putSlot, fnOf_updFn_same, tget_tput_same]

theorem slotBytes_putSlot_other (s : State) (f : Nat) {slot other : Nat} (b : List Byte) (h : other ≠ slot) :
    slotBytes (putSlot s f slot b) f other = slotBytes s f other := by
  rw [slotBytes, putSlot, fnOf_updFn_same, tget_tput_other _ _ _ h, slotBytes]

theorem fnOf_putSlot_other (s : State) {f other : Nat} (slot : Nat) (b : List Byte) (h : other ≠ f) :
    fnOf (putSlot s f slot b) other = fnOf s other :=
  fnOf_updFn_other s _ h

theorem putSlot_eq_with_fns (s : State) (f slot : Nat) (b : List Byte) :
    putSlot s f slot b = { s with fns := (putSlot s f slot b).fns } := rfl

end Sys2Proof.Machine
end

section
/-! SUPPORT. Accesses of a BAR and of the mailbox slots by width and alignment (00 R7, R9; 04 R120): one lemma per way an
access of a function that answers can go. -/

namespace Sys2Proof.Machine

open Sys2Proof

/-! ### Slot writes -/

/-- A slot write of a function that answers acts on an aligned access of 4 or 8 bytes within the slots, and there the
slot's owner bit decides. -/
theorem slotWrite_of_barOn {s : State} {f : Nat} (off width : Nat) (v : DWord) (hon : barOn s f = true) :
    slotWrite s f off width v =
      if ((width = 4 ∨ width = 8) ∧ off % width = 0) ∧ off < 8192 then
        if (fnOf s f).owner.getLsbD (off / 256) then cnt s f 0x308 1
        else putSlot s f (off / 256) (splice (slotBytes s f (off / 256)) (off % 256) (le width v.toNat))
      else s := by
  have hguard : ((width = 4 || width = 8) && off % width = 0 && off < 8192) =
      decide (((width = 4 ∨ width = 8) ∧ off % width = 0) ∧ off < 8192) := by
    simp only [Bool.decide_and, Bool.decide_or]
  simp only [slotWrite, hon, hguard]
  by_cases hacts : ((width = 4 ∨ width = 8) ∧ off % width = 0) ∧ off < 8192 <;> simp [hacts]

theorem slotWrite_misaligned {s : State} {f off width : Nat} (v : DWord) (hon : barOn s f = true)
    (hbad : ¬((width = 4 ∨ width = 8) ∧ off % width = 0)) : slotWrite s f off width v = s := by
  rw [slotWrite_of_barOn off width v hon, if_neg fun hacts => hbad hacts.1]

/-! ### Register accesses -/

/-- The two guards that `registerWrite` and `readReg` test fail together exactly off the widths and alignments of R9. -/
theorem misaligned_iff (off width : Nat) : ¬((width = 4 ∨ width = 8) ∧ off % width = 0) ↔
    ¬(width = 4 ∧ off % 4 = 0) ∧ ¬(width = 8 ∧ off % 8 = 0) := by
  constructor
  · intro hbad
    exact ⟨fun ⟨hw, ha⟩ => hbad ⟨.inl hw, hw ▸ ha⟩, fun ⟨hw, ha⟩ => hbad ⟨.inr hw, hw ▸ ha⟩⟩
  · rintro ⟨h4, h8⟩ ⟨rfl | rfl, ha⟩
    · exact h4 ⟨rfl, ha⟩
    · exact h8 ⟨rfl, ha⟩

theorem registerWrite_misaligned {s : State} {f off width : Nat} {bar : Bar} (v : DWord) (hbar : bar ≠ .config)
    (hon : barOn s f = true) (hbad : ¬((width = 4 ∨ width = 8) ∧ off % width = 0)) :
    registerWrite s f bar off width v = s := by
  obtain ⟨h4, h8⟩ := (misaligned_iff off width).mp hbad
  cases bar with
  | config => exact absurd rfl hbar
  | bar0 | bar4 => simp [registerWrite, hon, h4, h8]

theorem registerWrite_aligned32 {s : State} {f off : Nat} {bar : Bar} (v : DWord) (hbar : bar ≠ .config)
    (hon : barOn s f = true) (halign : off % 4 = 0) :
    registerWrite s f bar off 4 v = write32 s f bar off (v.toNat % 2 ^ 32) := by
  cases bar with
  | config => exact absurd rfl hbar
  | bar0 | bar4 => simp [registerWrite, hon, halign]

theorem readReg_misaligned (s : State) (f : Nat) (bar : Bar) {off width : Nat}
    (hbad : ¬((width = 4 ∨ width = 8) ∧ off % width = 0)) : readReg s f bar off width = (allOnes width, s) := by
  obtain ⟨h4, h8⟩ := (misaligned_iff off width).mp hbad
  simp [readReg, h4, h8]

theorem lowHalfRead_bar {s : State} {f : Nat} {bar : Bar} (off width : Nat) (hbar : bar ≠ .config)
    (hon : barOn s f = true) :
    lowHalfRead s f bar off width =
      emit (readReg s f bar off width).2 (.readData f (readReg s f bar off width).1 false) := by
  cases bar with
  | config => exact absurd rfl hbar
  | bar0 | bar4 => simp [lowHalfRead, hon]

/-! ### 32-bit writes behind the MSI-X table of BAR4 (R79, R218) -/

theorem write32_bar4_vf (s : State) {f off : Nat} (v : Nat) (hvf : f ≠ 0) (htable : 0x400 ≤ off) :
    write32 s f .bar4 off v = s := by
  simp [write32, hvf, htable.not_gt]

theorem write32_books {s : State} (v : Nat) (hready : isReady s = true) :
    write32 s 0 .bar4 0x100700 v =
      { s with books := { s.books with failed := s.books.failed &&& ~~~ BitVec.ofNat 32 v } } := by
  simp [write32, hready]

/-- A W1C field after a write (R7): the bits that were 1 and were not written 1. -/
theorem getLsbD_w1c (old : Word) (value : DWord) {e : Nat} (he : e < 32) :
    (old &&& ~~~ BitVec.ofNat 32 (value.toNat % 2 ^ 32)).getLsbD e = (old.getLsbD e && !value.getLsbD e) := by
  rw [BitVec.getLsbD_and, BitVec.getLsbD_not, BitVec.getLsbD_ofNat, Nat.testBit_mod_two_pow, BitVec.testBit_toNat]
  simp [he]

end Sys2Proof.Machine
end

section
/-! CLAIMS. The statements of chapter 00: HB_BOOKS, slot writes, and accesses of another width or alignment. -/

namespace Sys2Proof.Machine

open Sys2Proof

/-- Settles O21: the PF's write reaches the W1C field, and a VF's write ends at the PF-only guard. -/
theorem booksBitsClearedByWriting : Obligations.BooksBitsClearedByWriting := by
  intro value s hclk hready
  have hwrite (f : Fin 16) (hon : barOn s f = true) : exec (.registerWrite f .bar4 0x100700 4 value) s =
      .next (write32 s f .bar4 0x100700 (value.toNat % 2 ^ 32)) :=
    (done_clocked hclk _).trans (by rw [registerWrite_aligned32 value (by decide) hon (by decide)])
  constructor
  · intro hon
    have hpf := hwrite 0 hon
    rw [Fin.val_zero, write32_books _ hready] at hpf
    exact ⟨_, hpf, rfl, fun e he => getLsbD_w1c s.books.failed value he⟩
  · intro f hvf hon
    rw [hwrite f hon, write32_bar4_vf s _ hvf (by decide)]

/-- Settles O37, by the owner bit of the slot that the offset falls in. -/
theorem slotWriteNeedsTheHostsSlot : Obligations.SlotWriteNeedsTheHostsSlot := by
  intro f off width value s hclk hon hwidth halign hoff
  have hexec : exec (.slotWrite f off width value) s = .next (slotWrite s f off width value) := done_clocked hclk _
  rw [slotWrite_of_barOn off width value hon, if_pos ⟨⟨hwidth, halign⟩, hoff⟩] at hexec
  constructor
  · intro howner
    rw [hexec, if_pos howner]
  · intro howner
    rw [if_neg (by simp [howner])] at hexec
    exact ⟨_, hexec, slotBytes_putSlot_same .., fun k hk => slotBytes_putSlot_other s f _ hk,
      fun g hg => fnOf_putSlot_other s _ _ hg, putSlot_eq_with_fns ..⟩

/-- Settles O38: each of the three accesses falls through its guards on width and alignment. -/
theorem otherWidthsDoNothing : Obligations.OtherWidthsDoNothing := by
  intro f bar off width value s hclk hon hbad
  refine ⟨?_, fun hbar => ⟨?_, ?_⟩⟩
  · exact (done_clocked hclk _).trans (by rw [slotWrite_misaligned value hon hbad])
  · exact (done_clocked hclk _).trans (by rw [registerWrite_misaligned value hbar hon hbad])
  · have hread : lowHalfRead s f bar off width = emit s (.readData f (allOnes width) false) := by
      rw [lowHalfRead_bar off width hbar hon, readReg_misaligned s f bar hbad]
    exact (done_clocked hclk _).trans (by rw [hread]; rfl)

end Sys2Proof.Machine
end

section
/-! SUPPORT. What a step keeps, whatever it does: a step runs the command at the front of the queue or lets time pass, and
`Keeps` holds of both. -/

namespace Sys2Proof.Machine

open Sys2Proof

/-- A step's next state keeps what `Keeps` says of the state it found, less the command at the front of the queue. -/
theorem keepsNext_step (s : State) : KeepsNext { s with pending := s.pending.tail } (step s) := by
  unfold step
  cases hqueue : s.pending with
  | nil =>
    have hsame : Keeps { s with pending := [] } s := ⟨hqueue, fun _ => rfl, id⟩
    exact keepsNext_next (keeps_idle s hsame)
  | cons c rest => exact keepsNext_exec c { s with pending := rest }

/-- Once PKG_FUSED is programmed in the Harbour die, a step leaves its fuses as they are (R33, R672). -/
theorem hbFuses_of_step {s t : State} (hfused : s.hbFuses.fused = true) (hstep : step s = .next t) :
    t.hbFuses = s.hbFuses :=
  (keepsNext_step s t hstep).hbFuses hfused

end Sys2Proof.Machine
end

section
/-! CLAIMS. The statement of chapter 01: the identity fuses of the Harbour die. -/

namespace Sys2Proof.Machine

open Sys2Proof

/-- Settles O5: what every step keeps (`keepsNext_step`) holds the Harbour die's fuses, once PKG_FUSED is programmed. -/
theorem harbourFusesKept : Obligations.HarbourFusesKept := by
  rintro v s t ⟨rfl, hfused⟩ hstep
  exact ⟨hbFuses_of_step hfused hstep, hfused⟩

end Sys2Proof.Machine
end

section
/-! SUPPORT. What stores to memory, posted events and the packets of the die links leave as it was. `Traffic s t` says that `t`
differs from `s` at most in memory and its check bits, the error log, the functions' records, the links and their
transactions, the events held for the PF, and the output. -/

namespace Sys2Proof.Machine

open Sys2Proof

/-! ### Folds -/

/-- A relation that holds of every round of a fold holds of the whole fold. -/
theorem foldl_rel {α β : Type} {R : β → β → Prop} (hrefl : ∀ s, R s s) (htrans : ∀ {s t u}, R s t → R t u → R s u)
    {g : β → α → β} (hg : ∀ s x, R s (g s x)) (l : List α) (s : β) : R s (l.foldl g s) := by
  induction l generalizing s with
  | nil => exact hrefl s
  | cons x rest ih => exact htrans (hg s x) (ih (g s x))

/-- What every round of a fold leaves as it was, the whole fold leaves as it was. -/
theorem foldl_proj {α β γ : Type} (p : β → γ) {g : β → α → β} (hg : ∀ s x, p (g s x) = p s) (l : List α) (s : β) :
    p (l.foldl g s) = p s :=
  foldl_rel (R := fun s t => p t = p s) (fun _ => rfl) (fun h k => k.trans h) hg l s

/-! ### The relation -/

/-- `s` with what traffic can change taken from `t`. -/
def withTraffic (s t : State) : State :=
  { s with
    fns := t.fns, mem := t.mem, poison := t.poison, pages := t.pages, scrubs := t.scrubs, links := t.links, txns := t.txns,
    errlog := t.errlog, errNext := t.errNext, pfHeld := t.pfHeld, out := t.out }

def Traffic (s t : State) : Prop := t = withTraffic s t

theorem traffic_refl (s : State) : Traffic s s := rfl

theorem Traffic.eq {s t : State} (h : Traffic s t) : t = withTraffic s t := h

theorem Traffic.trans {s t u : State} (h : Traffic s t) (k : Traffic t u) : Traffic s u :=
  have hbase : withTraffic t u = withTraffic (withTraffic s t) u := congrArg (withTraffic · u) h.eq
  k.eq.trans hbase

theorem Traffic.pins {s t : State} (h : Traffic s t) : t.pins = s.pins := (congrArg State.pins h.eq).trans rfl
theorem Traffic.boot {s t : State} (h : Traffic s t) : t.boot = s.boot := (congrArg State.boot h.eq).trans rfl
theorem Traffic.dies {s t : State} (h : Traffic s t) : t.dies = s.dies := (congrArg State.dies h.eq).trans rfl
theorem Traffic.ledger {s t : State} (h : Traffic s t) : t.ledger = s.ledger := (congrArg State.ledger h.eq).trans rfl

theorem traffic_foldl {α : Type} {g : State → α → State} (hg : ∀ s x, Traffic s (g s x)) (l : List α) (s : State) :
    Traffic s (l.foldl g s) :=
  foldl_rel traffic_refl Traffic.trans hg l s

/-! ### Stores -/

theorem traffic_correctWord (s : State) (addr source : Nat) : Traffic s (correctWord s addr source) := by
  simp only [correctWord, logCorrected]
  split <;> split <;> rfl

theorem traffic_poisonWord (s : State) (addr : Nat) : Traffic s (poisonWord s addr) := by
  simp only [poisonWord]
  split <;> rfl

theorem traffic_overwrite (s : State) (addr : Nat) : Traffic s (overwrite s addr) := by
  simp only [overwrite]
  split <;> rfl

theorem traffic_logErr (s : State) (e : LogEntry) : Traffic s (logErr s e) := rfl

theorem traffic_putMem (s : State) (m : List Host.Cell) : Traffic s (putMem s m) := rfl

theorem traffic_storeWord (s : State) (addr : Nat) (data : List Byte) (ecc : EccSeen) :
    Traffic s (storeWord s addr data ecc).1 := by
  simp only [storeWord]
  split
  · exact traffic_refl s
  split
  · exact (traffic_putMem s _).trans (traffic_overwrite _ addr)
  split
  · exact traffic_logErr s _
  cases ecc with
  | clean => exact traffic_putMem s _
  | corrected => exact (traffic_putMem s _).trans (traffic_correctWord _ addr 1)
  | uncorrectable => exact (traffic_poisonWord s addr).trans (traffic_logErr _ _)

theorem traffic_storeAt (s : State) (addr : Nat) (b : List Byte) (seen : Seen) : Traffic s (storeAt s addr b seen).1 :=
  foldl_rel (R := fun p q : State × List Nat => Traffic p.1 q.1) (fun p => traffic_refl p.1) Traffic.trans
    (fun p _ => traffic_storeWord p.1 _ _ _) _ _

theorem traffic_writePiece (s : State) (f dva : Nat) (b : List Byte) (bulk ep : Bool) (seen : Seen) :
    Traffic s (writePiece s f dva b bulk ep seen).1 := by
  simp only [writePiece]
  split
  · rfl
  · exact traffic_storeAt s _ b seen
  · rfl

theorem traffic_writePieces (f : Nat) (bulk ep : Bool) (seen : Seen) (fuel : Nat) (s : State) (dva : Nat) (b : List Byte) :
    Traffic s (writePieces f bulk ep seen fuel s dva b).1 := by
  induction fuel generalizing s dva b with
  | zero => rfl
  | succ fuel ih =>
    cases b with
    | nil => rfl
    | cons x rest => exact (traffic_writePiece s f dva _ bulk ep seen).trans (ih _ _ _)

theorem traffic_writeDva (s : State) (f dva : Nat) (b : List Byte) (bulk ep : Bool) :
    Traffic s (writeDva s f dva b bulk ep) :=
  traffic_writePieces f bulk ep [] b.length s dva b

/-! ### Events -/

theorem traffic_updFn (s : State) (f : Nat) (g : Fn → Fn) : Traffic s (updFn s f g) := rfl

theorem traffic_fireVector (s : State) (f v : Nat) : Traffic s (fireVector s f v) := by
  simp only [fireVector]
  split <;> rfl

theorem traffic_putEntry (s : State) (f : Nat) (e : Event) : Traffic s (putEntry s f e) :=
  (traffic_writeDva s f _ _ false false).trans (traffic_updFn _ f _)

theorem traffic_putEvent (s : State) (f : Nat) (e : Event) : Traffic s (putEvent s f e) := by
  have hlost : Traffic s (updFn (cnt s f 0x320 1) f (fun x => { x with evq := { x.evq with overflow := true } })) := rfl
  simp only [putEvent]
  split
  · exact traffic_putEntry s f e
  split
  · exact hlost.trans (traffic_putEntry _ f _)
  · exact hlost

theorem traffic_enqueue (s : State) (f : Nat) (e : Event) : Traffic s (enqueue s f e) := by
  simp only [enqueue]
  split
  · exact (traffic_putEvent s f e).trans (traffic_fireVector _ f _)
  split
  · exact traffic_updFn s f _
  · exact (traffic_updFn s f _).trans (traffic_fireVector _ f _)

theorem traffic_post (s : State) (f : Nat) (e : Event) : Traffic s (post s f e) := by
  simp only [post]
  split
  · exact traffic_enqueue s f _
  split
  · split <;> rfl
  · rfl

/-! ### Packets on the die links -/

theorem traffic_updLink (s : State) (l : Nat) (g : Link → Link) : Traffic s (updLink s l g) := rfl

theorem traffic_linkDead (s : State) (l : Nat) (st : LinkState) : Traffic s (linkDead s l st) := rfl

theorem traffic_putParcel (s : State) (start : Nat) (p : Parcel) : Traffic s (putParcel s start p) := by
  simp only [putParcel]
  split <;> rfl

theorem traffic_sendRequest (s : State) (t : OutTxn) : Traffic s (sendRequest s t) := traffic_putParcel s _ _

theorem traffic_setPoison (s : State) (addr : Nat) : Traffic s (setPoison s addr) := rfl

theorem traffic_storeMarked (s : State) (addr start : Nat) (b : List Byte) (poison : List Nat) :
    Traffic s (storeMarked s addr start b poison) :=
  (traffic_storeAt s addr b []).trans (traffic_foldl (fun t _ => traffic_setPoison t _) _ _)

theorem traffic_finishTxn (s : State) (t : OutTxn) (a : Answer) : Traffic s (finishTxn s t a) := by
  have hended : Traffic s { s with txns := s.txns.filter (fun u => !sameTxn t u) } := rfl
  simp only [finishTxn]
  split
  · split
    · exact hended
    · exact hended.trans (traffic_storeMarked _ _ _ _ _)
  · exact hended

theorem traffic_arrive (s : State) (p : Parcel) : Traffic s (arrive s p) := by
  simp only [arrive]
  split
  · rfl
  split
  · rfl
  split
  · split <;> rfl
  · split
    · exact traffic_finishTxn s _ _
    · rfl
  · rfl

theorem traffic_passOnward (s : State) (l : Nat) (fromFirst : Bool) (p : Parcel) :
    Traffic s (passOnward s l fromFirst p) := by
  have hlatched : Traffic s (if isMarker p then latchEnd s l fromFirst else s) := by split <;> rfl
  simp only [passOnward]
  split
  · exact hlatched.trans (traffic_arrive _ p)
  · exact hlatched.trans (traffic_putParcel _ _ _)

theorem traffic_sendFlit (s : State) (l : Nat) (fromFirst : Bool) (vc : Nat) : Traffic s (sendFlit s l fromFirst vc) := by
  simp only [sendFlit]
  split
  · rfl
  · exact (traffic_updLink s l _).trans (traffic_foldl (fun t p => traffic_passOnward t l fromFirst p) _ _)

theorem traffic_pumpFlits (fuel : Nat) (s : State) : Traffic s (pumpFlits fuel s) := by
  induction fuel generalizing s with
  | zero => rfl
  | succ fuel ih =>
    simp only [pumpFlits]
    split
    · rfl
    · exact (traffic_sendFlit s _ _ _).trans (ih _)

theorem traffic_pump (s : State) : Traffic s (pump s) := traffic_pumpFlits _ s

theorem traffic_dropParcels (s : State) (t : OutTxn) : Traffic s (dropParcels s t) := rfl

theorem traffic_settleTxns (s : State) (l : Nat) : Traffic s (settleTxns s l) := by
  have hgone : Traffic s { s with txns := s.txns.filter (fun t => !t.links.contains l) } := rfl
  have hreissue (t : State) (x : OutTxn) : Traffic t (sendRequest (logErr { t with txns := t.txns ++ [x] }
      { seq := 0, code := 0x31, cls := 1, addr := x.txn.addr, detail := le 1 l }) x) :=
    have hlogged : Traffic t (logErr { t with txns := t.txns ++ [x] }
      { seq := 0, code := 0x31, cls := 1, addr := x.txn.addr, detail := le 1 l }) := rfl
    hlogged.trans (traffic_sendRequest _ x)
  exact ((hgone.trans (traffic_foldl traffic_dropParcels _ _)).trans (traffic_foldl hreissue _ _)).trans (traffic_pump _)

end Sys2Proof.Machine
end

section
/-! SUPPORT. The latched thermal trip (02 R47): which operations leave THERMTRIP_N as it was, and what a command that needs a
clock of a die can answer. -/

namespace Sys2Proof.Machine

open Sys2Proof

/-! ### A change of health, and device-fatal conditions -/

@[simp] theorem noteHealth_thermtrip (s : State) : (noteHealth s).pins.thermtrip = s.pins.thermtrip := by
  simp only [noteHealth]
  split <;> rfl

@[simp] theorem noteHealth_faultLow (s : State) : (noteHealth s).pins.faultLow = s.pins.faultLow := by
  simp only [noteHealth]
  split <;> rfl

@[simp] theorem noteHealth_readyOut (s : State) : (noteHealth s).pins.readyOut = s.pins.readyOut := by
  simp only [noteHealth]
  split <;> rfl

/-- A change of health shows in the management controller's record and on SMB_ALERT_N alone. -/
theorem noteHealth_frame (s : State) :
    noteHealth s = { s with mgmt := (noteHealth s).mgmt, pins := (noteHealth s).pins } := by
  simp only [noteHealth]
  split <;> rfl

@[simp] theorem noteHealth_boot (s : State) : (noteHealth s).boot = s.boot := by rw [noteHealth_frame]
@[simp] theorem noteHealth_dies (s : State) : (noteHealth s).dies = s.dies := by rw [noteHealth_frame]
@[simp] theorem noteHealth_fns (s : State) : (noteHealth s).fns = s.fns := by rw [noteHealth_frame]
@[simp] theorem noteHealth_mem (s : State) : (noteHealth s).mem = s.mem := by rw [noteHealth_frame]
@[simp] theorem noteHealth_ledger (s : State) : (noteHealth s).ledger = s.ledger := by rw [noteHealth_frame]
theorem aer_pins (s : State) (f : Nat) (e : AerErr) : (aer s f e).pins = s.pins := rfl

@[simp] theorem deviceFatal_thermtrip (s : State) (cause : Nat) :
    (deviceFatal s cause).pins.thermtrip = s.pins.thermtrip := by
  simp only [deviceFatal]
  split
  · rfl
  · simp [aer_pins]

/-! ### Loss of a die, and start-up -/

@[simp] theorem avsTowards_pins (s : State) (d target : Nat) : (avsTowards s d target).pins = s.pins := by
  simp only [avsTowards]
  split
  · rfl
  split <;> rfl

@[simp] theorem endDieFw_pins (s : State) : (endDieFw s).pins = s.pins := by
  simp only [endDieFw]
  split
  · exact (foldl_proj State.pins (fun t d => avsTowards_pins t d _) _ _).trans (setStage_pins s 6)
  · rfl

@[simp] theorem endTraining_pins (s : State) : (endTraining s).pins = s.pins := by
  simp only [endTraining]
  split <;> simp

@[simp] theorem loseDie_thermtrip (s : State) (d cause : Nat) :
    (loseDie s d cause).pins.thermtrip = s.pins.thermtrip := by
  have hlinks (l : List Nat) (t : State) :
      (l.foldl (fun s l => settleTxns (linkDead s l .stranded) l) t).pins = t.pins :=
    (traffic_foldl (fun t l => (traffic_linkDead t l .stranded).trans (traffic_settleTxns _ l)) l t).pins
  simp only [loseDie]
  split
  · rw [noteHealth_thermtrip]
    split
    · rw [deviceFatal_thermtrip, hlinks]; rfl
    · rw [hlinks]; rfl
  · rfl

@[simp] theorem dieClockLost_thermtrip (s : State) (d : Nat) :
    (dieClockLost s d).pins.thermtrip = s.pins.thermtrip := by
  simp only [dieClockLost, endTraining_pins, endDieFw_pins]
  split <;> simp

/-- A latched trip stops start-up (R47). -/
theorem startUp_of_trip {s : State} (htrip : s.pins.thermtrip = true) : startUp s = s := if_pos htrip

/-! ### Package resets and pins (R45, R47) -/

@[simp] theorem packageReset_thermtrip (s : State) (last : Nat) (hot : Bool) :
    (packageReset s last hot).pins.thermtrip = s.pins.thermtrip :=
  noteHealth_thermtrip _

@[simp] theorem keepFatal_thermtrip (old s : State) : (keepFatal old s).pins.thermtrip = s.pins.thermtrip := rfl

theorem assertPerst_thermtrip (s : State) : (assertPerst s).pins.thermtrip = s.pins.thermtrip :=
  packageReset_thermtrip s 2 false

theorem deassertPerst_trip {s : State} (straps : Straps) (early : Bool) (htrip : s.pins.thermtrip = true) :
    (deassertPerst s straps early).pins.thermtrip = true := by
  simp only [deassertPerst]
  split
  · exact htrip
  · rwa [startUp_of_trip (by exact htrip)]

theorem takeDeassertion_trip {s : State} (straps : Straps) (htrip : s.pins.thermtrip = true) :
    (takeDeassertion s straps).pins.thermtrip = true := by
  rwa [takeDeassertion, startUp_of_trip (by exact htrip)]

/-- A rail that is not one of a die's acts as the fall of PWR_GOOD_IN; of a die's rails the die is lost (R687). -/
theorem railFault_thermtrip (s : State) {rail : Rail} (hdie : powerEvent (.railFault rail) = false) :
    (railFault s rail).pins.thermtrip = s.pins.thermtrip := by
  cases rail with
  | crest d => exact dieClockLost_thermtrip s d.val
  | hbmPlane d => exact dieClockLost_thermtrip s d.val
  | other => cases hdie

theorem fallEpr_trip {s : State} (htrip : s.pins.thermtrip = true) : (fallEpr s).pins.thermtrip = true := by
  simp only [fallEpr, htrip, if_true]

theorem unlockReset_trip {s : State} (htrip : s.pins.thermtrip = true) : (unlockReset s).pins.thermtrip = true := by
  simp only [unlockReset]
  split
  · simpa using htrip
  split
  · rw [startUp_of_trip] <;> simpa using htrip
  · simpa using htrip

end Sys2Proof.Machine
end

section
/-! SUPPORT. What a command can answer while a thermal trip is latched (02 R47; log entry 94): one that needs a clock of a
die leaves the state, any other but those of the board's power leaves the trip. -/

namespace Sys2Proof.Machine

open Sys2Proof

/-! ### Commands that need a clock -/

/-- The answers of a command that needs a clock: that of an access, that of an event, or no next state. -/
def ClockedAnswer (s : State) (o : Host.Outcome State Fault Refusal) : Prop :=
  (∃ t, o = done s t) ∨ (∃ can what t, o = occurs s can what t) ∨ ∀ t, o ≠ .next t

theorem clockedAnswer_done (s t : State) : ClockedAnswer s (done s t) := .inl ⟨t, rfl⟩

theorem clockedAnswer_occurs (s : State) (can : Bool) (what : String) (t : State) : ClockedAnswer s (occurs s can what t) :=
  .inr (.inl ⟨can, what, t, rfl⟩)

theorem clockedAnswer_refused (s : State) (r : Refusal) : ClockedAnswer s (.refused r) := .inr (.inr fun _ h => nomatch h)

theorem clockedAnswer_fault (s : State) (r : Fault) : ClockedAnswer s (.fault r) := .inr (.inr fun _ h => nomatch h)

theorem clockedAnswer_runControl (s : State) (f r typ : Nat) (act : State → ReqDesc → Nat → State) :
    ClockedAnswer s (runControl s f r typ act) := by
  simp only [runControl]
  split
  · exact clockedAnswer_occurs ..
  · exact clockedAnswer_refused ..

theorem clockedAnswer_runStream (s : State) (f r typ : Nat) (act : Nat → Nat → StrDesc → State) :
    ClockedAnswer s (runStream s f r typ act) := by
  simp only [runStream]
  split
  · exact clockedAnswer_occurs ..
  · exact clockedAnswer_refused ..

theorem clockedAnswer_returnAnswer (s : State) (tag : Nat) (src : Fin 5) (kind : OutTxn → Answer → Bool) :
    ClockedAnswer s (returnAnswer s tag src kind) := by
  simp only [returnAnswer]
  split
  · exact clockedAnswer_occurs ..
  · exact clockedAnswer_refused ..

/-- An answer that a latched trip stops: the state it started from, or none. -/
theorem ClockedAnswer.eq_of_trip {s t : State} {o : Host.Outcome State Fault Refusal} (h : ClockedAnswer s o)
    (htrip : s.pins.thermtrip = true) (hnext : o = .next t) : t = s := by
  rcases h with ⟨u, rfl⟩ | ⟨can, what, u, rfl⟩ | hnone
  · rw [done_next_iff] at hnext
    rw [hnext, if_pos htrip]
  · obtain ⟨-, hclk, -⟩ := (occurs_next_iff ..).1 hnext
    exact absurd (htrip.symm.trans hclk) (by decide)
  · exact absurd hnext (hnone t)

/-- What a command that needs a clock answers, by the way its row is taken: an access of the host acts in every state, an
event where it can occur, a mailbox command where it may start, a descriptor where it is next on its ring. -/
theorem clockedAnswer_exec {c : Instr} (s : State) (hclocked : clockedCommand c = true) : ClockedAnswer s (exec c s) := by
  cases c with
  | bmeClear | bmeSet | initiateFlr | vfEnableClear | vfEnableSet | d3hotEntry | d0Return | atomicopReceived | bar2Read
  | bar2Write | invalidationRequest | msixUnmask | registerWrite | lowHalfRead | slotWrite | dbMboxWrite | dbRingWrite
  | evqConsWrite | shootdown | bankHandover | receiverError => exact clockedAnswer_done ..
  | hotReset | refclkLoss | crestPllLoss | preReadyMsMark | harbourPllLock | harbourPllTimeout | fwVerifyDone
  | configSpaceReady | rollCallStart | rollCallAnswer | rollCallSilent | neighbourExchange | neighbourExchangeTimeout
  | dieFwLoaded | selfCalDone | memTrainingDone | memoryInitDone | readySet | bootTimeout | flrComplete | completionReceived
  | prgResponse | prgResponseTimeout | commandCommit | deviceInfo | diagBootlog | writebackUpdate | cpWatchdogExpiry
  | controlCoreFault | cpRestartEnd | cpRestartTimeout | dieManagerWatchdog | dieManagerRestartDone | tideBoundary
  | tideReport | tideReportTimeout | tideGrant | allowance97Reached | allowanceExhausted | fastTripPower | fastTripEnd
  | tempUpdate | prefillStepForm | decodeStepForm | stepLayerBoundary | stepCommit | drainStepTimeout | holdStepTimeout
  | cardingLaneTake | cardingChunk | bintableStaged | feltingLaneTake | tidepoolMoveDone | tidepoolExpiry
  | tidepoolReturnDone | ledgerEntryFreed | patrolRead | pageZeroed | pageWalkDone | stepFaultWaitTimeout | tablePageRebuilt
  | shootdownComplete | bankAccess | handoverDone | firmwareBankReclaim | linkTrained | linkTrainingTimeout | flitReceived
  | replayRequest | ackTimeout | flitRetryLimit | rdReq | wrReq | auditMarker | recentreDue | recentreGapForced | groupDisable
  | partnerClockStop | dieLossPath | dieResetApplied | slackTideStart | slackTideEnd | groupMovePrepared | avsFrameAck
  | avsNoAck | avsStepSettled | crestRootPllLock | pcieLinkUp | vocabImageReloaded => exact clockedAnswer_occurs ..
  | functionOpen | functionClose | engineEnable | regionDestroy | bar2WindowSet | modelUnload | modelInfo | vocabUnload
  | bintableUnload | grammarUnload | requestQuery | ringOpen | ringClose | streamOpen | streamClose | configRead
  | commitConfig | configDiscard | energyLimitSet | energyReport | errlogRead | regionCreate | modelLoad | vocabLoad
  | bintableLoad | grammarLoad | booksAudit | dieReset | dieRejoin => exact clockedAnswer_occurs ..
  | configStage | descriptorFetch | msixHoldoffExpiry | carryStateSpill | poisonDisposition | ceCountRetire | seizureDone
  | marchDone | grammarCopyBuilt => exact clockedAnswer_occurs ..
  | cancel | pause | resume | close => exact clockedAnswer_runControl ..
  | textIn | numIn | textOut | numOut => exact clockedAnswer_runStream ..
  | rdRsp | wrAck | errRsp => exact clockedAnswer_returnAnswer ..
  | completionTimeoutExpiry | tagQuarantineExpiry | translationCompletion =>
    simp only [exec, execCompletionTimeoutExpiry, execTagQuarantineExpiry, execTranslationCompletion]
    split
    · exact clockedAnswer_done ..
    · exact clockedAnswer_refused ..
  | submit | admitHoldTimeout | maskReady | migrationDone | absentFaultServiced | tidepoolFaultServiced
  | tidepoolFaultPageFreed | preemptFaultWaitTimeout =>
    simp only [exec, execSubmit, execAdmitHoldTimeout, execMaskReady, execMigrationDone, execAbsentFaultServiced,
      execTidepoolFaultServiced, execTidepoolFaultPageFreed, execPreemptFaultWaitTimeout]
    split
    · exact clockedAnswer_occurs ..
    · exact clockedAnswer_refused ..
  | dieRejoinDone =>
    simp only [exec, execDieRejoinDone]
    split
    · exact clockedAnswer_refused ..
    · exact clockedAnswer_occurs ..
  | marchRun =>
    simp only [exec, execMarchRun]
    split
    · exact clockedAnswer_refused ..
    · exact clockedAnswer_occurs ..
  | demandRead =>
    simp only [exec, execDemandRead]
    split
    · exact clockedAnswer_done ..
    · exact clockedAnswer_fault ..
  | fullWrite | partialWrite =>
    simp only [exec, execFullWrite, execPartialWrite]
    split
    · exact clockedAnswer_fault ..
    · exact clockedAnswer_occurs ..
  | railFault rail => cases rail <;> cases hclocked
  | _ => cases hclocked

/-! ### Commands that need none -/

/-- The next state that an outcome names, if it names one, holds the trip. -/
def TripNext (o : Host.Outcome State Fault Refusal) : Prop := ∀ t, o = .next t → t.pins.thermtrip = true

theorem tripNext_occursAlways {t : State} (can : Bool) (what : String) (htrip : t.pins.thermtrip = true) :
    TripNext (occursAlways can what t) := by
  intro u hnext
  obtain ⟨-, rfl⟩ := (occursAlways_next_iff ..).1 hnext
  exact htrip

@[simp] theorem pldm_pins (s : State) (typ cmd cc : Nat) (data : List Byte) : (pldm s typ cmd cc data).pins = s.pins := rfl

@[simp] theorem tapped_pins (s : State) (opcode : Nat) (t : State) : (tapped s opcode t).pins = t.pins := rfl

@[simp] theorem updTarget_pins (s : State) (c : Nat) (g : FwCopy → FwCopy) : (updTarget s c g).pins = s.pins := rfl

/-! #### Management bus: MCTP control and PLDM monitoring -/

@[simp] theorem setEid_pins (s : State) (op : BitVec 2) (eid : Byte) : (setEid s op eid).pins = s.pins := by
  simp only [setEid]
  split <;> rfl

@[simp] theorem mctpVersions_pins (s : State) (t : Byte) : (mctpVersions s t).pins = s.pins := by
  simp only [mctpVersions]
  split <;> rfl

@[simp] theorem setTid_pins (s : State) (tid : Byte) : (setTid s tid).pins = s.pins := by
  simp only [setTid]
  split <;> rfl

@[simp] theorem pldmVersion_pins (s : State) (typ : Byte) : (pldmVersion s typ).pins = s.pins := by
  simp only [pldmVersion]
  split <;> rfl

@[simp] theorem pldmCmds_pins (s : State) (typ : Byte) : (pldmCmds s typ).pins = s.pins := by
  simp only [pldmCmds]
  split <;> rfl

@[simp] theorem getPdr_pins (s : State) (record : Nat) : (getPdr s record).pins = s.pins := by
  simp only [getPdr]
  split <;> rfl

@[simp] theorem sensorReading_pins (s : State) (n : Nat) : (sensorReading s n).pins = s.pins := by
  simp only [sensorReading]
  split
  · rfl
  split <;> rfl

@[simp] theorem stateSensor_pins (s : State) (n : Nat) : (stateSensor s n).pins = s.pins := by
  simp only [stateSensor]
  split <;> rfl

@[simp] theorem setEffecter_pins (s : State) (n v : Nat) : (setEffecter s n v).pins = s.pins := by
  simp only [setEffecter]
  split
  · rfl
  split <;> rfl

@[simp] theorem getEffecter_pins (s : State) (n : Nat) : (getEffecter s n).pins = s.pins := by
  simp only [getEffecter]
  split <;> rfl

/-! #### Management bus: firmware update -/

@[simp] theorem requestUpdate_pins (s : State) : (requestUpdate s).pins = s.pins := by
  simp only [requestUpdate]
  split <;> rfl

@[simp] theorem passTable_pins (s : State) (comps : List Nat) : (passTable s comps).pins = s.pins := by
  simp only [passTable]
  split <;> rfl

@[simp] theorem updateComponent_pins (s : State) (c size : Nat) : (updateComponent s c size).pins = s.pins := by
  simp only [updateComponent]
  split
  · rfl
  split <;> rfl

@[simp] theorem takeData_pins (s : State) (n : Nat) : (takeData s n).pins = s.pins := by
  simp only [takeData]
  split <;> rfl

@[simp] theorem updateOver_pins (s : State) : (updateOver s).pins = s.pins := rfl

theorem foldl_updTarget_pins (g : FwCopy → FwCopy) (comps : List Nat) (s : State) :
    (comps.foldl (fun s c => updTarget s c g) s).pins = s.pins :=
  foldl_proj State.pins (fun t c => updTarget_pins t c g) comps s

@[simp] theorem activate_pins (s : State) : (activate s).pins = s.pins := by
  simp only [activate]
  split
  · simp [foldl_updTarget_pins]
  · rfl

@[simp] theorem abandonUpdate_pins (s : State) : (abandonUpdate s).pins = s.pins := foldl_updTarget_pins _ _ s

@[simp] theorem cancelUpdate_pins (s : State) : (cancelUpdate s).pins = s.pins := by
  simp only [cancelUpdate]
  split
  · rfl
  · simp

/-! #### SPDM -/

theorem atPhase_pins {s t : State} (conn phase : Nat) (h : t.pins = s.pins) : (atPhase s conn phase t).pins = s.pins := by
  simp only [atPhase]
  split
  · exact h
  · rfl

@[simp] theorem getCapabilities_pins (s : State) (conn : Nat) : (getCapabilities s conn).pins = s.pins :=
  atPhase_pins conn 1 rfl

@[simp] theorem negotiate_pins (s : State) (conn : Nat) (ok : Bool) : (negotiate s conn ok).pins = s.pins :=
  atPhase_pins conn 2 (by split <;> rfl)

@[simp] theorem getCertificate_pins (s : State) (conn slot off len : Nat) :
    (getCertificate s conn slot off len).pins = s.pins := by
  simp only [getCertificate]
  split <;> rfl

@[simp] theorem signedResponse_pins (s : State) (conn req : Nat) : (signedResponse s conn req).pins = s.pins := by
  simp only [signedResponse]
  split <;> rfl

@[simp] theorem askSign_pins (s : State) (conn req : Nat) : (askSign s conn req).pins = s.pins := by
  simp only [askSign]
  split <;> rfl

@[simp] theorem challengeReq_pins (s : State) (conn slot : Nat) : (challengeReq s conn slot).pins = s.pins := by
  simp only [challengeReq]
  split
  · rfl
  split
  · rfl
  · exact askSign_pins s conn _

@[simp] theorem getMeasurements_pins (s : State) (conn : Nat) (signed : Bool) (index : Nat) :
    (getMeasurements s conn signed index).pins = s.pins := by
  simp only [getMeasurements]
  split
  · rfl
  split
  · rfl
  split
  · rfl
  · exact askSign_pins s conn _

@[simp] theorem respondIfReady_pins (s : State) (conn token : Nat) : (respondIfReady s conn token).pins = s.pins := by
  simp only [respondIfReady]
  split
  · split
    · rfl
    split
    · exact signedResponse_pins _ conn _
    · rfl
  · rfl

@[simp] theorem signingDone_pins (s : State) : (signingDone s).pins = s.pins := by
  simp only [signingDone]
  split
  · rfl
  split
  · rfl
  · exact signedResponse_pins _ _ _

/-! #### Test port -/

theorem dbgResponse_trip {s : State} (level : Nat) (sigOk : Bool) (htrip : s.pins.thermtrip = true) :
    (dbgResponse s level sigOk).pins.thermtrip = true := by
  simp only [dbgResponse]
  split
  · exact htrip
  split
  · split
    · exact unlockReset_trip htrip
    · exact htrip
  · exact htrip

@[simp] theorem testAccess_pins (s : State) (op arg : Nat) : (testAccess s op arg).pins = s.pins := by
  simp only [testAccess]
  split_ifs <;> rfl

@[simp] theorem fuseProg_pins (s : State) (d : Nat) (field : FuseField) : (fuseProg s d field).pins = s.pins := by
  simp only [fuseProg]
  split
  · rfl
  cases field with
  | keyHash k h => dsimp only; split <;> rfl
  | pkgFused | pkgPos | pkgSerial => dsimp only; split_ifs <;> rfl

@[simp] theorem regRead_pins (s : State) (off : Nat) : (regRead s off).pins = s.pins := by
  simp only [regRead]
  split
  · rfl
  split
  · split <;> rfl
  split
  · rfl
  split <;> rfl

/-! ### Every command under a latched trip -/

/-- A command that needs no clock, and is none of the board's power, leaves a latched trip. -/
theorem tripNext_exec_unclocked {c : Instr} {s : State} (hunclocked : clockedCommand c = false)
    (hpower : powerEvent c = false) (htrip : s.pins.thermtrip = true) : TripNext (exec c s) := by
  cases c with
  | perstNAssert => exact tripNext_occursAlways _ _ ((assertPerst_thermtrip s).trans htrip)
  | perstNDeassert straps early => exact tripNext_occursAlways _ _ (deassertPerst_trip straps early htrip)
  | perstNDeassertionTaken straps => exact tripNext_occursAlways _ _ (takeDeassertion_trip straps htrip)
  | railFault rail => exact tripNext_occursAlways _ _ ((railFault_thermtrip s hpower).trans htrip)
  | eprNFall => exact tripNext_occursAlways _ _ (fallEpr_trip htrip)
  | dbgResponse level sigOk => exact tripNext_occursAlways _ _ (dbgResponse_trip level sigOk htrip)
  | eprNRise | getEndpointId | getMessageTypeSupport | mctpUnsupportedCmd | smbusAlertResponse | getTid | getPldmTypes
  | getPdrRepositoryInfo | verifyComplete | applyComplete | getVersion | tapReset | samplePreload | dbgChallenge
  | bypass => exact tripNext_occursAlways _ _ htrip
  | setEndpointId | getMctpVersionSupport | setTid | getPldmVersion | getPldmCommands | getPdr | getSensorReading
  | getStateSensorReadings | setNumericEffecterValue | getNumericEffecterValue | requestUpdate | passComponentTable
  | updateComponent | firmwareDataReceived | activateFirmware | cancelUpdate | updateIdleTimeout | getCapabilities
  | negotiateAlgorithms | respondIfReady | signingDone | testAccess | fuseProg | regRead =>
    exact tripNext_occursAlways _ _ (by simpa using htrip)
  | getDigests conn | getCertificate conn | challenge conn | getMeasurements conn =>
    exact tripNext_occursAlways _ _ (by rwa [atPhase_pins (s := s) conn 3 (by simp)])
  | extest | idcode => exact tripNext_occursAlways _ _ (by rw [tapped_pins]; split <;> exact htrip)
  | dieSelect =>
    simp only [exec, execDieSelect]
    split <;> exact tripNext_occursAlways _ _ htrip
  | pwrGoodInRise | pwrGoodInFall | railReturn => cases hpower
  | _ => cases hunclocked

/-- Under a latched trip the next state of every command, those of the board's power apart, holds the trip. -/
theorem tripNext_exec {c : Instr} {s : State} (hpower : powerEvent c = false) (htrip : s.pins.thermtrip = true) :
    TripNext (exec c s) := by
  cases hclocked : clockedCommand c with
  | false => exact tripNext_exec_unclocked hclocked hpower htrip
  | true =>
    intro t hnext
    rwa [(clockedAnswer_exec s hclocked).eq_of_trip htrip hnext]

/-- While a trip is latched no time passes. -/
theorem idle_of_trip {s : State} (htrip : s.pins.thermtrip = true) : idle s = s := by
  simp [idle, htrip]

end Sys2Proof.Machine
end

section
/-! CLAIMS. The statements of chapter 02 about the latched thermal trip. -/

namespace Sys2Proof.Machine

open Sys2Proof

/-- Settles O6: an empty queue lets no time pass, the command at its front leaves the trip, and the rest of the queue is
what waits then. -/
theorem tripKept : Obligations.TripKept := by
  rintro s t ⟨htrip, hqueue⟩ hstep
  have hpending : t.pending = s.pending.tail := (keepsNext_step s t hstep).pending
  refine ⟨?_, fun c hc => hqueue c (List.mem_of_mem_tail (hpending ▸ hc))⟩
  unfold step at hstep
  split at hstep
  · cases hstep
    rwa [idle_of_trip htrip]
  next c rest hcons =>
    exact tripNext_exec (s := { s with pending := rest }) (hqueue c (by simp [hcons])) htrip t hstep

/-- Settles O7: what a clocked command can answer, and the power-on reset of the falling PWR_GOOD_IN. -/
theorem tripStopsClocksUntilPowerFalls : Obligations.TripStopsClocksUntilPowerFalls :=
  ⟨fun _ s _ hclocked htrip hnext => (clockedAnswer_exec s hclocked).eq_of_trip htrip hnext,
    fun s hpower _ => ⟨fallPwr s, occursAlways_next hpower _ _, rfl, rfl⟩⟩

end Sys2Proof.Machine
end

section
/-! SUPPORT. Crest dies and energy domains: what a fold of updates leaves in a die's record, and that posting the event of a
halving changes none (02 R41, R44; 19 R567, R573). -/

namespace Sys2Proof.Machine

open Sys2Proof

/-! ### A die's record -/

@[simp] theorem dieOf_updDie_same (s : State) (d : Nat) (g : Die → Die) : dieOf (updDie s d g) d = g (dieOf s d) := by
  simp [dieOf, tmod]

theorem dieOf_updDie_other (s : State) {d other : Nat} (g : Die → Die) (h : other ≠ d) :
    dieOf (updDie s d g) other = dieOf s other := by
  simp [dieOf, tmod, tget_tput_other _ _ _ h]

@[simp] theorem domOf_updDom_same (s : State) (d : Nat) (g : Domain → Domain) : domOf (updDom s d g) d = g (domOf s d) := by
  simp [domOf, tmod]

theorem domOf_updDom_other (s : State) {d other : Nat} (g : Domain → Domain) (h : other ≠ d) :
    domOf (updDom s d g) other = domOf s other := by
  simp [domOf, tmod, tget_tput_other _ _ _ h]

/-- A fold of updates of dies that all differ from one leaves that one's record. -/
theorem dieOf_foldl_updDie_other (g : Die → Die) {l : List Nat} {d : Nat} (hd : d ∉ l) (s : State) :
    dieOf (l.foldl (fun s d => updDie s d g) s) d = dieOf s d := by
  induction l generalizing s with
  | nil => rfl
  | cons x rest ih =>
    rw [List.foldl_cons, ih (List.not_mem_of_not_mem_cons hd), dieOf_updDie_other s g (List.ne_of_not_mem_cons hd)]

/-- A fold that updates a die once. -/
theorem dieOf_foldl_updDie_mem (g : Die → Die) {l : List Nat} {d : Nat} (hnodup : l.Nodup) (hd : d ∈ l) (s : State) :
    dieOf (l.foldl (fun s d => updDie s d g) s) d = g (dieOf s d) := by
  induction l generalizing s with
  | nil => cases hd
  | cons x rest ih =>
    obtain ⟨hx, hrest⟩ := List.nodup_cons.1 hnodup
    rw [List.foldl_cons]
    rcases List.mem_cons.1 hd with rfl | hmem
    · rw [dieOf_foldl_updDie_other g hx, dieOf_updDie_same]
    · rw [ih hrest hmem, dieOf_updDie_other s g (by rintro rfl; exact hx hmem)]

@[simp] theorem foldl_updDie_pins (g : Die → Die) (l : List Nat) (s : State) :
    (l.foldl (fun s d => updDie s d g) s).pins = s.pins :=
  foldl_proj State.pins (fun t d => updDie_pins t d g) l s

@[simp] theorem foldl_updDom_pins (g : Domain → Domain) (l : List Nat) (s : State) :
    (l.foldl (fun s d => updDom s d g) s).pins = s.pins :=
  foldl_proj State.pins (fun t d => updDom_pins t d g) l s

@[simp] theorem foldl_updDom_dies (g : Domain → Domain) (l : List Nat) (s : State) :
    (l.foldl (fun s d => updDom s d g) s).dies = s.dies :=
  foldl_proj State.dies (fun t d => updDom_dies t d g) l s

/-! ### Halvings -/

/-- The event that a halving may post changes no die and no pin. -/
theorem startHalving_dies (s : State) (dies : List Nat) (cause : Nat) (g : Die → Die) :
    (startHalving s dies cause g).dies = (dies.foldl (fun s d => updDie s d g) s).dies := by
  simp only [startHalving]
  split
  · rfl
  · rw [(traffic_post _ _ _).dies, foldl_updDom_dies]

theorem startHalving_pins (s : State) (dies : List Nat) (cause : Nat) (g : Die → Die) :
    (startHalving s dies cause g).pins = s.pins := by
  simp only [startHalving]
  split
  · exact foldl_updDie_pins g dies s
  · rw [(traffic_post _ _ _).pins, foldl_updDom_pins, foldl_updDie_pins]

theorem dieOf_startHalving_mem (g : Die → Die) {dies : List Nat} {d : Nat} (hnodup : dies.Nodup) (hd : d ∈ dies)
    (s : State) (cause : Nat) : dieOf (startHalving s dies cause g) d = g (dieOf s d) := by
  rw [dieOf, startHalving_dies]
  exact dieOf_foldl_updDie_mem g hnodup hd s

@[simp] theorem eprAbsent_pins (s : State) : (eprAbsent s).pins = s.pins := foldl_updDie_pins _ _ s

/-- A die that planning counts is there. -/
theorem state_ne_absent_of_domUsable {s : State} {d : Nat} (hlt : d < 4) (husable : domUsable s d = true) :
    (dieOf s d).state ≠ .absent := by
  intro habsent
  simp [domUsable, dieUsable, habsent, hlt.ne] at husable

theorem dieOf_eprAbsent {s : State} {d : Nat} (hthere : (dieOf s d).state ≠ .absent) :
    dieOf (eprAbsent s) d = dieOf s d :=
  dieOf_foldl_updDie_other _ (by simp [hthere]) s

theorem nodup_eprDies (s : State) : (eprDies s).Nodup := List.nodup_range.filter _

theorem mem_eprDies {s : State} {d : Nat} (hlt : d < 4) (husable : domUsable s d = true) : d ∈ eprDies s := by
  simp [eprDies, hlt, husable]

theorem fallEpr_eprN (s : State) : (fallEpr s).pins.eprN = false := by
  simp only [fallEpr]
  split
  · rfl
  · rw [startHalving_pins, eprAbsent_pins]

/-- The fall of EPR_N sets its halving on every die that planning counts, and changes nothing else of it (R41). -/
theorem dieOf_startHalving_epr {s : State} {d : Nat} (hlt : d < 4) (husable : domUsable s d = true) :
    dieOf (startHalving (eprAbsent s) (eprDies s) 0 (fun x => { x with tripEpr := true })) d =
      { dieOf s d with tripEpr := true } :=
  (dieOf_startHalving_mem _ (nodup_eprDies s) (mem_eprDies hlt husable) _ 0).trans
    (congrArg (fun x : Die => { x with tripEpr := true }) (dieOf_eprAbsent (state_ne_absent_of_domUsable hlt husable)))

theorem dieOf_fallEpr {s : State} {d : Nat} (hclk : Clocked s) (hlt : d < 4) (husable : domUsable s d = true) :
    dieOf (fallEpr s) d = { dieOf s d with tripEpr := true } := by
  rw [fallEpr, if_neg (ne_true_of_eq_false hclk)]
  exact dieOf_startHalving_epr (s := { s with pins := { s.pins with eprN := false } }) hlt husable

/-- The effective keep of a die that EPR_N halves and no gate holds (R41, R44). -/
theorem keepEff_tripEpr {x : Die} (hgate : x.gated = false) :
    keepEff { x with tripEpr := true } = max 2 (x.keepPlan / 2) := by
  simp [keepEff, hgate]

/-- A gated die keeps nothing (R44). -/
theorem keepEff_gated (x : Die) : keepEff { x with gated := true } = 0 := rfl

end Sys2Proof.Machine
end

section
/-! CLAIMS. The statements about the keep: EPR_N halves it, and an exhausted allowance gates the die. -/

namespace Sys2Proof.Machine

open Sys2Proof

/-- Settles O53: the fall of EPR_N sets one halving on each die that planning counts. -/
theorem eprHalvesTheKeep : Obligations.EprHalvesTheKeep := by
  intro s hpower hhigh hclk
  refine ⟨fallEpr s, occursAlways_next (by simp [hpower, hhigh]) _ _, fallEpr_eprN s, fun d husable hgate => ?_⟩
  rw [dieOf_fallEpr hclk d.isLt husable]
  exact ⟨keepEff_tripEpr hgate, rfl⟩

/-- Settles O25: the gate is set in the die's record and the stop of prefill in its domain's. -/
theorem exhaustedDieIsGated : Obligations.ExhaustedDieIsGated := by
  intro d s hclk hready husable hgate
  have hdie : dieOf (exhausted s d.val) d.val = { dieOf s d.val with gated := true } :=
    dieOf_updDie_same s d.val (fun x => { x with gated := true })
  refine ⟨exhausted s d.val, occurs_clocked hclk (by simp [hready, husable, hgate]) _ _, rfl, hdie, ?_, fun e he => ⟨?_, ?_⟩, ?_⟩
  · rw [hdie, keepEff_gated]
  · exact dieOf_updDie_other s (fun x => { x with gated := true }) he
  · exact domOf_updDom_other _ _ he
  · exact domOf_updDom_same _ d.val (fun x => { x with noPrefill := true })

end Sys2Proof.Machine
end

section
/-! SUPPORT. What a device-fatal condition records (02 R54, R75), and the dies that a start-up counts on. -/

namespace Sys2Proof.Machine

open Sys2Proof

/-! ### Device-fatal conditions -/

/-- What a device-fatal condition records, and how the pins show it (R54, R75). -/
theorem deviceFatal_records {s : State} (cause : Nat) (hlive : isFatal s = false) :
    (deviceFatal s cause).boot.stage = 0xFF ∧ (deviceFatal s cause).boot.failStage = s.boot.stage ∧
      (deviceFatal s cause).boot.failCause = cause ∧ (deviceFatal s cause).pins.faultLow = true ∧
      (deviceFatal s cause).pins.readyOut = false := by
  simp only [deviceFatal, hlive, Bool.false_eq_true, if_false, noteHealth_boot, noteHealth_faultLow, noteHealth_readyOut]
  exact ⟨rfl, rfl, rfl, rfl, rfl⟩

theorem deviceFatal_mem (s : State) (cause : Nat) : (deviceFatal s cause).mem = s.mem := by
  simp only [deviceFatal]
  split
  · rfl
  · rw [noteHealth_mem]; rfl

theorem deviceFatal_ledger (s : State) (cause : Nat) : (deviceFatal s cause).ledger = s.ledger := by
  simp only [deviceFatal]
  split
  · rfl
  · rw [noteHealth_ledger]; rfl

theorem isReady_iff (s : State) : isReady s = true ↔ s.boot.stage = 0x0B ∧ Clocked s := by
  simp [isReady, Clocked]

/-- A READY device is in no device-fatal condition. -/
theorem not_isFatal_of_isReady {s : State} (hready : isReady s = true) : isFatal s = false := by
  simp [isFatal, ((isReady_iff s).1 hready).1]

/-! ### The dies of a start-up -/

theorem mem_liveDies {s : State} {d : Nat} (hlt : d < 4) (hlive : s.boot.dieUsable.getLsbD d = true) : d ∈ liveDies s := by
  have hbit : bit s.boot.dieUsable.toNat d = true := by
    rw [bit, ← Nat.testBit_eq_decide_div_mod_eq]
    exact hlive
  exact List.mem_filter.2 ⟨List.mem_range.2 hlt, hbit⟩

theorem nodup_liveDies (s : State) : (liveDies s).Nodup := List.nodup_range.filter _

end Sys2Proof.Machine
end

section
/-! CLAIMS. The statement of chapter 02 about the loss of the reference clock. -/

namespace Sys2Proof.Machine

open Sys2Proof

/-- Settles O54: the loss of the clock of a READY device is the device-fatal condition of cause 0x09. -/
theorem lossOfReferenceClockIsFatal : Obligations.LossOfReferenceClockIsFatal := by
  intro s hclk hready
  have hlive : isFatal { s with boot := { s.boot with pllLocked := false } } = false := not_isFatal_of_isReady (s := s) hready
  obtain ⟨hstage, hfailStage, hcause, hfault, hout⟩ := deviceFatal_records 0x09 hlive
  refine ⟨_, occurs_clocked hclk hready _ _, hfault, hout, hcause, hfailStage, hstage, ?_, deviceFatal_mem _ _,
    deviceFatal_ledger _ _⟩
  simp [isReady, hstage]

end Sys2Proof.Machine
end

section
/-! SUPPORT. READY (02 R59, R74): what stage 0x0B builds, and what it leaves as it was. -/

namespace Sys2Proof.Machine

open Sys2Proof

/-! ### An event for a closed queue (R155) -/

theorem fnOf_updFn_slots {g : Fn → Fn} (hslots : ∀ x, (g x).slots = x.slots) (s : State) (f k : Nat) :
    (fnOf (updFn s f g) k).slots = (fnOf s k).slots := by
  by_cases hk : k = f
  · rw [hk, fnOf_updFn_same, hslots]
  · rw [fnOf_updFn_other s g hk]

/-- An event for a function whose queue is closed is held, counted or lost, and written nowhere (R155). -/
theorem post_closed_mem {s : State} {f : Nat} (e : Event) (hclosed : (fnOf s f).evq.opened = false) :
    (post s f e).mem = s.mem := by
  simp only [post, hclosed, Bool.false_eq_true, if_false]
  split_ifs <;> rfl

theorem post_closed_slots {s : State} {f : Nat} (e : Event) (hclosed : (fnOf s f).evq.opened = false) (k : Nat) :
    (fnOf (post s f e) k).slots = (fnOf s k).slots := by
  simp only [post, hclosed, Bool.false_eq_true, if_false]
  split_ifs
  · rfl
  · rw [fnOf_updFn_slots (by exact fun _ => rfl), cnt, fnOf_updFn_slots (by exact fun _ => rfl)]
  · rfl

/-! ### The parts of `setReady` -/

/-- STAGE 0x0B, the boot time and READY_OUT. -/
def raised (s : State) : State :=
  let s1 := setStage s 0x0B
  { s1 with boot := { s1.boot with bootMs := s1.now / 1000 }, pins := { s1.pins with readyOut := true } }

/-- The dies that came through serve work. -/
def usableDies (s : State) : State := (liveDies s).foldl (fun s d => updDie s d (fun x => { x with state := .usable })) s

/-- The anti-rollback counters rise to the running copies (R660). -/
def raisedCounters (s : State) : State :=
  [1, 2, 3].foldl (fun s c => updFw s c (fun x => { x with counter := max x.counter (runningCopy x).svn })) s

/-- The structures that stand at READY: dies, counters, banks and the first tide's allowances. -/
def built (s : State) : State := startTides (readyBanks (raisedCounters (usableDies (raised s))))

/-- The effective package limit in force (R200, R657). -/
def limited (s : State) : State := { s with energy := { s.energy with effW := effLimit s, bmcShown := s.energy.bmcW } }

theorem setReady_eq (s : State) : setReady s = noteHealth (
    if effLimit (built s) = (built s).energy.effW then limited (built s)
    else post (limited (built s)) 0 (limitEvent (limited (built s)) (built s).energy.effW)) := rfl

/-! ### What they leave -/

/-- A state without the records that counters, banks and tides fill in. -/
def withoutBuilt (s : State) : State := { s with mgmt := ({} : Mgmt), banks := [], energy := ({} : Energy) }

@[simp] theorem withoutBuilt_updFw (s : State) (c : Nat) (g : FwComp → FwComp) :
    withoutBuilt (updFw s c g) = withoutBuilt s := rfl

@[simp] theorem withoutBuilt_updBank (s : State) (d b : Nat) (g : Bank → Bank) :
    withoutBuilt (updBank s d b g) = withoutBuilt s := rfl

@[simp] theorem withoutBuilt_onFloor (s : State) (d : Nat) : withoutBuilt (onFloor s d) = withoutBuilt s := rfl

theorem withoutBuilt_built (s : State) : withoutBuilt (built s) = withoutBuilt (usableDies (raised s)) := by
  have hcounters (t : State) : withoutBuilt (raisedCounters t) = withoutBuilt t :=
    foldl_proj withoutBuilt (fun t c => withoutBuilt_updFw t c _) _ t
  have hbanks (t : State) : withoutBuilt (readyBanks t) = withoutBuilt t :=
    foldl_proj withoutBuilt (fun t b => by split <;> simp) _ t
  have htides (t : State) : withoutBuilt (startTides t) = withoutBuilt t := foldl_proj withoutBuilt withoutBuilt_onFloor _ t
  rw [built, htides, hbanks, hcounters]

/-- Two states that agree in what the statement of READY speaks of. -/
structure AgreeAtReady (s t : State) : Prop where
  boot : t.boot = s.boot
  pins : t.pins = s.pins
  dies : t.dies = s.dies
  mem : t.mem = s.mem
  ledger : t.ledger = s.ledger
  slots : ∀ f, (fnOf t f).slots = (fnOf s f).slots

theorem AgreeAtReady.trans {s t u : State} (h : AgreeAtReady s t) (k : AgreeAtReady t u) : AgreeAtReady s u where
  boot := k.boot.trans h.boot
  pins := k.pins.trans h.pins
  dies := k.dies.trans h.dies
  mem := k.mem.trans h.mem
  ledger := k.ledger.trans h.ledger
  slots f := (k.slots f).trans (h.slots f)

theorem agreeAtReady_of_withoutBuilt {s t : State} (h : withoutBuilt t = withoutBuilt s) : AgreeAtReady s t where
  boot := (congrArg State.boot h :)
  pins := (congrArg State.pins h :)
  dies := (congrArg State.dies h :)
  mem := (congrArg State.mem h :)
  ledger := (congrArg State.ledger h :)
  slots f := (congrArg (fun u => (fnOf u f).slots) h :)

theorem agreeAtReady_post {s : State} (e : Event) (hclosed : (fnOf s 0).evq.opened = false) :
    AgreeAtReady s (post s 0 e) where
  boot := (traffic_post s 0 e).boot
  pins := (traffic_post s 0 e).pins
  dies := (traffic_post s 0 e).dies
  mem := post_closed_mem e hclosed
  ledger := (traffic_post s 0 e).ledger
  slots := post_closed_slots e hclosed

theorem usableDies_frame (s : State) : { usableDies s with dies := [] } = { s with dies := [] } :=
  foldl_proj (fun t : State => { t with dies := [] }) (fun _ _ => by rfl) _ s

/-- But for the event of a changed limit (R584), `setReady` notes the health of what it has built. -/
theorem setReady_built {s : State} (hclosed : (fnOf s 0).evq.opened = false) :
    ∃ v, setReady s = noteHealth v ∧ AgreeAtReady (usableDies (raised s)) v := by
  have hbuilt : AgreeAtReady (usableDies (raised s)) (limited (built s)) :=
    agreeAtReady_of_withoutBuilt (withoutBuilt_built s)
  have hfns : (limited (built s)).fns = s.fns :=
    (congrArg State.fns (withoutBuilt_built s) :).trans (congrArg State.fns (usableDies_frame (raised s)) :)
  refine ⟨_, setReady_eq s, ?_⟩
  split
  · exact hbuilt
  · exact hbuilt.trans (agreeAtReady_post _ (by rwa [fnOf, hfns]))

end Sys2Proof.Machine
end

section
/-! CLAIMS. The statement of chapter 02 about READY. -/

namespace Sys2Proof.Machine

open Sys2Proof

/-- Settles O19: what stage 0x0B builds shows in the dies, the stage and the pins, and the PF's closed queue takes no event. -/
theorem readySetRaisesReady : Obligations.ReadySetRaisesReady := by
  intro s hclk hstage htest hclosed
  have hnext : exec .readySet s = .next (setReady s) := occurs_clocked hclk (by simp [hstage, htest]) _ _
  obtain ⟨v, hready, hv⟩ := setReady_built hclosed
  rw [hready] at hnext
  have hframe := usableDies_frame (raised s)
  have hboot : v.boot = (raised s).boot := hv.boot.trans (congrArg State.boot hframe :)
  have hpins : v.pins = (raised s).pins := hv.pins.trans (congrArg State.pins hframe :)
  have hstageNow : (noteHealth v).boot.stage = 0x0B := by rw [noteHealth_boot, hboot]; rfl
  have htripNow : (noteHealth v).pins.thermtrip = false := by rw [noteHealth_thermtrip, hpins]; exact hclk
  refine ⟨noteHealth v, hnext, (isReady_iff _).2 ⟨hstageNow, htripNow⟩, hstageNow, ?_, ?_, fun d hlive => ?_, ?_, ?_,
    (keepsNext_exec _ s _ hnext).pending, fun f => ?_⟩
  · rw [noteHealth_readyOut, hpins]; rfl
  · rw [noteHealth_boot, hboot]; rfl
  · rw [dieOf, noteHealth_dies, hv.dies]
    exact congrArg Die.state (dieOf_foldl_updDie_mem _ (nodup_liveDies _) (mem_liveDies d.isLt hlive) _)
  · rw [noteHealth_mem, hv.mem]; exact (congrArg State.mem hframe :)
  · rw [noteHealth_ledger, hv.ledger]; exact (congrArg State.ledger hframe :)
  · rw [fnOf, noteHealth_fns]
    exact (hv.slots f).trans (congrArg (fun u => (fnOf u f).slots) hframe :)

end Sys2Proof.Machine
end

section
/-! SUPPORT. Configuration requests before configuration space answers (02 R69), and the vectors of a function (02 R52, 03
R83). -/

namespace Sys2Proof.Machine

open Sys2Proof

/-! ### Configuration requests -/

theorem writeConfig_retry {s : State} {f : Nat} (reg v : Nat) (hearly : s.boot.cfgReady = false) (hlink : onLink s f = true) :
    writeConfig s f reg v = emit s (.requestRetry f) := by
  simp [writeConfig, configOn, hearly, hlink]

theorem readConfig_retry {s : State} {f : Nat} (reg : Nat) (hearly : s.boot.cfgReady = false) (hlink : onLink s f = true) :
    readConfig s f reg = emit s (.requestRetry f) := by
  simp [readConfig, configOn, hearly, hlink]

/-! ### Vectors -/

@[simp] theorem vecOf_updVec_same (s : State) (f v : Nat) (g : Vec → Vec) : vecOf (updVec s f v g) f v = g (vecOf s f v) := by
  simp [vecOf, updVec, updPci, tmod]

theorem fnOf_updVec_other (s : State) {f other : Nat} (v : Nat) (g : Vec → Vec) (h : other ≠ f) :
    fnOf (updVec s f v g) other = fnOf s other :=
  fnOf_updFn_other s _ h

/-- A change of a vector leaves what says whether its function's messages may go. -/
theorem fnOf_updVec_same (s : State) (f v : Nat) (g : Vec → Vec) :
    fnOf (updVec s f v g) f =
      { fnOf s f with pci := { (fnOf s f).pci with vecs := tmod ({} : Vec) (fnOf s f).pci.vecs v g } } :=
  fnOf_updFn_same s f _

@[simp] theorem busOn_updVec (s : State) (f v : Nat) (g : Vec → Vec) : busOn (updVec s f v g) f = busOn s f := by
  simp only [busOn, fnOf_updVec_same]
  rfl

/-- The message of a vector goes out (R83). -/
theorem fireVector_sends {s : State} {f v : Nat} (hready : isReady s = true) (hmask : (vecOf s f v).masked = false)
    (hen : (fnOf s f).pci.msixEn = true) (hfm : (fnOf s f).pci.funcMask = false) (hbus : busOn s f = true) :
    fireVector s f v = emit s (.msix f v (vecOf s f v).addr (vecOf s f v).data) := by
  simp [fireVector, hready, hmask, hen, hfm, hbus]

/-! ### Unmasking, where BAR4 lets the write through -/

theorem unmask_early {s : State} {f : Nat} (v : Nat) (hon : barOn s f = true) (hearly : mayUnmask s f = false) :
    unmask s f v = s := by
  simp [unmask, hon, hearly]

theorem unmask_idle {s : State} {f v : Nat} (hon : barOn s f = true) (hmay : mayUnmask s f = true)
    (hidle : (vecOf s f v).pending = false) : unmask s f v = updVec s f v (fun x => { x with masked := false }) := by
  simp [unmask, hon, hmay, hidle]

/-- A vector unmasked with its PBA bit cleared. -/
def released (s : State) (f v : Nat) : State :=
  updVec (updVec s f v (fun x => { x with masked := false })) f v (fun x => { x with pending := false })

theorem vecOf_released (s : State) (f v : Nat) :
    vecOf (released s f v) f v = { vecOf s f v with masked := false, pending := false } := by
  simp [released]

theorem unmask_pending {s : State} {f v : Nat} (hon : barOn s f = true) (hready : isReady s = true)
    (hopen : (fnOf s f).opened = true) (hpend : (vecOf s f v).pending = true) (hen : (fnOf s f).pci.msixEn = true)
    (hfm : (fnOf s f).pci.funcMask = false) (hbus : busOn s f = true) :
    unmask s f v = emit (released s f v) (.msix f v (vecOf s f v).addr (vecOf s f v).data) := by
  have hfires : unmask s f v = fireVector (released s f v) f v := by
    simp [unmask, mayUnmask, released, hon, hready, hopen, hpend]
  rw [hfires, fireVector_sends (by exact hready), vecOf_released]
  · rw [vecOf_released]
  · simpa [released, fnOf_updVec_same] using hen
  · simpa [released, fnOf_updVec_same] using hfm
  · simpa [released] using hbus

end Sys2Proof.Machine
end

section
/-! CLAIMS. The statements of chapters 02 and 03 about requests before READY, vectors and the state of reset. -/

namespace Sys2Proof.Machine

open Sys2Proof

/-- Settles O58: before CONFIG_SPACE_READY both requests of a function on the link reach the retry answer. -/
theorem configRequestsRetryBeforeReady : Obligations.ConfigRequestsRetryBeforeReady := by
  intro f off width value s hclk hearly hlink
  constructor
  · exact (done_clocked hclk _).trans (congrArg _ (writeConfig_retry off _ hearly hlink))
  · exact (done_clocked hclk _).trans (congrArg _ (readConfig_retry off hearly hlink))

/-- Settles O39, by the three ways an unmasking can go: too early, with no message waiting, and with one that goes out. -/
theorem unmaskSendsThePendingMessage : Obligations.UnmaskSendsThePendingMessage := by
  intro f v s hclk hon
  have hexec : exec (.msixUnmask f v) s = .next (unmask s f.val v.val) := done_clocked hclk _
  refine ⟨fun hearly => ?_, fun hready hopen hidle => ?_, fun hready hopen hpend hen hfm hbus => ?_⟩
  · rw [hexec, unmask_early _ hon (by rcases hearly with h | h <;> simp [mayUnmask, h])]
  · rw [hexec, unmask_idle hon (by simp [mayUnmask, hready, hopen]) hidle]
  · rw [unmask_pending hon hready hopen hpend hen hfm hbus] at hexec
    have hvec := vecOf_released s f.val v.val
    exact ⟨_, hexec, congrArg Vec.pending hvec, congrArg Vec.masked hvec, rfl, fun g hg =>
      (fnOf_updVec_other _ _ _ hg).trans (fnOf_updVec_other _ _ _ hg)⟩

/-- Settles O3: the PF's record at reset is the default one but for its being enabled, and every other function's is the
default. -/
theorem resetLeaves : Obligations.ResetLeaves := by
  have hfn (f : Nat) : fnOf State.reset f = { pci := { enabled := decide (f = 0) } } := by
    by_cases hf : f = 0
    · subst hf; rfl
    · simp [fnOf, State.reset, tget, tfind, hf, Ne.symm hf]
  refine ⟨rfl, rfl, rfl, rfl, rfl, rfl, rfl, rfl, rfl, fun _ => rfl, fun f => ?_⟩
  rw [hfn]
  exact ⟨rfl, rfl, rfl, rfl, rfl⟩

end Sys2Proof.Machine
end

section
/-! SUPPORT. The counters of a function (03 R115), a completion for a quarantined tag (03 R97) and a Function Level Reset
while one runs (03 R108). -/

namespace Sys2Proof.Machine

open Sys2Proof

/-! ### Counters -/

theorem fnOf_cnt_same (s : State) (f off n : Nat) :
    fnOf (cnt s f off n) f =
      { fnOf s f with counters := tmod 0 (fnOf s f).counters off (fun v => sat64 v n) } :=
  fnOf_updFn_same s f _

theorem fnOf_cnt_other (s : State) {f other : Nat} (off n : Nat) (h : other ≠ f) :
    fnOf (cnt s f off n) other = fnOf s other :=
  fnOf_updFn_other s _ h

@[simp] theorem cntOf_cnt_same (s : State) (f off n : Nat) : cntOf (cnt s f off n) f off = sat64 (cntOf s f off) n := by
  rw [cntOf, fnOf_cnt_same]
  exact tget_tput_same 0 _ off _

theorem cntOf_cnt_other (s : State) (f n : Nat) {off other : Nat} (h : other ≠ off) :
    cntOf (cnt s f off n) f other = cntOf s f other := by
  rw [cntOf, fnOf_cnt_same]
  exact tget_tput_other 0 _ _ h

/-! ### Completions for a quarantined tag -/

theorem isTranslation_quarantined {s : State} {f tag expiry : Nat}
    (htag : tfind (fnOf s f).pci.tags tag = some (.quarantined expiry)) : isTranslation s f tag = false := by
  simp [isTranslation, htag]

theorem completion_quarantined {s : State} {f tag expiry : Nat} (st : CplStatus)
    (htag : tfind (fnOf s f).pci.tags tag = some (.quarantined expiry)) : completion s f tag st = cnt s f 0x200 1 := by
  simp [completion, htag]

/-! ### A Function Level Reset while one runs -/

theorem flrPf_busy {s : State} (hbusy : (fnOf s 0).flrBusy = true) : flrPf s = s := if_pos hbusy

theorem flrVf_busy {s : State} {f : Nat} (hbusy : (fnOf s f).flrBusy = true) : flrVf s f = s := if_pos hbusy

theorem initiateFlr_busy {s : State} {f : Nat} (hbusy : (fnOf s f).flrBusy = true) : initiateFlr s f = s := by
  rw [initiateFlr]
  split
  · rfl
  split
  next hpf =>
    subst hpf
    exact flrPf_busy hbusy
  · exact flrVf_busy hbusy

/-- A command whose effect is nothing answers the state it started from, clock or no clock. -/
theorem done_self (s : State) : done s s = .next s := (done_next_iff ..).2 (ite_self s).symm

end Sys2Proof.Machine
end

section
/-! CLAIMS. The statements of chapter 03 about late completions and a repeated Function Level Reset. -/

namespace Sys2Proof.Machine

open Sys2Proof

/-- Settles O29: a quarantined tag serves no Translation Request, so the event occurs, and its effect is one advance of
CNT_LATE_CPL. -/
theorem lateCompletionIsCounted : Obligations.LateCompletionIsCounted := by
  intro f tag expiry st s hclk htag
  have hexec : exec (.completionReceived f tag st) s = .next (cnt s f.val 0x200 1) := by
    rw [← completion_quarantined st htag]
    exact occurs_clocked hclk (by simp [isTranslation_quarantined htag]) _ _
  refine ⟨_, hexec, rfl, fun g hg => ?others, ?record, fun off hoff => ?otherCounters, ?lateCpl⟩
  case others => exact fnOf_cnt_other s _ _ hg
  case record => rw [fnOf_cnt_same]
  case otherCounters => exact cntOf_cnt_other s f.val 1 hoff
  case lateCpl => exact cntOf_cnt_same s f.val 0x200 1

/-- Settles O30: a reset of the PF and one of a VF both stop at FLR_BUSY. -/
theorem flrWhileBusyHasNoEffect : Obligations.FlrWhileBusyHasNoEffect := by
  intro f s hbusy
  calc exec (.initiateFlr f) s
      = done s (initiateFlr s f.val) := rfl
    _ = done s s := by rw [initiateFlr_busy hbusy]
    _ = .next s := done_self s

end Sys2Proof.Machine
end

section
/-! SUPPORT. Indexes that the host writes: when one is valid, and the ways a write to EVQ_CONS and a doorbell of a ring that the
host produces can go (04 R135, R138, R151); and a SUBMIT next on its ring (04 R150). -/

namespace Sys2Proof.Machine

open Sys2Proof

theorem prodValid_iff (g : Ring) (v : Nat) :
    prodValid g v = true ↔ sub32 v g.prod ≤ 2 ^ g.sizeLog2 ∧ sub32 v g.cons ≤ 2 ^ g.sizeLog2 := by
  simp [prodValid]

/-- A write to EVQ_CONS of a function that answers: the queue's being open and the index's validity decide. -/
theorem evqCons_of_barOn {s : State} {f : Nat} (v : Nat) (hon : barOn s f = true) :
    evqCons s f v =
      if (fnOf s f).evq.opened = true ∧ sub32 v (fnOf s f).evq.cons ≤ 2 ^ (fnOf s f).evq.sizeLog2 ∧
          sub32 (fnOf s f).evq.prod v ≤ 2 ^ (fnOf s f).evq.sizeLog2 then
        updFn s f (fun x => { x with evq := { x.evq with cons := v } })
      else cnt s f 0x300 1 := by
  simp [evqCons, consValid, hon]

theorem ringDoorbell_ignored {s : State} {f r : Nat} (v : Nat) (hon : barOn s f = true)
    (hunused : (fnOf s f).opened = false ∨ (fnOf s f).flrBusy = true ∨ (ringOf s f r).state = .closed) :
    ringDoorbell s f r v = cnt s f 0x300 1 := by
  rcases hunused with h | h | h <;> simp [ringDoorbell, hon, h]

theorem ringDoorbell_running {s : State} {f r : Nat} (v : Nat) (hon : barOn s f = true) (hopen : (fnOf s f).opened = true)
    (hflr : (fnOf s f).flrBusy = false) (hstate : (ringOf s f r).state = .running) (htyp : (ringOf s f r).typ ≠ .cpl) :
    ringDoorbell s f r v =
      if v = (ringOf s f r).prod then s
      else if prodValid (ringOf s f r) v then runRing (updRing s f r (fun x => { x with prod := v })) f r
      else stopRing (cnt s f 0x300 1) f r causeIndex := by
  simp [ringDoorbell, hon, hopen, hflr, hstate, htyp]

theorem ringDoorbell_stopped {s : State} {f r : Nat} (v : Nat) (hon : barOn s f = true) (hopen : (fnOf s f).opened = true)
    (hflr : (fnOf s f).flrBusy = false) (hstate : (ringOf s f r).state = .stopped) (htyp : (ringOf s f r).typ ≠ .cpl) :
    ringDoorbell s f r v =
      if v = (ringOf s f r).prod then s
      else if prodValid (ringOf s f r) v then updRing s f r (fun x => { x with prod := v })
      else cnt s f 0x300 1 := by
  simp [ringDoorbell, stoppedDoorbell, hon, hopen, hflr, hstate, htyp]

theorem exec_submit_front {s : State} {f : Fin 16} {ring : Fin 64} {idx : Nat} {d : ReqDesc} (read : HostRead)
    (hclk : Clocked s) (hfront : frontReq s f.val (frontRing s f.val ring.val) = some (idx, d)) (htyp : d.typ = 1) :
    exec (.submit f ring read) s = .next (submit s f.val (frontRing s f.val ring.val) idx d read) := by
  have hexec : exec (.submit f ring read) s = execSubmit f ring read s := rfl
  simp only [hexec, execSubmit, hfront]
  exact occurs_clocked hclk (by simpa using htyp) _ _

theorem submit_no_entry {s : State} (f r idx : Nat) (d : ReqDesc) (read : HostRead) (hfull : freeEntryIdx s = none) :
    submit s f r idx d read = s := by
  simp only [submit, hfull]

end Sys2Proof.Machine
end

section
/-! CLAIMS. The statements of chapter 04 about rings and the event queue: EVQ_CONS, the doorbell of a ring that the host produces,
and a SUBMIT that finds the ledger full. -/

namespace Sys2Proof.Machine

open Sys2Proof

/-- Settles O20, by the one test that a write to EVQ_CONS makes. -/
theorem eventQueueConsumerIndex : Obligations.EventQueueConsumerIndex := by
  intro f value s hclk hon q v valid
  have hexec : exec (.evqConsWrite f value) s = .next (evqCons s f.val v) := done_clocked hclk _
  rw [evqCons_of_barOn v hon] at hexec
  exact ⟨fun hvalid => by rw [hexec, if_pos hvalid], fun hbad => by rw [hexec, if_neg hbad]⟩

/-- Settles O34: a ring in use compares the index with PROD and then tests it, running or stopped. -/
theorem hostRingDoorbell : Obligations.HostRingDoorbell := by
  intro f ring value s hclk hon g v valid
  have hexec : exec (.dbRingWrite f ring value) s = .next (ringDoorbell s f.val ring.val v) := done_clocked hclk _
  have hvalid : prodValid g v = true ↔ valid := prodValid_iff g v
  refine ⟨fun hunused => by rw [hexec, ringDoorbell_ignored v hon hunused], fun hopen hflr htyp => ?_⟩
  have hrunning (hstate : g.state = .running) := ringDoorbell_running v hon hopen hflr hstate htyp
  have hstopped (hstate : g.state = .stopped) := ringDoorbell_stopped v hon hopen hflr hstate htyp
  rw [hexec]
  refine ⟨?current, ?runningValid, ?runningBad, ?stoppedValid, ?stoppedBad⟩
  case current =>
    rintro (hstate | hstate) hsame
    · rw [hrunning hstate, if_pos hsame]
    · rw [hstopped hstate, if_pos hsame]
  case runningValid =>
    intro hstate hnew hok
    rw [hrunning hstate, if_neg hnew, if_pos (hvalid.2 hok)]
  case runningBad =>
    intro hstate hnew hbad
    rw [hrunning hstate, if_neg hnew, if_neg (mt hvalid.1 hbad)]
  case stoppedValid =>
    intro hstate hnew hok
    rw [hstopped hstate, if_neg hnew, if_pos (hvalid.2 hok)]
  case stoppedBad =>
    intro hstate hnew hbad
    rw [hstopped hstate, if_neg hnew, if_neg (mt hvalid.1 hbad)]

/-- Settles O51: the SUBMIT in front occurs, and without a free entry its effect is nothing. -/
theorem submitWaitsForAFreeEntry : Obligations.SubmitWaitsForAFreeEntry := by
  intro f ring read s idx d hclk r hfront htyp hfull
  rw [exec_submit_front read hclk hfront htyp, submit_no_entry _ _ _ _ _ hfull]

end Sys2Proof.Machine
end

section
/-! SUPPORT. The mailbox doorbell: the slots that a written value names, and the ways a slot's submission can go (04 R121, R122,
R129). -/

namespace Sys2Proof.Machine

open Sys2Proof

/-! ### The bits of a written value -/

theorem bit_toNat {w : Nat} (v : BitVec w) (i : Nat) : bit v.toNat i = v.getLsbD i := by
  rw [bit, ← BitVec.testBit_toNat, Nat.testBit_eq_decide_div_mod_eq]

theorem bitList_toNat {w : Nat} (n : Nat) (v : BitVec w) :
    bitList n v.toNat = (List.range n).filter (fun k => v.getLsbD k) := by
  simp only [bitList, bit_toNat]

theorem getLsbD_ofNat_two_pow (w i k : Nat) : (BitVec.ofNat w (2 ^ i)).getLsbD k = (decide (k < w) && decide (k = i)) := by
  rw [BitVec.getLsbD_ofNat, Nat.testBit_two_pow]
  simp [eq_comm]

/-- A value with one bit set names one slot. -/
theorem bitList_two_pow (slot : Fin 32) : bitList 32 (BitVec.ofNat 32 (2 ^ slot.val)).toNat = [slot.val] := by
  have hbits : ∀ k ∈ List.range 32, (BitVec.ofNat 32 (2 ^ slot.val)).getLsbD k = decide (k = slot.val) := by
    intro k hk
    rw [getLsbD_ofNat_two_pow, decide_eq_true (List.mem_range.1 hk), Bool.true_and]
  rw [bitList_toNat, List.filter_congr hbits, List.filter_eq, List.count_range, if_pos slot.isLt]
  rfl

/-! ### The doorbell -/

theorem mailboxDoorbell_of_barOn {s : State} {f : Nat} (v : Word) (hon : barOn s f = true) :
    mailboxDoorbell s f v = (bitList 32 v.toNat).foldl (fun s slot => submitSlot s f slot) s := by
  simp [mailboxDoorbell, hon]

theorem mailboxDoorbell_one {s : State} {f : Nat} (slot : Fin 32) (hon : barOn s f = true) :
    mailboxDoorbell s f (BitVec.ofNat 32 (2 ^ slot.val)) = submitSlot s f slot.val := by
  rw [mailboxDoorbell_of_barOn _ hon, bitList_two_pow]
  rfl

/-! ### One slot submitted -/

theorem submitSlot_owned {s : State} {f slot : Nat} (howner : (fnOf s f).owner.getLsbD slot = true) :
    submitSlot s f slot = cnt s f 0x300 1 := if_pos howner

theorem hwOpcode_iff (op : Nat) : hwOpcode op = true ↔ op = 0x0101 ∨ op = 0x0B01 := by
  simp [hwOpcode]

theorem submitSlot_hardware {s : State} {f slot : Nat} (howner : (fnOf s f).owner.getLsbD slot = false)
    (hop : slotOp (slotBytes s f slot) = 0x0101 ∨ slotOp (slotBytes s f slot) = 0x0B01) :
    submitSlot s f slot =
      queueCmd (updFn s f (fun x => { x with owner := setBit x.owner slot true })) f slot (slotBytes s f slot) := by
  simp [submitSlot, howner, (hwOpcode_iff _).2 hop]

theorem submitSlot_answered {s : State} {f slot : Nat} {o : CmdOutcome} (howner : (fnOf s f).owner.getLsbD slot = false)
    (hop : hwOpcode (slotOp (slotBytes s f slot)) = false) (hanswer : hwAnswer s f (slotBytes s f slot) = some o) :
    submitSlot s f slot =
      completeSlot (cnt (updFn s f (fun x => { x with owner := setBit x.owner slot true })) f 0x310 1) f slot o := by
  simp [submitSlot, howner, hop, hanswer]

theorem hwAnswer_recovery {s : State} {f : Nat} (b : List Byte) (hflr : (fnOf s f).flrBusy = false)
    (hready : isReady s = true) (hrec : s.cp.recovery = true) : hwAnswer s f b = some { status := stBusyRecovery } := by
  simp [hwAnswer, hflr, hready, hrec]

/-! ### The commands that the mailbox hardware answers -/

theorem hwOutcome_passed {s : State} {f : Nat} {b : List Byte} (resp : List Byte) (hheader : headerBad b = none)
    (hshared : sharedChecks s f b = none) (hresv : slotOp b = 0x0B01 → (resv b 4 4).1 = false) :
    hwOutcome s f b resp = { resp := resp } := by
  simp only [hwOutcome, hheader, hshared]
  exact if_neg (by simpa using hresv)

theorem hwComplete_ok (s : State) (f slot : Nat) {o : CmdOutcome} (hok : o.status = 0) :
    hwComplete s f slot o = completeSlot s f slot o := by
  rw [hwComplete, if_pos hok]

end Sys2Proof.Machine
end

section
/-! CLAIMS. The statements of chapter 04 about submission: the order of the slots, and the submission of one in CP recovery. -/

namespace Sys2Proof.Machine

open Sys2Proof

/-- Settles O35: the doorbell folds over the set bits of its value. -/
theorem mailboxDoorbellSubmitsInSlotOrder : Obligations.MailboxDoorbellSubmitsInSlotOrder := by
  intro f value s hclk hon
  refine ⟨?_, fun _ howner => submitSlot_owned howner⟩
  have hexec : exec (.dbMboxWrite f value) s = .next (mailboxDoorbell s f.val value) := done_clocked hclk _
  rw [hexec, mailboxDoorbell_of_barOn value hon, bitList_toNat]

/-- Settles O36, by the opcode of the one slot submitted and, for the two opcodes that the hardware answers, by the checks that
they pass. -/
theorem slotSubmittedInRecovery : Obligations.SlotSubmittedInRecovery := by
  intro f slot s hclk hon howner hflr hready hrec owned b
  have hexec : exec (.dbMboxWrite f (BitVec.ofNat 32 (2 ^ slot.val))) s = .next (submitSlot s f.val slot.val) :=
    (done_clocked hclk _).trans (congrArg _ (mailboxDoorbell_one slot hon))
  refine ⟨fun hop => ?queued, fun t ht hstart hop hheader hshared => ?info, fun t ht hstart hheader hshared hresv => ?bootlog,
    fun hinfo hboot => ?busy⟩
  case queued => rw [hexec, submitSlot_hardware howner hop]
  case info =>
    have hout : hwOutcome t f (slotBytes t f slot) (deviceInfo t f) = { resp := deviceInfo t f } :=
      hwOutcome_passed _ hheader hshared (by simp [hop])
    exact (occurs_clocked ht hstart _ _).trans (by rw [hout, hwComplete_ok _ _ _ rfl])
  case bootlog =>
    have hout : hwOutcome t f (slotBytes t f slot) (bootLogAnswer t (pay (slotBytes t f slot) 0 4)) =
        { resp := bootLogAnswer t (pay (slotBytes t f slot) 0 4) } :=
      hwOutcome_passed _ hheader hshared fun _ => hresv
    exact (occurs_clocked ht hstart _ _).trans (by rw [hout, hwComplete_ok _ _ _ rfl])
  case busy =>
    have hop : hwOpcode (slotOp b) = false := by simp [hwOpcode, hinfo, hboot]
    rw [hexec, submitSlot_answered howner hop (hwAnswer_recovery _ hflr hready hrec)]

end Sys2Proof.Machine
end

section
/-! SUPPORT. A slot that completes without a CMD_DONE event: its bytes, its bits of MB_OWNER and MB_DONE, and the commands left
(04 R119, R124). -/

namespace Sys2Proof.Machine

open Sys2Proof

theorem padTo_padTo (n : Nat) (b : List Byte) : padTo n (padTo n b) = padTo n b := by
  have hlen : (padTo n b).length = n := by
    simp only [padTo, List.length_append, List.length_take, List.length_replicate]
    omega
  rw [padTo, hlen, List.take_of_length_le hlen.le]
  simp

theorem getLsbD_setBit {w : Nat} (v : BitVec w) (i : Nat) {k : Nat} (b : Bool) (hk : k < w) :
    (setBit v i b).getLsbD k = if k = i then b else v.getLsbD k := by
  have hmask : (BitVec.ofNat w (2 ^ i)).getLsbD k = decide (k = i) := by
    rw [getLsbD_ofNat_two_pow, decide_eq_true hk, Bool.true_and]
  cases b with
  | false =>
    rw [setBit, if_neg Bool.false_ne_true, BitVec.getLsbD_and, BitVec.getLsbD_not, hmask]
    by_cases h : k = i <;> simp [h, hk]
  | true =>
    rw [setBit, if_pos rfl, BitVec.getLsbD_or, hmask]
    by_cases h : k = i <;> simp [h]

/-- The response's bytes as R119 places them. -/
theorem respBytes_eq (req : List Byte) (o : CmdOutcome) : respBytes req o =
    padTo 256 (req.take 2 ++ le 2 o.status ++ (req.drop 4).take 4 ++ le 2 o.resp.length ++ [BitVec.ofNat 8 o.dieMask, 0] ++
      le 4 o.detail ++ o.resp) := by
  simp [respBytes, le]

/-- The state in which a slot has completed and no event is posted. -/
def slotDone (s : State) (f slot : Nat) (o : CmdOutcome) : State :=
  updFn (putSlot s f slot (respBytes (slotBytes s f slot) o)) f (fun x => { x with
    owner := setBit x.owner slot false, done := setBit x.done slot true
    cmds := x.cmds.filter (fun c => c.slot != slot) })

/-- Where the command asks for no event, completing the slot is all that happens. -/
theorem completeSlot_quiet {s : State} {f slot : Nat} {c : Cmd} (o : CmdOutcome) (hcmd : cmdOf s f slot = some c)
    (hevent : c.event = false) : completeSlot s f slot o = slotDone s f slot o := by
  rw [cmdOf] at hcmd
  simp [completeSlot, hcmd, hevent, slotDone]

theorem slotDone_eq_with_fns (s : State) (f slot : Nat) (o : CmdOutcome) :
    slotDone s f slot o = { s with fns := (slotDone s f slot o).fns } := rfl

theorem fnOf_slotDone_other (s : State) {f other : Nat} (slot : Nat) (o : CmdOutcome) (h : other ≠ f) :
    fnOf (slotDone s f slot o) other = fnOf s other :=
  (fnOf_updFn_other _ _ h).trans (fnOf_putSlot_other s _ _ h)

/-- The function's record after it: the slot's bytes, the two bits and the commands. -/
theorem fnOf_slotDone_same (s : State) (f slot : Nat) (o : CmdOutcome) :
    fnOf (slotDone s f slot o) f = { fnOf s f with
      slots := (fnOf (putSlot s f slot (respBytes (slotBytes s f slot) o)) f).slots
      owner := setBit (fnOf s f).owner slot false, done := setBit (fnOf s f).done slot true
      cmds := (fnOf s f).cmds.filter (fun c => c.slot != slot) } := by
  rw [slotDone, fnOf_updFn_same, putSlot, fnOf_updFn_same]

theorem owner_slotDone (s : State) (f slot k : Nat) (o : CmdOutcome) :
    (fnOf (slotDone s f slot o) f).owner.getLsbD k = ((fnOf s f).owner.getLsbD k && decide (k ≠ slot)) := by
  rw [fnOf_slotDone_same]
  by_cases hk : k < 32
  · rw [getLsbD_setBit _ _ _ hk]
    by_cases h : k = slot <;> simp [h]
  · simp only [BitVec.getLsbD_of_ge _ k (not_lt.1 hk), Bool.false_and]

theorem done_slotDone (s : State) (f slot : Nat) {k : Nat} (o : CmdOutcome) (hk : k < 32) :
    (fnOf (slotDone s f slot o) f).done.getLsbD k = ((fnOf s f).done.getLsbD k || decide (k = slot)) := by
  rw [fnOf_slotDone_same, getLsbD_setBit _ _ _ hk]
  by_cases h : k = slot <;> simp [h]

/-- The bytes of the function's slots are those that the write of the response leaves. -/
theorem slotBytes_slotDone (s : State) (f slot k : Nat) (o : CmdOutcome) :
    slotBytes (slotDone s f slot o) f k = slotBytes (putSlot s f slot (respBytes (slotBytes s f slot) o)) f k := by
  simp only [slotBytes, fnOf_slotDone_same]

theorem cmdOf_slotDone_same (s : State) (f slot : Nat) (o : CmdOutcome) : cmdOf (slotDone s f slot o) f slot = none := by
  rw [cmdOf, fnOf_slotDone_same, List.find?_eq_none]
  simp

theorem cmdOf_slotDone_other (s : State) (f : Nat) {slot k : Nat} (o : CmdOutcome) (h : k ≠ slot) :
    cmdOf (slotDone s f slot o) f k = cmdOf s f k := by
  rw [cmdOf, fnOf_slotDone_same, List.find?_filter, cmdOf]
  congr 1
  funext c
  by_cases hc : c.slot = k <;> simp [hc, h]

end Sys2Proof.Machine
end

section
/-! CLAIMS. The statement of chapter 04 about the commit point of a command whose answer stands in the journal. -/

namespace Sys2Proof.Machine

open Sys2Proof

/-- Settles O57: the commit answers from the journal, and the answer is the slot's completion without an event. -/
theorem commitCompletesTheSlot : Obligations.CommitCompletesTheSlot := by
  intro f slot s c o hclk hmay hcmd hanswer hevent
  have hexec : exec (.commandCommit f slot) s = .next (slotDone s f slot o) := by
    rw [commandCommit_next hclk hmay, commitCmd_answered hcmd hanswer, completeSlot_quiet o hcmd hevent]
  refine ⟨_, hexec, slotDone_eq_with_fns .., fun k => owner_slotDone .., fun k hk => done_slotDone _ _ _ _ hk, ?response,
    fun k hk => ?otherSlots, cmdOf_slotDone_same .., fun k hk => cmdOf_slotDone_other _ _ _ hk,
    fun g hg => fnOf_slotDone_other s _ _ hg⟩
  case response => rw [slotBytes_slotDone, slotBytes_putSlot_same, respBytes_eq, padTo_padTo]
  case otherSlots => rw [slotBytes_slotDone, slotBytes_putSlot_other s _ _ hk]

end Sys2Proof.Machine
end

section
/-! SUPPORT. A command whose effects all come at its commit point: the checks of its fields (05 R165, R167), that a ledger entry
meets a condition, and what it leaves when its body only reads (04 R124). -/

namespace Sys2Proof.Machine

open Sys2Proof

/-! ### Field checks -/

theorem firstNonzero_eq_none_iff (b : List Byte) (i n : Nat) :
    firstNonzero b i n = none ↔ ∀ k < n, byteAt b (i + k) = 0 := by
  induction n generalizing i with
  | zero => simp [firstNonzero]
  | succ n ih =>
    have hshift (k : Nat) : i + 1 + k = i + (k + 1) := by omega
    rw [Nat.forall_lt_succ_left, firstNonzero]
    by_cases h : byteAt b i = 0 <;> simp [h, ih, hshift]

theorem le_of_firstNonzero {b : List Byte} {i n d : Nat} (h : firstNonzero b i n = some d) : i ≤ d := by
  induction n generalizing i with
  | zero => cases h
  | succ n ih =>
    rw [firstNonzero] at h
    split at h
    · exact (Option.some.inj h).le
    · exact (Nat.le_succ i).trans (ih h)

theorem resv_zero {b : List Byte} {off n : Nat} (h : ∀ k < n, byteAt b (16 + off + k) = 0) : (resv b off n).1 = false := by
  simp only [resv, (firstNonzero_eq_none_iff b (16 + off) n).2 h]

theorem le_resv_of_bad {b : List Byte} {off n : Nat} (h : (resv b off n).1 = true) : 16 + off ≤ (resv b off n).2 := by
  unfold resv at h ⊢
  split at h
  next d hd => simpa only [hd] using le_of_firstNonzero hd
  · cases h

theorem firstBad_eq_none {l : List (Bool × Nat)} (h : ∀ c ∈ l, c.1 = false) : firstBad l = none := by
  have hnone : l.filter (·.1) = [] := List.filter_eq_nil_iff.2 fun c hc => by simp [h c hc]
  rw [firstBad, hnone, List.foldl_nil]

/-- A check that fails decides where no other failing check has a lower offset. -/
theorem firstBad_cons_lowest {d : Nat} {l : List (Bool × Nat)} (h : ∀ c ∈ l, c.1 = true → d ≤ c.2) :
    firstBad ((true, d) :: l) = some d := by
  simp only [firstBad, List.filter_cons_of_pos, List.foldl_cons]
  refine List.foldlRecOn (motive := (· = some d)) (l.filter (·.1)) _ rfl fun m hm c hc => ?_
  obtain ⟨hmem, hbad⟩ := List.mem_filter.1 hc
  simp only [hm, min_eq_right (h c hmem hbad)]

theorem fields_passed {l : List (Bool × Nat)} (s : State) (k : Ran) (h : ∀ c ∈ l, c.1 = false) : fields s l k = k := by
  simp only [fields, firstBad_eq_none h]

theorem fields_refused {d : Nat} {l : List (Bool × Nat)} (s : State) (k : Ran) (h : ∀ c ∈ l, c.1 = true → d ≤ c.2) :
    fields s ((true, d) :: l) k = bad s stInvalidField d := by
  simp only [fields, firstBad_cons_lowest h]

/-! ### Ledger entries that meet a condition -/

theorem userEntry_eq_none_iff (s : State) (p : Nat → Entry → Bool) :
    userEntry s p = none ↔ ∀ kv ∈ s.ledger, kv.2.state = .free ∨ p kv.1 kv.2 = false := by
  simp [userEntry, or_iff_not_imp_left]

/-! ### The commit point -/

/-- A command at its commit point whose body is `r`: COMMAND_COMMIT gives it the effect and the answer of `r`. -/
theorem commit_body {s : State} {f : Fin 16} {slot : Fin 32} {op : Nat} {r : Ran} (hclk : Clocked s)
    (hcommit : committing s f slot op = true) (hmarch : op ≠ 0x0B03) (hconfig : op ≠ 0x0903)
    (hbody : slotOp (slotBytes s f slot) = op → commitBody s f slot (slotBytes s f slot) = r) :
    ∀ t o, r = (t, some o) → exec (.commandCommit f slot) s = .next (afterCommit (completeSlot t f slot o) f) := by
  intro t o hanswer
  obtain ⟨hmay, hop, -⟩ := (committing_iff s f slot op).1 hcommit
  rw [commandCommit_next hclk hmay, commitCmd_committing hcommit hmarch hconfig ((hbody hop).trans hanswer)]

/-! ### Bodies that only read -/

/-- A body that only reads: it answers, and its state is the one it was given. -/
def OnlyReads (s : State) (r : Ran) : Prop := ∃ o, r = (s, some o)

theorem onlyReads_good (s : State) (resp : List Byte) : OnlyReads s (good s resp) := ⟨_, rfl⟩

theorem onlyReads_bad (s : State) (status detail : Nat) : OnlyReads s (bad s status detail) := ⟨_, rfl⟩

theorem onlyReads_fields {s : State} {k : Ran} (l : List (Bool × Nat)) (hk : OnlyReads s k) : OnlyReads s (fields s l k) := by
  rw [fields]
  split
  · exact onlyReads_bad s _ _
  · exact hk

theorem onlyReads_withObject {s : State} {k : Nat → Ran} (f : Nat) (b : List Byte) (unload : Bool) (own : Option (Nat × Bool))
    (hk : ∀ h, OnlyReads s (k h)) : OnlyReads s (withObject s f b unload own k) := by
  unfold withObject
  split
  · split
    · exact onlyReads_bad s _ _
    · apply onlyReads_fields
      split
      · exact hk _
      · exact onlyReads_bad s _ _
  · exact onlyReads_fields _ (onlyReads_bad s _ _)

theorem onlyReads_modelInfo (s : State) (f : Nat) (b : List Byte) : OnlyReads s (modelInfoCmd s f b) :=
  onlyReads_withObject f b false _ fun _ => onlyReads_good s _

theorem onlyReads_configRead (s : State) (f : Nat) (b : List Byte) : OnlyReads s (configRead s f b) := by
  simp only [configRead]
  split
  · exact onlyReads_bad s _ _
  split
  · exact onlyReads_bad s _ _
  apply onlyReads_fields
  split
  · exact onlyReads_bad s _ _
  · exact onlyReads_good s _

theorem onlyReads_errlogRead (s : State) (b : List Byte) : OnlyReads s (errlogRead s b) :=
  onlyReads_fields _ (onlyReads_good s _)

/-- The start of a command whose row sets nothing off marks it as started, whether or not the shared checks will refuse it. -/
theorem runBegin_alone {s : State} {f slot op : Nat} (hclk : Clocked s) (hmay : mayStart s f slot op = true) :
    runBegin s f slot op (fun u _ => u) = .next (updCmd s f slot (fun c => { c with started := true, startedAt := s.now })) := by
  have hstart : beginCmd s f slot (fun u _ => u) = updCmd s f slot (fun c => { c with started := true, startedAt := s.now }) := by
    simp only [beginCmd]
    split <;> rfl
  rw [runBegin, occurs_clocked hclk hmay, hstart]

/-- A row that sets nothing off, with a body that only reads: its start changes its slot's command alone, and its commit point
completes its slot alone. -/
theorem readingRow {s : State} {f : Fin 16} {slot : Fin 32} {op : Nat} {row : Instr} (hclk : Clocked s)
    (hrow : exec row s = runBegin s f slot op (fun u _ => u)) (hmarch : op ≠ 0x0B03) (hconfig : op ≠ 0x0903)
    (hbody : slotOp (slotBytes s f slot) = op → OnlyReads s (commitBody s f slot (slotBytes s f slot))) :
    (mayStart s f slot op = true →
      exec row s = .next (updCmd s f slot (fun c => { c with started := true, startedAt := s.now }))) ∧
    (committing s f slot op = true →
      ∃ o, exec (.commandCommit f slot) s = .next (afterCommit (completeSlot s f slot o) f)) := by
  refine ⟨fun hmay => hrow.trans (runBegin_alone hclk hmay), fun hcommit => ?_⟩
  obtain ⟨-, hop, -⟩ := (committing_iff s f slot op).1 hcommit
  obtain ⟨o, ho⟩ := hbody hop
  exact ⟨o, commit_body hclk hcommit hmarch hconfig (fun _ => rfl) s o ho⟩

end Sys2Proof.Machine
end

section
/-! SUPPORT. The answers of ENERGY_LIMIT_SET, BAR2_WINDOW_SET and FUNCTION_CLOSE, one equation for each way they can go (05 R177,
R181, R200). -/

namespace Sys2Proof.Machine

open Sys2Proof

/-! ### ENERGY_LIMIT_SET -/

theorem energyLimitSet_taken {s : State} {b : List Byte} (hlow : 120 ≤ pay b 0 2) (hhigh : pay b 0 2 ≤ 300)
    (h18 : byteAt b 18 = 0) (h19 : byteAt b 19 = 0) :
    energyLimitSet s b = good { s with energy := { s.energy with limitW := pay b 0 2, limitBmc := false } }
      (le 2 (if s.energy.bmcW = 0 then pay b 0 2 else min (pay b 0 2) s.energy.bmcW) ++ le 2 s.energy.bmcW) := by
  have hresv : (resv b 2 2).1 = false := by
    refine resv_zero fun k hk => ?_
    interval_cases k
    · exact h18
    · exact h19
  exact fields_passed _ _ (by simp [hresv, hlow, hhigh])

/-- The offset of LIMIT_W is below that of the reserved bytes, so it is the one that the refusal names. -/
theorem energyLimitSet_refused {s : State} {b : List Byte} (hout : pay b 0 2 < 120 ∨ 300 < pay b 0 2) :
    energyLimitSet s b = bad s stInvalidField 16 := by
  have hbad : (decide (pay b 0 2 < 120) || decide (300 < pay b 0 2)) = true := by simpa using hout
  simp only [energyLimitSet, hbad]
  refine fields_refused _ _ fun c hc hresv => ?_
  obtain rfl := List.mem_singleton.1 hc
  have hoff : 16 + 2 ≤ (resv b 2 2).2 := le_resv_of_bad hresv
  omega

/-! ### BAR2_WINDOW_SET -/

theorem bar2WindowSet_taken {s : State} {b : List Byte} (f : Nat) (hmult : pay b 0 8 % 2 ^ 36 = 0) (hhigh : pay b 0 8 < 2 ^ 48) :
    bar2WindowSet s f b = good (updFn s f (fun x => { x with window := pay b 0 8 })) [] :=
  fields_passed _ _ (by simpa using ⟨hmult, hhigh⟩)

theorem bar2WindowSet_refused {s : State} {b : List Byte} (f : Nat) (hout : pay b 0 8 % 2 ^ 36 ≠ 0 ∨ 2 ^ 48 ≤ pay b 0 8) :
    bar2WindowSet s f b = bad s stInvalidField 16 := by
  have hbad : (decide (pay b 0 8 % 2 ^ 36 ≠ 0) || decide (2 ^ 48 ≤ pay b 0 8)) = true := by simpa using hout
  simp only [bar2WindowSet, hbad]
  exact fields_refused _ _ fun _ hc => absurd hc List.not_mem_nil

/-! ### FUNCTION_CLOSE -/

theorem functionClose_inUse {s : State} {f : Nat}
    (huse : (∃ kv ∈ (fnOf s f).rings, kv.2.state ≠ .closed) ∨ ∃ i ∈ s.ledger, i.2.state ≠ .free ∧ i.2.b.fn = f) :
    ∃ detail, functionClose s f = bad s stInUse detail := by
  unfold functionClose
  split
  · exact ⟨_, rfl⟩
  next hrings =>
    split
    · exact ⟨_, rfl⟩
    next hfree =>
      have hclosed : ¬∃ kv ∈ (fnOf s f).rings, kv.2.state ≠ .closed := by simpa using hrings
      obtain ⟨i, hi, hstate, hfn⟩ := huse.resolve_left hclosed
      rcases (userEntry_eq_none_iff s _).1 hfree i hi with h | h
      · exact absurd h hstate
      · exact absurd hfn (of_decide_eq_false h)

theorem functionClose_closes {s : State} {f : Nat} (hrings : ∀ kv ∈ (fnOf s f).rings, kv.2.state = .closed)
    (hfree : ∀ i ∈ s.ledger, i.2.state = .free ∨ i.2.b.fn ≠ f) :
    functionClose s f = good (updFn s f (fun x =>
      { x with engines := 0, engStop := 0, opened := false, evq := { overflow := x.evq.overflow } })) [] := by
  have hclosed : (fnOf s f).rings.any (fun kv => kv.2.state != .closed) = false := by simpa using hrings
  have hnone : userEntry s (fun _ e => e.b.fn = f) = none := (userEntry_eq_none_iff s _).2 (by simpa using hfree)
  simp only [functionClose, hclosed, hnone, Bool.false_eq_true, if_false]

end Sys2Proof.Machine
end

section
/-! CLAIMS. The statements of chapter 05 about commands at their commit point: the ranges of ENERGY_LIMIT_SET and
BAR2_WINDOW_SET, CONFIG_DISCARD, FUNCTION_CLOSE, and the commands that only read. -/

namespace Sys2Proof.Machine

open Sys2Proof

/-- Settles O26, by the two answers that each command's field checks leave. -/
theorem rangesCheckedAtCommit : Obligations.RangesCheckedAtCommit := by
  constructor <;> intro f slot s hclk hcommit
  · have hexec := commit_body (r := energyLimitSet s (slotBytes s f slot)) hclk hcommit (by decide) (by decide)
      (fun hop => by simp only [commitBody, hop])
    exact ⟨fun hlow hhigh h18 h19 => hexec _ _ (energyLimitSet_taken hlow hhigh h18 h19),
      fun hout => hexec _ _ (energyLimitSet_refused hout)⟩
  · have hexec := commit_body (r := bar2WindowSet s f (slotBytes s f slot)) hclk hcommit (by decide) (by decide)
      (fun hop => by simp only [commitBody, hop])
    exact ⟨fun hmult hhigh => hexec _ _ (bar2WindowSet_taken f hmult hhigh),
      fun hout => hexec _ _ (bar2WindowSet_refused f hout)⟩

/-- Settles O31: the body of CONFIG_DISCARD has one answer, whatever the shadow set holds. -/
theorem configDiscardEmptiesShadow : Obligations.ConfigDiscardEmptiesShadow := by
  intro f slot s hclk hcommit
  have hexec := commit_body (r := configDiscard s) hclk hcommit (by decide) (by decide)
    (fun hop => by simp only [commitBody, hop])
  exact hexec _ _ rfl

/-- Settles O32: either check answers IN_USE, and past both the function closes. -/
theorem functionCloseChecksThenCloses : Obligations.FunctionCloseChecksThenCloses := by
  intro f slot s hclk hcommit
  have hexec := commit_body (r := functionClose s f) hclk hcommit (by decide) (by decide)
    (fun hop => by simp only [commitBody, hop])
  refine ⟨fun huse => ?inUse, fun hrings hfree => ?closes⟩
  case inUse =>
    obtain ⟨detail, hrefused⟩ := functionClose_inUse huse
    exact ⟨detail, hexec _ _ hrefused⟩
  case closes => exact hexec _ _ (functionClose_closes hrings hfree)

/-- Settles O33: the row of each of the four commands sets nothing off, and its body only reads. -/
theorem readingCommandsChangeOnlyTheirSlot : Obligations.ReadingCommandsChangeOnlyTheirSlot := by
  intro f slot s hclk
  simp only [List.forall_mem_cons]
  refine ⟨?modelInfo, ?configRead, ?errlogRead, ?energyReport, List.forall_mem_nil _⟩
  all_goals refine readingRow hclk rfl (by decide) (by decide) fun hop => ?_
  all_goals simp only [commitBody, hop]
  case modelInfo => exact onlyReads_modelInfo s f _
  case configRead => exact onlyReads_configRead s f _
  case errlogRead => exact onlyReads_errlogRead s _
  case energyReport => exact onlyReads_good s _

end Sys2Proof.Machine
end

section
/-! SUPPORT. The links' records and their directions, and what a flit with a CRC error leaves of them (06 R228; 10 R339, R341); a
HANDOVER write of a bank that is there, on a READY device (06 R231). -/

namespace Sys2Proof.Machine

open Sys2Proof

/-! ### A link's record -/

@[simp] theorem linkOf_updLink_same (s : State) (l : Nat) (g : Link → Link) :
    linkOf (updLink s l g) l = g (linkOf s l) := by
  simp [linkOf, tmod]

theorem linkOf_updLink_other (s : State) {l other : Nat} (g : Link → Link) (h : other ≠ l) :
    linkOf (updLink s l g) other = linkOf s other := by
  simp [linkOf, tmod, tget_tput_other _ _ _ h]

/-! ### The directions of a link -/

@[simp] theorem dirOf_setDir_same (k : Link) (fromFirst : Bool) (g : LinkDir → LinkDir) :
    dirOf (setDir k fromFirst g) fromFirst = g (dirOf k fromFirst) := by
  cases fromFirst <;> rfl

@[simp] theorem dirOf_setDir_not (k : Link) (fromFirst : Bool) (g : LinkDir → LinkDir) :
    dirOf (setDir k (!fromFirst) g) fromFirst = dirOf k fromFirst := by
  cases fromFirst <;> rfl

theorem setDir_eq_with_directions (k : Link) (fromFirst : Bool) (g : LinkDir → LinkDir) :
    setDir k fromFirst g = { k with out := (setDir k fromFirst g).out, back := (setDir k fromFirst g).back } := by
  cases fromFirst <;> rfl

/-! ### The CRC errors of the groups -/

theorem tget_tmod_succ (t : Tbl Nat) (key k : Nat) :
    tget 0 (tmod 0 t key (· + 1)) k = tget 0 t k + if k = key then 1 else 0 := by
  rcases eq_or_ne k key with rfl | h
  · simp [tmod]
  · simp [tmod, tget_tput_other _ _ _ h, h]

/-! ### A flit received -/

/-- The registers of a link behind a flit that its end counts when it is the reporting one (R228). -/
theorem linkOf_countRx_same (s : State) (l : Nat) (atFirst : Bool) (bad : Nat) :
    linkOf (countRx s l atFirst bad) l = { linkOf s l with
      crc := if firstReports s l = atFirst then sat64 (linkOf s l).crc bad else (linkOf s l).crc
      rx := if firstReports s l = atFirst then sat64 (linkOf s l).rx 1 else (linkOf s l).rx } := by
  by_cases h : firstReports s l = atFirst <;> simp [countRx, h]

theorem linkOf_countRx_other (s : State) {l other : Nat} (atFirst : Bool) (bad : Nat) (h : other ≠ l) :
    linkOf (countRx s l atFirst bad) other = linkOf s other := by
  rw [countRx]
  split
  · exact linkOf_updLink_other s _ h
  · rfl

theorem countRx_eq_with_links (s : State) (l : Nat) (atFirst : Bool) (bad : Nat) :
    countRx s l atFirst bad = { s with links := (countRx s l atFirst bad).links } := by
  rw [countRx]
  split <;> rfl

/-- A link's record charged with a flit whose CRC is wrong: one more failure in the direction it came from, and one more error
of its group (R339, R341). -/
def chargeFlit (k : Link) (atFirst : Bool) (x : Flit) : Link :=
  { setDir k (!atFirst) (fun d => { d with fails := d.fails + 1 }) with groupErr := tmod 0 k.groupErr x.group (· + 1) }

theorem linkOf_flitBad_same (s : State) (l : Nat) (atFirst : Bool) (x : Flit) :
    linkOf (flitBad s l atFirst x) l = chargeFlit (linkOf (countRx s l atFirst 1) l) atFirst x :=
  linkOf_updLink_same (countRx s l atFirst 1) l (fun k => chargeFlit k atFirst x)

theorem linkOf_flitBad_other (s : State) {l other : Nat} (atFirst : Bool) (x : Flit) (h : other ≠ l) :
    linkOf (flitBad s l atFirst x) other = linkOf s other :=
  (linkOf_updLink_other _ _ h).trans (linkOf_countRx_other s atFirst 1 h)

theorem flitBad_eq_with_links (s : State) (l : Nat) (atFirst : Bool) (x : Flit) :
    flitBad s l atFirst x = { s with links := (flitBad s l atFirst x).links } := by
  rw [flitBad, countRx_eq_with_links]
  rfl

theorem dirOf_chargeFlit_incoming (k : Link) (atFirst : Bool) (x : Flit) :
    dirOf (chargeFlit k atFirst x) (!atFirst) =
      { dirOf k (!atFirst) with fails := (dirOf k (!atFirst)).fails + 1 } :=
  dirOf_setDir_same k (!atFirst) _

theorem dirOf_chargeFlit_outgoing (k : Link) (atFirst : Bool) (x : Flit) :
    dirOf (chargeFlit k atFirst x) atFirst = dirOf k atFirst :=
  dirOf_setDir_not k atFirst _

theorem chargeFlit_eq_with_directions (k : Link) (atFirst : Bool) (x : Flit) :
    chargeFlit k atFirst x = { k with
      out := (chargeFlit k atFirst x).out, back := (chargeFlit k atFirst x).back,
      groupErr := (chargeFlit k atFirst x).groupErr } :=
  congrArg (fun j : Link => { j with groupErr := tmod 0 k.groupErr x.group (· + 1) }) (setDir_eq_with_directions k _ _)

/-! ### A HANDOVER write -/

/-- A HANDOVER write of a bank that is there, on a READY device whose PF answers: the three conditions of R231 decide. -/
theorem bankHandover_ready {s : State} {d b : Nat} (next : Nat) (hon : barOn s 0 = true) (hready : isReady s = true)
    (hbank : b < bankCount d) :
    bankHandover s d b next =
      if ((bankOf s d b).state = .owned ∨ (bankOf s d b).state = .unowned) ∧ (next ≤ 0x10 ∨ next = 0x1F) ∧
          next ≠ (bankOf s d b).owner then
        updBank s d b (fun y => { y with
          state := .inHandover, next := next, zeroDue := !(y.state == .unowned && !y.zeroDue) })
      else { s with bankRefused := sat64 s.bankRefused 1 } := by
  simp [bankHandover, hon, hready, hbank.not_ge, and_assoc]

end Sys2Proof.Machine
end

section
/-! CLAIMS. The statements of chapter 06: a flit with a CRC error, and a HANDOVER write. -/

namespace Sys2Proof.Machine

open Sys2Proof

/-- Settles O23: the receiving end counts the flit (`countRx`), and the link is charged with it (`chargeFlit`). -/
theorem badFlitIsCountedAndDiscarded : Obligations.BadFlitIsCountedAndDiscarded := by
  intro l atFirst flit s hclk hup hbad n
  have hexec : exec (.flitReceived l flit atFirst) s = .next (flitBad s l atFirst flit) :=
    (occurs_clocked hclk hup _ _).trans (by rw [if_neg (ne_true_of_eq_false hbad)])
  have hreports : n = 1 ↔ firstReports s l = atFirst := by simp [n]
  refine ⟨_, hexec, flitBad_eq_with_links .., fun j hj => linkOf_flitBad_other s _ _ hj, ?_⟩
  rw [linkOf_flitBad_same, linkOf_countRx_same]
  simp only [hreports]
  exact ⟨dirOf_chargeFlit_incoming .., dirOf_chargeFlit_outgoing .., chargeFlit_eq_with_directions ..,
    fun g => tget_tmod_succ ..⟩

/-- Settles O44, by the one test that a HANDOVER write makes of a bank that is there. -/
theorem handoverWriteAcceptedOrCounted : Obligations.HandoverWriteAcceptedOrCounted := by
  intro die bank next s hclk hon hready hbank x ok
  have hexec : exec (.bankHandover die bank next) s = .next (bankHandover s die.val bank next.toNat) := done_clocked hclk _
  rw [bankHandover_ready next.toNat hon hready hbank] at hexec
  exact ⟨fun hok => by rw [hexec, if_pos hok], fun hbad => by rw [hexec, if_neg hbad]⟩

end Sys2Proof.Machine
end

section
/-! SUPPORT. ECC words (07 R240, R244, R245): what a store to one word does for each state of the word, an access that
lies in one word, and what the memory commands answer about a word that is there. -/

namespace Sys2Proof.Machine

open Sys2Proof

/-! ### Poison -/

theorem eccWord_of_aligned {addr : Nat} (h : addr % eccUnit addr = 0) : eccWord addr = addr := by
  simp [eccWord, h]

@[simp] theorem overwrite_mem (s : State) (addr : Nat) : (overwrite s addr).mem = s.mem := by
  unfold overwrite
  split <;> rfl

/-- Of a word that was not poisoned there is nothing to remove. -/
theorem overwrite_poison (s : State) (addr : Nat) : (overwrite s addr).poison = remove s.poison (eccWord addr) := by
  unfold overwrite
  split
  case isTrue => rfl
  case isFalse hclean =>
    have habsent : eccWord addr ∉ s.poison := by simpa [isPoisoned] using hclean
    exact (List.filter_eq_self.2 fun w hw => decide_eq_true (ne_of_mem_of_not_mem hw habsent)).symm

theorem isPoisoned_overwrite (s : State) (addr : Nat) : isPoisoned (overwrite s addr) addr = false := by
  simp [isPoisoned, overwrite_poison, remove]

theorem mem_overwrite_poison_of_ne (s : State) {addr w : Nat} (h : w ≠ eccWord addr) :
    w ∈ (overwrite s addr).poison ↔ w ∈ s.poison := by
  simp [overwrite_poison, remove, h]

theorem overwrite_errlog (s : State) (addr : Nat) :
    (overwrite s addr).errlog = if isPoisoned s addr then (logErr s (eccEntry s addr 3 1 3)).errlog else s.errlog := by
  unfold overwrite
  split <;> rfl

theorem overwrite_errNext (s : State) (addr : Nat) :
    (overwrite s addr).errNext = if isPoisoned s addr then s.errNext + 1 else s.errNext := by
  unfold overwrite
  split <;> rfl

theorem overwrite_eq_with_poison_and_log (s : State) (addr : Nat) :
    overwrite s addr = { s with
      poison := (overwrite s addr).poison, errlog := (overwrite s addr).errlog, errNext := (overwrite s addr).errNext } := by
  unfold overwrite
  split <;> rfl

/-! ### A store to one word -/

@[simp] theorem correctWord_mem (s : State) (addr source : Nat) : (correctWord s addr source).mem = s.mem := by
  simp only [correctWord, logCorrected]
  split <;> split <;> rfl

theorem storeWord_whole {s : State} {addr : Nat} {data : List Byte} (ecc : EccSeen) (hans : answers s addr = true)
    (hlen : data.length = eccUnit addr) :
    storeWord s addr data ecc = (overwrite (putMem s (cellsWrite s.mem addr data)) addr, false) := by
  simp [storeWord, hans, hlen]

section PartOfAWord

variable {s : State} {addr : Nat} {data : List Byte}

theorem storeWord_part_poisoned (ecc : EccSeen) (hans : answers s addr = true) (hlen : data.length < eccUnit addr)
    (hpoison : isPoisoned s addr = true) : storeWord s addr data ecc = (logErr s (eccEntry s addr 2 2 2), true) := by
  simp [storeWord, hans, hlen.ne, hpoison]

theorem storeWord_part_clean (hans : answers s addr = true) (hlen : data.length < eccUnit addr)
    (hpoison : isPoisoned s addr = false) :
    storeWord s addr data .clean = (putMem s (cellsWrite s.mem addr data), false) := by
  simp [storeWord, hans, hlen.ne, hpoison]

theorem storeWord_part_corrected (hans : answers s addr = true) (hlen : data.length < eccUnit addr)
    (hpoison : isPoisoned s addr = false) :
    storeWord s addr data .corrected = (correctWord (putMem s (cellsWrite s.mem addr data)) addr 1, false) := by
  simp [storeWord, hans, hlen.ne, hpoison]

theorem storeWord_part_uncorrectable (hans : answers s addr = true) (hlen : data.length < eccUnit addr)
    (hpoison : isPoisoned s addr = false) :
    storeWord s addr data .uncorrectable = (logErr (poisonWord s addr) (eccEntry s addr 2 2 2), true) := by
  simp [storeWord, hans, hlen.ne, hpoison]

end PartOfAWord

/-! ### An access that lies in one word -/

@[simp] theorem wordPieces_nil (fuel addr : Nat) : wordPieces fuel addr [] = [] := by
  cases fuel <;> rfl

theorem wordPieces_of_one_word {addr : Nat} {data : List Byte} (hne : data ≠ [])
    (hfit : addr % eccUnit addr + data.length ≤ eccUnit addr) : wordPieces data.length addr data = [(addr, data)] := by
  have hcut : data.length ≤ eccUnit addr - addr % eccUnit addr := by omega
  cases data with
  | nil => exact absurd rfl hne
  | cons b rest =>
    rw [List.length_cons, wordPieces, List.take_of_length_le hcut, List.drop_of_length_le hcut, wordPieces_nil]
    simp

@[simp] theorem seenAt_singleton (w : Nat) (ecc : EccSeen) : seenAt [(w, ecc)] w = ecc := by
  simp [seenAt, tget, tfind]

theorem storeAt_of_one_word (s : State) {addr : Nat} {data : List Byte} (seen : Seen) (hne : data ≠ [])
    (hfit : addr % eccUnit addr + data.length ≤ eccUnit addr) :
    storeAt s addr data seen =
      ((storeWord s addr data (seenAt seen (eccWord addr))).1,
        if (storeWord s addr data (seenAt seen (eccWord addr))).2 then [eccWord addr] else []) := by
  rw [storeAt, wordPieces_of_one_word hne hfit]
  rfl

section PartialWrite

variable {s t : State} {addr : Nat} {data : List Byte} {ecc : EccSeen}

theorem partialWrite_of_stored (w : Writer) (hne : data ≠ []) (hfit : addr % eccUnit addr + data.length ≤ eccUnit addr)
    (hstore : storeWord s addr data ecc = (t, false)) : partialWrite s addr data ecc w = t := by
  rw [partialWrite, storeAt_of_one_word s _ hne hfit, seenAt_singleton, hstore]
  rfl

theorem partialWrite_of_refused (w : Writer) (hne : data ≠ []) (hfit : addr % eccUnit addr + data.length ≤ eccUnit addr)
    (hstore : storeWord s addr data ecc = (t, true)) :
    partialWrite s addr data ecc w = poisonFound (tellWriter t w) (eccWord addr) 2 := by
  rw [partialWrite, storeAt_of_one_word s _ hne hfit, seenAt_singleton, hstore]
  rfl

end PartialWrite

/-! ### The commands -/

theorem exec_fullWrite_known {s : State} {addr : Nat} {data : List Byte} (hclk : Clocked s) (hknown : known addr = true)
    (halign : addr % eccUnit addr = 0) (hlen : data.length = eccUnit addr) :
    exec (.fullWrite addr data) s = .next (fullWrite s addr data) := by
  have hexec : exec (.fullWrite addr data) s = execFullWrite addr data s := rfl
  rw [hexec, execFullWrite, hknown]
  exact occurs_clocked hclk (by simp [halign, hlen]) _ _

theorem exec_partialWrite_known {s : State} {addr : Nat} {data : List Byte} (ecc : EccSeen) (w : Writer) (hclk : Clocked s)
    (hknown : known addr = true) (hne : data ≠ []) (hfit : addr % eccUnit addr + data.length ≤ eccUnit addr)
    (hlen : data.length < eccUnit addr) :
    exec (.partialWrite addr data ecc w) s = .next (partialWrite s addr data ecc w) := by
  have hexec : exec (.partialWrite addr data ecc w) s = execPartialWrite addr data ecc w s := rfl
  rw [hexec, execPartialWrite, hknown]
  exact occurs_clocked hclk (by simp [hne, hfit, hlen]) _ _

end Sys2Proof.Machine
end

section
/-! SUPPORT. Page frames (07 R261): a page's record behind an update, and what PAGE_ZEROED leaves of memory, of the records and of
the poison. -/

namespace Sys2Proof.Machine

open Sys2Proof

/-! ### A page's record -/

@[simp] theorem pageOf_updPage_same (s : State) (p : Nat) (g : Page → Page) : pageOf (updPage s p g) p = g (pageOf s p) := by
  simp [pageOf, tmod]

theorem pageOf_updPage_other (s : State) {p other : Nat} (g : Page → Page) (h : other ≠ p) :
    pageOf (updPage s p g) other = pageOf s other := by
  simp [pageOf, tmod, tget_tput_other _ _ _ h]

/-! ### PAGE_ZEROED -/

theorem cellRead_pageZeroed (s : State) (p a : Nat) :
    cellRead (pageZeroed s p).mem a =
      if a < 65536 * p ∨ 65536 * p + 65536 ≤ a then cellRead s.mem a else 0 :=
  cellRead_cellsZero s.mem (65536 * p) 65536 a

theorem pageOf_pageZeroed_same (s : State) (p : Nat) :
    pageOf (pageZeroed s p) p = { ce := (pageOf s p).ce, ceLine := (pageOf s p).ceLine } :=
  pageOf_updPage_same s p (fun x => { ce := x.ce, ceLine := x.ceLine })

theorem pageOf_pageZeroed_other (s : State) {p other : Nat} (h : other ≠ p) :
    pageOf (pageZeroed s p) other = pageOf s other :=
  pageOf_updPage_other s (fun x => { ce := x.ce, ceLine := x.ceLine }) h

theorem mem_pageZeroed_poison (s : State) (p w : Nat) :
    w ∈ (pageZeroed s p).poison ↔ w ∈ s.poison ∧ ¬(isDram w = true ∧ pageAt w = p) := by
  simp [pageZeroed, imp_iff_not_or]

end Sys2Proof.Machine
end

section
/-! CLAIMS. The statements of chapter 07: full and partial writes of an ECC word, and a quarantined page zeroed. -/

namespace Sys2Proof.Machine

open Sys2Proof

/-- Settles O40: a store to a whole word writes memory, and `overwrite` clears the word's poison. -/
theorem fullWriteStoresAndClearsPoison : Obligations.FullWriteStoresAndClearsPoison := by
  intro addr data s hclk hknown halign hlen hans hcanon
  let stored := putMem s (cellsWrite s.mem addr data)
  have hexec : exec (.fullWrite addr data) s = .next (overwrite stored addr) := by
    rw [exec_fullWrite_known hclk hknown halign hlen, fullWrite, storeWord_whole .clean hans hlen]
  have hmem : (overwrite stored addr).mem = cellsWrite s.mem addr data := overwrite_mem stored addr
  refine ⟨_, hexec, ?_, fun a ha => ?_, isPoisoned_overwrite stored addr, fun w hw => mem_overwrite_poison_of_ne stored hw, ?_,
    overwrite_errlog stored addr, overwrite_errNext stored addr⟩
  · rw [hmem, cellsRead_cellsWrite addr data hcanon]
  · rw [hmem, cellRead_cellsWrite_other addr data ha hcanon]
  · rw [hmem]
    exact overwrite_eq_with_poison_and_log stored addr

/-- Settles O41, by what the read of the word finds. -/
theorem partialWriteActsOnTheWordsState : Obligations.PartialWriteActsOnTheWordsState := by
  intro addr data ecc w s hclk hknown hne hfit hlen hans hcanon
  have hexec := exec_partialWrite_known ecc w hclk hknown hne hfit hlen
  have hread := cellsRead_cellsWrite addr data hcanon
  have hframe (a : Nat) (ha : a < addr ∨ addr + data.length ≤ a) := cellRead_cellsWrite_other addr data ha hcanon
  refine ⟨fun hpoison hecc => ?_, fun hpoison => ?_, fun hpoison hecc => ?_⟩
  · cases ecc with
    | clean =>
      rw [partialWrite_of_stored w hne hfit (storeWord_part_clean hans hlen hpoison)] at hexec
      exact ⟨_, hexec, hread, hframe, fun _ => rfl⟩
    | corrected =>
      rw [partialWrite_of_stored w hne hfit (storeWord_part_corrected hans hlen hpoison)] at hexec
      refine ⟨_, hexec, ?_, ?_, nofun⟩
      · rw [correctWord_mem]
        exact hread
      · rw [correctWord_mem]
        exact hframe
    | uncorrectable => exact absurd rfl hecc
  · rw [hexec, partialWrite_of_refused w hne hfit (storeWord_part_poisoned ecc hans hlen hpoison)]
  · subst hecc
    rw [hexec, partialWrite_of_refused w hne hfit (storeWord_part_uncorrectable hans hlen hpoison)]

/-- Settles O42, by what PAGE_ZEROED leaves of memory, of the page records and of the poison. -/
theorem quarantinedPageIsZeroed : Obligations.QuarantinedPageIsZeroed := by
  intro page s hclk hquarantined _
  have hexec : exec (.pageZeroed page) s = .next (pageZeroed s page) := occurs_clocked hclk (by simp [hquarantined]) _ _
  have hread := cellRead_pageZeroed s page
  refine ⟨_, hexec, fun a hlow hhigh => (hread a).trans (if_neg (by omega)), fun a hout => (hread a).trans (if_pos hout), ?_,
    fun q hq => pageOf_pageZeroed_other s hq, fun w hw => ((mem_pageZeroed_poison s page w).1 hw).2, rfl⟩
  rw [pageOf_pageZeroed_same]

end Sys2Proof.Machine
end

section
/-! SUPPORT. Page tables (08 R271, R272): bit fields of a number laid above a lower one, the entry of each kind of leaf with V = 1 in
those terms, and how such an entry reads. -/

namespace Sys2Proof.Machine

open Sys2Proof

/-! ### Bit fields -/

/-- A number laid above a field of `k` bits. -/
def laidAbove (k high low : Nat) : Nat := high * 2 ^ k + low

theorem bits_laidAbove_low {k hi lo : Nat} (high low : Nat) (hle : lo ≤ hi) (hk : hi < k) :
    bits (laidAbove k high low) hi lo = bits low hi lo := by
  have hdvd : 2 ^ (lo + (hi - lo + 1)) ∣ high * 2 ^ k := (Nat.pow_dvd_pow 2 (by omega)).mul_left high
  have hmod : (high * 2 ^ k + low) % 2 ^ (lo + (hi - lo + 1)) = low % 2 ^ (lo + (hi - lo + 1)) := by
    rw [Nat.add_mod, Nat.mod_eq_zero_of_dvd hdvd, Nat.zero_add, Nat.mod_mod]
  rw [Nat.pow_add] at hmod
  rw [bits, bits, laidAbove, ← Nat.mod_mul_right_div_self, hmod, Nat.mod_mul_right_div_self]

theorem bits_laidAbove_high {k lo low : Nat} (high hi : Nat) (hlow : low < 2 ^ k) (hk : k ≤ lo) :
    bits (laidAbove k high low) hi lo = bits high (hi - k) (lo - k) := by
  have hpow : 2 ^ lo = 2 ^ k * 2 ^ (lo - k) := by rw [← Nat.pow_add, Nat.add_sub_cancel' hk]
  have hdiv : (high * 2 ^ k + low) / 2 ^ k = high := by
    rw [Nat.mul_comm, Nat.mul_add_div (Nat.two_pow_pos k), Nat.div_eq_of_lt hlow, Nat.add_zero]
  rw [bits, bits, laidAbove, hpow, ← Nat.div_div_eq_div_mul, hdiv, Nat.sub_sub_sub_cancel_right hk]

theorem bit_eq_bits (v i : Nat) : bit v i = decide (bits v i i = 1) := by
  simp [bit, bits]

theorem bit_laidAbove_low {k i : Nat} (high low : Nat) (hk : i < k) : bit (laidAbove k high low) i = bit low i := by
  rw [bit_eq_bits, bit_eq_bits, bits_laidAbove_low high low le_rfl hk]

theorem bits_eq_zero_of_lt {v lo : Nat} (hi : Nat) (h : v < 2 ^ lo) : bits v hi lo = 0 := by
  rw [bits, Nat.div_eq_of_lt h, Nat.zero_mod]

theorem bits_eq_self_of_lt {v hi : Nat} (h : v < 2 ^ (hi + 1)) : bits v hi 0 = v := by
  rw [bits, Nat.pow_zero, Nat.div_one]
  exact Nat.mod_eq_of_lt h

/-! ### Leaf entries with V = 1 -/

/-- Bits [7:0] of a leaf entry with V = 1 (R271). -/
def validFlags (pooled : Bool) (tier : Nat) (w : Bool) : Nat := b2n pooled * 128 + b2n w * 16 + tier * 4 + 3

theorem validFlags_fields : ∀ tier < 4, ∀ pooled w : Bool,
    validFlags pooled tier w < 2 ^ 8 ∧
    bit (validFlags pooled tier w) 0 = true ∧
    bit (validFlags pooled tier w) 1 = true ∧
    bits (validFlags pooled tier w) 3 2 = tier ∧
    bit (validFlags pooled tier w) 4 = w ∧
    bit (validFlags pooled tier w) 5 = false ∧
    bit (validFlags pooled tier w) 6 = false ∧
    bit (validFlags pooled tier w) 7 = pooled := by decide

theorem leafEntry_mapped (tier page : Nat) (w : Bool) :
    leafEntry (.mapped tier (65536 * page) w) = laidAbove 8 page (validFlags false tier w) := by
  simp [leafEntry, laidAbove, validFlags, b2n, Nat.add_assoc]

theorem leafEntry_pooled {home : Nat} (page : Nat) (h : home < 4) :
    leafEntry (.pooled home (65536 * page)) = laidAbove 8 (laidAbove 40 home page) (validFlags true 1 true) := by
  have hflags : validFlags true 1 true = 128 + 16 + 4 + 3 := rfl
  rw [leafEntry, homeField, hflags, laidAbove, laidAbove]
  omega

theorem leafEntry_host (pasid page : Nat) (w : Bool) :
    leafEntry (.host pasid (65536 * page) w) = laidAbove 8 (laidAbove 36 pasid page) (validFlags false 2 w) := by
  have hflags : validFlags false 2 w = b2n w * 16 + 8 + 3 := by simp [validFlags, b2n]
  rw [leafEntry, hflags, laidAbove, laidAbove]
  omega

/-- The rows of R272 with V = 1, by what lies above the entry's low byte. -/
theorem readLeaf_valid (frame : Nat) {tier : Nat} (pooled w : Bool) (htier : tier < 4) :
    readLeaf (laidAbove 8 frame (validFlags pooled tier w)) =
      if tier = 2 then (if pooled then none else some (.host (bits frame 55 36) (65536 * bits frame 35 0) w))
      else if tier = 3 then none
      else if pooled then
        (if tier = 1 ∧ bits frame 55 42 = 0 ∧ bits frame 39 32 = 0 then
          some (.pooled (bits frame 41 40) (65536 * bits frame 31 0)) else none)
      else if (bits frame 55 42 = 0 ∧ bits frame 39 32 = 0) ∧ bits frame 41 40 = 0 then
        some (.mapped tier (65536 * bits frame 31 0) w) else none := by
  obtain ⟨hlt, h0, h1, h32, h4, h5, h6, h7⟩ := validFlags_fields tier htier pooled w
  have hne : laidAbove 8 frame (validFlags pooled tier w) ≠ 0 := by
    rw [laidAbove, validFlags]
    omega
  simp (disch := omega) only [readLeaf, hne, bits_laidAbove_low, bits_laidAbove_high, bit_laidAbove_low, h0, h1, h32, h4, h5,
    h6, h7]
  cases pooled <;> simp

theorem readLeaf_leafEntry_mapped {tier page : Nat} (w : Bool) (htier : tier < 2) (hpage : page < 2 ^ 32) :
    readLeaf (leafEntry (.mapped tier (65536 * page) w)) = some (.mapped tier (65536 * page) w) := by
  have hhost : tier ≠ 2 := by omega
  have hreserved : tier ≠ 3 := by omega
  rw [leafEntry_mapped, readLeaf_valid page false w (by omega)]
  simp (disch := omega) [hhost, hreserved, bits_eq_zero_of_lt, bits_eq_self_of_lt]

theorem readLeaf_leafEntry_pooled {home page : Nat} (hhome : home < 4) (hpage : page < 2 ^ 32) :
    readLeaf (leafEntry (.pooled home (65536 * page))) = some (.pooled home (65536 * page)) := by
  rw [leafEntry_pooled page hhome, readLeaf_valid _ true true (by omega)]
  simp (disch := omega) [bits_laidAbove_low, bits_laidAbove_high, bits_eq_zero_of_lt, bits_eq_self_of_lt]

theorem readLeaf_leafEntry_host {pasid page : Nat} (w : Bool) (hpasid : pasid < 2 ^ 20) (hpage : page < 2 ^ 36) :
    readLeaf (leafEntry (.host pasid (65536 * page) w)) = some (.host pasid (65536 * page) w) := by
  rw [leafEntry_host, readLeaf_valid _ false w (by omega)]
  simp (disch := omega) [bits_laidAbove_low, bits_laidAbove_high, bits_eq_self_of_lt]

end Sys2Proof.Machine
end

section
/-! SUPPORT. A shoot-down (08 R277): what it leaves of the TLBs and the ATC, and that it stands behind those issued before. -/

namespace Sys2Proof.Machine

open Sys2Proof

theorem shoot_eq_with_translations (s : State) (asid dva : Nat) :
    shoot s asid dva =
      { s with tlbs := (shoot s asid dva).tlbs, atc := (shoot s asid dva).atc, shooting := (shoot s asid dva).shooting } := by
  unfold shoot
  cases hostPage s asid (pageBase dva) <;> rfl

theorem shoot_tlbs (s : State) (asid dva : Nat) : (shoot s asid dva).tlbs = (dropTlb s asid dva).tlbs := by
  unfold shoot
  cases hostPage s asid (pageBase dva) <;> rfl

theorem shoot_shooting (s : State) (asid dva : Nat) :
    (shoot s asid dva).shooting = s.shooting ++ [(asid, pageBase dva)] := by
  unfold shoot
  cases hostPage s asid (pageBase dva) <;> rfl

theorem shoot_atc_of_not_host {s : State} {asid dva : Nat} (h : hostPage s asid (pageBase dva) = none) :
    (shoot s asid dva).atc = s.atc := by
  rw [shoot, h]
  rfl

theorem mem_shoot_tlbs (s : State) (asid dva : Nat) (e : Nat × Nat × Nat) :
    e ∈ (shoot s asid dva).tlbs ↔ e ∈ s.tlbs ∧ ¬(e.2.1 = asid ∧ e.2.2 = pageBase dva) := by
  rw [shoot_tlbs]
  simp [dropTlb, imp_iff_not_or]

theorem mem_shoot_atc_of_host {s : State} {asid dva pasid page : Nat} (h : hostPage s asid (pageBase dva) = some (pasid, page))
    (e : Nat × Nat × Nat) :
    e ∈ (shoot s asid dva).atc ↔ e ∈ s.atc ∧ ¬(e.1 + 1 = asid ∧ e.2.1 = pasid ∧ page ≤ e.2.2 ∧ e.2.2 < page + 16) := by
  rw [shoot, h]
  simp [dropTlb, imp_iff_not_or, or_assoc]

theorem mem_atc_of_mem_shoot_atc {s : State} {asid dva : Nat} {e : Nat × Nat × Nat} (he : e ∈ (shoot s asid dva).atc) :
    e ∈ s.atc := by
  cases h : hostPage s asid (pageBase dva) with
  | none => rwa [shoot_atc_of_not_host h] at he
  | some _ => exact ((mem_shoot_atc_of_host h e).1 he).1

end Sys2Proof.Machine
end

section
/-! CLAIMS. The statements of chapter 08: a shoot-down, and the entries of leaves. -/

namespace Sys2Proof.Machine

open Sys2Proof

/-- Settles O22, by what a shoot-down leaves of the TLBs, and of the ATC with and without a host page behind the DVA. -/
theorem shootdownRemovesTranslations : Obligations.ShootdownRemovesTranslations := by
  intro asid dva s hclk
  have hexec : exec (.shootdown asid dva) s = .next (shoot s asid dva) := done_clocked hclk _
  exact ⟨_, hexec, shoot_eq_with_translations s asid dva, mem_shoot_tlbs s asid dva, fun _ => mem_atc_of_mem_shoot_atc,
    fun _ _ hhost e he => ((mem_shoot_atc_of_host hhost e).1 he).2, shoot_atc_of_not_host, shoot_shooting s asid dva⟩

/-- Settles O59, by the kind of leaf: an entry with V = 0 is one of six numbers, and one with V = 1 reads back by
`readLeaf_valid`. -/
theorem leafEntriesReadBack : Obligations.LeafEntriesReadBack := by
  have habsent : ∀ home, home < 4 → readLeaf (leafEntry (.absentReserved 0 home)) = some (.absentReserved 0 home) := by decide
  exact ⟨rfl, habsent, by decide, fun _ _ w htier hpage => readLeaf_leafEntry_mapped w htier hpage,
    fun _ _ hhome hpage => readLeaf_leafEntry_pooled hhome hpage,
    fun _ _ w hpasid hpage => readLeaf_leafEntry_host w hpasid hpage⟩

end Sys2Proof.Machine
end

section
/-! SUPPORT. Scratchpad banks (09 R301, R302): a bank's record behind an update, an access that lies inside a bank, the zeroing of
a bank, and the end of a handover. -/

namespace Sys2Proof.Machine

open Sys2Proof

/-! ### A bank's record -/

@[simp] theorem bankOf_updBank_same (s : State) (d b : Nat) (g : Bank → Bank) :
    bankOf (updBank s d b g) d b = g (bankOf s d b) := by
  simp [bankOf, tmod]

theorem bankOf_of_banks_eq {s t : State} (h : t.banks = s.banks) (d b : Nat) : bankOf t d b = bankOf s d b :=
  congrArg (fun banks => tget ({} : Bank) banks (64 * d + b)) h

/-! ### Accesses -/

theorem exec_bankAccess_inside {die : Fin 5} {bank off len : Nat} {data : Option (List Byte)} (code : Nat) (w : Writer)
    (seen : Seen) {s : State} (hclk : Clocked s) (hbank : bank < bankCount die.val) (hlen : 0 < len)
    (hend : off + len ≤ 0x20000) (hdata : ∀ l, data = some l → l.length = len) :
    exec (.bankAccess die bank off data len code w seen) s = .next (bankAccess s die.val bank
      { code := code, off := off, len := len, data := data, by_ := w, seen := seen }) := by
  have hfits : (data.map (fun l => decide (l.length = len))).getD true = true := by
    cases data with
    | none => rfl
    | some l => simp [hdata l rfl]
  exact occurs_clocked hclk (by simp [hbank, hlen, hend, hfits]) _ _

variable {s : State} {d b : Nat} {a : BankAcc}

theorem bankAccess_owner_write (hstate : (bankOf s d b).state = .owned) (howner : (bankOf s d b).owner = a.code) {l : List Byte}
    (hdata : a.data = some l) : bankAccess s d b a = bankWrite s (bankBase d b + a.off) l a.by_ a.seen := by
  simp [bankAccess, hstate, howner, hdata]

theorem bankAccess_owner_read (hstate : (bankOf s d b).state = .owned) (howner : (bankOf s d b).owner = a.code)
    (hdata : a.data = none) : bankAccess s d b a = bankRead s (bankBase d b + a.off) a.len a.by_ a.seen := by
  simp [bankAccess, hstate, howner, hdata]

theorem bankAccess_coming_owner (hstate : (bankOf s d b).state = .inHandover) (hnext : (bankOf s d b).next = a.code) :
    bankAccess s d b a = updBank s d b (fun y => { y with waits := y.waits ++ [a] }) := by
  simp [bankAccess, hstate, hnext]

theorem bankAccess_stranger (howner : ¬((bankOf s d b).state = .owned ∧ (bankOf s d b).owner = a.code))
    (hnext : ¬((bankOf s d b).state = .inHandover ∧ (bankOf s d b).next = a.code)) : bankAccess s d b a = bankFault s a := by
  simp [bankAccess, howner, hnext]

/-! ### Zeroing -/

@[simp] theorem overwrite_banks (s : State) (addr : Nat) : (overwrite s addr).banks = s.banks := by
  rw [overwrite_eq_with_poison_and_log]

@[simp] theorem zeroBank_banks (s : State) (d b : Nat) : (zeroBank s d b).banks = s.banks :=
  foldl_proj State.banks overwrite_banks _ _

@[simp] theorem zeroBank_mem (s : State) (d b : Nat) : (zeroBank s d b).mem = cellsZero s.mem (bankBase d b) 0x20000 :=
  foldl_proj State.mem overwrite_mem _ _

/-! ### The end of a handover -/

/-- A bank whose handover has ended: NEXT_OWNER stays as the handover named it (log entry 84). -/
def passedOn (x : Bank) : Bank :=
  { x with owner := x.next, state := if x.next = 0x1F then .unowned else .owned, zeroDue := false, waits := [] }

/-- With no access waiting, the end of a handover is the zeroing that is due and the new owner's installation. -/
theorem handoverDone_of_no_waits (h : (bankOf s d b).waits = []) :
    handoverDone s d b = updBank (if (bankOf s d b).zeroDue then zeroBank s d b else s) d b passedOn := by
  rw [handoverDone, h]
  rfl

theorem bankOf_handoverDone_same (h : (bankOf s d b).waits = []) :
    bankOf (handoverDone s d b) d b = passedOn (bankOf s d b) := by
  have hbanks : (if (bankOf s d b).zeroDue then zeroBank s d b else s).banks = s.banks := by
    split
    · exact zeroBank_banks s d b
    · rfl
  rw [handoverDone_of_no_waits h, bankOf_updBank_same, bankOf_of_banks_eq hbanks]

theorem handoverDone_mem (h : (bankOf s d b).waits = []) :
    (handoverDone s d b).mem = if (bankOf s d b).zeroDue then cellsZero s.mem (bankBase d b) 0x20000 else s.mem := by
  rw [handoverDone_of_no_waits h, updBank_mem]
  split
  · exact zeroBank_mem s d b
  · rfl

end Sys2Proof.Machine
end

section
/-! CLAIMS. The statements of chapter 09: an access to a bank, and the end of a handover. -/

namespace Sys2Proof.Machine

open Sys2Proof

/-- Settles O43, by the bank's STATE and the code that it is compared with. -/
theorem bankServesItsOwner : Obligations.BankServesItsOwner := by
  intro die bank off data len code w seen s hclk hbank hlen hend hdata x a
  rw [exec_bankAccess_inside code w seen hclk hbank hlen hend hdata]
  exact ⟨fun hstate howner _ hwrite => congrArg _ (bankAccess_owner_write hstate howner hwrite),
    fun hstate howner hread => congrArg _ (bankAccess_owner_read hstate howner hread),
    fun hstate hnext => congrArg _ (bankAccess_coming_owner hstate hnext),
    fun howner hnext => congrArg _ (bankAccess_stranger howner hnext)⟩

/-- Settles O45, by what the end of a handover leaves of the bank's record and of memory. -/
theorem handoverDoneZeroesAndPassesOn : Obligations.HandoverDoneZeroesAndPassesOn := by
  intro die bank s hclk _ x base hstate hwaits
  have hexec : exec (.handoverDone die bank) s = .next (handoverDone s die.val bank) :=
    occurs_clocked hclk (by simp [x, hstate]) _ _
  have hrecord : bankOf (handoverDone s die.val bank) die.val bank = passedOn x := bankOf_handoverDone_same hwaits
  have hmem : (handoverDone s die.val bank).mem = if x.zeroDue then cellsZero s.mem base 0x20000 else s.mem :=
    handoverDone_mem hwaits
  refine ⟨_, hexec, ?_, fun hzero a hlow hhigh => ?_, fun a hout => ?_, fun hkeep => ?_⟩
  · rw [hrecord, passedOn, ← hwaits]
  · rw [hmem, if_pos hzero, cellRead_cellsZero, if_neg (by omega)]
  · rw [hmem]
    split
    · rw [cellRead_cellsZero, if_pos hout]
    · rfl
  · rw [hmem, if_neg (ne_true_of_eq_false hkeep)]

end Sys2Proof.Machine
end

section
/-! SUPPORT. The side-band of a flit (10 R328, R329): the fields above the CRC field laid one above the other, what a receiver reads
of them, when it finds a flit clean, and the side-band that a sender makes. -/

namespace Sys2Proof.Machine

open Sys2Proof

/-! ### The fields above the CRC field -/

/-- Bits [63:16] of a side-band that a sender makes: START, KIND, SEQ, ACK, CR_VC, CR_COUNT and the reserved bits (R328). -/
def sideHead (kind seq ack vc n : Nat) : Nat :=
  laidAbove 45 5 (laidAbove 42 kind (laidAbove 34 seq (laidAbove 26 ack (laidAbove 24 vc (laidAbove 18 n 0)))))

theorem laidAbove_lt {k m high low : Nat} (hhigh : high < 2 ^ m) (hlow : low < 2 ^ k) : laidAbove k high low < 2 ^ (m + k) := by
  rw [Nat.pow_add, laidAbove]
  calc high * 2 ^ k + low < (high + 1) * 2 ^ k := by rw [Nat.succ_mul]; exact Nat.add_lt_add_left hlow _
    _ ≤ 2 ^ m * 2 ^ k := Nat.mul_le_mul_right _ hhigh

/-- The bound and the fields of the bits above the CRC field, from the lowest field up. -/
theorem sideHead_fields {kind seq ack vc n : Nat} (hkind : kind < 8) (hseq : seq < 256) (hack : ack < 256) (hvc : vc < 4)
    (hn : n < 64) :
    sideHead kind seq ack vc n < 2 ^ 48 ∧ bits (sideHead kind seq ack vc n) 47 45 = 5 ∧
      bits (sideHead kind seq ack vc n) 44 42 = kind ∧ bits (sideHead kind seq ack vc n) 41 34 = seq ∧
      bits (sideHead kind seq ack vc n) 33 26 = ack ∧ bits (sideHead kind seq ack vc n) 25 24 = vc ∧
      bits (sideHead kind seq ack vc n) 23 18 = n := by
  have hcount := laidAbove_lt (k := 18) (m := 6) (low := 0) hn (by decide)
  have hcredit := laidAbove_lt (m := 2) hvc hcount
  have hacked := laidAbove_lt (m := 8) hack hcredit
  have hsequenced := laidAbove_lt (m := 8) hseq hacked
  have hkinded := laidAbove_lt (m := 3) hkind hsequenced
  refine ⟨laidAbove_lt (m := 3) (by decide) hkinded, ?_⟩
  simp (disch := omega) [sideHead, bits_laidAbove_low, bits_laidAbove_high, bits_eq_self_of_lt]

/-! ### A side-band and its CRC field -/

/-- The side-band with a given head, in bits [63:16], and a given CRC field, in bits [15:0]. -/
def sideBand (head : Nat) (crc : BitVec 16) : BitVec 64 := BitVec.ofNat 48 head ++ crc

theorem sideBand_toNat {head : Nat} (h : head < 2 ^ 48) (crc : BitVec 16) :
    (sideBand head crc).toNat = laidAbove 16 head crc.toNat := by
  rw [sideBand, BitVec.toNat_append, BitVec.toNat_ofNat, Nat.mod_eq_of_lt h, ← Nat.shiftLeft_add_eq_or_of_lt crc.isLt,
    Nat.shiftLeft_eq, laidAbove]

/-- An error in the CRC field alone leaves the head. -/
theorem sideBand_xor_setWidth (head : Nat) (crc e : BitVec 16) :
    sideBand head crc ^^^ e.setWidth 64 = sideBand head (crc ^^^ e) := by
  have herror : e.setWidth 64 = 0#48 ++ e := (BitVec.setWidth_eq_append (by decide)).trans rfl
  rw [sideBand, sideBand, herror, BitVec.xor_append, BitVec.xor_zero]

theorem bits_sideBand_head {head lo : Nat} (h : head < 2 ^ 48) (crc : BitVec 16) (hi : Nat) (hlo : 16 ≤ lo) :
    bits (sideBand head crc).toNat hi lo = bits head (hi - 16) (lo - 16) := by
  rw [sideBand_toNat h, bits_laidAbove_high head hi crc.isLt hlo]

theorem bits_sideBand_crc {head : Nat} (h : head < 2 ^ 48) (crc : BitVec 16) :
    bits (sideBand head crc).toNat 15 0 = crc.toNat := by
  rw [sideBand_toNat h, bits_laidAbove_low head crc.toNat (by decide) (by decide), bits_eq_self_of_lt crc.isLt]

/-- The CRC covers the head and not the CRC field (R329). -/
theorem flitCrc_laidAbove (data : List Byte) (head : Nat) {low : Nat} (hlow : low < 2 ^ 16) :
    flitCrc data (laidAbove 16 head low) = crc16 (data ++ le 6 head) := by
  have hhead : laidAbove 16 head low / 65536 = head := by
    rw [laidAbove]
    omega
  rw [flitCrc, hhead]

theorem flitClean_iff_of_side {x : Flit} {head : Nat} {crc : BitVec 16} (h : head < 2 ^ 48) (hside : x.side = sideBand head crc) :
    flitClean x = true ↔ bits head 47 45 = 5 ∧ crc16 (x.data ++ le 6 head) = crc := by
  rw [flitClean, hside, bits_sideBand_head h crc 63 (by decide), bits_sideBand_crc h, sideBand_toNat h,
    flitCrc_laidAbove x.data head crc.isLt, Bool.and_eq_true, decide_eq_true_iff, decide_eq_true_iff, BitVec.toNat_inj]

/-! ### The side-band that a sender makes -/

theorem flitSide_eq_laidAbove (kind vc n : Nat) {seq ack : Nat} (data : List Byte) (hseq : seq < 256) (hack : ack < 256) :
    flitSide kind seq ack vc n data =
      laidAbove 16 (sideHead kind seq ack vc n) (crc16 (data ++ le 6 (sideHead kind seq ack vc n))).toNat := by
  have htop : 5 * 2 ^ 61 + kind * 2 ^ 58 + seq % 256 * 2 ^ 50 + ack % 256 * 2 ^ 42 + vc * 2 ^ 40 + n * 2 ^ 34 =
      laidAbove 16 (sideHead kind seq ack vc n) 0 := by
    simp only [sideHead, laidAbove]
    omega
  rw [flitSide, htop, flitCrc_laidAbove data _ (by decide), laidAbove, laidAbove, Nat.add_zero]

theorem ofNat_flitSide {kind seq ack vc n : Nat} (data : List Byte) (hkind : kind < 8) (hseq : seq < 256) (hack : ack < 256)
    (hvc : vc < 4) (hn : n < 64) :
    BitVec.ofNat 64 (flitSide kind seq ack vc n data) =
      sideBand (sideHead kind seq ack vc n) (crc16 (data ++ le 6 (sideHead kind seq ack vc n))) := by
  obtain ⟨hhead, -⟩ := sideHead_fields hkind hseq hack hvc hn
  rw [flitSide_eq_laidAbove kind vc n data hseq hack, ← sideBand_toNat hhead, BitVec.ofNat_toNat, BitVec.setWidth_eq]

end Sys2Proof.Machine
end

section
/-! CLAIMS. The statement of chapter 10: a flit as its receiver reads it. -/

namespace Sys2Proof.Machine

open Sys2Proof

/-- Settles O60: what a sender makes is a head under its own CRC (`ofNat_flitSide`), and an error in the CRC field leaves the head,
of which the CRC right for it is a function. -/
theorem flitsReadBack : Obligations.FlitsReadBack := by
  intro group kind seq ack vc n data hkind hseq hack hvc hn x
  obtain ⟨hhead, hstart, hk, hs, ha, hv, hc⟩ := sideHead_fields hkind hseq hack hvc hn
  have hside : x.side = sideBand (sideHead kind seq ack vc n) (crc16 (data ++ le 6 (sideHead kind seq ack vc n))) :=
    ofNat_flitSide data hkind hseq hack hvc hn
  have hread (hi : Nat) {lo : Nat} (hlo : 16 ≤ lo) :
      bits x.side.toNat hi lo = bits (sideHead kind seq ack vc n) (hi - 16) (lo - 16) := by
    rw [hside, bits_sideBand_head hhead _ hi hlo]
  refine ⟨(flitClean_iff_of_side hhead hside).2 ⟨hstart, rfl⟩, (hread 60 (by decide)).trans hk,
    (hread 57 (by decide)).trans hs, (hread 49 (by decide)).trans ha, (hread 41 (by decide)).trans hv,
    (hread 39 (by decide)).trans hc, fun e he => ?_⟩
  have herror : x.side ^^^ e.setWidth 64 = sideBand (sideHead kind seq ack vc n)
      (crc16 (data ++ le 6 (sideHead kind seq ack vc n)) ^^^ e) := by
    rw [hside, sideBand_xor_setWidth]
  rw [Bool.eq_false_iff, Ne, flitClean_iff_of_side hhead herror]
  rintro ⟨-, hcrc⟩
  exact he (by simpa [x] using hcrc.symm)

end Sys2Proof.Machine
end

section
/-! SUPPORT. Time passing on an empty queue (log entry 1): the counters of waits are in the functions' records, so that nothing
but those records and the clock changes. -/

namespace Sys2Proof.Machine

open Sys2Proof

/-- `t` differs from `s` at most in the functions' records. -/
def FnsOnly (s t : State) : Prop := t = { s with fns := t.fns }

theorem fnsOnly_refl (s : State) : FnsOnly s s := rfl

theorem FnsOnly.trans {s t u : State} (h : FnsOnly s t) (k : FnsOnly t u) : FnsOnly s u :=
  Eq.trans k (congrArg (fun x : State => { x with fns := u.fns }) h)

theorem fnsOnly_cntN (s : State) (f off n : Nat) : FnsOnly s (cntN s f off n) := by
  simp only [cntN]
  split <;> rfl

theorem fnsOnly_countWaits (n : Nat) (s : State) (f : Nat) : FnsOnly s (countWaits n s f) :=
  ((((fnsOnly_cntN s f _ _).trans (fnsOnly_cntN _ f _ _)).trans (fnsOnly_cntN _ f _ _)).trans (fnsOnly_cntN _ f _ _)).trans
    (fnsOnly_cntN _ f _ _)

theorem elapse_eq_with_fns {s : State} {t : Nat} (h : s.now < t) :
    elapse s t = { s with fns := (elapse s t).fns, now := t } := by
  have hwaits : FnsOnly s ((List.range 16).foldl (countWaits (t - s.now)) s) :=
    foldl_rel fnsOnly_refl FnsOnly.trans (fnsOnly_countWaits _) _ s
  rw [elapse, if_neg (Nat.not_le.2 h)]
  exact congrArg (fun x : State => { x with now := t }) hwaits

theorem idle_running {s : State} (hpower : s.pins.pwrGood = true) (hperst : s.pins.perstN = true) (hclk : Clocked s) :
    idle s = elapse s (s.now + 1) := by
  simp [idle, hpower, hperst, show s.pins.thermtrip = false from hclk]

theorem idle_stopped {s : State} (h : s.pins.pwrGood = false ∨ s.pins.perstN = false ∨ ¬Clocked s) : idle s = s := by
  refine if_neg ?_
  rcases h with h | h | h
  · simp [h]
  · simp [h]
  · simp [show s.pins.thermtrip = true by simpa [Clocked] using h]

theorem step_empty {s : State} (h : s.pending = []) : step s = .next (idle s) := by
  simp [step, h]

end Sys2Proof.Machine
end

section
/-! CLAIMS. The statements about the queue and the step: the command at its front, the passing of time, what every step keeps. -/

namespace Sys2Proof.Machine

open Sys2Proof

/-- Settles O1: a step takes the front command off the queue and runs it. -/
theorem stepRunsFrontCommand : Obligations.StepRunsFrontCommand := fun _ _ _ => rfl

/-- Settles O2, by whether the clocks run. -/
theorem emptyQueueLetsTimePass : Obligations.EmptyQueueLetsTimePass := by
  intro s hempty
  rw [step_empty hempty]
  refine ⟨fun hpower hperst hclk => ?_, fun hstopped => by rw [idle_stopped hstopped]⟩
  have htime : idle s = { s with fns := (idle s).fns, now := s.now + 1 } := by
    rw [idle_running hpower hperst hclk, ← elapse_eq_with_fns s.now.lt_succ_self]
  exact ⟨_, rfl, by rw [htime], by rw [htime], by rw [htime], by rw [htime], by rw [htime], by rw [htime, hempty]⟩

/-- Settles O4: what every step keeps (`keepsNext_step`) holds the form of memory. -/
theorem memoryFormKept : Obligations.MemoryFormKept := fun s t hform hstep => (keepsNext_step s t hstep).mem hform

/-- Settles O8: what every command keeps (`keepsNext_exec`) holds the queue. -/
theorem execKeepsQueue : Obligations.ExecKeepsQueue := fun c s t hnext => (keepsNext_exec c s t hnext).pending

end Sys2Proof.Machine
end

section
/-! SUPPORT. The answer of a transaction (10 R331): what a row that returns one gives when the transaction waits for its kind. -/

namespace Sys2Proof.Machine

open Sys2Proof

/-- A transaction's answer of the kind that a row returns goes back to the requester. -/
theorem returnAnswer_of_kind {s : State} {tag : Nat} {src : Fin 5} {kind : OutTxn → Answer → Bool} {t : OutTxn} {a : Answer}
    (hclk : Clocked s) (hanswer : txnAnswer s tag src = some (t, a)) (hkind : kind t a = true) :
    returnAnswer s tag src kind = .next (giveAnswer s t a) := by
  simp only [returnAnswer, hanswer]
  exact occurs_clocked hclk hkind _ _

end Sys2Proof.Machine
end

section
/-! CLAIMS. The rows of events and of operations that complete at once (premises: log entry 2). -/

namespace Sys2Proof.Machine

open Sys2Proof

/-- Settles O9: the rows of the board and the pins occur in every state, the others while the clocks run. -/
theorem powerAndStartUpRowsComplete : Obligations.PowerAndStartUpRowsComplete := by
  refine ⟨?pwrGoodInRise, ?pwrGoodInFall, ?perstNAssert, ?perstNDeassert, ?perstNDeassertionTaken, ?hotReset, ?railFault,
    ?railReturn, ?eprNFall, ?eprNRise, ?preReadyMsMark, ?refclkLoss, ?crestPllLoss, ?crestRootPllLock, ?harbourPllLock,
    ?harbourPllTimeout, ?avsFrameAck, ?avsNoAck, ?avsStepSettled, ?fwVerifyDone, ?configSpaceReady, ?rollCallStart,
    ?rollCallAnswer, ?rollCallSilent, ?neighbourExchange, ?neighbourExchangeTimeout, ?dieFwLoaded, ?selfCalDone,
    ?memTrainingDone, ?memoryInitDone, ?readySet, ?bootTimeout⟩
  case pwrGoodInRise | pwrGoodInFall | perstNAssert | perstNDeassert | perstNDeassertionTaken | railFault | railReturn
    | eprNFall | eprNRise =>
    intros
    exact occursAlways_next ‹_› _ _
  case hotReset | preReadyMsMark | refclkLoss | crestPllLoss | crestRootPllLock | harbourPllLock | harbourPllTimeout
    | avsFrameAck | avsNoAck | avsStepSettled | fwVerifyDone | configSpaceReady | rollCallStart | rollCallAnswer
    | rollCallSilent | neighbourExchange | neighbourExchangeTimeout | dieFwLoaded | selfCalDone | memTrainingDone
    | memoryInitDone | readySet | bootTimeout =>
    intros
    exact occurs_clocked ‹_› ‹_› _ _

/-- Settles O10: a row of the host occurs whenever the clocks run, an event when its premise holds, and three rows by what a tag
holds. -/
theorem hostLinkRowsComplete : Obligations.HostLinkRowsComplete := by
  refine ⟨?bmeClear, ?bmeSet, ?initiateFlr, ?flrComplete, ?vfEnableClear, ?vfEnableSet, ?d3hotEntry, ?d0Return, ?pcieLinkUp,
    ?receiverError, ?atomicopReceived, ?completionReceived, ?completionTimeoutExpiry, ?tagQuarantineExpiry,
    ?invalidationRequest, ?translationCompletion, ?prgResponse, ?prgResponseTimeout⟩
  case bmeClear | bmeSet | initiateFlr | vfEnableClear | vfEnableSet | d3hotEntry | d0Return | receiverError
    | atomicopReceived | invalidationRequest =>
    intros
    exact done_clocked ‹_› _
  case flrComplete | pcieLinkUp | completionReceived | prgResponse | prgResponseTimeout =>
    intros
    exact occurs_clocked ‹_› ‹_› _ _
  case completionTimeoutExpiry =>
    intro f tag s w cto stale page hclk htag
    simp only [exec, execCompletionTimeoutExpiry, htag]
    exact done_clocked hclk _
  case tagQuarantineExpiry =>
    intro f tag s t hclk htag
    simp only [exec, execTagQuarantineExpiry, htag]
    exact done_clocked hclk _
  case translationCompletion =>
    intro f pasid page present s tag stale hclk htag
    simp only [exec, execTranslationCompletion, htag]
    exact done_clocked hclk _

/-- Settles O11: an access of the host is done whenever the clocks run, and the other rows occur when their premise holds. -/
theorem registerAndDoorbellRowsComplete : Obligations.RegisterAndDoorbellRowsComplete := by
  refine ⟨?bar2Read, ?bar2Write, ?registerWrite, ?lowHalfRead, ?msixUnmask, ?slotWrite, ?dbMboxWrite, ?commandCommit,
    ?dbRingWrite, ?evqConsWrite, ?writebackUpdate, ?msixHoldoffExpiry⟩
  case bar2Read | bar2Write | registerWrite | lowHalfRead | msixUnmask | slotWrite | dbMboxWrite | dbRingWrite
    | evqConsWrite =>
    intros
    exact done_clocked ‹_› _
  case commandCommit | writebackUpdate | msixHoldoffExpiry =>
    intros
    exact occurs_clocked ‹_› ‹_› _ _

/-- Settles O14: each event occurs when its premise holds, and a rejoin ends for a die that DIE_REJOIN names. -/
theorem recoveryAndEnergyRowsComplete : Obligations.RecoveryAndEnergyRowsComplete := by
  refine ⟨?cpWatchdogExpiry, ?controlCoreFault, ?cpRestartEnd, ?cpRestartTimeout, ?dieManagerWatchdog,
    ?dieManagerRestartDone, ?dieLossPath, ?dieResetApplied, ?dieRejoinDone, ?tideBoundary, ?tideReport, ?tideReportTimeout,
    ?tideGrant, ?allowance97Reached, ?allowanceExhausted, ?fastTripPower, ?fastTripEnd, ?tempUpdate⟩
  case cpWatchdogExpiry | controlCoreFault | cpRestartEnd | cpRestartTimeout | dieManagerWatchdog | dieManagerRestartDone
    | dieLossPath | dieResetApplied | tideBoundary | tideReport | tideReportTimeout | tideGrant | allowance97Reached
    | allowanceExhausted | fastTripPower | fastTripEnd | tempUpdate =>
    intros
    exact occurs_clocked ‹_› ‹_› _ _
  case dieRejoinDone =>
    intro d result s b hclk hcmd hstate hcp hmay
    simp only [exec, execDieRejoinDone, hcmd]
    exact occurs_clocked hclk (by simp [hstate, hcp, hmay]) _ _

/-- Settles O15: each event occurs when its premise holds, and a mask is ready for a request that has one in work. -/
theorem stepAndTextRowsComplete : Obligations.StepAndTextRowsComplete := by
  refine ⟨?prefillStepForm, ?decodeStepForm, ?stepLayerBoundary, ?stepCommit, ?drainStepTimeout, ?holdStepTimeout,
    ?maskReady, ?slackTideStart, ?slackTideEnd, ?groupMovePrepared, ?grammarCopyBuilt, ?vocabImageReloaded, ?cardingLaneTake,
    ?cardingChunk, ?carryStateSpill, ?bintableStaged, ?feltingLaneTake, ?tidepoolMoveDone, ?tidepoolExpiry,
    ?tidepoolReturnDone, ?ledgerEntryFreed⟩
  case prefillStepForm | decodeStepForm | stepLayerBoundary | stepCommit | drainStepTimeout | holdStepTimeout
    | slackTideStart | slackTideEnd | groupMovePrepared | vocabImageReloaded | cardingLaneTake | cardingChunk
    | bintableStaged | feltingLaneTake | tidepoolMoveDone | tidepoolExpiry | tidepoolReturnDone | ledgerEntryFreed
    | grammarCopyBuilt | carryStateSpill =>
    intros
    exact occurs_clocked ‹_› ‹_› _ _
  case maskReady =>
    intro ledger s n hclk hnext hmask
    simp only [exec, execMaskReady, hnext]
    exact occurs_clocked hclk hmask _ _

/-- Settles O16: a known address takes its access, a page or a fault on record serves its event, and every other event occurs
when its premise holds. -/
theorem memoryAndTranslationRowsComplete : Obligations.MemoryAndTranslationRowsComplete := by
  refine ⟨?demandRead, ?fullWrite, ?partialWrite, ?patrolRead, ?poisonDisposition, ?ceCountRetire, ?migrationDone,
    ?pageZeroed, ?pageWalkDone, ?absentFaultServiced, ?tidepoolFaultServiced, ?tidepoolFaultPageFreed, ?stepFaultWaitTimeout,
    ?preemptFaultWaitTimeout, ?tablePageRebuilt, ?shootdown, ?shootdownComplete⟩
  case demandRead =>
    intro addr ecc w s hclk hknown
    simp only [exec, execDemandRead, hknown, if_true]
    exact done_clocked hclk _
  case fullWrite => exact fun _ _ _ hclk hknown halign hlen => exec_fullWrite_known hclk hknown halign hlen
  case partialWrite =>
    exact fun _ _ ecc w _ hclk hknown hne hfit hlen => exec_partialWrite_known ecc w hclk hknown hne hfit hlen
  case patrolRead | pageZeroed | pageWalkDone | stepFaultWaitTimeout | tablePageRebuilt | shootdownComplete
    | poisonDisposition | ceCountRetire =>
    intros
    exact occurs_clocked ‹_› ‹_› _ _
  case migrationDone =>
    intro page s q hclk hdest hstate hcp
    simp only [exec, execMigrationDone, hdest]
    exact occurs_clocked hclk (by simp [hstate, hcp]) _ _
  case absentFaultServiced =>
    intro asid dva s r hclk hfault hcls hup
    simp only [exec, execAbsentFaultServiced, hfault]
    exact occurs_clocked hclk (by simp [hcls, hup]) _ _
  case tidepoolFaultServiced =>
    intro asid dva s r hclk hfault hcls hpage hup
    simp only [exec, execTidepoolFaultServiced, hfault]
    exact occurs_clocked hclk (by simp [hcls, hpage, hup]) _ _
  case tidepoolFaultPageFreed =>
    intro asid dva s r hclk hfault hcls hpage hfreed
    simp only [exec, execTidepoolFaultPageFreed, hfault]
    exact occurs_clocked hclk (by simp [hcls, hpage, hfreed]) _ _
  case preemptFaultWaitTimeout =>
    intro asid dva s r hclk hfault hpreempted
    simp only [exec, execPreemptFaultWaitTimeout, hfault]
    exact occurs_clocked hclk hpreempted _ _
  case shootdown =>
    intros
    exact done_clocked ‹_› _

/-- Settles O17: each event occurs when its premise holds, and an answer goes back to a transaction that waits for its kind. -/
theorem bankAndLinkRowsComplete : Obligations.BankAndLinkRowsComplete := by
  refine ⟨?bankAccess, ?bankHandover, ?handoverDone, ?seizureDone, ?firmwareBankReclaim, ?marchDone, ?linkTrained,
    ?linkTrainingTimeout, ?flitReceived, ?replayRequest, ?ackTimeout, ?flitRetryLimit, ?rdReq, ?wrReq, ?rdRsp, ?wrAck,
    ?errRsp, ?auditMarker, ?recentreDue, ?recentreGapForced, ?groupDisable, ?partnerClockStop⟩
  case bankAccess | handoverDone | firmwareBankReclaim | linkTrained | linkTrainingTimeout | flitReceived | replayRequest
    | ackTimeout | rdReq | wrReq | auditMarker | recentreDue | recentreGapForced | groupDisable | partnerClockStop
    | seizureDone | marchDone =>
    intros
    exact occurs_clocked ‹_› ‹_› _ _
  case bankHandover =>
    intros
    exact done_clocked ‹_› _
  case flitRetryLimit =>
    intro l s hclk hup hfails
    exact occurs_clocked hclk (by simpa [hup] using hfails) _ _
  case rdRsp | wrAck =>
    exact fun _ _ _ _ _ hclk hanswer hwrite herr => returnAnswer_of_kind hclk hanswer (by simp [hwrite, herr])
  case errRsp =>
    exact fun _ _ _ _ _ _ hclk hanswer hne herr => returnAnswer_of_kind hclk hanswer (by simp [hne, ← herr])

/-- Settles O18: the rows of the management controller, of its connections and of the test port occur in every state that has
them powered. -/
theorem managementAndTestRowsComplete : Obligations.ManagementAndTestRowsComplete := by
  refine ⟨?setEndpointId, ?getEndpointId, ?getMctpVersionSupport, ?getMessageTypeSupport, ?mctpUnsupportedCmd,
    ?smbusAlertResponse, ?getTid, ?setTid, ?getPldmVersion, ?getPldmTypes, ?getPldmCommands, ?getPdrRepositoryInfo, ?getPdr,
    ?getSensorReading, ?getStateSensorReadings, ?setNumericEffecterValue, ?getNumericEffecterValue, ?requestUpdate,
    ?passComponentTable, ?updateComponent, ?firmwareDataReceived, ?verifyComplete, ?applyComplete, ?activateFirmware,
    ?cancelUpdate, ?updateIdleTimeout, ?getVersion, ?getCapabilities, ?negotiateAlgorithms, ?getDigests, ?getCertificate,
    ?challenge, ?getMeasurements, ?respondIfReady, ?signingDone, ?tapReset, ?extest, ?samplePreload, ?idcode, ?dbgChallenge,
    ?dbgResponse, ?dieSelect, ?testAccess, ?fuseProg, ?regRead, ?bypass⟩
  case setEndpointId | getEndpointId | getMctpVersionSupport | getMessageTypeSupport | getTid | setTid | getPldmVersion
    | getPldmTypes | getPldmCommands | getPdrRepositoryInfo | getPdr | getSensorReading | getStateSensorReadings
    | setNumericEffecterValue | getNumericEffecterValue | requestUpdate | passComponentTable | updateComponent
    | activateFirmware | cancelUpdate | mctpUnsupportedCmd | smbusAlertResponse | firmwareDataReceived | verifyComplete
    | applyComplete | updateIdleTimeout | signingDone | tapReset | getVersion | getCapabilities | negotiateAlgorithms
    | getDigests | getCertificate | challenge | getMeasurements | respondIfReady | extest | samplePreload | idcode
    | dbgChallenge | dbgResponse | testAccess | fuseProg | regRead | bypass =>
    intros
    exact occursAlways_next ‹_› _ _
  case dieSelect =>
    intro d s hpower hunlocked
    simp only [exec, execDieSelect, if_pos hunlocked]
    exact occursAlways_next hpower _ _

end Sys2Proof.Machine
end

section
/-! SUPPORT. Mailbox commands by the way they run (R124, R172; log entry 10): from a row's answer and a command's body at its
commit point, what `StartsThenCommits`, `ReservesThenShows` and `RunsThenAnswers` say of it. -/

namespace Sys2Proof.Machine

open Sys2Proof

theorem startsThenCommits {row : Fin 16 → Fin 32 → Instr} {op : Nat} {pre : State → Nat → List Byte → State}
    {body : State → Nat → Nat → List Byte → Ran}
    (hrow : ∀ f slot s, exec (row f slot) s = runBegin s f slot op (fun u b => pre u f b))
    (hmarch : op ≠ 0x0B03) (hconfig : op ≠ 0x0903)
    (hbody : ∀ s f slot b, slotOp b = op → commitBody s f slot b = body s f slot b) : StartsThenCommits row op pre body :=
  fun f slot s hclk =>
    ⟨fun hstarts => (hrow f slot s).trans (runBegin_starts hclk hstarts _),
      fun t o hcommit => commit_body hclk hcommit hmarch hconfig (hbody s f slot _) t o⟩

/-- The commit of a command whose reserved work is built, on a group that has lost no die, shows it and answers. -/
theorem commitCmd_built {s : State} {f slot : Nat} {c : Cmd} {o : CmdOutcome} (hcmd : cmdOf s f slot = some c)
    (hmarch : c.opcode ≠ 0x0B03) (hout : c.outcome = none) (hready : c.ready = some o)
    (hgroup : c.opcode = 0x0401 → groupLost s f slot = 0) :
    commitCmd s f slot = completeSlot (showBuilt s f slot) f slot o := by
  have hkept : ¬(c.opcode = 0x0401 ∧ groupLost s f slot ≠ 0) := fun ⟨hload, hlost⟩ => hlost (hgroup hload)
  simp only [cmdOf] at hcmd
  simp only [commitCmd, hcmd, hout, hready, hmarch, if_false, Option.orElse_none, commitBuilt, Bool.and_eq_true,
    decide_eq_true_eq, hkept]

theorem reservesThenShows {row : Fin 16 → Fin 32 → Instr} {op : Nat} {body : State → Nat → Nat → List Byte → Ran}
    (hrow : ∀ f slot s, exec (row f slot) s = runReserve s f slot op (fun u b => body u f slot b)) (hmarch : op ≠ 0x0B03) :
    ReservesThenShows row op body := by
  refine fun f slot s hclk => ⟨fun t o hstarts hbody hgood => ?starts, fun c o hmay hcmd hop hout hready hgroup => ?commits⟩
  case starts => exact (hrow f slot s).trans (runReserve_starts hclk hstarts hbody hgood)
  case commits =>
    subst hop
    rw [commandCommit_next hclk hmay, commitCmd_built hcmd hmarch hout hready hgroup]

/-- MARCH_RUN's row apart, which waits for a free march engine, a row that runs to an end of its own. -/
theorem runsThenAnswers {row : Fin 16 → Fin 32 → Instr} {op : Nat} {body : State → Nat → Nat → List Byte → Ran}
    (hrow : ∀ (f : Fin 16) (slot : Fin 32) (s : State), (op = 0x0B03 → marchBusy s (slotBytes s f slot) = false) →
      exec (row f slot) s = runCmd s f slot op (fun u b => body u f slot b)) : RunsThenAnswers row op body := by
  refine fun f slot s hclk => ⟨fun hstarts hfree => ?starts, fun c o hmay hcmd _ hout => ?commits⟩
  case starts => exact (hrow f slot s hfree).trans (runCmd_starts hclk hstarts _)
  case commits => rw [commandCommit_next hclk hmay, commitCmd_answered hcmd hout]

theorem hwOutcome_answers {s : State} {f : Nat} {b : List Byte} (resp : List Byte) (hhead : headerBad b = none)
    (hshared : sharedChecks s f b = none) (hresv : slotOp b = 0x0B01 → (resv b 4 4).1 = false) :
    hwOutcome s f b resp = { resp := resp } := by
  have hpassed : ¬(slotOp b = 0x0B01 ∧ (resv b 4 4).1 = true) := fun ⟨hop, hbad⟩ => by simp [hresv hop] at hbad
  simp only [hwOutcome, hhead, hshared, Bool.and_eq_true, decide_eq_true_eq, hpassed, if_false]

theorem marchRun_row {f : Fin 16} {slot : Fin 32} {s : State} (hfree : marchBusy s (slotBytes s f slot) = false) :
    exec (.marchRun f slot) s = runCmd s f slot 0x0B03 marchRun := by
  simp only [exec, execMarchRun, hfree]
  rfl

/-- The commit of a march that has ended answers with its end. -/
theorem commitCmd_marchEnd {s : State} {f slot : Nat} {c : Cmd} {o : CmdOutcome} (hcmd : cmdOf s f slot = some c)
    (hop : c.opcode = 0x0B03) (hout : c.outcome = none) (hend : marchEnd s c = some o) :
    commitCmd s f slot = completeSlot s f slot o := by
  simp only [cmdOf] at hcmd
  simp only [commitCmd, hcmd, hout, hop, hend, if_true, Option.orElse_none]

/-- COMMIT_CONFIG at its commit point: the shared checks pass, and `commitConfig` tells the answer. -/
theorem commitCmd_commitConfig {s t : State} {f slot : Nat} {o : CmdOutcome} (hcommit : committing s f slot 0x0903 = true)
    (hbody : commitConfig s = (t, some o)) :
    commitCmd s f slot = if o.status = 0 then (commitConfig (completeSlot s f slot o)).1 else completeSlot s f slot o := by
  obtain ⟨-, hop, hshared, c, hcmd, hopc, hout, hready⟩ := (committing_iff s f slot 0x0903).1 hcommit
  have hrun : checked s f slot (fun s b => commitBody s f slot b) = (t, some o) := by
    rw [checked_passed hshared, ← hbody]
    simp only [commitBody, hop]
  simp only [cmdOf] at hcmd
  have hmarch : ¬(0x0903 : Nat) = 0x0B03 := by decide
  simp only [commitCmd, hcmd, hout, hready, hmarch, if_false, Option.orElse_none, commitRun, hrun, hopc, if_true]

end Sys2Proof.Machine
end

section
/-! SUPPORT. Descriptors in front of their rings (R139, R144, R399, R430): what a control descriptor and a stream descriptor do
when their completion ring has room. -/

namespace Sys2Proof.Machine

open Sys2Proof

theorem control_of_target {s : State} {f r idx i : Nat} {d : ReqDesc} (act : State → Nat → State) (hroom : cplHeld s f r = false)
    (htarget : controlTarget s f d = some i) :
    control s f r idx d act = runRing (act (controlDone s f r idx d 0) i) f r := by
  simp only [control, hroom, htarget, Bool.false_eq_true, if_false]

theorem control_of_no_target {s : State} {f r idx : Nat} {d : ReqDesc} (act : State → Nat → State)
    (hroom : cplHeld s f r = false) (htarget : controlTarget s f d = none) :
    control s f r idx d act = runRing (controlDone s f r idx d stHandleInvalid) f r := by
  simp only [control, hroom, htarget, Bool.false_eq_true, if_false]

theorem inputTake_joins {s : State} {f r idx : Nat} {d : StrDesc} {x : Stream} (hroom : cplHeld s f r = false)
    (hstream : streamOf s f d.stream = some x) (hgoes : inputHeld x = false) :
    inputTake s f r idx d = consumed (updStream s f d.stream (fun y => { y with queue := y.queue ++ [(idx, d)] })) f r := by
  simp only [inputTake, hroom, hstream, hgoes, Bool.false_eq_true, if_false]

theorem outputTake_joins {s : State} {f r idx : Nat} {d : StrDesc} {x : Stream} (hroom : cplHeld s f r = false)
    (hstream : streamOf s f d.stream = some x) (hshort : x.queue.length < 16) :
    outputTake s f r idx d = runRing (serveOutput (updStream (popDesc s f r) f d.stream (fun y =>
      { y with queue := y.queue ++ [(idx, d)] })) f d.stream (x.takers.length + 1)) f r := by
  simp only [outputTake, hroom, hstream, Nat.not_le.2 hshort, Bool.false_eq_true, if_false]

end Sys2Proof.Machine
end

section
/-! SUPPORT. A SUBMIT in front of its ring (16 R476, R516): past every check it is admitted. -/

namespace Sys2Proof.Machine

open Sys2Proof

theorem submit_admits {s : State} {f r idx i : Nat} {d : ReqDesc} {read : HostRead} {stops : List (List Byte)}
    (hfree : freeEntryIdx s = some i) (hroom : cplHeld s f r = false) (hstops : stopsMayGo s f d = true)
    (hout : outOk s f d = true) (hread : readStops s f d read = some stops) (hhandles : handlesOk s f d = true)
    (hpolicy : policyHold s f d = false) :
    submit s f r idx d read = runRing (admitRequest s f r idx i d stops) f r := by
  simp only [submit, hfree, hroom, hstops, hout, hread, hhandles, hpolicy, Bool.not_true, Bool.or_false, Bool.false_eq_true,
    if_false]

end Sys2Proof.Machine
end

section
/-! CLAIMS. The rows of the mailbox commands and of the descriptors. -/

namespace Sys2Proof.Machine

open Sys2Proof

/-- Settles O12, by the way each command runs. -/
theorem configAndObjectCommandsComplete : Obligations.ConfigAndObjectCommandsComplete := by
  refine ⟨?deviceInfo, ?functionOpen, ?functionClose, ?engineEnable, ?regionCreate, ?regionDestroy, ?bar2WindowSet, ?modelLoad,
    ?modelUnload, ?modelInfo, ?vocabLoad, ?vocabUnload, ?bintableLoad, ?bintableUnload, ?grammarLoad, ?grammarUnload,
    ?configStage, ?configRead, ?commitConfig, ?configDiscard, ?energyLimitSet, ?energyReport⟩
  case deviceInfo =>
    intro f slot s hclk hmay hop hhead hshared
    rw [← hwOutcome_answers (deviceInfo s f) hhead hshared (by simp [hop])]
    exact occurs_clocked hclk hmay _ _
  case functionOpen | functionClose | engineEnable | regionDestroy | bar2WindowSet | modelUnload | vocabUnload
    | bintableUnload | grammarUnload | configRead | energyLimitSet | energyReport =>
    refine startsThenCommits (fun _ _ _ => rfl) (by decide) (by decide) fun _ _ _ _ hop => ?_
    simp only [commitBody, hop]
  case modelInfo =>
    exact startsThenCommits (body := fun s f _ b => modelInfoCmd s f b) (fun _ _ _ => rfl) (by decide) (by decide)
      fun _ _ _ _ hop => by simp only [commitBody, hop]
  case configDiscard =>
    exact startsThenCommits (body := fun s _ _ _ => configDiscard s) (fun _ _ _ => rfl) (by decide) (by decide)
      fun _ _ _ _ hop => by simp only [commitBody, hop]
  case regionCreate => exact reservesThenShows (fun _ _ _ => rfl) (by decide)
  case modelLoad => exact fun _ _ => reservesThenShows (fun _ _ _ => rfl) (by decide)
  case vocabLoad | bintableLoad => exact fun _ => reservesThenShows (fun _ _ _ => rfl) (by decide)
  case grammarLoad => exact fun _ _ => reservesThenShows (fun _ _ _ => rfl) (by decide)
  case configStage =>
    intro f slot read s s1 hclk
    exact ⟨fun hstarts => runBegin_starts (s := s1) hclk hstarts _,
      fun t o hcommit => commit_body hclk hcommit (by decide) (by decide) (fun hop => by simp only [commitBody, hop]) t o⟩
  case commitConfig =>
    refine fun f slot s hclk => ⟨fun hstarts => runBegin_starts hclk hstarts _, fun t o hcommit hbody hgood => ?_,
      fun t o hcommit hbody hbad => ?_⟩ <;>
      rw [commandCommit_next hclk ((committing_iff s f slot 0x0903).1 hcommit).1, commitCmd_commitConfig hcommit hbody]
    · rw [if_pos hgood]
    · rw [if_neg hbad]

/-- Settles O13, by the way each command runs, and for a descriptor by what it does with room in its completion ring. -/
theorem ringAndDescriptorRowsComplete : Obligations.RingAndDescriptorRowsComplete := by
  refine ⟨?requestQuery, ?ringOpen, ?ringClose, ?streamOpen, ?streamClose, ?diagBootlog, ?booksAudit, ?marchRun, ?marchEnd,
    ?errlogRead, ?dieReset, ?dieRejoin, ?descriptorFetch, ?submit, ?submitAdmits, ?cancel, ?pause, ?resume, ?close, ?textIn, ?numIn,
    ?textOut, ?numOut, ?admitHoldTimeout⟩
  case requestQuery | ringOpen | ringClose | streamOpen | streamClose | errlogRead =>
    refine startsThenCommits (fun _ _ _ => rfl) (by decide) (by decide) fun _ _ _ _ hop => ?_
    simp only [commitBody, hop]
  case diagBootlog =>
    intro f slot s hclk hmay hhead hshared hresv
    rw [← hwOutcome_answers (bootLogAnswer s _) hhead hshared (fun _ => hresv)]
    exact occurs_clocked hclk hmay _ _
  case booksAudit | dieReset | dieRejoin => exact runsThenAnswers fun _ _ _ _ => rfl
  case marchRun => exact runsThenAnswers fun _ _ _ hfree => marchRun_row (hfree rfl)
  case marchEnd =>
    intro f slot s c o hclk hmay hcmd hop hout hend
    rw [commandCommit_next hclk hmay, commitCmd_marchEnd hcmd hop hout hend]
  case descriptorFetch => exact fun _ _ _ _ hclk hcan => occurs_clocked hclk hcan _ _
  case submit => exact fun _ _ _ _ _ _ hclk hfront htyp => exec_submit_front _ hclk hfront htyp
  case submitAdmits =>
    intro f ring read s idx i d stops r hclk hfront htyp hfree hroom hstops hout hread hhandles hpolicy
    rw [exec_submit_front _ hclk hfront htyp, submit_admits hfree hroom hstops hout hread hhandles hpolicy]
  case cancel | pause | resume | close =>
    intro f ring s idx d i r hclk hfront htyp hroom htarget
    exact (runControl_front hclk hfront htyp).trans (congrArg _ (control_of_target _ hroom htarget))
  case textIn | numIn =>
    intro f ring s idx d x r hclk hfront htyp hroom hstream hgoes
    exact (runStream_front hclk hfront htyp).trans (congrArg _ (inputTake_joins hroom hstream hgoes))
  case textOut | numOut =>
    intro f ring s idx d x r hclk hfront htyp hroom hstream hshort
    exact (runStream_front hclk hfront htyp).trans (congrArg _ (outputTake_joins hroom hstream hshort))
  case admitHoldTimeout =>
    intro f ring s idx d t r hclk hfront hheld hpolicy hroom
    simp only [exec, execAdmitHoldTimeout]
    rw [show frontReq s f (frontRing s f ring) = some (idx, d) from hfront,
      show (ringOf s f (frontRing s f ring)).submitAt = some t from hheld]
    exact occurs_clocked hclk (by simp [hpolicy, show cplHeld s f (frontRing s f ring) = false from hroom]) _ _

end Sys2Proof.Machine
end

section
/-! SUPPORT. A ledger entry returns to FREE (16 R471, R501): its key leaves both tables of the ledger, and the event that a drained
generation posts leaves the ledger as it was. -/

namespace Sys2Proof.Machine

open Sys2Proof

theorem tfind_tdel_same {α : Type} (t : Tbl α) (key : Nat) : tfind (tdel t key) key = none := by
  induction t with
  | nil => rfl
  | cons entry rest ih =>
    by_cases h : entry.1 = key
    · simpa [tdel, h] using ih
    · simpa [tdel, h, tfind] using ih

@[simp] theorem tget_tdel_same {α : Type} (d : α) (t : Tbl α) (key : Nat) : tget d (tdel t key) key = d := by
  rw [tget, tfind_tdel_same, Option.getD_none]

theorem Traffic.ledgerX {s t : State} (h : Traffic s t) : t.ledgerX = s.ledgerX := (congrArg State.ledgerX h.eq).trans rfl

theorem drainGeneration_ledger (s : State) :
    (drainGeneration s).ledger = s.ledger ∧ (drainGeneration s).ledgerX = s.ledgerX := by
  simp only [drainGeneration]
  split
  · exact ⟨rfl, rfl⟩
  split
  · exact ⟨rfl, rfl⟩
  · exact ⟨(traffic_post ..).ledger, (traffic_post ..).ledgerX⟩

theorem entOf_freeEntry_same (s : State) (i : Nat) : entOf (freeEntry s i) i = {} := by
  rw [entOf, freeEntry, (drainGeneration_ledger _).1]
  exact tget_tdel_same ..

theorem entXOf_freeEntry_same (s : State) (i : Nat) : entXOf (freeEntry s i) i = {} := by
  rw [entXOf, freeEntry, (drainGeneration_ledger _).2]
  exact tget_tdel_same ..

theorem hostResume_of_not_paused {s : State} {i : Nat} (h : (entOf s i).hostPause = false) : hostResume s i = s := by
  simp only [hostResume, h, Bool.not_false, if_true]

end Sys2Proof.Machine
end

section
/-! CLAIMS. The statements of chapter 16: an entry freed, and control descriptors of no request. -/

namespace Sys2Proof.Machine

open Sys2Proof

/-- Settles O28, by what an entry's return to FREE leaves of both tables of the ledger. -/
theorem freedEntryReadsReset : Obligations.FreedEntryReadsReset := by
  intro i s hclk hfree
  have hexec : exec (.ledgerEntryFreed i) s = .next (freeEntry s i) := occurs_clocked hclk hfree _ _
  exact ⟨_, hexec, entOf_freeEntry_same s i, entXOf_freeEntry_same s i, (keepsNext_exec _ s _ hexec).pending⟩

/-- Settles O50: without a target each of the four rows gives its CONTROL_DONE alone, and RESUME has no effect on a request that is
not host-paused. -/
theorem controlOfNoRequest : Obligations.ControlOfNoRequest := by
  intro f ring s idx d hclk r hfront hroom
  refine ⟨fun hnone => ?noTarget, fun i htyp htarget hpause => ?notPaused⟩
  case noTarget =>
    simp only [List.forall_mem_cons]
    refine ⟨?cancel, ?pause, ?resume, ?close, List.forall_mem_nil _⟩
    all_goals
      intro htyp
      exact (runControl_front hclk hfront htyp).trans (congrArg _ (control_of_no_target _ hroom hnone))
  case notPaused =>
    have hrow : exec (.resume f ring) s = .next (runRing (hostResume (controlDone s f r idx d 0) i) f r) :=
      (runControl_front hclk hfront htyp).trans (congrArg _ (control_of_target _ hroom htarget))
    rw [hrow, hostResume_of_not_paused hpause]

end Sys2Proof.Machine
end

section
/-! CLAIMS. The statement of chapter 19 about throttling, which fails where the event of a change lands in the device's memory. -/

namespace Sys2Proof.Machine

open Sys2Proof

/-- The PF's event queue at a DVA of a region of tier C, which FUNCTION_OPEN does not admit (R133): the entries of the queue lie in
the device's memory. -/
def queueInDeviceMemory : State :=
  { State.reset with
    fns := [(0, { pci := { enabled := true, bme := true }, evq := { opened := true, sizeLog2 := 4 } })],
    regions := [(1, {
      asid := asidOf 0, dva := 0, size := 65536, tier := 1, dies := 0, writable := true, pages := [0x1000000] })] }

/-- A reading of 95 degrees of the Harbour die starts throttling, and THERMAL_THROTTLE is written to the queue. -/
theorem tempUpdate_writes_event :
    exec (.tempUpdate 4 (BitVec.ofInt 12 (deg 95))) queueInDeviceMemory =
        .next (tempUpdate queueInDeviceMemory 4 (BitVec.ofInt 12 (deg 95))) ∧
      cellRead (tempUpdate queueInDeviceMemory 4 (BitVec.ofInt 12 (deg 95))).mem 0x10000000000 = 0x41 :=
  ⟨occurs_clocked (s := queueInDeviceMemory) rfl rfl "the die reports no temperature" _, by decide +kernel⟩

/-- Refutes O52: the statement holds memory as it was for every state, and a state with the PF's event queue in the device's
memory takes the event of the change there. -/
theorem not_throttleFollowsTemperature : ¬ Obligations.ThrottleFollowsTemperature := by
  intro h
  obtain ⟨t, hexec, -, -, -, hmem, -⟩ :=
    h 4 (BitVec.ofInt 12 (deg 95)) queueInDeviceMemory rfl rfl rfl (by decide)
  obtain ⟨hnext, hcell⟩ := tempUpdate_writes_event
  cases hexec.symm.trans hnext
  rw [hmem] at hcell
  exact absurd hcell (by decide)

end Sys2Proof.Machine
end

section
/-! CLAIMS. The statement of chapter 20 about a held die. -/

namespace Sys2Proof.Machine

open Sys2Proof

theorem groupRuns_of_held {s : State} {h : Nat} (hheld : groupHeld s h = true) : groupRuns s h = false := by
  simp [groupRuns, hheld]

/-- Settles O56: a group with a held die does not run, and each of the two rows asks that it runs. -/
theorem noStepFormsOnHeldGroup : Obligations.NoStepFormsOnHeldGroup := by
  intro model uj s t hheld
  have hstopped := groupRuns_of_held hheld
  refine ⟨fun hprefill => ?prefill, fun hdecode => ?decode⟩
  case prefill =>
    obtain ⟨hmay, -⟩ := (occurs_next_iff ..).1 hprefill
    simp [mayFormPrefill, hstopped] at hmay
  case decode =>
    obtain ⟨hmay, -⟩ := (occurs_next_iff ..).1 hdecode
    simp [mayFormDecode, hstopped] at hmay

end Sys2Proof.Machine
end

section
/-! SUPPORT. Audit markers (21 R606): the latches of the two directions at one end of a link, and links whose send queues are
empty, on which nothing goes out. -/

namespace Sys2Proof.Machine

open Sys2Proof

/-! ### Send queues -/

/-- Nothing waits in either send queue of a link. -/
def Quiet (k : Link) : Prop := k.out.queue = [] ∧ k.back.queue = []

/-- Nothing waits in any send queue. -/
def QuietLinks (s : State) : Prop := ∀ kv ∈ s.links, Quiet kv.2

theorem mem_tput {α : Type} {t : Tbl α} {key : Nat} {v : α} {kv : Nat × α} (h : kv ∈ tput t key v) :
    kv = (key, v) ∨ kv ∈ t := by
  induction t with
  | nil => exact .inl (List.mem_singleton.1 h)
  | cons entry rest ih =>
    simp only [tput] at h
    split at h
    · exact List.mem_cons.1 h
    split at h
    · exact (List.mem_cons.1 h).imp_right (List.mem_cons_of_mem _)
    · rcases List.mem_cons.1 h with rfl | hrest
      · exact .inr List.mem_cons_self
      · exact (ih hrest).imp_right (List.mem_cons_of_mem _)

theorem mem_of_tfind {α : Type} {t : Tbl α} {key : Nat} {v : α} (h : tfind t key = some v) : (key, v) ∈ t := by
  induction t with
  | nil => cases h
  | cons entry rest ih =>
    obtain ⟨k, w⟩ := entry
    simp only [tfind] at h
    split at h
    next heq => cases h; subst heq; exact List.mem_cons_self
    · exact List.mem_cons_of_mem _ (ih h)

theorem QuietLinks.linkOf {s : State} (h : QuietLinks s) (l : Nat) : Quiet (linkOf s l) := by
  rw [Machine.linkOf, tget]
  cases hfind : tfind s.links l with
  | none => exact ⟨rfl, rfl⟩
  | some k => exact h _ (mem_of_tfind hfind)

theorem quietLinks_updLink {s : State} {l : Nat} {g : Link → Link} (hg : ∀ k, Quiet k → Quiet (g k)) (h : QuietLinks s) :
    QuietLinks (updLink s l g) := by
  intro kv hkv
  rcases mem_tput hkv with rfl | hmem
  · exact hg _ (h.linkOf l)
  · exact h kv hmem

theorem quietLinks_updDir {s : State} {l : Nat} {fromFirst : Bool} {g : LinkDir → LinkDir}
    (hg : ∀ d, (g d).queue = d.queue) (h : QuietLinks s) : QuietLinks (updDir s l fromFirst g) := by
  refine quietLinks_updLink (fun k ⟨hout, hback⟩ => ?_) h
  cases fromFirst
  · exact ⟨hout, (hg _).trans hback⟩
  · exact ⟨(hg _).trans hout, hback⟩

theorem quietLinks_countRx {s : State} {l : Nat} {atFirst : Bool} {bad : Nat} (h : QuietLinks s) :
    QuietLinks (countRx s l atFirst bad) := by
  simp only [countRx]
  split
  · exact quietLinks_updLink (fun _ hk => hk) h
  · exact h

theorem quietLinks_latchEnd {s : State} {l : Nat} {first : Bool} (h : QuietLinks s) : QuietLinks (latchEnd s l first) :=
  quietLinks_updDir (fun _ => rfl) (quietLinks_updDir (fun _ => rfl) h)

theorem queue_takeCredits_ackUpTo (d : LinkDir) (seq vc n : Nat) : (takeCredits (ackUpTo d seq) vc n).queue = d.queue := by
  simp only [takeCredits, ackUpTo]
  split <;> rfl

/-- With nothing in a send queue nothing goes out. -/
theorem pump_of_quietLinks {s : State} (h : QuietLinks s) : pump s = s := by
  have hnone : flitsLeft s = 0 := by
    rw [flitsLeft, List.sum_eq_zero_iff]
    intro n hn
    obtain ⟨kv, hkv, rfl⟩ := List.mem_map.1 hn
    obtain ⟨hout, hback⟩ := h kv hkv
    simp [hout, hback]
  rw [pump, hnone, pumpFlits]

/-! ### Latches -/

@[simp] theorem linkOf_updDir_same (s : State) (l : Nat) (fromFirst : Bool) (g : LinkDir → LinkDir) :
    linkOf (updDir s l fromFirst g) l = setDir (linkOf s l) fromFirst g :=
  linkOf_updLink_same s l _

theorem dirOf_setDir_other (k : Link) (fromFirst : Bool) (g : LinkDir → LinkDir) :
    dirOf (setDir k fromFirst g) (!fromFirst) = dirOf k (!fromFirst) := by
  cases fromFirst <;> rfl

theorem dirOf_latchEnd_sent (s : State) (l : Nat) (first : Bool) :
    dirOf (linkOf (latchEnd s l first) l) first = latchSend (dirOf (linkOf s l) first) := by
  simp [latchEnd]

theorem dirOf_latchEnd_received (s : State) (l : Nat) (first : Bool) :
    dirOf (linkOf (latchEnd s l first) l) (!first) = latchReceive (dirOf (linkOf s l) (!first)) := by
  simp [latchEnd, dirOf_setDir_other]

/-- The sender's latch holds what each virtual channel has sent, holds and has had returned. -/
theorem latchSend_books {d : LinkDir} {i : Nat} {v : VcBook} (h : (latchSend d).vcs[i]? = some v) :
    ∃ w : VcBook, (latchSend d).latched[i]? = some w ∧ w.sent = v.sent ∧ w.held = v.held ∧ w.back = v.back := by
  have hvc : d.vcs[i]? = some v := h
  simp [latchSend, hvc]

/-- The receiver's latch holds what each virtual channel has received and returned, and what occupies its buffer. -/
theorem latchReceive_books {d : LinkDir} {i : Nat} {v : VcBook} (h : (latchReceive d).vcs[i]? = some v) :
    ∃ w : VcBook, (latchReceive d).latched[i]? = some w ∧ w.received = v.received ∧ w.out = v.out ∧ w.occupied = v.occupied := by
  have hvc : d.vcs[i]? = some v := h
  simp [latchReceive, hvc]

/-! ### A marker received -/

/-- What a flit's ACK and credits leave of its link, the flit counted (R228, R328, R334, R338). -/
def acknowledged (s : State) (l : Nat) (atFirst : Bool) (x : Flit) : State :=
  updDir (countRx s l atFirst 0) l atFirst (fun d => takeCredits (ackUpTo d (flitAck x)) (flitCrVc x) (flitCrCount x))

theorem acknowledged_rxSeq (s : State) (l : Nat) (atFirst : Bool) (x : Flit) :
    (dirOf (linkOf (acknowledged s l atFirst x) l) (!atFirst)).rxSeq = (dirOf (linkOf s l) (!atFirst)).rxSeq := by
  rw [acknowledged, linkOf_updDir_same, dirOf_setDir_other, linkOf_countRx_same]
  cases atFirst <;> rfl

theorem quietLinks_acknowledged {s : State} {l : Nat} {atFirst : Bool} {x : Flit} (h : QuietLinks s) :
    QuietLinks (acknowledged s l atFirst x) :=
  quietLinks_updDir (fun d => queue_takeCredits_ackUpTo d _ _ _) (quietLinks_countRx h)

/-- A data flit with the SEQ expected is delivered. -/
theorem flitGood_delivers {s : State} {l : Nat} {atFirst : Bool} {x : Flit} (hkind : flitKind x = 0)
    (hseq : flitSeq x = (dirOf (linkOf s l) (!atFirst)).rxSeq) :
    flitGood s l atFirst x = pump (deliver (acknowledged s l atFirst x) l atFirst x) := by
  have hnext : flitSeq x = (dirOf (linkOf (acknowledged s l atFirst x) l) (!atFirst)).rxSeq := by
    rw [acknowledged_rxSeq, hseq]
  simp only [acknowledged, linkOf_updDir_same] at hnext
  simp [flitGood, acknowledged, hkind, kindData, hnext]

/-- A marker that is delivered latches the books of its end, on links that are quiet before it. -/
theorem deliver_marker {s : State} (l : Nat) (atFirst : Bool) {x : Flit} (hquiet : QuietLinks s) (hop : byteAt x.data 0 = 6)
    (htype : byteAt x.data 16 = 0x23) : ∃ u, QuietLinks u ∧ deliver s l atFirst x = latchEnd u l atFirst := by
  simp only [deliver, hop, htype, opMgmt, decide_true, Bool.and_self, if_true]
  refine ⟨_, ?_, rfl⟩
  exact quietLinks_updDir (fun _ => rfl) hquiet

end Sys2Proof.Machine
end

section
/-! CLAIMS. The statement of chapter 21: audit markers. -/

namespace Sys2Proof.Machine

open Sys2Proof

/-- Settles O24: a marker joins the reporting end's queue, and one that is delivered leaves its end's books latched. -/
theorem auditMarkersLatchTheBooks : Obligations.AuditMarkersLatchTheBooks := by
  refine ⟨fun l s hclk hup => ?sends, fun l atFirst x s hclk hup hclean hquiet hkind hseq hop htype => ?latches⟩
  case sends => exact occurs_clocked hclk hup _ _
  case latches =>
    obtain ⟨u, hu, hlatch⟩ := deliver_marker l.val atFirst (quietLinks_acknowledged (x := x) hquiet) hop htype
    have hexec : exec (.flitReceived l x atFirst) s = .next (latchEnd u l.val atFirst) :=
      calc exec (.flitReceived l x atFirst) s
        _ = .next (if flitClean x then flitGood s l.val atFirst x else flitBad s l.val atFirst x) := occurs_clocked hclk hup _ _
        _ = .next (latchEnd u l.val atFirst) := by
          rw [if_pos hclean, flitGood_delivers hkind hseq, hlatch, pump_of_quietLinks (quietLinks_latchEnd hu)]
    refine ⟨_, hexec, fun i v hv => ?sent, fun i v hv => ?received⟩
    case sent =>
      rw [dirOf_latchEnd_sent] at hv ⊢
      exact latchSend_books hv
    case received =>
      rw [dirOf_latchEnd_received] at hv ⊢
      exact latchReceive_books hv

end Sys2Proof.Machine
end

section
/-! SUPPORT. The management controller and the test port (25 R657, R661, R670, R671): an update abandoned, the responses of the
BMC limit, and what a debug response does before and after lockout. -/

namespace Sys2Proof.Machine

open Sys2Proof

/-! ### An update abandoned -/

/-- `t` differs from `s` at most in the management controller's record. -/
def MgmtOnly (s t : State) : Prop := t = { s with mgmt := t.mgmt }

theorem MgmtOnly.trans {s t u : State} (h : MgmtOnly s t) (k : MgmtOnly t u) : MgmtOnly s u :=
  Eq.trans k (congrArg (fun x : State => { x with mgmt := u.mgmt }) h)

theorem MgmtOnly.pldm {s t : State} (h : MgmtOnly s t) (typ cmd cc : Nat) (data : List Byte) :
    pldm t typ cmd cc data = { s with mgmt := (pldm t typ cmd cc data).mgmt, out := (pldm t typ cmd cc data).out } :=
  congrArg (fun x : State => { x with out := (Machine.pldm t typ cmd cc data).out }) h

@[simp] theorem fwOf_updFw_same (s : State) (c : Nat) (g : FwComp → FwComp) : fwOf (updFw s c g) c = g (fwOf s c) := by
  simp [fwOf, updFw, tmod]

theorem fwOf_updFw_other (s : State) {c other : Nat} (g : FwComp → FwComp) (h : other ≠ c) :
    fwOf (updFw s c g) other = fwOf s other := by
  simp [fwOf, updFw, tmod, tget_tput_other _ _ _ h]

/-- The state with the target copies of some components marked invalid. -/
def invalidateTargets (comps : List Nat) (s : State) : State :=
  comps.foldl (fun s c => updTarget s c (fun y => { y with valid := false, pending := false })) s

theorem mgmtOnly_updTarget (s : State) (c : Nat) (g : FwCopy → FwCopy) : MgmtOnly s (updTarget s c g) := rfl

theorem mgmtOnly_invalidateTargets (comps : List Nat) (s : State) : MgmtOnly s (invalidateTargets comps s) :=
  foldl_rel (R := MgmtOnly) (fun _ => rfl) MgmtOnly.trans (fun s c => mgmtOnly_updTarget s c _) comps s

/-- The copy that an update of a component writes, and the copy that runs. -/
def targetCopy (x : FwComp) : FwCopy := if x.runB then x.a else x.bb

/-- A component `y` that has the running copy of `x`. -/
def SameRunning (x y : FwComp) : Prop := y.runB = x.runB ∧ runningCopy y = runningCopy x

theorem SameRunning.trans {x y z : FwComp} (h : SameRunning x y) (k : SameRunning y z) : SameRunning x z :=
  ⟨k.1.trans h.1, k.2.trans h.2⟩

/-- The copies by name: the target is invalid, and the other copy is the one that runs. -/
theorem copies_of_sameRunning {x y : FwComp} (h : SameRunning x y) (htarget : (targetCopy y).valid = false) :
    y.runB = x.runB ∧ (x.runB = true → y.a.valid = false ∧ y.bb = x.bb) ∧
      (x.runB = false → y.bb.valid = false ∧ y.a = x.a) := by
  obtain ⟨hrunB, hcopy⟩ := h
  rw [targetCopy, hrunB] at htarget
  rw [runningCopy, runningCopy, hrunB] at hcopy
  exact ⟨hrunB, fun hb => ⟨by simpa [hb] using htarget, by simpa [hb] using hcopy⟩,
    fun ha => ⟨by simpa [ha] using htarget, by simpa [ha] using hcopy⟩⟩

theorem fwOf_updTarget_same (s : State) (c : Nat) (g : FwCopy → FwCopy) :
    SameRunning (fwOf s c) (fwOf (updTarget s c g) c) ∧
      targetCopy (fwOf (updTarget s c g) c) = g (targetCopy (fwOf s c)) := by
  rw [updTarget, fwOf_updFw_same]
  cases h : (fwOf s c).runB <;> simp [SameRunning, runningCopy, targetCopy, h]

theorem fwOf_updTarget_other (s : State) {c other : Nat} (g : FwCopy → FwCopy) (h : other ≠ c) :
    fwOf (updTarget s c g) other = fwOf s other :=
  fwOf_updFw_other s _ h

/-- Marking targets invalid leaves a component's running copy, and an invalid target invalid. -/
theorem invalidateTargets_keeps (comps : List Nat) (s : State) (c : Nat) :
    SameRunning (fwOf s c) (fwOf (invalidateTargets comps s) c) ∧
      ((targetCopy (fwOf s c)).valid = false → (targetCopy (fwOf (invalidateTargets comps s) c)).valid = false) := by
  refine foldl_rel (R := fun s t => SameRunning (fwOf s c) (fwOf t c) ∧
    ((targetCopy (fwOf s c)).valid = false → (targetCopy (fwOf t c)).valid = false))
    (fun _ => ⟨⟨rfl, rfl⟩, id⟩) (fun h k => ⟨h.1.trans k.1, k.2 ∘ h.2⟩) (fun s d => ?_) comps s
  rcases eq_or_ne c d with rfl | hne
  · obtain ⟨hrun, htarget⟩ := fwOf_updTarget_same s c (fun y => { y with valid := false, pending := false })
    exact ⟨hrun, fun _ => by rw [htarget]⟩
  · rw [fwOf_updTarget_other s _ hne]
    exact ⟨⟨rfl, rfl⟩, id⟩

theorem invalidateTargets_mem {comps : List Nat} {c : Nat} (hc : c ∈ comps) (s : State) :
    (targetCopy (fwOf (invalidateTargets comps s) c)).valid = false := by
  induction comps generalizing s with
  | nil => cases hc
  | cons d rest ih =>
    by_cases hrest : c ∈ rest
    · exact ih hrest _
    · have hfirst : c = d := (List.mem_cons.1 hc).resolve_right hrest
      subst hfirst
      refine (invalidateTargets_keeps rest _ c).2 ?_
      rw [(fwOf_updTarget_same s c _).2]

/-- The components that an update has written or is writing. -/
def updatedComps (s : State) : List Nat :=
  if s.mgmt.updComp = 0 then s.mgmt.updDone else insertNew s.mgmt.updDone s.mgmt.updComp

theorem abandonUpdate_eq (s : State) : abandonUpdate s = updateOver (invalidateTargets (updatedComps s) s) := rfl

theorem updComp_mem_updatedComps {s : State} (h : s.mgmt.updComp ≠ 0) : s.mgmt.updComp ∈ updatedComps s := by
  simp only [updatedComps, if_neg h, insertNew]
  split
  · simpa using ‹_›
  · simp

theorem cancelUpdate_idle {s : State} (h : s.mgmt.upd = .idle) : cancelUpdate s = pldm s 5 0x1D ccNotInUpdate [] := by
  rw [cancelUpdate, if_pos h]

theorem cancelUpdate_under_way {s : State} (h : s.mgmt.upd ≠ .idle) :
    cancelUpdate s = pldm (updateOver (invalidateTargets (updatedComps s) s)) 5 0x1D 0 [] := by
  rw [cancelUpdate, if_neg h, abandonUpdate_eq]

/-! ### The BMC limit -/

theorem setEffecter_taken {s : State} {v : Nat} (h : v = 0 ∨ (120 ≤ v ∧ v ≤ 300)) :
    setEffecter s 1 v = pldm { s with energy := { s.energy with bmcW := v, limitBmc := true } } 2 0x31 0 [] := by
  have hok : bmcLimitOk v = true := by simpa [bmcLimitOk] using h
  simp [setEffecter, hok]

theorem setEffecter_refused {s : State} {v : Nat} (h : (1 ≤ v ∧ v ≤ 119) ∨ 300 < v) :
    setEffecter s 1 v = pldm s 2 0x31 ccInvalidData [] := by
  have hbad : bmcLimitOk v = false := by
    simp only [bmcLimitOk, Bool.or_eq_false_iff, Bool.and_eq_false_iff, decide_eq_false_iff_not]
    omega
  simp [setEffecter, hbad]

/-! ### The test port -/

/-- An instruction that only shifts out, with no die routed: there is no routing to use up. -/
theorem tapped_emit_of_unrouted {s : State} (opcode : Nat) (o : Output) (hnone : s.mgmt.dieSel = none)
    (hleft : s.mgmt.dieLeft = 0) : tapped s opcode (emit s o) = { emit s o with mgmt := { s.mgmt with ir := opcode } } := by
  simp [tapped, emit, hnone, hleft]

/-- A verified response of level 1 to a nonce, before lockout: no reset. -/
theorem dbgResponse_verified {s : State} (hopen : s.mgmt.lockout = false) (hnonce : s.mgmt.nonce.isSome = true) :
    dbgResponse s 1 true = { s with mgmt := { s.mgmt with nonce := none, debug := max s.mgmt.debug 1 } } := by
  have hverified : (true && s.mgmt.nonce.isSome && decide (1 ≤ 1) && decide (1 ≤ 2)) = true := by simp [hnonce]
  have hkeeps : ¬(max s.mgmt.debug 1 = 2 ∧ s.mgmt.debug < 2) := by omega
  simp only [dbgResponse, hopen, hverified, hkeeps, Bool.and_eq_true, decide_eq_true_eq, Bool.false_eq_true, if_false, if_true]

/-- A response that fails to verify, or that answers no nonce, before lockout. -/
theorem dbgResponse_failed {s : State} {sigOk : Bool} (level : Nat) (hopen : s.mgmt.lockout = false)
    (hfails : sigOk = false ∨ s.mgmt.nonce = none) :
    dbgResponse s level sigOk = { s with mgmt := { s.mgmt with
      nonce := none, dbgFails := s.mgmt.dbgFails + 1, lockout := decide (2 ≤ s.mgmt.dbgFails) } } := by
  have hbad : (sigOk && s.mgmt.nonce.isSome) = false := by
    rcases hfails with h | h <;> simp [h]
  simp [dbgResponse, hopen, hbad]

theorem dbgResponse_locked {s : State} (level : Nat) (sigOk : Bool) (hlock : s.mgmt.lockout = true) :
    dbgResponse s level sigOk = bypassed s := by
  simp [dbgResponse, hlock]

/-- The response's row, while the package has power. -/
theorem exec_dbgResponse {s : State} (level : Nat) (sigOk : Bool) (hpower : s.pins.pwrGood = true) :
    exec (.dbgResponse level sigOk) s = .next (tapped s 0x11 (dbgResponse s level sigOk)) :=
  occursAlways_next hpower _ _

end Sys2Proof.Machine
end

section
/-! CLAIMS. The statements of chapter 25 about single commands of the management controller and of the test port. -/

namespace Sys2Proof.Machine

open Sys2Proof

/-- Settles O27: outside an update the answer is a refusal, and in one the targets of the components it names are invalid and the
copies that run are kept. -/
theorem cancelledUpdateReturnsToIdle : Obligations.CancelledUpdateReturnsToIdle := by
  intro s hup
  have hexec : exec .cancelUpdate s = .next (cancelUpdate s) := occursAlways_next hup _ _
  refine ⟨_, hexec, ?_⟩
  rcases eq_or_ne s.mgmt.upd .idle with hidle | hbusy
  · rw [cancelUpdate_idle hidle]
    exact ⟨rfl, hidle, fun _ => rfl, fun hbusy => absurd hidle hbusy⟩
  · have hframe : MgmtOnly s (updateOver (invalidateTargets (updatedComps s) s)) :=
      (mgmtOnly_invalidateTargets _ s).trans rfl
    rw [cancelUpdate_under_way hbusy]
    refine ⟨?frame, rfl, fun hidle => absurd hidle hbusy, fun _ hcomp => ?copies⟩
    case frame => exact hframe.pldm 5 0x1D 0 []
    case copies =>
      obtain ⟨hrunning, -⟩ := invalidateTargets_keeps (updatedComps s) s s.mgmt.updComp
      exact copies_of_sameRunning hrunning (invalidateTargets_mem (updComp_mem_updatedComps hcomp) s)

/-- Settles O46: the row is the response and the release of the pin. -/
theorem alertClearedByItsResponse : Obligations.AlertClearedByItsResponse :=
  fun _ hup halert => occursAlways_next (by simp [hup, halert]) _ _

/-- Settles O47, by the two answers of the effecter's range check. -/
theorem bmcLimitTakesItsRange : Obligations.BmcLimitTakesItsRange := by
  intro value s hup
  have hexec : exec (.setNumericEffecterValue 1 value) s = .next (setEffecter s 1 value) := occursAlways_next hup _ _
  refine ⟨fun htaken => ?taken, fun hrefused => ?refused⟩
  case taken =>
    rw [hexec, setEffecter_taken htaken]
    rfl
  case refused =>
    rw [hexec, setEffecter_refused hrefused]
    rfl

/-- Settles O48, by lockout, and before it by whether the response verifies. -/
theorem debugResponsesAreSingleUse : Obligations.DebugResponsesAreSingleUse := by
  intro level sigOk s hpower
  rw [exec_dbgResponse level sigOk hpower]
  refine ⟨fun hopen hlevel hsig hnonce => ?verified, fun hopen hfails => ?failed, fun hlock => ?locked⟩
  case verified =>
    subst hlevel hsig
    rw [dbgResponse_verified hopen hnonce]
    exact ⟨_, rfl, rfl, rfl, rfl, rfl⟩
  case failed =>
    rw [dbgResponse_failed level hopen hfails]
    refine ⟨_, rfl, rfl, rfl, rfl, ?_⟩
    simp [tapped]
  case locked =>
    rw [dbgResponse_locked level sigOk hlock]
    exact ⟨_, rfl, rfl, hlock⟩

/-- Settles O49: with no die routed the package's own code goes out, and there is no routing to use up. -/
theorem packageIdcodeIsShiftedOut : Obligations.PackageIdcodeIsShiftedOut := by
  intro s hpower hnone hleft
  have hexec : exec .idcode s = .next (tapped s 0x02 (emit s (.tdo (le 4 0x10B03947)))) := by
    refine (occursAlways_next hpower _ _).trans ?_
    simp [routed, hnone]
  rw [hexec, tapped_emit_of_unrouted _ _ hnone hleft]
  rfl

end Sys2Proof.Machine
end

section
/-! SUPPORT. What the management controller does not touch (25 R650): a change of the state is `TenantBlind` when it leaves the
functions as they are, and neither reads nor writes tenant memory and the ledger. -/

namespace Sys2Proof.Machine

open Sys2Proof

/-! ### Changes of the state -/

/-- `s` with the tenant memory and the ledger of `u`. -/
def withTenants (s u : State) : State := { s with mem := u.mem, ledger := u.ledger, ledgerX := u.ledgerX }

/-- A change of the state that writes no function, and that comes out the same whatever memory and the ledger hold, which it
leaves. -/
def TenantBlind (g : State → State) : Prop := ∀ s, (g s).fns = s.fns ∧ ∀ u, g (withTenants s u) = withTenants (g s) u

section Closure

variable {g h : State → State}

theorem TenantBlind.comp (hg : TenantBlind g) (hh : TenantBlind h) : TenantBlind (fun s => g (h s)) := fun s =>
  ⟨(hg _).1.trans (hh s).1, fun u => (congrArg g ((hh s).2 u)).trans ((hg _).2 u)⟩

/-- A choice by what neither memory nor the ledger decides. -/
theorem tenantBlind_ite {c : State → Prop} [∀ s, Decidable (c s)] (hc : ∀ s u, c (withTenants s u) = c s)
    (hg : TenantBlind g) (hh : TenantBlind h) : TenantBlind (fun s => if c s then g s else h s) := by
  intro s
  by_cases hs : c s
  · simpa only [hc, hs, if_true] using hg s
  · simpa only [hc, hs, if_false] using hh s

/-- A change by a value that is read elsewhere than in memory and the ledger. -/
theorem tenantBlind_read {α : Type} {k : α → State → State} (v : State → α) (hv : ∀ s u, v (withTenants s u) = v s)
    (hk : ∀ a, TenantBlind (k a)) : TenantBlind (fun s => k (v s) s) := fun s =>
  ⟨(hk _ s).1, fun u => (congrArg (k · (withTenants s u)) (hv s u)).trans ((hk _ s).2 u)⟩

theorem tenantBlind_foldl {α : Type} {k : State → α → State} (hk : ∀ x, TenantBlind (fun s => k s x)) (l : List α) :
    TenantBlind (fun s => l.foldl k s) := by
  induction l with
  | nil => exact fun _ => ⟨rfl, fun _ => rfl⟩
  | cons x rest ih => exact ih.comp (hk x)

end Closure

/-! ### MCTP control and PLDM monitoring -/

theorem tenantBlind_setEid (op : BitVec 2) (eid : Byte) : TenantBlind (fun s => setEid s op eid) :=
  tenantBlind_ite (fun _ _ => rfl) (fun _ => ⟨rfl, fun _ => rfl⟩) (fun _ => ⟨rfl, fun _ => rfl⟩)

theorem tenantBlind_mctpVersions (t : Byte) : TenantBlind (fun s => mctpVersions s t) :=
  tenantBlind_ite (fun _ _ => rfl) (fun _ => ⟨rfl, fun _ => rfl⟩) (fun _ => ⟨rfl, fun _ => rfl⟩)

theorem tenantBlind_setTid (tid : Byte) : TenantBlind (fun s => setTid s tid) :=
  tenantBlind_ite (fun _ _ => rfl) (fun _ => ⟨rfl, fun _ => rfl⟩) (fun _ => ⟨rfl, fun _ => rfl⟩)

theorem tenantBlind_pldmVersion (typ : Byte) : TenantBlind (fun s => pldmVersion s typ) :=
  tenantBlind_ite (fun _ _ => rfl) (fun _ => ⟨rfl, fun _ => rfl⟩) (fun _ => ⟨rfl, fun _ => rfl⟩)

theorem tenantBlind_pldmCmds (typ : Byte) : TenantBlind (fun s => pldmCmds s typ) :=
  tenantBlind_ite (fun _ _ => rfl) (fun _ => ⟨rfl, fun _ => rfl⟩) (fun _ => ⟨rfl, fun _ => rfl⟩)

theorem tenantBlind_getPdr (record : Nat) : TenantBlind (fun s => getPdr s record) := by
  intro s
  simp only [getPdr]
  split <;> exact ⟨rfl, fun _ => rfl⟩

theorem reading_withTenants (s u : State) (n : Nat) : reading (withTenants s u) n = reading s n := rfl

theorem tenantBlind_sensorReading (n : Nat) : TenantBlind (fun s => sensorReading s n) := by
  refine tenantBlind_ite (fun _ _ => rfl) (fun _ => ⟨rfl, fun _ => rfl⟩) fun s => ?_
  simp only [reading_withTenants]
  split <;> exact ⟨rfl, fun _ => rfl⟩

theorem tenantBlind_stateSensor (n : Nat) : TenantBlind (fun s => stateSensor s n) :=
  tenantBlind_ite (fun _ _ => rfl) (fun _ => ⟨rfl, fun _ => rfl⟩) (fun _ => ⟨rfl, fun _ => rfl⟩)

theorem tenantBlind_setEffecter (n v : Nat) : TenantBlind (fun s => setEffecter s n v) :=
  tenantBlind_ite (fun _ _ => rfl) (fun _ => ⟨rfl, fun _ => rfl⟩)
    (tenantBlind_ite (fun _ _ => rfl) (fun _ => ⟨rfl, fun _ => rfl⟩) (fun _ => ⟨rfl, fun _ => rfl⟩))

theorem tenantBlind_getEffecter (n : Nat) : TenantBlind (fun s => getEffecter s n) :=
  tenantBlind_ite (fun _ _ => rfl) (fun _ => ⟨rfl, fun _ => rfl⟩) (fun _ => ⟨rfl, fun _ => rfl⟩)

/-! ### Firmware update -/

theorem tenantBlind_pldm (typ cmd cc : Nat) (data : List Byte) : TenantBlind (fun s => pldm s typ cmd cc data) :=
  fun _ => ⟨rfl, fun _ => rfl⟩

theorem tenantBlind_updTarget (c : Nat) (g : FwCopy → FwCopy) : TenantBlind (fun s => updTarget s c g) :=
  fun _ => ⟨rfl, fun _ => rfl⟩

theorem tenantBlind_updateOver : TenantBlind updateOver := fun _ => ⟨rfl, fun _ => rfl⟩

theorem tenantBlind_requestUpdate : TenantBlind requestUpdate :=
  tenantBlind_ite (fun _ _ => rfl) (fun _ => ⟨rfl, fun _ => rfl⟩) (fun _ => ⟨rfl, fun _ => rfl⟩)

theorem tenantBlind_passTable (comps : List Nat) : TenantBlind (fun s => passTable s comps) :=
  tenantBlind_ite (fun _ _ => rfl) (fun _ => ⟨rfl, fun _ => rfl⟩) (fun _ => ⟨rfl, fun _ => rfl⟩)

theorem tenantBlind_updateComponent (c size : Nat) : TenantBlind (fun s => updateComponent s c size) :=
  tenantBlind_ite (fun _ _ => rfl) (fun _ => ⟨rfl, fun _ => rfl⟩)
    (tenantBlind_ite (fun _ _ => rfl) (fun _ => ⟨rfl, fun _ => rfl⟩) (fun _ => ⟨rfl, fun _ => rfl⟩))

theorem tenantBlind_takeData (n : Nat) : TenantBlind (fun s => takeData s n) :=
  tenantBlind_ite (fun _ _ => rfl) (fun _ => ⟨rfl, fun _ => rfl⟩) (fun _ => ⟨rfl, fun _ => rfl⟩)

theorem tenantBlind_verified (x : FwCopy) : TenantBlind (fun s => verified s x) := fun _ => ⟨rfl, fun _ => rfl⟩

theorem tenantBlind_applied : TenantBlind applied := fun _ => ⟨rfl, fun _ => rfl⟩

theorem tenantBlind_foldTargets (comps : State → List Nat) (hcomps : ∀ s u, comps (withTenants s u) = comps s)
    (g : FwCopy → FwCopy) : TenantBlind (fun s => (comps s).foldl (fun s c => updTarget s c g) s) :=
  tenantBlind_read comps hcomps (tenantBlind_foldl fun c => tenantBlind_updTarget c g)

theorem tenantBlind_activate : TenantBlind activate :=
  tenantBlind_ite (fun _ _ => rfl)
    ((tenantBlind_pldm _ _ _ _).comp (tenantBlind_updateOver.comp (tenantBlind_foldTargets (·.mgmt.updDone) (fun _ _ => rfl) _)))
    (tenantBlind_pldm _ _ _ _)

theorem tenantBlind_abandonUpdate : TenantBlind abandonUpdate :=
  tenantBlind_updateOver.comp (tenantBlind_foldTargets updatedComps (fun _ _ => rfl) _)

theorem tenantBlind_cancelUpdate : TenantBlind cancelUpdate :=
  tenantBlind_ite (fun _ _ => rfl) (tenantBlind_pldm _ _ _ _) ((tenantBlind_pldm _ _ _ _).comp tenantBlind_abandonUpdate)

/-! ### SPDM -/

theorem tenantBlind_emit (o : Output) : TenantBlind (fun s => emit s o) := fun _ => ⟨rfl, fun _ => rfl⟩

theorem tenantBlind_spdmError (conn code : Nat) (data : List Byte) : TenantBlind (fun s => spdmError s conn code data) :=
  tenantBlind_emit _

theorem tenantBlind_updSpdm (conn : Nat) (g : Spdm → Spdm) : TenantBlind (fun s => updSpdm s conn g) :=
  fun _ => ⟨rfl, fun _ => rfl⟩

theorem tenantBlind_atPhase {g : State → State} (conn phase : Nat) (hg : TenantBlind g) :
    TenantBlind (fun s => atPhase s conn phase (g s)) :=
  tenantBlind_ite (fun _ _ => rfl) hg (tenantBlind_spdmError _ _ _)

theorem tenantBlind_getVersion (conn : Nat) : TenantBlind (fun s => getVersion s conn) := fun _ => ⟨rfl, fun _ => rfl⟩

theorem tenantBlind_getCapabilities (conn : Nat) : TenantBlind (fun s => getCapabilities s conn) :=
  tenantBlind_atPhase conn 1 fun _ => ⟨rfl, fun _ => rfl⟩

theorem tenantBlind_negotiate (conn : Nat) (ok : Bool) : TenantBlind (fun s => negotiate s conn ok) :=
  tenantBlind_atPhase conn 2 (tenantBlind_ite (fun _ _ => rfl) (fun _ => ⟨rfl, fun _ => rfl⟩) (tenantBlind_spdmError _ _ _))

theorem tenantBlind_getCertificate (conn slot off len : Nat) : TenantBlind (fun s => getCertificate s conn slot off len) :=
  tenantBlind_ite (fun _ _ => rfl) (tenantBlind_spdmError _ _ _) fun _ => ⟨rfl, fun _ => rfl⟩

theorem tenantBlind_signedResponse (conn req : Nat) : TenantBlind (fun s => signedResponse s conn req) :=
  tenantBlind_ite (fun _ _ => rfl) (fun _ => ⟨rfl, fun _ => rfl⟩) (fun _ => ⟨rfl, fun _ => rfl⟩)

theorem tenantBlind_askSign (conn req : Nat) : TenantBlind (fun s => askSign s conn req) :=
  tenantBlind_ite (fun _ _ => rfl) (fun _ => ⟨rfl, fun _ => rfl⟩) (fun _ => ⟨rfl, fun _ => rfl⟩)

theorem tenantBlind_challengeReq (conn slot : Nat) : TenantBlind (fun s => challengeReq s conn slot) :=
  tenantBlind_ite (fun _ _ => rfl) (tenantBlind_spdmError _ _ _)
    (tenantBlind_ite (fun _ _ => rfl) (tenantBlind_spdmError _ _ _) (tenantBlind_askSign _ _))

theorem tenantBlind_getMeasurements (conn : Nat) (signed : Bool) (index : Nat) :
    TenantBlind (fun s => getMeasurements s conn signed index) :=
  tenantBlind_ite (fun _ _ => rfl) (tenantBlind_spdmError _ _ _)
    (tenantBlind_ite (fun _ _ => rfl) (fun _ => ⟨rfl, fun _ => rfl⟩)
      (tenantBlind_ite (fun _ _ => rfl) (tenantBlind_spdmError _ _ _) (tenantBlind_askSign _ _)))

theorem spdmOf_withTenants (s u : State) (conn : Nat) : spdmOf (withTenants s u) conn = spdmOf s conn := rfl

theorem tenantBlind_respondIfReady (conn token : Nat) : TenantBlind (fun s => respondIfReady s conn token) := by
  intro s
  simp only [respondIfReady, spdmOf_withTenants]
  split
  next req t _ =>
    exact tenantBlind_ite (c := fun _ => t ≠ token) (fun _ _ => rfl) (tenantBlind_spdmError _ _ _)
      (tenantBlind_ite (c := fun s => (spdmOf s conn).ready = true) (fun _ _ => rfl)
        ((tenantBlind_signedResponse conn req).comp (tenantBlind_updSpdm conn _)) (tenantBlind_spdmError _ _ _)) s
  · exact tenantBlind_spdmError conn _ _ s

theorem mgmt_withTenants (s u : State) : (withTenants s u).mgmt = s.mgmt := rfl

theorem tenantBlind_signingDone : TenantBlind signingDone := by
  intro s
  simp only [signingDone, mgmt_withTenants]
  split
  · exact ⟨rfl, fun _ => rfl⟩
  next conn req rest _ =>
    have htaken : TenantBlind (fun s => { s with mgmt := { s.mgmt with signing := rest } }) := fun _ => ⟨rfl, fun _ => rfl⟩
    exact TenantBlind.comp (tenantBlind_ite (c := fun s => (spdmOf s conn).waiting.isSome = true) (fun _ _ => rfl)
      (tenantBlind_updSpdm conn _) (tenantBlind_signedResponse conn req)) htaken s

/-! ### Commands -/

/-- A command that leaves memory, the ledger and the functions as they are, and whose outcome does not depend on the first two. -/
def TenantsApart (e : State → Host.Outcome State Fault Refusal) : Prop := ∀ s t, e s = .next t →
  t.mem = s.mem ∧ t.ledger = s.ledger ∧ t.ledgerX = s.ledgerX ∧ t.fns = s.fns ∧
    ∀ u, e (withTenants s u) = .next (withTenants t u)

theorem tenantsApart_occursAlways {can : State → Bool} {g : State → State} (what : String)
    (hcan : ∀ s u, can (withTenants s u) = can s) (hg : TenantBlind g) :
    TenantsApart (fun s => occursAlways (can s) what (g s)) := by
  intro s t hnext
  obtain ⟨hmay, rfl⟩ := (occursAlways_next_iff ..).1 hnext
  obtain ⟨hfns, hblind⟩ := hg s
  have hself : g s = withTenants (g s) s := hblind s
  refine ⟨(congrArg State.mem hself).trans rfl, (congrArg State.ledger hself).trans rfl,
    (congrArg State.ledgerX hself).trans rfl, hfns, fun u => ?_⟩
  show occursAlways (can (withTenants s u)) what (g (withTenants s u)) = _
  rw [hblind u]
  exact occursAlways_next ((hcan s u).trans hmay) what _

theorem tenantsApart_managed {g : State → State} (hg : TenantBlind g) : TenantsApart (fun s => managed s (g s)) :=
  tenantsApart_occursAlways _ (fun _ _ => rfl) hg

theorem tenantsApart_asked {g : State → State} (conn : Nat) (hg : TenantBlind g) : TenantsApart (fun s => asked s conn (g s)) :=
  tenantsApart_occursAlways _ (fun _ _ => rfl) hg

theorem tenantsApart_exec {c : Instr} (hmgmt : mgmtCommand c = true) : TenantsApart (exec c) := by
  cases c with
  | setEndpointId op eid => exact tenantsApart_managed (tenantBlind_setEid op eid)
  | getEndpointId | getMessageTypeSupport | getTid | getPldmTypes | getPdrRepositoryInfo =>
    exact tenantsApart_managed fun _ => ⟨rfl, fun _ => rfl⟩
  | getMctpVersionSupport t => exact tenantsApart_managed (tenantBlind_mctpVersions t)
  | mctpUnsupportedCmd | smbusAlertResponse =>
    exact tenantsApart_occursAlways _ (fun _ _ => rfl) fun _ => ⟨rfl, fun _ => rfl⟩
  | setTid tid => exact tenantsApart_managed (tenantBlind_setTid tid)
  | getPldmVersion typ => exact tenantsApart_managed (tenantBlind_pldmVersion typ)
  | getPldmCommands typ => exact tenantsApart_managed (tenantBlind_pldmCmds typ)
  | getPdr record => exact tenantsApart_managed (tenantBlind_getPdr record)
  | getSensorReading n => exact tenantsApart_managed (tenantBlind_sensorReading n)
  | getStateSensorReadings n => exact tenantsApart_managed (tenantBlind_stateSensor n)
  | setNumericEffecterValue n v => exact tenantsApart_managed (tenantBlind_setEffecter n v)
  | getNumericEffecterValue n => exact tenantsApart_managed (tenantBlind_getEffecter n)
  | requestUpdate => exact tenantsApart_managed tenantBlind_requestUpdate
  | passComponentTable comps => exact tenantsApart_managed (tenantBlind_passTable comps)
  | updateComponent comp size => exact tenantsApart_managed (tenantBlind_updateComponent comp size)
  | firmwareDataReceived data => exact tenantsApart_occursAlways _ (fun _ _ => rfl) (tenantBlind_takeData data.length)
  | verifyComplete => exact tenantsApart_occursAlways _ (fun _ _ => rfl) (tenantBlind_verified _)
  | applyComplete => exact tenantsApart_occursAlways _ (fun _ _ => rfl) tenantBlind_applied
  | activateFirmware => exact tenantsApart_managed tenantBlind_activate
  | cancelUpdate => exact tenantsApart_managed tenantBlind_cancelUpdate
  | updateIdleTimeout => exact tenantsApart_occursAlways _ (fun _ _ => rfl) tenantBlind_abandonUpdate
  | getVersion conn => exact tenantsApart_asked conn (tenantBlind_getVersion conn)
  | getCapabilities conn => exact tenantsApart_asked conn (tenantBlind_getCapabilities conn)
  | negotiateAlgorithms conn ok => exact tenantsApart_asked conn (tenantBlind_negotiate conn ok)
  | getDigests conn => exact tenantsApart_asked conn (tenantBlind_atPhase conn 3 fun _ => ⟨rfl, fun _ => rfl⟩)
  | getCertificate conn slot off len =>
    exact tenantsApart_asked conn (tenantBlind_atPhase conn 3 (tenantBlind_getCertificate conn slot off len))
  | challenge conn slot => exact tenantsApart_asked conn (tenantBlind_atPhase conn 3 (tenantBlind_challengeReq conn slot))
  | getMeasurements conn signed index =>
    exact tenantsApart_asked conn (tenantBlind_atPhase conn 3 (tenantBlind_getMeasurements conn signed index))
  | respondIfReady conn token => exact tenantsApart_asked conn (tenantBlind_respondIfReady conn token)
  | signingDone => exact tenantsApart_occursAlways _ (fun _ _ => rfl) tenantBlind_signingDone
  | _ => cases hmgmt

end Sys2Proof.Machine
end

section
/-! CLAIMS. The statement of chapter 25 about tenants. -/

namespace Sys2Proof.Machine

open Sys2Proof

/-- Settles O55: every command of the management controller is an answer by a change of the state that is blind to tenants. -/
theorem managementLeavesTenantsAlone : Obligations.ManagementLeavesTenantsAlone :=
  fun _ s t hmgmt hnext => tenantsApart_exec hmgmt s t hnext

end Sys2Proof.Machine
end
